-- ==== Sys2Proof/Word.lean ====
section
/-!
DEFINITION. The word types of the part and their plainest arithmetic: bytes, 32-bit registers, 64-bit general
registers, saturating addition.
-/

namespace Sys2Proof

/-- One byte of memory. -/
abbrev Byte := BitVec 8

/-- One 32-bit register (R7). -/
abbrev Word := BitVec 32

/-- One 64-bit general register of a Chandler core. -/
abbrev DWord := BitVec 64

/-- Addition that stops at `top`: the saturating counters of the register tables. -/
def satAdd (top a n : Nat) : Nat := min top (a + n)

/-- The bits `hi` to `lo` of a number. -/
def bits (n hi lo : Nat) : Nat := n / 2 ^ lo % 2 ^ (hi + 1 - lo)

/-- One bit of a number. -/
def bit (n k : Nat) : Bool := n / 2 ^ k % 2 == 1

/-- The two's complement value of the low `w` bits of `n`. -/
def signedOf (w n : Nat) : Int :=
  let m := n % 2 ^ w
  if 2 * m < 2 ^ w then m else (m : Int) - 2 ^ w

/-- The low `w` bits of an integer, in two's complement. -/
def ofSigned (w : Nat) (i : Int) : Nat := (i % (2 ^ w : Nat)).toNat

/-- An integer held between two bounds. -/
def clampInt (lo hi i : Int) : Int := max lo (min hi i)

/-- An integer saturated to `w` signed bits and stored in two's complement. -/
def satSigned (w : Nat) (i : Int) : Nat :=
  ofSigned w (clampInt (-(2 ^ (w - 1) : Nat)) ((2 ^ (w - 1) : Nat) - 1) i)

/-- A number saturated to `w` bits. -/
def satNat (w n : Nat) : Nat := min n (2 ^ w - 1)

/-- A flag as a number. -/
def b2n (b : Bool) : Nat := if b then 1 else 0

/-- The least multiple of `m` that is not below `n`. -/
def roundUp (m n : Nat) : Nat := (n + m - 1) / m * m

end Sys2Proof
end

