-- ==== Sys2Proof/Syntax.lean ====
section
/-!
DEFINITION. The commands the part takes: one constructor per row of the spec's table of operations and events, with
the row's operands. The comment at the end of a constructor's line is the row's mnemonic. The types before it are the
operands' own types: what a requester, a reference, a frame on a link or a machine outside the part hands in.
-/

namespace Sys2Proof

/-- Who makes an access to the register space or to memory (R18, R31, R299). -/
inductive Requester
  | hostA | hostB
  | thread (core : Fin 8) (t : Fin 64)
  | draper | tailor | lamplighter | thimble | network | shuttle | mantle | ledger
  | agent | boot | debug
  deriving DecidableEq, Repr

/-- The status codes of R14. -/
inductive Status
  | ok | badarg | state | busy | full | absent | denied | corrupt | timeout | fenced | late | stale | format | internal
  deriving DecidableEq, Repr

/-- The code of a status (R14). -/
def Status.code : Status → Nat
  | .ok => 0x00 | .badarg => 0x01 | .state => 0x02 | .busy => 0x03 | .full => 0x04 | .absent => 0x05
  | .denied => 0x06 | .corrupt => 0x07 | .timeout => 0x08 | .fenced => 0x09 | .late => 0x0A | .stale => 0x0B
  | .format => 0x0C | .internal => 0xFF

/-- A byte on its way into a Bobbin; `bad` says that an upset of its stage will fail its parity (R316). -/
structure StageByte where
  val : Byte
  bad : Bool := false
  deriving DecidableEq, Repr

/-- A reference event with the position it asserts (R46 to R50); LTC with the 10 bytes of its codeword (R314). -/
inductive RefEvent
  | ptp (ns : Nat)
  | genlock
  | ltc (hours minutes seconds frames : Nat) (codeword : List Byte)
  | wclk (edges : Nat)
  | mains
  | beacon (pos : BitVec 64)
  deriving DecidableEq, Repr

/-- The code of the source an event belongs to (R46). -/
def RefEvent.source : RefEvent → Nat
  | .ptp _ => 1 | .genlock => 2 | .ltc .. => 3 | .wclk _ => 4 | .mains => 5 | .beacon _ => 6

/-- What a unit hands to Ledger (R460, R464): code, source unit, severity and payload. -/
structure LogReq where
  code : Nat
  src : Nat
  sev : Nat
  payload : Nat
  deriving DecidableEq, Repr

/-- The kind of a memory transaction (R416). -/
inductive MemKind | read | write (data : List Byte) | rmw (data : List Byte)
  deriving DecidableEq, Repr

/-- A transaction at a Stockroom bank group: requester, address, length in bytes, what it does, and the symbol errors
that radiation or wear has put into its words beforehand (word address and number of symbols, R419). -/
structure StockReq where
  w : Requester
  addr : BitVec 40
  len : Nat
  kind : MemKind
  upsets : List (BitVec 40 × Nat)
  deriving DecidableEq, Repr

/-- A request at the external memory controller, in the same terms (R425, R427). -/
abbrev ExtReq := StockReq

/-- A request that waits at a Turnstile (R428): requester 0 to 15 by R18, 16 the scrubber or 17 the debug port; words; whether it
is a 2-cycle transaction of R416; and the cycles it has waited. -/
structure TsAsk where
  req : Fin 18
  words : Fin 5
  two : Bool
  age : Nat
  deriving DecidableEq, Repr

/-- A ring of the part: one of the sixteen engine submission rings (R250), or a transmit or receive ring of a MAC
(R333, R334). -/
inductive RingId
  | engine (n : Fin 16)
  | macTx (n : Fin 6) (r : Fin 2)
  | macRx (n : Fin 6) (r : Fin 4)
  deriving DecidableEq, Repr

/-- Where a corrected pixel goes (R123): a chain port, or a Weft stream. -/
inductive PixelDest | chain (port : Fin 64) | weft (stream : Fin 256)
  deriving DecidableEq, Repr

/-- What a port's RET shows in a discovery (R166): nothing, or the steps from the first marker step to the first 1, and
whether the 15 steps after it all read 1. -/
abbrev DiscRet := Option (Nat × Bool)


/-- What a port's RDM line brings back (R217, R222): a valid branch response, one that fails its encoding or checksum,
a mute acknowledgement, a response of a type with its parameter data and message count, or a bad response. -/
inductive RdmResp
  | branch (uid : BitVec 48)
  | collision
  | muted (uid : BitVec 48)
  | ack (data : List Byte) (count : Nat)
  | overflow (data : List Byte) (count : Nat)
  | timer (data : List Byte) (count : Nat)
  | nack (data : List Byte) (count : Nat)
  | bad
  deriving DecidableEq, Repr

/-- What an RDM port hears after a request, with the bytes that the line brought. -/
structure RdmReply where
  resp : RdmResp
  raw : List Byte := []
  deriving DecidableEq, Repr

/-- The PTP messages the part deals in (R343); `event` is another event message, `general` another general one. -/
inductive PtpKind | sync | delayReq | followUp | delayResp | announce | event | general
  deriving DecidableEq, Repr

/-- A PTP message: correction in units of 2^-16 ns, identities, its timestamp in ns, and for an Announce its dataset
(R342 to R345). -/
structure PtpMsg where
  kind : PtpKind
  domain : Nat
  seq : Nat
  correction : Int
  clock : Nat
  port : Nat
  twoStep : Bool
  logInterval : Int
  time : Nat
  reqClock : Nat
  reqPort : Nat
  prio1 : Nat
  clockClass : Nat
  accuracy : Nat
  variance : Nat
  prio2 : Nat
  gm : Nat
  steps : Nat
  deriving DecidableEq, Repr

/-- An RTP packet of ST 2110-20 (R347): payload type, extended sequence number, timestamp, marker, source, and its
sample row data: line, offset in pixels and octets. -/
structure Rtp where
  version : Nat
  pt : Nat
  seq : Nat
  time : Nat
  marker : Bool
  ssrc : Nat
  rows : List (Nat × Nat × List Byte)
  deriving DecidableEq, Repr

/-- What a UDP datagram carries: an E1.31 packet (R207, R211, R213), a PTP message, an RTP packet, or octets. -/
inductive UdpData
  | e131 (cid name : List Byte) (prio sync seq : Nat) (preview ended : Bool) (number start : Nat)
      (slots : List Byte)
  | e131Sync (cid : List Byte) (sync seq : Nat)
  | e131Discovery (cid name : List Byte) (universes : List Nat)
  | ptp (m : PtpMsg)
  | rtp (r : Rtp)
  | bytes (bs : List Byte)
  deriving DecidableEq, Repr

/-- What an Ethernet frame carries, as far as the part looks into it. -/
inductive EthBody
  | arp (reply : Bool) (mac : BitVec 48) (senderIp targetIp : Nat)
  | igmpQuery (group : Nat)
  | igmpReport (group : Nat)
  | igmpLeave (group : Nat)
  | pause
  | ptp (m : PtpMsg)
  | udp (srcIp dstIp srcPort dstPort : Nat) (d : UdpData)
  | ip (srcIp dstIp : Nat)
  | other
  deriving DecidableEq, Repr

/-- An Ethernet frame on a link: addresses, tag (PCP in [15:13], VID in [11:0]), length with FCS, whether a code or
framing error or a bad FCS spoils it, the time since its start-of-frame delimiter passed the MAC in units of 125 ps, what
it carries, and its octets with FCS. -/
structure EthFrame where
  dst : BitVec 48
  src : BitVec 48
  tag : Option (BitVec 16)
  len : Nat
  pcsBad : Bool
  fcsBad : Bool
  age : Nat
  body : EthBody
  octets : List Byte
  deriving DecidableEq, Repr

/-- What resets a host port (R293): the last two are PERST_N low and the xSPI command. -/
inductive PortReset | linkLoss | hotReset | functionReset | perst | portReset
  deriving DecidableEq, Repr

/-- How far the host's side of a DMA entry has come (R294, R296): the bytes read from the host, how many bytes it has taken, and
whether it answered with Unsupported Request or Completer Abort. -/
structure HostData where
  data : List Byte := []
  sent : Nat := 0
  denied : Bool := false
  deriving DecidableEq, Repr

/-- Who posts a service request (R309, R312): an endpoint, with the posting thread of a core, or the endpoint (in
`thread`, R381), device number and reset generation of a Shuttle remote. -/
structure Endpoint where
  n : Fin 12
  thread : Fin 64
  device : Fin 1024
  gen : BitVec 16
  deriving DecidableEq, Repr

/-- The straps and what the board gives at PORST_N (R289, R360, R482). -/
structure PowerEnv where
  haXspi : Bool
  hbXspi : Bool
  master : Bool
  bootSrc : Fin 4
  deriving DecidableEq, Repr

/-- Causes of a warm reset (R480). -/
inductive WarmCause | wrst | watchdog | service | tamper | stepTimeout | selfReset
  deriving DecidableEq, Repr

/-- What the boot ROM meets (R487): its own check, the key-ladder test, rows that fail the march test (bank group and
row), REFCLK_25M, whether DRAM trains at its normal rate and at 3,200 MT/s, whether flash can be read, and the installed MiB. -/
structure BootEnv where
  romOk : Bool
  ladderOk : Bool
  badRows : List (Fin 16 × Nat)
  refclk : Bool
  trains : Bool
  trainsSlow : Bool
  flash : Bool
  installed : Nat
  deriving DecidableEq, Repr

/-- Tamper sensors (R508). -/
inductive TamperSensor | supply | clock | temperature
  deriving DecidableEq, Repr

/-- What the test access port is given (R508). -/
inductive TapInsn | bypass | idcode | sample | other | tapReset
  deriving DecidableEq, Repr

/-- A Shuttle link. -/
inductive ShLink | up | dn
  deriving DecidableEq, Repr

/-- The header of a Shuttle frame without TYPE, LENGTH and SEQ (R363). -/
structure ShHead where
  upstream : Bool
  turned : Bool
  both : Bool
  src : Nat
  dst : Nat
  hops : Nat
  cgen : Nat
  deriving DecidableEq, Repr

/-- BEACON, and PBEACON on the pair link (R364, R395). -/
structure Beacon where
  head : ShHead
  tick : Nat
  pos : Nat
  num : Nat
  den : Nat
  acc : Nat
  rebaseTo : Nat
  pend : Bool
  deputyValid : Bool
  acting : Bool
  deputy : Nat
  serial : Nat
  deriving DecidableEq, Repr
/-- PBEACON (R395). -/
abbrev PBeacon := Beacon

/-- DELAY_RESP with the t4 - t1 that the receiver stamped, both in units of 1/8 ns (R364, R369). -/
structure DelayTimes where
  turnaround : Nat
  trip : Nat
  deriving DecidableEq, Repr

/-- ENUM. -/
structure EnumFrame where
  head : ShHead
  pos : Nat
  deriving DecidableEq, Repr

/-- ENUM_REPLY: `number` is 0xFFFF for none. -/
structure EnumReplyFrame where
  head : ShHead
  serial : Nat
  pos : Nat
  number : Nat
  cgen : Nat
  tick : Nat
  deriving DecidableEq, Repr

/-- ASSIGN. -/
structure AssignFrame where
  head : ShHead
  serial : Nat
  number : Nat
  deriving DecidableEq, Repr

/-- MAILBOX. -/
structure MailboxFrame where
  head : ShHead
  message : BitVec 64
  srcEp : Nat
  dstEp : Nat
  cgen : Nat
  deriving DecidableEq, Repr

/-- LEDGER: a record's 32 bytes. -/
structure LedgerFrame where
  head : ShHead
  record : List Byte
  deriving DecidableEq, Repr

/-- LINKCHG: the links of the device that sends it. -/
structure LinkchgFrame where
  head : ShHead
  up : Bool
  dn : Bool
  deriving DecidableEq, Repr

/-- IMAGE. -/
structure ImageFrame where
  head : ShHead
  offset : Nat
  data : List Byte
  deriving DecidableEq, Repr

/-- RECLAIM. -/
structure ReclaimFrame where
  head : ShHead
  pos : Nat
  deriving DecidableEq, Repr

/-- A frame as it leaves on a Shuttle link. -/
inductive ShFrame
  | beacon (f : Beacon)
  | delayReq
  | delayResp (turnaround : Nat)
  | enum (f : EnumFrame)
  | enumReply (f : EnumReplyFrame)
  | assign (f : AssignFrame)
  | mailbox (f : MailboxFrame)
  | ledger (f : LedgerFrame)
  | linkchg (f : LinkchgFrame)
  | image (f : ImageFrame)
  | reclaim (f : ReclaimFrame)
  deriving DecidableEq, Repr

/-- MAILBOX on the pair link (R396). -/
structure PairMail where
  message : BitVec 64
  srcEp : Nat
  dstEp : Nat
  pgen : Nat
  deriving DecidableEq, Repr

/-- An entry of SIG (R395). -/
structure SigEntry where
  key : Nat
  frame : Nat
  crc : Nat
  deriving DecidableEq, Repr

/-- COPY (R395). -/
structure CopyFrame where
  offset : Nat
  data : List Byte
  deriving DecidableEq, Repr

/-- COMMIT (R395). -/
structure CommitFrame where
  frame : Nat
  length : Nat
  crc : Nat
  deriving DecidableEq, Repr

/-- HELLO (R395). -/
structure HelloFrame where
  serial : Nat
  primary : Bool
  side : Bool
  profile : Nat
  pgen : Nat
  health : Nat
  deriving DecidableEq, Repr

/-- A frame as it leaves on the pair link (R395). -/
inductive PairFrame
  | mail (f : PairMail)
  | pbeacon (f : PBeacon)
  | sig (es : List SigEntry)
  | copy (f : CopyFrame)
  | commit (f : CommitFrame)
  | hello (f : HelloFrame)
  | health (value : Nat) (diverged : Bool) (role : Nat)
  | diverge (key frame : Nat)
  | profile (frame prof : Nat)
  deriving DecidableEq, Repr

/-- What a Trim run measured (R514, R516, R517): the detector verdicts of the lanes (for each port, CTL, DB, DA, CK: the
first tap that flips); the uncorrected samples of the voltage and the current channel with the current's lag in 0.01
degrees; the clock error in 0.001 ppm; or a reference that was missing. -/
inductive TrimResult
  | skew (flips : List (Fin 64 × List (Option (Fin 64))))
  | tally (vs is : List Int) (lag : Int)
  | clock (err : Int)
  | lost
  deriving DecidableEq, Repr

/-- The commands of the part, in the order of the spec's table. -/
inductive Instr
  | powerOnReset (env : PowerEnv) -- POWER_ON_RESET
  | warmReset (causes : List WarmCause) -- WARM_RESET
  | bootRomStart (env : BootEnv) -- BOOT_ROM_START
  | btStepStarted (w : Requester) (step : Fin 16) -- BT_STEP_STARTED
  | btStepDone (w : Requester) (step : Fin 16) -- BT_STEP_DONE
  | btStepFailed (w : Requester) (step : Fin 16) -- BT_STEP_FAILED
  | stepTimeout (step : Fin 15) -- STEP_TIMEOUT
  | btRerun (w : Requester) (v : Word) -- BT_RERUN
  | btHostbootGo (w : Requester) (v : Word) -- BT_HOSTBOOT_GO
  | btConfirm (w : Requester) (v : Word) -- BT_CONFIRM
  | btSvnAdvance (w : Requester) (v : Word) -- BT_SVN_ADVANCE
  | btProvProgram (w : Requester) (v : Word) -- BT_PROV_PROGRAM
  | btUcodeGo (w : Requester) (v : Word) -- BT_UCODE_GO
  | ucodeLoadDone -- UCODE_LOAD_DONE
  | dbgNonceRead (w : Requester) -- DBG_NONCE_READ
  | dbgSubmit (w : Requester) (v : Word) -- DBG_SUBMIT
  | tamperReading (sensor : TamperSensor) (outside : Bool) -- TAMPER_READING
  | tapInstruction (t : TapInsn) -- TAP_INSTRUCTION
  | registerWrite (w : Requester) (addr : BitVec 40) (size : Nat) (v : DWord) -- REGISTER_WRITE
  | rcRegisterRead (w : Requester) (addr : BitVec 40) (size : Nat) -- RC_REGISTER_READ
  | loWordReadLatch (w : Requester) (addr : BitVec 40) -- LO_WORD_READ_LATCH
  | unmappedAccess (w : Requester) (addr : BitVec 40) (isWrite : Bool) -- UNMAPPED_ACCESS
  | sysCommit (w : Requester) (v : Word) -- SYS_COMMIT
  | sysNextcfgWrite (w : Requester) (v : Word) -- SYS_NEXTCFG_WRITE
  | frameBoundary -- FRAME_BOUNDARY
  | ysCommit (w : Requester) (v : Word) -- YS_COMMIT
  | ysGo (w : Requester) (v : Word) -- YS_GO
  | referenceEvent (ev : RefEvent) -- REFERENCE_EVENT
  | expectedEventMissing (src : Fin 7) -- EXPECTED_EVENT_MISSING
  | tickMsSave -- TICK_MS_SAVE
  | slotArm (w : Requester) (slot : Fin 256) (v : Word) -- SLOT_ARM
  | slotDisarm (w : Requester) (slot : Fin 256) (v : Word) -- SLOT_DISARM
  | slotFire (slot : Fin 256) -- SLOT_FIRE
  | trigActionTakeUp (slot : Fin 256) -- TRIG_ACTION_TAKE_UP
  | trigOutputChange (out : Fin 4) -- TRIG_OUTPUT_CHANGE
  | trigPulseEnd (out : Fin 4) -- TRIG_PULSE_END
  | trigDisable (w : Requester) (out : Fin 4) (v : Word) -- TRIG_DISABLE
  | captureEdge (input : Fin 4) (rising : Bool) (eighths : Fin 8) -- CAPTURE_EDGE
  | drCommit (w : Requester) (v : Word) -- DR_COMMIT
  | ringTailWrite (w : Requester) (ring : RingId) (v : Word) -- RING_TAIL_WRITE
  | ringEnable (w : Requester) (ring : RingId) (v : Word) -- RING_ENABLE
  | ringReset (w : Requester) (ring : RingId) (v : Word) -- RING_RESET
  | compositionStart (canvas : Fin 4) -- COMPOSITION_START
  | compositionEnd (canvas : Fin 4) -- COMPOSITION_END
  | readsReturned (canvas : Fin 4) -- READS_RETURNED
  | ingestEnable (w : Requester) (stream : Fin 4) (v : Word) -- INGEST_ENABLE
  | tlCommit (w : Requester) (v : Word) -- TL_COMMIT
  | swatchCopyDone -- SWATCH_COPY_DONE
  | scanoutPixel (canvas : Fin 4) (x y : Nat) (dest : PixelDest) -- SCANOUT_PIXEL
  | tempSourceStale (g : Fin 16) -- TEMP_SOURCE_STALE
  | purseRecomputeDone -- PURSE_RECOMPUTE_DONE
  | tdEnd (t : Fin 16) (ckr : Bool) -- TD_END
  | tdEmit (t : Fin 16) (ckr ctl lv phased : Bool) (n : Fin 16384) -- TD_EMIT
  | tdShift (t : Fin 16) (auto : Bool) (data cnt : Fin 4) (n : Fin 16384) -- TD_SHIFT
  | tdLatch (t : Fin 16) (ckr : Bool) (width : Fin 16) -- TD_LATCH
  | tdRow (t : Fin 16) (src : Bool) (cnt : Fin 4) (guard : Fin 256) (line : Fin 32) -- TD_ROW
  | tdWait (t : Fin 16) (ckr plane oe : Bool) (n : Fin 16777216) -- TD_WAIT
  | tdLoop (t : Fin 16) (c nsrc : Fin 4) (target : Fin 512) (n : Fin 16384) -- TD_LOOP
  | tdDetect (t : Fin 16) (rets : List (Fin 64 × List Bool)) -- TD_DETECT
  | tdSubf (t : Fin 16) -- TD_SUBF
  | tdCommit (w : Requester) (t : Fin 16) (v : Word) -- TD_COMMIT
  | tdApplyLine (t : Fin 16) -- TD_APPLY_LINE
  | chDiscReq (w : Requester) (port : Fin 64) (v : Word) -- CH_DISC_REQ
  | absentPortRediscover (port : Fin 64) -- ABSENT_PORT_REDISCOVER
  | discoveryEnd (port : Fin 64) (ret : DiscRet) -- DISCOVERY_END
  | thimblePublish (e : Fin 32) -- THIMBLE_PUBLISH
  | tbEnd (e : Fin 32) -- TB_END
  | tbNext (e : Fin 32) -- TB_NEXT
  | tbLdi (e : Fin 32) (d : Fin 16) (imm : BitVec 8) -- TB_LDI
  | tbShl8 (e : Fin 32) (d : Fin 16) (imm : BitVec 8) -- TB_SHL8
  | tbMov (e : Fin 32) (d a : Fin 16) -- TB_MOV
  | tbAdd (e : Fin 32) (d a b : Fin 16) -- TB_ADD
  | tbSub (e : Fin 32) (d a b : Fin 16) -- TB_SUB
  | tbMul (e : Fin 32) (d a b : Fin 16) -- TB_MUL
  | tbMin (e : Fin 32) (d a b : Fin 16) -- TB_MIN
  | tbMax (e : Fin 32) (d a b : Fin 16) -- TB_MAX
  | tbWave (e : Fin 32) (d a : Fin 16) (kind : Fin 16) -- TB_WAVE
  | tbNoise (e : Fin 32) (d : Fin 16) -- TB_NOISE
  | tbEach (e : Fin 32) (k : Fin 16) -- TB_EACH
  | tbOut (e : Fin 32) (k a : Fin 16) -- TB_OUT
  | tbBnz (e : Fin 32) (a : Fin 16) (disp : BitVec 8) -- TB_BNZ
  | tbBneg (e : Fin 32) (a : Fin 16) (disp : BitVec 8) -- TB_BNEG
  | tbStart (w : Requester) (e : Fin 32) (v : Word) -- TB_START
  | tbStop (w : Requester) (e : Fin 32) (v : Word) -- TB_STOP
  | tbCommit (w : Requester) (e : Fin 32) (v : Word) -- TB_COMMIT
  | tbLoad (w : Requester) (e : Fin 32) (v : Word) -- TB_LOAD
  | tbLoadDone (e : Fin 32) -- TB_LOAD_DONE
  | tbSeedWrite (w : Requester) (e : Fin 32) (v : Word) -- TB_SEED_WRITE
  | llAssemblyComplete -- LL_ASSEMBLY_COMPLETE
  | e131DataHandoff (row : Fin 4096) (mac : Fin 6) -- E131_DATA_HANDOFF
  | e131Keepalive (row : Fin 4096) -- E131_KEEPALIVE
  | e131DiscoverySend -- E131_DISCOVERY_SEND
  | llCommit (w : Requester) (v : Word) -- LL_COMMIT
  | llCopyDone -- LL_COPY_DONE
  | llIdataAccess (w : Requester) (isWrite : Bool) (v : Word) -- LL_IDATA_ACCESS
  | inputSourceTimeout (row : Fin 512) (src : Fin 4) -- INPUT_SOURCE_TIMEOUT
  | dmxOutputPacket (port : Fin 32) -- DMX_OUTPUT_PACKET
  | dmxInputPacket (port : Fin 32) (startCode : Byte) (slots : List Byte) (framing : Bool) -- DMX_INPUT_PACKET
  | rdmTransactionStart (port : Fin 32) -- RDM_TRANSACTION_START
  | rdmResponse (port : Fin 32) (resp : RdmReply) -- RDM_RESPONSE
  | rdmTimeout (port : Fin 32) -- RDM_TIMEOUT
  | rdmSweep (port : Fin 32) -- RDM_SWEEP
  | dmxRdmDisc (w : Requester) (port : Fin 32) (v : Word) -- DMX_RDM_DISC
  | loomAdd (c : Fin 8) (rd ra rb : Fin 32) -- ADD
  | loomSub (c : Fin 8) (rd ra rb : Fin 32) -- SUB
  | loomAnd (c : Fin 8) (rd ra rb : Fin 32) -- AND
  | loomOr (c : Fin 8) (rd ra rb : Fin 32) -- OR
  | loomXor (c : Fin 8) (rd ra rb : Fin 32) -- XOR
  | loomShl (c : Fin 8) (rd ra rb : Fin 32) -- SHL
  | loomShr (c : Fin 8) (rd ra rb : Fin 32) -- SHR
  | loomSar (c : Fin 8) (rd ra rb : Fin 32) -- SAR
  | loomMin (c : Fin 8) (rd ra rb : Fin 32) -- MIN
  | loomMax (c : Fin 8) (rd ra rb : Fin 32) -- MAX
  | loomMinu (c : Fin 8) (rd ra rb : Fin 32) -- MINU
  | loomMaxu (c : Fin 8) (rd ra rb : Fin 32) -- MAXU
  | loomMul (c : Fin 8) (rd ra rb : Fin 32) -- MUL
  | loomMulh (c : Fin 8) (rd ra rb : Fin 32) -- MULH
  | loomMulhu (c : Fin 8) (rd ra rb : Fin 32) -- MULHU
  | loomDiv (c : Fin 8) (rd ra rb : Fin 32) -- DIV
  | loomDivu (c : Fin 8) (rd ra rb : Fin 32) -- DIVU
  | loomRem (c : Fin 8) (rd ra rb : Fin 32) -- REM
  | loomRemu (c : Fin 8) (rd ra rb : Fin 32) -- REMU
  | loomCeq (c : Fin 8) (rd ra rb : Fin 32) -- CEQ
  | loomCne (c : Fin 8) (rd ra rb : Fin 32) -- CNE
  | loomClt (c : Fin 8) (rd ra rb : Fin 32) -- CLT
  | loomCltu (c : Fin 8) (rd ra rb : Fin 32) -- CLTU
  | loomCge (c : Fin 8) (rd ra rb : Fin 32) -- CGE
  | loomCgeu (c : Fin 8) (rd ra rb : Fin 32) -- CGEU
  | loomAddi (c : Fin 8) (rd ra : Fin 32) (imm : BitVec 16) -- ADDI
  | loomAndi (c : Fin 8) (rd ra : Fin 32) (imm : BitVec 16) -- ANDI
  | loomOri (c : Fin 8) (rd ra : Fin 32) (imm : BitVec 16) -- ORI
  | loomXori (c : Fin 8) (rd ra : Fin 32) (imm : BitVec 16) -- XORI
  | loomShli (c : Fin 8) (rd ra : Fin 32) (imm : BitVec 16) -- SHLI
  | loomShri (c : Fin 8) (rd ra : Fin 32) (imm : BitVec 16) -- SHRI
  | loomSari (c : Fin 8) (rd ra : Fin 32) (imm : BitVec 16) -- SARI
  | loomLui (c : Fin 8) (rd : Fin 32) (imm : BitVec 21) -- LUI
  | loomCeqi (c : Fin 8) (rd ra : Fin 32) (imm : BitVec 16) -- CEQI
  | loomClti (c : Fin 8) (rd ra : Fin 32) (imm : BitVec 16) -- CLTI
  | loomCltiu (c : Fin 8) (rd ra : Fin 32) (imm : BitVec 16) -- CLTIU
  | loomLb (c : Fin 8) (rd ra : Fin 32) (imm : BitVec 16) -- LB
  | loomLbu (c : Fin 8) (rd ra : Fin 32) (imm : BitVec 16) -- LBU
  | loomLh (c : Fin 8) (rd ra : Fin 32) (imm : BitVec 16) -- LH
  | loomLhu (c : Fin 8) (rd ra : Fin 32) (imm : BitVec 16) -- LHU
  | loomLw (c : Fin 8) (rd ra : Fin 32) (imm : BitVec 16) -- LW
  | loomLwu (c : Fin 8) (rd ra : Fin 32) (imm : BitVec 16) -- LWU
  | loomLd (c : Fin 8) (rd ra : Fin 32) (imm : BitVec 16) -- LD
  | loomSb (c : Fin 8) (rd ra : Fin 32) (imm : BitVec 16) -- SB
  | loomSh (c : Fin 8) (rd ra : Fin 32) (imm : BitVec 16) -- SH
  | loomSw (c : Fin 8) (rd ra : Fin 32) (imm : BitVec 16) -- SW
  | loomSd (c : Fin 8) (rd ra : Fin 32) (imm : BitVec 16) -- SD
  | loomSwap (c : Fin 8) (rd ra : Fin 32) (imm : BitVec 16) -- SWAP
  | loomCas (c : Fin 8) (rd ra rb : Fin 32) -- CAS
  | loomBeqz (c : Fin 8) (ra : Fin 32) (imm : BitVec 21) -- BEQZ
  | loomBnez (c : Fin 8) (ra : Fin 32) (imm : BitVec 21) -- BNEZ
  | loomBltz (c : Fin 8) (ra : Fin 32) (imm : BitVec 21) -- BLTZ
  | loomBgez (c : Fin 8) (ra : Fin 32) (imm : BitVec 21) -- BGEZ
  | loomJ (c : Fin 8) (imm : BitVec 26) -- J
  | loomJal (c : Fin 8) (imm : BitVec 26) -- JAL
  | loomJalr (c : Fin 8) (rd ra : Fin 32) (imm : BitVec 16) -- JALR
  | loomPadds (c : Fin 8) (rd ra rb : Fin 32) -- PADDS
  | loomPsubs (c : Fin 8) (rd ra rb : Fin 32) -- PSUBS
  | loomPmul (c : Fin 8) (rd ra rb : Fin 32) -- PMUL
  | loomPmulq (c : Fin 8) (rd ra rb : Fin 32) -- PMULQ
  | loomPmin (c : Fin 8) (rd ra rb : Fin 32) -- PMIN
  | loomPmax (c : Fin 8) (rd ra rb : Fin 32) -- PMAX
  | loomPlerp (c : Fin 8) (rd ra rb : Fin 32) -- PLERP
  | loomNow (c : Fin 8) (rd ra : Fin 32) (low : BitVec 10) -- NOW
  | loomTick (c : Fin 8) (rd ra : Fin 32) (low : BitVec 10) -- TICK
  | loomWaitpos (c : Fin 8) (rd ra : Fin 32) (low : BitVec 10) -- WAITPOS
  | loomArmat (c : Fin 8) (rd ra : Fin 32) (low : BitVec 10) -- ARMAT
  | loomYield (c : Fin 8) (rd ra : Fin 32) (low : BitVec 10) -- YIELD
  | loomSleep (c : Fin 8) (rd ra : Fin 32) (low : BitVec 10) -- SLEEP
  | loomSignal (c : Fin 8) (rd ra : Fin 32) (low : BitVec 10) -- SIGNAL
  | loomWaitsig (c : Fin 8) (rd ra : Fin 32) (low : BitVec 10) -- WAITSIG
  | loomPost (c : Fin 8) (rd ra : Fin 32) (low : BitVec 10) -- POST
  | loomRecv (c : Fin 8) (rd ra : Fin 32) (low : BitVec 10) -- RECV
  | loomSetpri (c : Fin 8) (rd ra : Fin 32) (low : BitVec 10) -- SETPRI
  | loomSubmit (c : Fin 8) (rd ra : Fin 32) (low : BitVec 10) -- SUBMIT
  | loomFence (c : Fin 8) (rd ra : Fin 32) (low : BitVec 10) -- FENCE
  | loomRelease (c : Fin 8) (rd ra : Fin 32) (low : BitVec 10) -- RELEASE
  | loomEngstat (c : Fin 8) (rd ra : Fin 32) (low : BitVec 10) -- ENGSTAT
  | loomCsrr (c : Fin 8) (rd ra : Fin 32) (low : BitVec 10) -- CSRR
  | loomCsrw (c : Fin 8) (rd ra : Fin 32) (low : BitVec 10) -- CSRW
  | loomLog (c : Fin 8) (rd ra : Fin 32) (low : BitVec 10) -- LOG
  | loomTrap (c : Fin 8) (rd ra : Fin 32) (low : BitVec 10) -- TRAP
  | loomEret (c : Fin 8) (rd ra : Fin 32) (low : BitVec 10) -- ERET
  | loomHalt (c : Fin 8) (rd ra : Fin 32) (low : BitVec 10) -- HALT
  | fmStart (w : Requester) (v : Word) -- FM_START
  | fmKill (w : Requester) (v : Word) -- FM_KILL
  | fmSuspend (w : Requester) (v : Word) -- FM_SUSPEND
  | fmResume (w : Requester) (v : Word) -- FM_RESUME
  | contextAreaWrite (w : Requester) (addr : BitVec 40) (data : List Byte) -- CONTEXT_AREA_WRITE
  | threadDispatch (core : Fin 8) -- THREAD_DISPATCH
  | contextSwitchDone (core : Fin 8) -- CONTEXT_SWITCH_DONE
  | wakeEntryTake (core : Fin 8) -- WAKE_ENTRY_TAKE
  | heldWakeAdmit (core : Fin 8) -- HELD_WAKE_ADMIT
  | timerCheck -- TIMER_CHECK
  | positionComparatorMatch (core : Fin 8) (t : Fin 64) -- POSITION_COMPARATOR_MATCH
  | corePowerDown (core : Fin 8) -- CORE_POWER_DOWN
  | corePowerUp (core : Fin 8) -- CORE_POWER_UP
  | foremanWindowEnd -- FOREMAN_WINDOW_END
  | wdogKick (w : Requester) (v : Word) -- WDOG_KICK
  | wdogWarn -- WDOG_WARN
  | wdogBite -- WDOG_BITE
  | hostLinkUp (port : Fin 2) (speed width : Fin 8) -- HOST_LINK_UP
  | hostPortReset (port : Fin 2) (kind : PortReset) (moved : List HostData) -- HOST_PORT_RESET
  | bar0Access (port : Fin 2) (off : Nat) (isWrite : Bool) (data : List Byte) (len : Nat) -- BAR0_ACCESS
  | xspiRead (port : Fin 2) (addr : Word) (len : Nat) -- XSPI_READ
  | xspiWrite (port : Fin 2) (addr : Word) (data : List Byte) -- XSPI_WRITE
  | xspiStream (port : Fin 2) (data : List Byte) -- XSPI_STREAM
  | xspiStatus (port : Fin 2) -- XSPI_STATUS
  | xspiId (port : Fin 2) -- XSPI_ID
  | xspiPortReset (port : Fin 2) -- XSPI_PORT_RESET
  | enter8d (port : Fin 2) -- ENTER_8D
  | exit8d (port : Fin 2) -- EXIT_8D
  | xspiInvalidOpcode (port : Fin 2) (op : Byte) -- XSPI_INVALID_OPCODE
  | xspiReadTimeout (port : Fin 2) (len : Nat) -- XSPI_READ_TIMEOUT
  | dmaEntryComplete (port : Fin 2) (ring : Fin 4) (host : HostData) -- DMA_ENTRY_COMPLETE
  | dmaHostTimeout (port : Fin 2) (ring : Fin 4) (host : HostData) -- DMA_HOST_TIMEOUT
  | haspAcquire (w : Requester) (n : Fin 64) -- HASP_ACQUIRE
  | haspRelease (w : Requester) (n : Fin 64) (v : Word) -- HASP_RELEASE
  | mbHostPost (port : Fin 2) (d : Fin 16) (v : Word) -- MB_HOST_POST
  | mbHostTake (port : Fin 2) (sender : Fin 16) -- MB_HOST_TAKE
  | ping (ep : Endpoint) (tag : BitVec 8) (arg : BitVec 48) -- PING
  | info (ep : Endpoint) (tag : BitVec 8) (arg : BitVec 48) -- INFO
  | haspAcq (ep : Endpoint) (tag : BitVec 8) (arg : BitVec 48) -- HASP_ACQ
  | haspRel (ep : Endpoint) (tag : BitVec 8) (arg : BitVec 48) -- HASP_REL
  | serviceReset (ep : Endpoint) (tag : BitVec 8) (arg : BitVec 48) -- RESET
  | updateOpen (ep : Endpoint) (tag : BitVec 8) (arg : BitVec 48) -- UPDATE_OPEN
  | updateWrite (ep : Endpoint) (tag : BitVec 8) (arg : BitVec 48) -- UPDATE_WRITE
  | updateClose (ep : Endpoint) (tag : BitVec 8) (arg : BitVec 48) -- UPDATE_CLOSE
  | serviceUnknownOp (ep : Endpoint) (op : BitVec 7) (tag : BitVec 8) (arg : BitVec 48) -- SERVICE_UNKNOWN_OP
  | bobbinByteArrive (n : Fin 48) (b : StageByte) -- BOBBIN_BYTE_ARRIVE
  | bobbinRead (w : Requester) (n : Fin 48) -- BOBBIN_READ
  | bobbinStaleNotice (n : Fin 48) -- BOBBIN_STALE_NOTICE
  | xnAccess (w : Requester) (addr : BitVec 40) (size : Nat) (isWrite : Bool) (v : DWord) -- XN_ACCESS
  | xnEnable (w : Requester) (v : Word) -- XN_ENABLE
  | xnDisable (w : Requester) (v : Word) -- XN_DISABLE
  | macLinkUp (n : Fin 6) -- MAC_LINK_UP
  | macLinkDown (n : Fin 6) -- MAC_LINK_DOWN
  | ethFrameReceive (n : Fin 6) (frame : EthFrame) -- ETH_FRAME_RECEIVE
  | arpRetry (i : Fin 64) -- ARP_RETRY
  | ethTxEntryComplete (n : Fin 6) (ring : Fin 2) -- ETH_TX_ENTRY_COMPLETE
  | bridgeAgeing (index : Fin 4096) -- BRIDGE_AGEING
  | brTableRead (w : Requester) (v : Word) -- BR_TABLE_READ
  | brTableWrite (w : Requester) (v : Word) -- BR_TABLE_WRITE
  | brTableDelete (w : Requester) (v : Word) -- BR_TABLE_DELETE
  | counterSnapshot (w : Requester) (v : Word) -- COUNTER_SNAPSHOT
  | ptpDelayReq -- PTP_DELAY_REQ
  | tsqRead (w : Requester) (n : Fin 6) -- TSQ_READ
  | weftFrameSend (stream : Fin 256) -- WEFT_FRAME_SEND
  | wfCommit (w : Requester) (v : Word) -- WF_COMMIT
  | previewFrameSend -- PREVIEW_FRAME_SEND
  | musterAnnounce (n : Fin 6) -- MUSTER_ANNOUNCE
  | musterWithdraw (n : Fin 6) -- MUSTER_WITHDRAW
  | musterPartnerTimeout (i : Fin 256) -- MUSTER_PARTNER_TIMEOUT
  | shuttleLinkChange (link : ShLink) (up : Bool) -- SHUTTLE_LINK_CHANGE
  | shuttleFrameDrop (link : Option ShLink) -- SHUTTLE_FRAME_DROP
  | beacon (link : ShLink) (seq : Nat) (b : Beacon) -- BEACON
  | delayReq (link : ShLink) (seq : Nat) -- DELAY_REQ
  | delayResp (link : ShLink) (seq : Nat) (t : DelayTimes) -- DELAY_RESP
  | linkDelayMeasure -- LINK_DELAY_MEASURE
  | enumFrame (link : ShLink) (seq : Nat) (f : EnumFrame) -- ENUM
  | enumReply (link : ShLink) (seq : Nat) (f : EnumReplyFrame) -- ENUM_REPLY
  | assign (link : ShLink) (seq : Nat) (f : AssignFrame) -- ASSIGN
  | enumSurvey -- ENUM_SURVEY
  | assignWaitExpire -- ASSIGN_WAIT_EXPIRE
  | shuttleMailbox (link : ShLink) (seq : Nat) (f : MailboxFrame) -- SHUTTLE_MAILBOX
  | ledgerFrame (link : ShLink) (seq : Nat) (f : LedgerFrame) -- LEDGER_FRAME
  | linkchg (link : ShLink) (seq : Nat) (f : LinkchgFrame) -- LINKCHG
  | imageFrame (link : ShLink) (seq : Nat) (f : ImageFrame) -- IMAGE
  | reclaim (link : ShLink) (seq : Nat) (f : ReclaimFrame) -- RECLAIM
  | freewheelExpire -- FREEWHEEL_EXPIRE
  | shReclaim (w : Requester) (v : Word) -- SH_RECLAIM
  | shStickyClr (w : Requester) (v : Word) -- SH_STICKY_CLR
  | shuttleRingEntry -- SHUTTLE_RING_ENTRY
  | ownLineReleased -- OWN_LINE_RELEASED
  | claimWaitExpire -- CLAIM_WAIT_EXPIRE
  | confirmWindowExpire -- CONFIRM_WINDOW_EXPIRE
  | claimBackoffExpire -- CLAIM_BACKOFF_EXPIRE
  | pairSelDrive -- PAIR_SEL_DRIVE
  | peerLoss -- PEER_LOSS
  | killPulseEnd -- KILL_PULSE_END
  | killRetry -- KILL_RETRY
  | pairLinkChange (up : Bool) -- PAIR_LINK_CHANGE
  | pairMailbox (seq : Nat) (f : PairMail) -- PAIR_MAILBOX
  | pbeacon (seq : Nat) (f : PBeacon) -- PBEACON
  | sigFrame (seq : Nat) (entries : List SigEntry) -- SIG
  | diverge (seq : Nat) (key : Word) (frame : BitVec 40) -- DIVERGE
  | copyFrame (seq : Nat) (f : CopyFrame) -- COPY
  | pairCommit (seq : Nat) (f : CommitFrame) -- PAIR_COMMIT
  | helloFrame (seq : Nat) (f : HelloFrame) -- HELLO
  | health (seq : Nat) (value : Word) (diverged : Bool) (role : Fin 8) -- HEALTH
  | healthSend -- HEALTH_SEND
  | profileFrame (seq : Nat) (frame : BitVec 40) (prof : Fin 4) -- PROFILE
  | profileJointTimeout -- PROFILE_JOINT_TIMEOUT
  | stateCopyDone -- STATE_COPY_DONE
  | mtClear (w : Requester) (v : Word) -- MT_CLEAR
  | mtYield (w : Requester) (v : Word) -- MT_YIELD
  | mtCommit (w : Requester) (v : Word) -- MT_COMMIT
  | recoveryEnd -- RECOVERY_END
  | stockroomTransaction (req : StockReq) -- STOCKROOM_TRANSACTION
  | turnstileGrant (g : Fin 16) (asks : List TsAsk) -- TURNSTILE_GRANT
  | scrubStep -- SCRUB_STEP
  | extScrubAccess -- EXT_SCRUB_ACCESS
  | tsCommit (w : Requester) (v : Word) -- TS_COMMIT
  | tableWrap (g : Fin 16) -- TABLE_WRAP
  | tsExtNextWrite (w : Requester) (v : Word) -- TS_EXT_NEXT_WRITE
  | extMemoryRequest (req : ExtReq) -- EXT_MEMORY_REQUEST
  | tallySample (xs : List (BitVec 24)) -- TALLY_SAMPLE
  | tallyPeriodEnd (c : Fin 24) -- TALLY_PERIOD_END
  | tallyWindowEnd -- TALLY_WINDOW_END
  | tallyChannelFault (n : Fin 32) -- TALLY_CHANNEL_FAULT
  | mainsLoss (v : Fin 8) -- MAINS_LOSS
  | pulseAssert (p : Fin 8) -- PULSE_ASSERT
  | pulseEnd (p : Fin 8) -- PULSE_END
  | tySnap (w : Requester) (v : Word) -- TY_SNAP
  | tySaveNow (w : Requester) (v : Word) -- TY_SAVE_NOW
  | tySavePeriod -- TY_SAVE_PERIOD
  | tySaveWriteDone (ok : Bool) -- TY_SAVE_WRITE_DONE
  | tyCommit (w : Requester) (v : Word) -- TY_COMMIT
  | ledgerRecordTake -- LEDGER_RECORD_TAKE
  | ledgerRecordDrop (record : LogReq) -- LEDGER_RECORD_DROP
  | lgFreeze (w : Requester) (v : Word) -- LG_FREEZE
  | lgThaw (w : Requester) (v : Word) -- LG_THAW
  | lgFreezeLimit -- LG_FREEZE_LIMIT
  | lgArchiveFlush -- LG_ARCHIVE_FLUSH
  | lgFlush (w : Requester) (v : Word) -- LG_FLUSH
  | recordClose -- RECORD_CLOSE
  | lgGaspClr (w : Requester) (v : Word) -- LG_GASP_CLR
  | lgExportEntry -- LG_EXPORT_ENTRY
  | tmStart (w : Requester) (v : Word) -- TM_START
  | tmAbort (w : Requester) (v : Word) -- TM_ABORT
  | trimRunEnd (r : TrimResult) -- TRIM_RUN_END
  | tempSensorUpdate (q : BitVec 12) -- TEMP_SENSOR_UPDATE
  | announceReceiptTimeout -- ANNOUNCE_RECEIPT_TIMEOUT
  | pairOwnNLow (owning : Bool) -- PAIR_OWN_N_LOW
  | pairingStepTimeout -- PAIRING_STEP_TIMEOUT
  | tallyChannelFaultEnd (n : Fin 32) -- TALLY_CHANNEL_FAULT_END
  | archiveWriteDone (ok : Bool) -- ARCHIVE_WRITE_DONE
  | corePowerUpDone (core : Fin 8) -- CORE_POWER_UP_DONE
  | refclk25mArrival -- REFCLK_25M_ARRIVAL
  | mr4RefreshRateRead (rate : Fin 32) -- MR4_REFRESH_RATE_READ
  | coreSupplyLoss -- CORE_SUPPLY_LOSS
  | profileFrameRepeat -- PROFILE_FRAME_REPEAT
  | peerAliveRegained -- PEER_ALIVE_REGAINED
  | imageFrameSend -- IMAGE_FRAME_SEND
  deriving DecidableEq, Repr

end Sys2Proof
end

