-- ==== Sys2Proof/Decode.lean ====
section
/-!
DEFINITION. The command that a word spells. No row of the spec's table of operations gives bits, so no word spells one.
-/

namespace Sys2Proof

/-- No row gives bits. -/
def decodeTableWord (_nbits _w : Nat) : Option Instr := none

end Sys2Proof
end

