-- ==== Sys2Proof/Config.lean ====
section
/-!
DEFINITION. What the part's makers fix and the spec does not state: the free values. Each is an opaque constant with
no body, so that nothing proved of the model rests on a choice of it.
-/

namespace Sys2Proof

/-- The value the part produces where the spec states none, one for each use: the `n`-th free value of a run. -/
opaque Config.freeValue : Nat → Nat

/-- 2 pi in units of 2^-32, to the precision that the part's loop keeps: the bandwidth of R55 is given in Hz, and the spec
does not state how the part rounds the angular frequency. -/
opaque Config.twoPi : Nat

/-- SHA-384 (FIPS 180-4) of bytes, as a number (log 22). -/
opaque Config.sha384 : List Byte → Nat

/-- The ECDSA P-384 check of R494 and R507: the hash that names the public key, the message's hash, the signature's bytes. -/
opaque Config.ecdsa : Nat → Nat → List Byte → Bool

/-- The key-unwrapping and AES-256-GCM decryption of R495 and R505: image key, header and ciphertext give the plaintext,
or nothing when the tag fails. -/
opaque Config.decrypt : Nat → List Byte → List Byte → Option (List Byte)

/-- The delay of the pair link in units of 1/8 ns (R394), which the spec gives no register. -/
opaque Config.pairDelay : Nat

/-- How long the service agent takes for an update command, by its OP, in ns (R313, R500): the spec gives no time. -/
opaque Config.agentTime : Nat → Nat

end Sys2Proof
end

