-- ==== Sys2Proof/Machine/SMap.lean ====
section
/-!
DEFINITION. A sparse map from numbers to values, kept as a list of pairs with the keys rising and no pair equal to
what an unlisted key reads as. Memory, the register file and every numbered family of units are held in it, so that
equal contents are equal data.
-/

namespace Sys2Proof.Machine

/-- A sparse map: pairs of key and value. -/
abbrev SMap (α : Type) := List (Nat × α)

/-- What the map holds at `k`; `d` is what an unlisted key reads as. -/
def SMap.get {α : Type} (d : α) : SMap α → Nat → α
  | [], _ => d
  | (k', v) :: m, k => if k' = k then v else SMap.get d m k

/-- The map without an entry at `k`. -/
def SMap.del {α : Type} : SMap α → Nat → SMap α
  | [], _ => []
  | (k', v) :: m, k => if k' = k then SMap.del m k else (k', v) :: SMap.del m k

/-- The map with the entry `(k, v)` put in its place. -/
def SMap.ins {α : Type} : SMap α → Nat → α → SMap α
  | [], k, v => [(k, v)]
  | (k', v') :: m, k, v =>
    if k < k' then (k, v) :: (k', v') :: m
    else if k = k' then (k, v) :: m
    else (k', v') :: SMap.ins m k v

/-- The map with `v` at `k`: an entry equal to what an unlisted key reads as is removed. -/
def SMap.set {α : Type} [DecidableEq α] (d : α) (m : SMap α) (k : Nat) (v : α) : SMap α :=
  if v = d then SMap.del m k else SMap.ins m k v

/-- Keys rise strictly from `lo` on and no entry equals `d`. -/
def SMap.wfFrom {α : Type} [DecidableEq α] (d : α) : Nat → SMap α → Bool
  | _, [] => true
  | lo, (k, v) :: m => decide (lo ≤ k) && decide (v ≠ d) && SMap.wfFrom d (k + 1) m

/-- The canonical form. -/
def SMap.wf {α : Type} [DecidableEq α] (d : α) (m : SMap α) : Bool := SMap.wfFrom d 0 m

/-- Keys rise strictly from `lo` on. -/
def SMap.risesFrom {α : Type} : Nat → SMap α → Bool
  | _, [] => true
  | lo, (k, _) :: m => decide (lo ≤ k) && SMap.risesFrom (k + 1) m

/-- Keys rise strictly. -/
def SMap.rises {α : Type} (m : SMap α) : Bool := SMap.risesFrom 0 m

/-- The map with only the entries whose key `p` accepts. -/
def SMap.keep {α : Type} (p : Nat → Bool) : SMap α → SMap α
  | [] => []
  | (k, v) :: m => if p k then (k, v) :: SMap.keep p m else SMap.keep p m

/-- The map with the entries from `lo` to below `hi` replaced by those of another map. -/
def SMap.splice {α : Type} (m : SMap α) (lo hi : Nat) (src : SMap α) : SMap α :=
  m.keep (fun k => decide (k < lo)) ++ (src.keep fun k => decide (lo ≤ k ∧ k < hi))
    ++ m.keep fun k => decide (max lo hi ≤ k)

end Sys2Proof.Machine
end

