-- ==== Sys2Proof/Machine/Fld.lean ====
section
/-!
DEFINITION. A field of a register: the register's address, the reset value of the whole register, the field's lowest
bit and its width; and reading and replacing a field of a register's value.
-/

namespace Sys2Proof.Machine

/-- A register field as the register tables give it. -/
structure Fld where
  addr : Nat
  reset : Nat
  lo : Nat
  width : Nat
  deriving DecidableEq, Repr

/-- The mask of the field within its register. -/
def Fld.mask (f : Fld) : Nat := (2 ^ f.width - 1) * 2 ^ f.lo

/-- The field's value in a register that holds `v`. -/
def Fld.of (f : Fld) (v : Word) : Nat := v.toNat / 2 ^ f.lo % 2 ^ f.width

/-- A register that holds `v`, with the field replaced by the low bits of `n`. -/
def Fld.put (f : Fld) (v : Word) (n : Nat) : Word :=
  (v &&& ~~~(BitVec.ofNat 32 f.mask)) ||| BitVec.ofNat 32 (n % 2 ^ f.width * 2 ^ f.lo)

/-- The reset value of word `j` of bank group `g`'s slot table (R435): in each of its four slots the owner in the low half
byte, with VALID above it. -/
def slotReset (g j : Nat) : Nat :=
  (List.range 4).foldl (fun n i =>
    let s := 4 * j + i
    let v := if s % 13 = 0 then 0x89 else if s % 2 = 1 then 0x88
      else if g < 8 then 0x80 + g else if g = 8 then 0x8F else 0
    n + v * 2 ^ (8 * i)) 0

end Sys2Proof.Machine
end

