-- ==== Sys2Proof/Machine/RegTable.lean ====
section
/-!
DEFINITION. What a register holds and how each of its bits takes a write or a read (R9), one row per register or
family of registers of the spec's tables. Bits in none of a row's masks are reserved or write-only: they read as zero
(R9, R10).
-/

namespace Sys2Proof.Machine

/-- A register, or a family of registers with two strides: base address, outer stride and count, inner stride and
count, the masks of the RO, RW, RWS, W1C and RC bits, and the reset value. -/
structure RegDesc where
  base : Nat
  s1 : Nat
  c1 : Nat
  s2 : Nat
  c2 : Nat
  ro : Nat
  rw : Nat
  rws : Nat
  w1c : Nat
  rc : Nat
  reset : Nat
  deriving DecidableEq, Repr

/-- The row covers the aligned address `a`. -/
def RegDesc.covers (d : RegDesc) (a : Nat) : Bool :=
  d.base ≤ a && (a - d.base) / d.s1 < d.c1 && (a - d.base) % d.s1 / d.s2 < d.c2 && (a - d.base) % d.s1 % d.s2 == 0

/-- Rows of the SYS tables. -/
def regRowsSYS : List RegDesc := [
    ⟨0x10000000, 0x4, 1, 0x4, 1, 0xFFFFFFF0, 0x0, 0x0, 0x0, 0x0, 0x48100B00⟩,
    ⟨0x10000004, 0x4, 1, 0x4, 1, 0xFFFFFFFF, 0x0, 0x0, 0x0, 0x0, 0x0⟩,
    ⟨0x10000008, 0x4, 1, 0x4, 1, 0x0, 0xFFFFFFFF, 0x0, 0x0, 0x0, 0x0⟩,
    ⟨0x1000000C, 0x4, 1, 0x4, 1, 0x300, 0x0, 0x3, 0x0, 0x0, 0x0⟩,
    ⟨0x10000010, 0x4, 1, 0x4, 1, 0x0, 0x0, 0x0, 0x0, 0x0, 0x0⟩,
    ⟨0x10000014, 0x4, 1, 0x4, 1, 0x100FF, 0x0, 0x0, 0x0, 0x0, 0x0⟩,
    ⟨0x10000018, 0x4, 1, 0x4, 1, 0x0, 0x0, 0x0, 0x0, 0xFFFFFFFF, 0x0⟩,
    ⟨0x1000001C, 0x4, 1, 0x4, 1, 0xC0000FFF, 0x0, 0x0, 0x0, 0x0, 0x0⟩]

/-- Rows of the YS tables. -/
def regRowsYS : List RegDesc := [
    ⟨0x10090000, 0x4, 1, 0x4, 1, 0x0, 0x100, 0x10, 0x0, 0x0, 0x0⟩,
    ⟨0x10090004, 0x4, 1, 0x4, 1, 0x0, 0x0, 0xFFFFFFFF, 0x0, 0x0, 0x3C001⟩,
    ⟨0x10090008, 0x4, 1, 0x4, 1, 0x0, 0x0, 0x0, 0x0, 0x0, 0x0⟩,
    ⟨0x1009000C, 0x4, 1, 0x4, 1, 0xF71100FF, 0x0, 0x0, 0x0, 0x0, 0x70000000⟩,
    ⟨0x10090010, 0x4, 1, 0x4, 1, 0x0, 0x0, 0xFFFFFFFF, 0x0, 0x0, 0x7⟩,
    ⟨0x10090014, 0x4, 1, 0x4, 1, 0x0, 0x0, 0xF00FFFF, 0x0, 0x0, 0x50003E8⟩,
    ⟨0x10090018, 0x4, 1, 0x4, 1, 0x0, 0x0, 0xFFFFFFFF, 0x0, 0x0, 0x200⟩,
    ⟨0x1009001C, 0x4, 1, 0x4, 1, 0x0, 0xFFFFFF0F, 0x0, 0x0, 0x0, 0x641003⟩,
    ⟨0x10090020, 0x4, 1, 0x4, 1, 0xFFFFFFFF, 0x0, 0x0, 0x0, 0x0, 0x0⟩,
    ⟨0x10090024, 0x4, 1, 0x4, 1, 0xFFFFFFFF, 0x0, 0x0, 0x0, 0x0, 0x0⟩,
    ⟨0x10090028, 0x4, 1, 0x4, 1, 0xFFFFFFFF, 0x0, 0x0, 0x0, 0x0, 0x0⟩,
    ⟨0x1009002C, 0x4, 1, 0x4, 1, 0xFFFFFFFF, 0x0, 0x0, 0x0, 0x0, 0x0⟩,
    ⟨0x10090030, 0x4, 1, 0x4, 1, 0xFFFFFFFF, 0x0, 0x0, 0x0, 0x0, 0x0⟩,
    ⟨0x10090034, 0x4, 1, 0x4, 1, 0xFFFFFFFF, 0x0, 0x0, 0x0, 0x0, 0x0⟩,
    ⟨0x10090038, 0x4, 1, 0x4, 1, 0x7E007E, 0x0, 0x0, 0x0, 0x0, 0x0⟩,
    ⟨0x1009003C, 0x4, 1, 0x4, 1, 0x0, 0x0, 0x0, 0x1FFF, 0x0, 0x0⟩,
    ⟨0x10090040, 0x4, 1, 0x4, 1, 0x0, 0x7, 0x0, 0x0, 0x0, 0x0⟩,
    ⟨0x10090044, 0x4, 1, 0x4, 1, 0x0, 0xFFFFFFFF, 0x0, 0x0, 0x0, 0x0⟩,
    ⟨0x10090048, 0x4, 1, 0x4, 1, 0x0, 0x80FFFFFF, 0x0, 0x0, 0x0, 0x101⟩,
    ⟨0x1009004C, 0x4, 1, 0x4, 1, 0x0, 0x7, 0x0, 0x0, 0x0, 0x4⟩,
    ⟨0x10090050, 0x4, 1, 0x4, 1, 0x0, 0xFFFFFFFF, 0x0, 0x0, 0x0, 0x0⟩,
    ⟨0x10090054, 0x4, 1, 0x4, 1, 0x0, 0x1, 0x0, 0x0, 0x0, 0x0⟩,
    ⟨0x10090058, 0x4, 1, 0x4, 1, 0x0, 0xFF0107, 0x0, 0x0, 0x0, 0x0⟩,
    ⟨0x1009005C, 0x4, 1, 0x4, 1, 0xFFFF0001, 0x0, 0x0, 0x0, 0x0, 0x0⟩,
    ⟨0x10090060, 0x4, 1, 0x4, 1, 0xFFFFFFFF, 0x0, 0x0, 0x0, 0x0, 0x0⟩,
    ⟨0x10090064, 0x4, 1, 0x4, 1, 0xFF, 0x0, 0x0, 0x0, 0x0, 0x0⟩,
    ⟨0x10090068, 0x4, 1, 0x4, 1, 0xFFFFFFFF, 0x0, 0x0, 0x0, 0x0, 0x0⟩,
    ⟨0x1009006C, 0x4, 1, 0x4, 1, 0xFFFFFFFF, 0x0, 0x0, 0x0, 0x0, 0x0⟩,
    ⟨0x10090070, 0x4, 1, 0x4, 1, 0x3FFFFFFF, 0x0, 0x0, 0x0, 0x0, 0x0⟩,
    ⟨0x10090074, 0x4, 1, 0x4, 1, 0x0, 0x0, 0x0, 0x0, 0xFFFFFFFF, 0x0⟩,
    ⟨0x10090078, 0x4, 1, 0x4, 1, 0x0, 0x0, 0x0, 0x0, 0xFFFFFFFF, 0x0⟩,
    ⟨0x1009007C, 0x4, 1, 0x4, 1, 0x0, 0x80073F0F, 0x0, 0x0, 0x0, 0x0⟩,
    ⟨0x10090080, 0x4, 4, 0x4, 1, 0x1, 0xC0FF0000, 0x0, 0x0, 0x0, 0x0⟩,
    ⟨0x10090090, 0x4, 4, 0x4, 1, 0x0, 0xF0000000, 0x0, 0x0, 0x0, 0x20000000⟩,
    ⟨0x100900A0, 0x10, 4, 0x4, 1, 0xFFFFFFFF, 0x0, 0x0, 0x0, 0x0, 0x0⟩,
    ⟨0x100900A4, 0x10, 4, 0x4, 1, 0xFFFFFFFF, 0x0, 0x0, 0x0, 0x0, 0x0⟩,
    ⟨0x100900A8, 0x10, 4, 0x4, 1, 0xFFFFFFFF, 0x0, 0x0, 0x0, 0x0, 0x0⟩,
    ⟨0x100900AC, 0x10, 4, 0x4, 1, 0xFFFFFFFF, 0x0, 0x0, 0x0, 0x0, 0x0⟩,
    ⟨0x100900E0, 0x4, 1, 0x4, 1, 0xF0F0F0F, 0x0, 0x0, 0x0, 0x0, 0x0⟩,
    ⟨0x100900E4, 0x4, 1, 0x4, 1, 0x0, 0x0, 0x0, 0x0, 0xFFFFFFFF, 0x0⟩,
    ⟨0x10091000, 0x10, 256, 0x4, 1, 0x0, 0xFFFFFFFF, 0x0, 0x0, 0x0, 0x0⟩,
    ⟨0x10091004, 0x10, 256, 0x4, 1, 0x0, 0xFFFFFFFF, 0x0, 0x0, 0x0, 0x0⟩,
    ⟨0x10091008, 0x10, 256, 0x4, 1, 0x84000000, 0xFCFFFF, 0x0, 0x18000000, 0x0, 0x0⟩,
    ⟨0x1009100C, 0x10, 256, 0x4, 1, 0x0, 0xFFFFFFFF, 0x0, 0x0, 0x0, 0x0⟩]

/-- Rows of the DR tables. -/
def regRowsDR : List RegDesc := [
    ⟨0x10100000, 0x4, 1, 0x4, 1, 0x0, 0x1, 0x0, 0x0, 0x0, 0x0⟩,
    ⟨0x10100004, 0x4, 1, 0x4, 1, 0x0, 0x0, 0x0, 0x0, 0x0, 0x0⟩,
    ⟨0x10100008, 0x4, 1, 0x4, 1, 0xBF01FF, 0x0, 0x0, 0x0, 0x0, 0x0⟩,
    ⟨0x1010000C, 0x4, 1, 0x4, 1, 0xFFFFFFFF, 0x0, 0x0, 0x0, 0x0, 0x2000000⟩,
    ⟨0x10100010, 0x4, 1, 0x4, 1, 0xFFFFFFFF, 0x0, 0x0, 0x0, 0x0, 0x0⟩,
    ⟨0x10100014, 0x4, 1, 0x4, 1, 0x0, 0x0, 0x0, 0xFF, 0x0, 0x0⟩,
    ⟨0x10100018, 0x4, 1, 0x4, 1, 0x0, 0x80073F0F, 0x0, 0x0, 0x0, 0x0⟩,
    ⟨0x1010001C, 0x4, 1, 0x4, 1, 0xFFFFFFFF, 0x0, 0x0, 0x0, 0x0, 0x0⟩,
    ⟨0x10100020, 0x4, 1, 0x4, 1, 0xFFFFFFFF, 0x0, 0x0, 0x0, 0x0, 0x0⟩,
    ⟨0x10100024, 0x4, 1, 0x4, 1, 0x3F, 0x0, 0x0, 0x0, 0x0, 0x0⟩,
    ⟨0x10100028, 0x4, 1, 0x4, 1, 0x0, 0x0, 0x0, 0x0, 0xFFFFFFFF, 0x0⟩,
    ⟨0x1010002C, 0x4, 1, 0x4, 1, 0x0, 0x0, 0x0, 0x0, 0xFFFFFFFF, 0x0⟩,
    ⟨0x10100030, 0x4, 1, 0x4, 1, 0x0, 0x0, 0x0, 0x0, 0xFFFFFFFF, 0x0⟩,
    ⟨0x10100034, 0x4, 1, 0x4, 1, 0x0, 0x0, 0x0, 0x0, 0xFFFFFFFF, 0x0⟩,
    ⟨0x10100100, 0x80, 4, 0x4, 1, 0x0, 0x0, 0x7FFF7FFF, 0x0, 0x0, 0x0⟩,
    ⟨0x10100104, 0x80, 4, 0x4, 1, 0x0, 0x0, 0x1FFFFFF, 0x0, 0x0, 0x0⟩,
    ⟨0x10100108, 0x80, 4, 0x4, 1, 0x0, 0xFFFFFFFF, 0x0, 0x0, 0x0, 0x0⟩,
    ⟨0x1010010C, 0x80, 4, 0x4, 1, 0x0, 0xFF, 0x0, 0x0, 0x0, 0x0⟩,
    ⟨0x10100110, 0x80, 4, 0x4, 1, 0x0, 0x8000000F, 0x0, 0x0, 0x0, 0x4⟩,
    ⟨0x10100114, 0x80, 4, 0x4, 1, 0x0, 0xFFFF, 0x0, 0x0, 0x0, 0x0⟩,
    ⟨0x10100118, 0x80, 4, 0x4, 1, 0xFFFF, 0x0, 0x0, 0x0, 0x0, 0x0⟩,
    ⟨0x1010011C, 0x80, 4, 0x4, 1, 0xF0FF007F, 0x0, 0x0, 0x0, 0x0, 0x0⟩,
    ⟨0x10100120, 0x80, 4, 0x4, 1, 0xFFFFFFFF, 0x0, 0x0, 0x0, 0x0, 0x0⟩,
    ⟨0x10100124, 0x80, 4, 0x4, 1, 0xFFFFFFFF, 0x0, 0x0, 0x0, 0x0, 0x0⟩,
    ⟨0x10100128, 0x80, 4, 0x4, 1, 0xFFFFFFFF, 0x0, 0x0, 0x0, 0x0, 0x0⟩,
    ⟨0x1010012C, 0x80, 4, 0x4, 1, 0x0, 0x0, 0x0, 0x0, 0xFFFFFFFF, 0x0⟩,
    ⟨0x10100130, 0x80, 4, 0x4, 1, 0xFFFFFFFF, 0x0, 0x0, 0x0, 0x0, 0x0⟩,
    ⟨0x10100134, 0x80, 4, 0x4, 1, 0xFFFFFFFF, 0x0, 0x0, 0x0, 0x0, 0x0⟩,
    ⟨0x10100138, 0x80, 4, 0x4, 1, 0xFFFFFFFF, 0x0, 0x0, 0x0, 0x0, 0x0⟩,
    ⟨0x1010013C, 0x80, 4, 0x4, 1, 0xFFFFFFFF, 0x0, 0x0, 0x0, 0x0, 0x0⟩,
    ⟨0x10100140, 0x80, 4, 0x4, 1, 0xFFFFFFFF, 0x0, 0x0, 0x0, 0x0, 0x0⟩,
    ⟨0x10100300, 0x20, 4, 0x4, 1, 0x0, 0x8F000000, 0x0, 0x0, 0x0, 0x0⟩,
    ⟨0x10100304, 0x20, 4, 0x4, 1, 0x0, 0x3FFF3FFF, 0x0, 0x0, 0x0, 0x7800438⟩,
    ⟨0x10100308, 0x20, 4, 0x4, 1, 0x0, 0xFFFFFFFF, 0x0, 0x0, 0x0, 0x0⟩,
    ⟨0x1010030C, 0x20, 4, 0x4, 1, 0x0, 0xFF, 0x0, 0x0, 0x0, 0x0⟩,
    ⟨0x10100310, 0x20, 4, 0x4, 1, 0xEEC0FFFF, 0x0, 0x0, 0x0, 0x0, 0x0⟩,
    ⟨0x10100314, 0x20, 4, 0x4, 1, 0x0, 0x0, 0x0, 0x0, 0xFFFFFFFF, 0x0⟩,
    ⟨0x10100318, 0x20, 4, 0x4, 1, 0x0, 0x0, 0x0, 0x0, 0xFFFFFFFF, 0x0⟩,
    ⟨0x1010031C, 0x20, 4, 0x4, 1, 0x0, 0x0, 0x0, 0x0, 0xFFFFFFFF, 0x0⟩]

/-- Rows of the TL tables. -/
def regRowsTL : List RegDesc := [
    ⟨0x10140000, 0x4, 1, 0x4, 1, 0x0, 0x0, 0x3, 0x0, 0x0, 0x3⟩,
    ⟨0x10140004, 0x4, 1, 0x4, 1, 0x0, 0x0, 0x0, 0x0, 0x0, 0x0⟩,
    ⟨0x10140008, 0x4, 1, 0x4, 1, 0x300FF, 0x0, 0x0, 0x0, 0x0, 0x0⟩,
    ⟨0x1014000C, 0x4, 1, 0x4, 1, 0xFF, 0x0, 0x0, 0x0, 0x0, 0xF0⟩,
    ⟨0x10140010, 0x4, 1, 0x4, 1, 0x0, 0x0, 0x0, 0x7F, 0x0, 0x0⟩,
    ⟨0x10140014, 0x4, 1, 0x4, 1, 0x0, 0x80073F0F, 0x0, 0x0, 0x0, 0x0⟩,
    ⟨0x10140018, 0x4, 1, 0x4, 1, 0x0, 0x0, 0xC000FFFF, 0x0, 0x0, 0x800001E0⟩,
    ⟨0x10140020, 0x4, 1, 0x4, 1, 0x0, 0x0, 0x0, 0x0, 0xFFFFFFFF, 0x0⟩,
    ⟨0x10140024, 0x4, 1, 0x4, 1, 0x0, 0x0, 0x0, 0x0, 0xFFFFFFFF, 0x0⟩,
    ⟨0x10140028, 0x4, 1, 0x4, 1, 0x0, 0x0, 0x0, 0x0, 0xFFFFFFFF, 0x0⟩,
    ⟨0x1014002C, 0x4, 1, 0x4, 1, 0x0, 0x0, 0x0, 0x0, 0xFFFFFFFF, 0x0⟩,
    ⟨0x10140030, 0x4, 1, 0x4, 1, 0x0, 0x0, 0x0, 0x0, 0xFFFFFFFF, 0x0⟩,
    ⟨0x10140040, 0x8, 4, 0x4, 1, 0xFFFFFFFF, 0x0, 0x0, 0x0, 0x0, 0x0⟩,
    ⟨0x10140044, 0x8, 4, 0x4, 1, 0xFF, 0x0, 0x0, 0x0, 0x0, 0x0⟩,
    ⟨0x10140060, 0x4, 4, 0x4, 1, 0x0, 0x0, 0x1F3FFFFF, 0x0, 0x0, 0x0⟩,
    ⟨0x10140100, 0x10, 16, 0x4, 1, 0x0, 0x0, 0xC0000FFF, 0x0, 0x0, 0xC0000154⟩,
    ⟨0x10140104, 0x10, 16, 0x4, 1, 0x0, 0x0, 0xFFFFFFFF, 0x0, 0x0, 0xC84000⟩,
    ⟨0x10140108, 0x10, 16, 0x4, 1, 0x0, 0x0, 0xFFFF1F01, 0x0, 0x0, 0x1001⟩,
    ⟨0x1014010C, 0x10, 16, 0x4, 1, 0x8FFFFFFF, 0x0, 0x0, 0x0, 0x0, 0x8000⟩,
    ⟨0x10140200, 0x4, 16, 0x4, 1, 0x0, 0xFFFF, 0x0, 0x0, 0x0, 0xFFFF⟩,
    ⟨0x10140300, 0x4, 1, 0x4, 1, 0x1, 0x0, 0x0, 0x0, 0x0, 0x0⟩,
    ⟨0x10150000, 0x30, 4096, 0x10, 3, 0x0, 0x0, 0x3FFFF, 0x0, 0x0, 0x8000⟩,
    ⟨0x10150004, 0x30, 4096, 0x4, 1, 0x0, 0x0, 0x3FFFF, 0x0, 0x0, 0x0⟩,
    ⟨0x10150008, 0x30, 4096, 0x4, 1, 0x0, 0x0, 0x3FFFF, 0x0, 0x0, 0x0⟩,
    ⟨0x1015000C, 0x30, 4096, 0x4, 1, 0x0, 0x0, 0x3FFFF, 0x0, 0x0, 0x0⟩,
    ⟨0x10150014, 0x30, 4096, 0x4, 1, 0x0, 0x0, 0x3FFFF, 0x0, 0x0, 0x0⟩,
    ⟨0x10150018, 0x30, 4096, 0x4, 1, 0x0, 0x0, 0x3FFFF, 0x0, 0x0, 0x0⟩,
    ⟨0x1015001C, 0x30, 4096, 0x4, 1, 0x0, 0x0, 0x3FFFF, 0x0, 0x0, 0x0⟩,
    ⟨0x10150024, 0x30, 4096, 0x4, 3, 0x0, 0x0, 0xFFFF, 0x0, 0x0, 0x0⟩,
    ⟨0x10148000, 0x4, 1, 0x4, 1, 0x0, 0xC0000000, 0x3F, 0x0, 0x0, 0xA⟩,
    ⟨0x10148004, 0x4, 1, 0x4, 1, 0x0, 0x0, 0xFFFFFFFF, 0x0, 0x0, 0x0⟩,
    ⟨0x10148008, 0x4, 1, 0x4, 1, 0xFFFFFFFF, 0x0, 0x0, 0x0, 0x0, 0x0⟩,
    ⟨0x1014800C, 0x4, 1, 0x4, 1, 0x8000FFFF, 0x0, 0x0, 0x0, 0x0, 0x8000⟩,
    ⟨0x10148010, 0x4, 1, 0x4, 1, 0x0, 0x0, 0x0, 0xF, 0x0, 0x0⟩,
    ⟨0x10148014, 0x4, 1, 0x4, 1, 0x0, 0x80073F0F, 0x0, 0x0, 0x0, 0x0⟩,
    ⟨0x10148018, 0x4, 1, 0x4, 1, 0x0, 0xFFFFFF, 0x0, 0x0, 0x0, 0x3E8⟩,
    ⟨0x1014801C, 0x4, 1, 0x4, 1, 0x0, 0x0, 0x0, 0x0, 0xFFFFFFFF, 0x0⟩,
    ⟨0x10149000, 0x20, 256, 0x4, 3, 0x0, 0x0, 0xFFFFF, 0x0, 0x0, 0x0⟩,
    ⟨0x1014900C, 0x20, 256, 0x4, 1, 0x0, 0x0, 0xFFFFFF, 0x0, 0x0, 0x0⟩,
    ⟨0x10149010, 0x20, 256, 0x4, 1, 0x0, 0x9F9F00FF, 0x0, 0x0, 0x0, 0x80⟩,
    ⟨0x10149014, 0x20, 256, 0x4, 1, 0x0, 0xFFFF, 0x0, 0x0, 0x0, 0x4000⟩,
    ⟨0x10149018, 0x20, 256, 0x4, 1, 0xFFFFFFFF, 0x0, 0x0, 0x0, 0x0, 0x0⟩,
    ⟨0x1014901C, 0x20, 256, 0x4, 1, 0x8000FFFF, 0x0, 0x0, 0x0, 0x0, 0x8000⟩,
    ⟨0x1014B000, 0x10, 24, 0x4, 1, 0x0, 0xFFFFFF, 0x0, 0x0, 0x0, 0x0⟩,
    ⟨0x1014B004, 0x10, 24, 0x4, 1, 0xFFFFFFFF, 0x0, 0x0, 0x0, 0x0, 0x0⟩,
    ⟨0x1014B008, 0x10, 24, 0x4, 1, 0xFFFFFFFF, 0x0, 0x0, 0x0, 0x0, 0x0⟩]

/-- Rows of the TD tables. -/
def regRowsTD : List RegDesc := [
    ⟨0x10180000, 0x1000, 16, 0x4, 1, 0x0, 0x0, 0xFC1F3FFF, 0x0, 0x0, 0x10010100⟩,
    ⟨0x10180004, 0x1000, 16, 0x4, 1, 0x0, 0x0, 0xFFFF, 0x0, 0x0, 0x1⟩,
    ⟨0x10180008, 0x1000, 16, 0x4, 1, 0x0, 0xFFFF, 0x0, 0x0, 0x0, 0x0⟩,
    ⟨0x1018000C, 0x1000, 16, 0x4, 1, 0x0, 0x0, 0x3FFF, 0x0, 0x0, 0x0⟩,
    ⟨0x10180010, 0x1000, 16, 0x4, 1, 0x0, 0x0, 0x0, 0x0, 0x0, 0x0⟩,
    ⟨0x10180014, 0x1000, 16, 0x4, 1, 0xE1FF00FF, 0x0, 0x0, 0x0, 0x0, 0x0⟩,
    ⟨0x10180018, 0x1000, 16, 0x4, 1, 0x0, 0x0, 0x0, 0x1FF, 0x0, 0x0⟩,
    ⟨0x1018001C, 0x1000, 16, 0x4, 1, 0x0, 0x80073F0F, 0x0, 0x0, 0x0, 0x0⟩,
    ⟨0x10180020, 0x1000, 16, 0x4, 1, 0x0, 0x0, 0x0, 0x0, 0xFFFFFFFF, 0x0⟩,
    ⟨0x10180024, 0x1000, 16, 0x4, 1, 0x0, 0x0, 0x0, 0x0, 0xFFFFFFFF, 0x0⟩,
    ⟨0x10180028, 0x1000, 16, 0x4, 1, 0xFFFFFFFF, 0x0, 0x0, 0x0, 0x0, 0x0⟩,
    ⟨0x1018002C, 0x1000, 16, 0x4, 1, 0xFFFF001F, 0x0, 0x0, 0x0, 0x0, 0x0⟩,
    ⟨0x10180800, 0x1000, 16, 0x4, 512, 0x0, 0x0, 0xFFFFFFFF, 0x0, 0x0, 0x0⟩,
    ⟨0x101C0000, 0x400, 64, 0x4, 1, 0x0, 0x0, 0xFFDF0000, 0x0, 0x0, 0x40000000⟩,
    ⟨0x101C0004, 0x400, 64, 0x4, 1, 0x0, 0x0, 0x3FFF3FFF, 0x0, 0x0, 0x0⟩,
    ⟨0x101C0008, 0x400, 64, 0x4, 1, 0x0, 0x0, 0x7FFF7FFF, 0x0, 0x0, 0x0⟩,
    ⟨0x101C000C, 0x400, 64, 0x4, 1, 0x0, 0x0, 0xFFFFFF0F, 0x0, 0x0, 0x0⟩,
    ⟨0x101C0010, 0x400, 64, 0x4, 1, 0x0, 0x0, 0xFF0F, 0x0, 0x0, 0x0⟩,
    ⟨0x101C0014, 0x400, 64, 0x4, 1, 0x78007FFF, 0x0, 0x0, 0x0, 0x0, 0x0⟩,
    ⟨0x101C0018, 0x400, 64, 0x4, 1, 0x0, 0x0, 0x0, 0x0, 0xFFFFFFFF, 0x0⟩,
    ⟨0x101C001C, 0x400, 64, 0x4, 1, 0x80000FFF, 0x0, 0x0, 0x0, 0x0, 0x0⟩,
    ⟨0x101C0020, 0x400, 64, 0x4, 1, 0xFFFFFFFF, 0x0, 0x0, 0x0, 0x0, 0x0⟩]

/-- Rows of the TB tables. -/
def regRowsTB : List RegDesc := [
    ⟨0x10200000, 0x4, 1, 0x4, 1, 0xFFFFFFFF, 0x0, 0x0, 0x0, 0x0, 0x0⟩,
    ⟨0x10200004, 0x4, 1, 0x4, 1, 0x0, 0x0, 0x0, 0xFFFFFFFF, 0x0, 0x0⟩,
    ⟨0x10200008, 0x4, 1, 0x4, 1, 0x0, 0x0, 0x0, 0x7, 0x0, 0x0⟩,
    ⟨0x1020000C, 0x4, 1, 0x4, 1, 0x0, 0x80073F0F, 0x0, 0x0, 0x0, 0x0⟩,
    ⟨0x10201000, 0x1000, 32, 0x4, 1, 0x0, 0x8000000, 0x0, 0x0, 0x0, 0x0⟩,
    ⟨0x10201004, 0x1000, 32, 0x4, 1, 0xFFFF00FF, 0x0, 0x0, 0x0, 0x0, 0x0⟩,
    ⟨0x10201008, 0x1000, 32, 0x4, 1, 0x0, 0xFFFFFFFF, 0x0, 0x0, 0x0, 0x0⟩,
    ⟨0x1020100C, 0x1000, 32, 0x4, 1, 0x0, 0xFFFFFFFF, 0x0, 0x0, 0x0, 0x0⟩,
    ⟨0x10201010, 0x1000, 32, 0x4, 1, 0x0, 0xFFFFFFFF, 0x0, 0x0, 0x0, 0x1⟩,
    ⟨0x10201014, 0x1000, 32, 0x4, 1, 0x0, 0xFFFFFFFF, 0x0, 0x0, 0x0, 0x0⟩,
    ⟨0x10201018, 0x1000, 32, 0x4, 1, 0x0, 0xFF, 0x0, 0x0, 0x0, 0x0⟩,
    ⟨0x1020101C, 0x1000, 32, 0x4, 1, 0x0, 0x0, 0x0, 0x0, 0xFFFFFFFF, 0x0⟩,
    ⟨0x10201020, 0x1000, 32, 0x4, 1, 0x0, 0x0, 0x0, 0x0, 0xFFFFFFFF, 0x0⟩,
    ⟨0x10201040, 0x1000, 32, 0x4, 8, 0x0, 0x0, 0x8FFF07FF, 0x0, 0x0, 0x1⟩,
    ⟨0x10201080, 0x1000, 32, 0x4, 14, 0x0, 0xFFFFFFFF, 0x0, 0x0, 0x0, 0x0⟩,
    ⟨0x102010B8, 0x1000, 32, 0x4, 2, 0xFFFFFFFF, 0x0, 0x0, 0x0, 0x0, 0x0⟩,
    ⟨0x10201400, 0x1000, 32, 0x4, 256, 0x0, 0x0, 0xFFFF, 0x0, 0x0, 0x0⟩]

/-- Rows of the LL tables. -/
def regRowsLL : List RegDesc := [
    ⟨0x10240000, 0x4, 1, 0x4, 1, 0x0, 0x3, 0x0, 0x0, 0x0, 0x0⟩,
    ⟨0x10240004, 0x4, 1, 0x4, 1, 0x0, 0x0, 0x0, 0x0, 0x0, 0x0⟩,
    ⟨0x10240008, 0x4, 1, 0x4, 1, 0x700FF, 0x0, 0x0, 0x0, 0x0, 0x0⟩,
    ⟨0x1024000C, 0x4, 1, 0x4, 1, 0x0, 0x0, 0x0, 0x7F, 0x0, 0x0⟩,
    ⟨0x10240010, 0x4, 1, 0x4, 1, 0x0, 0x80073F0F, 0x0, 0x0, 0x0, 0x0⟩,
    ⟨0x10240014, 0x4, 1, 0x4, 1, 0x0, 0x0, 0xFFFFFFFF, 0x0, 0x0, 0x0⟩,
    ⟨0x10240018, 0x4, 1, 0x4, 1, 0x0, 0x0, 0xFF, 0x0, 0x0, 0x0⟩,
    ⟨0x1024001C, 0x4, 1, 0x4, 1, 0x0, 0x0, 0xFFFFFFFF, 0x0, 0x0, 0x0⟩,
    ⟨0x10240020, 0x4, 1, 0x4, 1, 0x0, 0x0, 0xFF, 0x0, 0x0, 0x0⟩,
    ⟨0x10240024, 0x4, 1, 0x4, 1, 0x0, 0x0, 0xFFFFFFFF, 0x0, 0x0, 0x0⟩,
    ⟨0x10240028, 0x4, 1, 0x4, 1, 0x0, 0x0, 0xFF, 0x0, 0x0, 0x0⟩,
    ⟨0x1024002C, 0x4, 1, 0x4, 1, 0x0, 0x0, 0x3FFFF, 0x0, 0x0, 0x0⟩,
    ⟨0x10240030, 0x4, 1, 0x4, 1, 0xFFFFFFFF, 0x0, 0x0, 0x0, 0x0, 0x0⟩,
    ⟨0x10240034, 0x4, 1, 0x4, 1, 0x0, 0x0, 0x0, 0x0, 0xFFFFFFFF, 0x0⟩,
    ⟨0x10240038, 0x4, 1, 0x4, 1, 0x0, 0x0, 0x0, 0x0, 0xFFFFFFFF, 0x0⟩,
    ⟨0x1024003C, 0x4, 1, 0x4, 1, 0x0, 0x0, 0x0, 0x0, 0xFFFFFFFF, 0x0⟩,
    ⟨0x10240040, 0x4, 1, 0x4, 1, 0x0, 0x0, 0x0, 0x0, 0xFFFFFFFF, 0x0⟩,
    ⟨0x10240044, 0x4, 1, 0x4, 1, 0x0, 0x0, 0x0, 0x0, 0xFFFFFFFF, 0x0⟩,
    ⟨0x10240048, 0x4, 1, 0x4, 1, 0x0, 0x0, 0x0, 0x0, 0xFFFFFFFF, 0x0⟩,
    ⟨0x10240050, 0x4, 1, 0x4, 1, 0x0, 0x8007FFFF, 0x0, 0x0, 0x0, 0x0⟩,
    ⟨0x10240054, 0x4, 1, 0x4, 1, 0x0, 0xFFFFFFFF, 0x0, 0x0, 0x0, 0x0⟩,
    ⟨0x10240060, 0x4, 4, 0x4, 1, 0x0, 0x0, 0xFFFFFFFF, 0x0, 0x0, 0x0⟩,
    ⟨0x10240070, 0x4, 16, 0x4, 1, 0x0, 0x0, 0xFFFFFFFF, 0x0, 0x0, 0x0⟩,
    ⟨0x102400B0, 0x4, 16, 0x4, 1, 0x0, 0x0, 0xFFFFFFFF, 0x0, 0x0, 0x0⟩,
    ⟨0x102400F0, 0x4, 1, 0x4, 1, 0x0, 0x3FF, 0x0, 0x0, 0x0, 0x384⟩,
    ⟨0x102400F4, 0x4, 1, 0x4, 1, 0x0, 0xFFF0FF00, 0x0, 0x0, 0x0, 0xA01C00⟩,
    ⟨0x10240100, 0x20, 2, 0x4, 1, 0x0, 0xFFFFFFFF, 0x0, 0x0, 0x0, 0x0⟩,
    ⟨0x10240104, 0x20, 2, 0x4, 1, 0x0, 0xFF, 0x0, 0x0, 0x0, 0x0⟩,
    ⟨0x10240108, 0x20, 2, 0x4, 1, 0x0, 0x8000000F, 0x0, 0x0, 0x0, 0x4⟩,
    ⟨0x1024010C, 0x20, 2, 0x4, 1, 0x0, 0xFFFF, 0x0, 0x0, 0x0, 0x0⟩,
    ⟨0x10240110, 0x20, 2, 0x4, 1, 0xFFFF, 0x0, 0x0, 0x0, 0x0, 0x0⟩,
    ⟨0x10250000, 0x200, 32, 0x4, 1, 0x0, 0xF1FF0FFF, 0x0, 0x0, 0x0, 0x0⟩,
    ⟨0x10250004, 0x200, 32, 0x4, 1, 0x0, 0x3FFFFFF, 0x0, 0x0, 0x0, 0xB00C00⟩,
    ⟨0x10250008, 0x200, 32, 0x4, 1, 0x0, 0xFF03FF, 0x0, 0x0, 0x0, 0x640200⟩,
    ⟨0x1025000C, 0x200, 32, 0x4, 1, 0xF1FF0000, 0x0, 0x0, 0x0, 0x0, 0x0⟩,
    ⟨0x10250010, 0x200, 32, 0x4, 1, 0x0, 0x0, 0x0, 0x0, 0xFFFFFFFF, 0x0⟩,
    ⟨0x10250014, 0x200, 32, 0x4, 1, 0x0, 0x0, 0x0, 0x0, 0xFFFFFFFF, 0x0⟩,
    ⟨0x10250018, 0x200, 32, 0x4, 1, 0x20000000, 0x40000000, 0x0, 0x0, 0x0, 0x0⟩]

/-- Rows of the FM tables. -/
def regRowsFM : List RegDesc := [
    ⟨0x10080000, 0x4, 1, 0x4, 1, 0x0, 0x0, 0x0, 0x0, 0x0, 0x0⟩,
    ⟨0x10080004, 0x4, 1, 0x4, 1, 0xFF, 0x0, 0x0, 0x0, 0x0, 0x0⟩,
    ⟨0x10080008, 0x4, 1, 0x4, 1, 0x0, 0x0, 0x0, 0x1F, 0x0, 0x0⟩,
    ⟨0x1008000C, 0x4, 1, 0x4, 1, 0x0, 0x80073F0F, 0x0, 0x0, 0x0, 0x0⟩,
    ⟨0x10080010, 0x4, 1, 0x4, 1, 0xFFFF0000, 0x3FFF, 0x0, 0x0, 0x0, 0x64⟩,
    ⟨0x10080014, 0x4, 1, 0x4, 1, 0xC0000000, 0xFFFF, 0x0, 0x0, 0x0, 0x3E8⟩,
    ⟨0x10080018, 0x4, 1, 0x4, 1, 0x0, 0x0, 0x0, 0x0, 0x0, 0x0⟩,
    ⟨0x1008001C, 0x4, 1, 0x4, 1, 0xFFFF, 0x0, 0x0, 0x0, 0xFFFF0000, 0x0⟩,
    ⟨0x10080020, 0x4, 1, 0x4, 1, 0x0, 0x0, 0x0, 0x0, 0xFFFFFFFF, 0x0⟩,
    ⟨0x10080024, 0x4, 1, 0x4, 1, 0x0, 0x0, 0x0, 0x0, 0xFFFFFFFF, 0x0⟩,
    ⟨0x10080028, 0x4, 1, 0x4, 1, 0xFFFF0001, 0x0, 0x0, 0x0, 0x0, 0x0⟩,
    ⟨0x10081000, 0x200, 8, 0x4, 1, 0xFFFFFFFF, 0x0, 0x0, 0x0, 0x0, 0x0⟩,
    ⟨0x10081004, 0x200, 8, 0x4, 1, 0xFFFFFFFF, 0x0, 0x0, 0x0, 0x0, 0x0⟩,
    ⟨0x10081008, 0x200, 8, 0x4, 1, 0x80003F3F, 0x0, 0x0, 0x0, 0x0, 0x0⟩,
    ⟨0x1008100C, 0x200, 8, 0x4, 1, 0x7F, 0x0, 0x0, 0x0, 0x7F0000, 0x0⟩,
    ⟨0x10081010, 0x200, 8, 0x4, 1, 0x0, 0x0, 0x0, 0x0, 0xFFFFFFFF, 0x0⟩,
    ⟨0x10081014, 0x200, 8, 0x4, 1, 0x60000000, 0x8000FFFF, 0x0, 0x0, 0x0, 0x64⟩,
    ⟨0x10081018, 0x200, 8, 0x4, 2, 0xFFFFFFFF, 0x0, 0x0, 0x0, 0x0, 0x0⟩,
    ⟨0x10081020, 0x200, 8, 0x4, 1, 0xFFFFFFFF, 0x0, 0x0, 0x0, 0x0, 0x0⟩,
    ⟨0x10081040, 0x200, 8, 0x4, 16, 0xFFFFFFFF, 0x0, 0x0, 0x0, 0x0, 0x0⟩,
    ⟨0x10081080, 0x200, 8, 0x10, 8, 0xFFFFFFFF, 0x0, 0x0, 0x0, 0x0, 0x0⟩,
    ⟨0x10081084, 0x200, 8, 0x10, 8, 0xFFFFFFFF, 0x0, 0x0, 0x0, 0x0, 0x0⟩,
    ⟨0x10081088, 0x200, 8, 0x10, 8, 0xFFFFFFFF, 0x0, 0x0, 0x0, 0x0, 0x0⟩,
    ⟨0x1008108C, 0x200, 8, 0x10, 8, 0xFFFFFFFF, 0x0, 0x0, 0x0, 0x0, 0x0⟩,
    ⟨0x10084000, 0x100, 8, 0x4, 64, 0xFF3FFFFF, 0x0, 0x0, 0x0, 0x0, 0x0⟩]

/-- Rows of the HOST tables. -/
def regRowsHOST : List RegDesc := [
    ⟨0x10010000, 0x10000, 2, 0x4, 1, 0xFF00FFFF, 0x0, 0x0, 0x0, 0x0, 0x0⟩,
    ⟨0x10010004, 0x10000, 2, 0x4, 1, 0x0, 0xFFFFFF, 0x0, 0x0, 0x0, 0x0⟩,
    ⟨0x10010008, 0x10000, 2, 0x4, 1, 0x0, 0x0, 0x0, 0xF, 0x0, 0x0⟩,
    ⟨0x1001000C, 0x10000, 2, 0x4, 1, 0x0, 0x80073F0F, 0x0, 0x0, 0x0, 0x0⟩,
    ⟨0x10010010, 0x10000, 2, 0x4, 1, 0xFFFFFFFF, 0x0, 0x0, 0x0, 0x0, 0x48100000⟩,
    ⟨0x10010014, 0x10000, 2, 0x4, 2, 0x0, 0x0, 0x0, 0x0, 0xFFFFFFFF, 0x0⟩,
    ⟨0x1001001C, 0x10000, 2, 0x4, 1, 0x0, 0x0, 0x0, 0x0, 0xFFFFFFFF, 0x0⟩,
    ⟨0x10010040, 0x10000, 2, 0x20, 4, 0x0, 0xFFFFFFFF, 0x0, 0x0, 0x0, 0x0⟩,
    ⟨0x10010044, 0x10000, 2, 0x20, 4, 0x0, 0xFF, 0x0, 0x0, 0x0, 0x0⟩,
    ⟨0x10010048, 0x10000, 2, 0x20, 4, 0x0, 0x8000000F, 0x0, 0x0, 0x0, 0x4⟩,
    ⟨0x1001004C, 0x10000, 2, 0x20, 4, 0x0, 0xFFFF, 0x0, 0x0, 0x0, 0x0⟩,
    ⟨0x10010050, 0x10000, 2, 0x20, 4, 0xFFFF, 0x0, 0x0, 0x0, 0x0, 0x0⟩,
    ⟨0x10010128, 0x10000, 2, 0x8, 59, 0x0, 0x807FFFFC, 0x0, 0x0, 0x0, 0x0⟩,
    ⟨0x1001012C, 0x10000, 2, 0x8, 59, 0x0, 0xFFFFFFFF, 0x0, 0x0, 0x0, 0x0⟩,
    ⟨0x10030100, 0x4, 64, 0x4, 1, 0xEFFFFFFF, 0x0, 0x0, 0x0, 0x0, 0x0⟩,
    ⟨0x10030000, 0x4, 64, 0x4, 1, 0x0, 0xEFFFFFFF, 0x0, 0x0, 0x0, 0x0⟩,
    ⟨0x10030200, 0x4, 1, 0x4, 1, 0x0, 0x0, 0x0, 0x3, 0x0, 0x0⟩,
    ⟨0x10030204, 0x4, 1, 0x4, 1, 0x0, 0x80073F0F, 0x0, 0x0, 0x0, 0x0⟩,
    ⟨0x10030208, 0x4, 1, 0x4, 1, 0x0, 0x0, 0x0, 0x0, 0xFFFFFFFF, 0x0⟩,
    ⟨0x10030300, 0x4, 1, 0x4, 1, 0xFF, 0x80000000, 0x0, 0x0, 0x0, 0x0⟩,
    ⟨0x10030304, 0x4, 1, 0x4, 1, 0x0, 0x0, 0x0, 0x0, 0xFFFFFFFF, 0x0⟩,
    ⟨0x10040000, 0x4, 1, 0x4, 1, 0x0, 0x0, 0x0, 0x0, 0x0, 0x0⟩,
    ⟨0x10040004, 0x4, 1, 0x4, 1, 0x1FF, 0x0, 0x0, 0x0, 0x0, 0x0⟩,
    ⟨0x10040040, 0x4, 16, 0x4, 1, 0x0, 0x0, 0x0, 0x0, 0x0, 0x0⟩,
    ⟨0x10040100, 0x10, 12, 0x4, 1, 0xFFFFFFFF, 0x0, 0x0, 0x0, 0x0, 0x0⟩,
    ⟨0x10040104, 0x10, 12, 0x4, 1, 0xFFFFFFFF, 0x0, 0x0, 0x0, 0x0, 0x0⟩,
    ⟨0x10040108, 0x10, 12, 0x4, 1, 0xEF3FFFFF, 0x0, 0x0, 0x0, 0x0, 0x0⟩,
    ⟨0x10040200, 0x4, 1, 0x4, 1, 0xFFF, 0x0, 0x0, 0x0, 0x0, 0x0⟩,
    ⟨0x10048000, 0x40, 12, 0x4, 12, 0x0, 0x0, 0x0, 0x0, 0xFFFFFFFF, 0x0⟩,
    ⟨0x10048400, 0x4, 1, 0x4, 1, 0x80000FFF, 0x0, 0x0, 0x0, 0x0, 0x0⟩,
    ⟨0x103E0000, 0x4, 1, 0x4, 1, 0x0, 0x0, 0x0, 0xFFFFFFFF, 0x0, 0x0⟩,
    ⟨0x103E0004, 0x4, 1, 0x4, 1, 0x0, 0x0, 0x0, 0xFFFF, 0x0, 0x0⟩,
    ⟨0x103E0008, 0x4, 1, 0x4, 1, 0x0, 0x0, 0x0, 0xFFFFFFFF, 0x0, 0x0⟩,
    ⟨0x103E000C, 0x4, 1, 0x4, 1, 0x0, 0x0, 0x0, 0xFFFF, 0x0, 0x0⟩,
    ⟨0x103E0010, 0x4, 1, 0x4, 1, 0x0, 0x80073F0F, 0x0, 0x0, 0x0, 0x0⟩,
    ⟨0x103E1000, 0x20, 48, 0x4, 1, 0x0, 0xF000FFFF, 0x0, 0x0, 0x0, 0xA⟩,
    ⟨0x103E1004, 0x20, 48, 0x4, 1, 0xFFFFFFFF, 0x0, 0x0, 0x0, 0x0, 0x0⟩,
    ⟨0x103E1008, 0x20, 48, 0x4, 1, 0xFFFFFFFF, 0x0, 0x0, 0x0, 0x0, 0x0⟩,
    ⟨0x103E100C, 0x20, 48, 0x4, 1, 0xC000000F, 0x0, 0x0, 0x0, 0x0, 0x0⟩,
    ⟨0x103E1010, 0x20, 48, 0x4, 1, 0xFFFFFFFF, 0x0, 0x0, 0x0, 0x0, 0x0⟩,
    ⟨0x103E1014, 0x20, 48, 0x4, 1, 0xFFFFFFFF, 0x0, 0x0, 0x0, 0x0, 0x0⟩,
    ⟨0x103E1018, 0x20, 48, 0x4, 1, 0xFFFFFFFF, 0x0, 0x0, 0x0, 0x0, 0x0⟩,
    ⟨0x103E101C, 0x20, 48, 0x4, 1, 0x7F, 0x0, 0x0, 0x0, 0xFFFF0000, 0x0⟩]

/-- Rows of the NET tables. -/
def regRowsNET : List RegDesc := [
    ⟨0x10280000, 0x4000, 6, 0x4, 1, 0x0, 0xFEF00000, 0x0, 0x0, 0x0, 0x0⟩,
    ⟨0x10280004, 0x4000, 6, 0x4, 1, 0xE000FFFF, 0x0, 0x0, 0x0, 0x0, 0x0⟩,
    ⟨0x10280008, 0x4000, 6, 0x4, 1, 0x0, 0x0, 0x0, 0x3F, 0x0, 0x0⟩,
    ⟨0x1028000C, 0x4000, 6, 0x4, 1, 0x0, 0x80073F0F, 0x0, 0x0, 0x0, 0x0⟩,
    ⟨0x10280010, 0x4000, 6, 0x4, 1, 0x0, 0xFFFFFFFF, 0x0, 0x0, 0x0, 0x0⟩,
    ⟨0x10280014, 0x4000, 6, 0x4, 1, 0x0, 0xFFFF, 0x0, 0x0, 0x0, 0x0⟩,
    ⟨0x10280018, 0x4000, 6, 0x4, 1, 0x0, 0xFFFFFFFF, 0x0, 0x0, 0x0, 0x0⟩,
    ⟨0x1028001C, 0x4000, 6, 0x4, 1, 0x0, 0x80000FFF, 0x0, 0x0, 0x0, 0x1⟩,
    ⟨0x10280020, 0x4000, 6, 0x4, 1, 0x0, 0x3FFF, 0x0, 0x0, 0x0, 0x5F2⟩,
    ⟨0x10280040, 0x4000, 6, 0x4, 8, 0x0, 0x8003FFFF, 0x0, 0x0, 0x0, 0x0⟩,
    ⟨0x10280100, 0x4000, 6, 0x20, 2, 0x0, 0xFFFFFFFF, 0x0, 0x0, 0x0, 0x0⟩,
    ⟨0x10280104, 0x4000, 6, 0x20, 2, 0x0, 0xFF, 0x0, 0x0, 0x0, 0x0⟩,
    ⟨0x10280108, 0x4000, 6, 0x20, 2, 0x0, 0x8000000F, 0x0, 0x0, 0x0, 0x4⟩,
    ⟨0x1028010C, 0x4000, 6, 0x20, 2, 0x0, 0xFFFF, 0x0, 0x0, 0x0, 0x0⟩,
    ⟨0x10280110, 0x4000, 6, 0x20, 2, 0xFFFF, 0x0, 0x0, 0x0, 0x0, 0x0⟩,
    ⟨0x10280140, 0x4000, 6, 0x20, 4, 0x0, 0xFFFFFFFF, 0x0, 0x0, 0x0, 0x0⟩,
    ⟨0x10280144, 0x4000, 6, 0x20, 4, 0x0, 0xFF, 0x0, 0x0, 0x0, 0x0⟩,
    ⟨0x10280148, 0x4000, 6, 0x20, 4, 0x0, 0x8000000F, 0x0, 0x0, 0x0, 0x4⟩,
    ⟨0x1028014C, 0x4000, 6, 0x20, 4, 0x0, 0xFFFF, 0x0, 0x0, 0x0, 0x0⟩,
    ⟨0x10280150, 0x4000, 6, 0x20, 4, 0xFFFF, 0x0, 0x0, 0x0, 0x0, 0x0⟩,
    ⟨0x10280200, 0x4000, 6, 0x8, 16, 0xFFFFFFFF, 0x0, 0x0, 0x0, 0x0, 0x0⟩,
    ⟨0x10280204, 0x4000, 6, 0x8, 16, 0xFFFFFFFF, 0x0, 0x0, 0x0, 0x0, 0x0⟩,
    ⟨0x10280300, 0x4000, 6, 0x8, 16, 0xFFFFFFFF, 0x0, 0x0, 0x0, 0x0, 0x0⟩,
    ⟨0x10280304, 0x4000, 6, 0x8, 16, 0xFFFFFFFF, 0x0, 0x0, 0x0, 0x0, 0x0⟩,
    ⟨0x102C0000, 0x4, 1, 0x4, 1, 0x0, 0x807FFFFF, 0x0, 0x0, 0x0, 0x7F03E8⟩,
    ⟨0x102C0004, 0x4, 1, 0x4, 1, 0xE000FFFF, 0x0, 0x0, 0x0, 0x0, 0x0⟩,
    ⟨0x102C0008, 0x4, 1, 0x4, 1, 0xFFFFFFFF, 0x0, 0x0, 0x0, 0x0, 0x0⟩,
    ⟨0x102C000C, 0x4, 1, 0x4, 1, 0xFFFFFFFF, 0x0, 0x0, 0x0, 0x0, 0x0⟩,
    ⟨0x102C0010, 0x4, 1, 0x4, 1, 0xFFFFFFFF, 0x0, 0x0, 0x0, 0x0, 0x0⟩,
    ⟨0x102C0014, 0x4, 1, 0x4, 1, 0xFFFFFFFF, 0x0, 0x0, 0x0, 0x0, 0x0⟩,
    ⟨0x102C0018, 0x4, 1, 0x4, 1, 0x0, 0x0, 0x0, 0xFF, 0x0, 0x0⟩,
    ⟨0x102C001C, 0x4, 1, 0x4, 1, 0x0, 0x80073F0F, 0x0, 0x0, 0x0, 0x0⟩,
    ⟨0x102C0020, 0x4, 1, 0x4, 1, 0xFFFF, 0x0, 0x0, 0x0, 0x0, 0x0⟩,
    ⟨0x102C0024, 0x4, 1, 0x4, 1, 0xFF, 0x0, 0x0, 0x0, 0x0, 0x0⟩,
    ⟨0x102C0040, 0x4, 6, 0x4, 1, 0x0, 0xFFFFFFFF, 0x0, 0x0, 0x0, 0x0⟩,
    ⟨0x102C0080, 0x20, 6, 0x4, 1, 0xFFFFFFFF, 0x0, 0x0, 0x0, 0x0, 0x0⟩,
    ⟨0x102C0084, 0x20, 6, 0x4, 1, 0xFFFFFFFF, 0x0, 0x0, 0x0, 0x0, 0x0⟩,
    ⟨0x102C0088, 0x20, 6, 0x4, 1, 0xFFFFFFFF, 0x0, 0x0, 0x0, 0x0, 0x0⟩,
    ⟨0x102C008C, 0x20, 6, 0x4, 1, 0xFF00FFFF, 0x0, 0x0, 0x0, 0x0, 0x0⟩,
    ⟨0x102C0090, 0x20, 6, 0x4, 1, 0x7F, 0x0, 0x0, 0x0, 0xFFFF0000, 0x0⟩,
    ⟨0x102C0200, 0x4, 1, 0x4, 1, 0x0, 0x8000FFFF, 0x0, 0x0, 0x0, 0x8000012C⟩,
    ⟨0x102C0204, 0x4, 1, 0x4, 1, 0x1FFF, 0x0, 0x0, 0x0, 0x0, 0x0⟩,
    ⟨0x102C0208, 0x4, 1, 0x4, 1, 0x0, 0x0, 0x0, 0x0, 0x0, 0x0⟩,
    ⟨0x102C020C, 0x4, 1, 0x4, 1, 0x0, 0xFFFFFFFF, 0x0, 0x0, 0x0, 0x0⟩,
    ⟨0x102C0210, 0x4, 1, 0x4, 1, 0x0, 0xC007FFFF, 0x0, 0x0, 0x0, 0x0⟩,
    ⟨0x102C0220, 0x8, 5, 0x4, 1, 0xFFFFFFFF, 0x0, 0x0, 0x0, 0x0, 0x0⟩,
    ⟨0x102C0224, 0x8, 5, 0x4, 1, 0xFFFFFFFF, 0x0, 0x0, 0x0, 0x0, 0x0⟩,
    ⟨0x102C0260, 0x8, 5, 0x4, 1, 0xFFFFFFFF, 0x0, 0x0, 0x0, 0x0, 0x0⟩,
    ⟨0x102C0264, 0x8, 5, 0x4, 1, 0xFFFFFFFF, 0x0, 0x0, 0x0, 0x0, 0x0⟩,
    ⟨0x102C0300, 0x4, 4, 0x4, 1, 0x0, 0xFFFFFFFF, 0x0, 0x0, 0x0, 0x0⟩,
    ⟨0x102C0310, 0x4, 1, 0x4, 1, 0x0, 0xFF, 0x0, 0x0, 0x0, 0x0⟩,
    ⟨0x102C0314, 0x4, 1, 0x4, 1, 0x1FF, 0x0, 0x0, 0x0, 0x0, 0x0⟩,
    ⟨0x102C0318, 0x4, 1, 0x4, 1, 0x0, 0x0, 0x0, 0x0, 0xFFFFFFFF, 0x0⟩,
    ⟨0x102C0320, 0x4, 8, 0x4, 1, 0xFFFFFFFF, 0x0, 0x0, 0x0, 0x0, 0x0⟩,
    ⟨0x102C0400, 0x10, 64, 0x4, 1, 0x0, 0xFFFFFFFF, 0x0, 0x0, 0x0, 0x0⟩,
    ⟨0x102C0404, 0x10, 64, 0x4, 1, 0x0, 0xFFFFFFFF, 0x0, 0x0, 0x0, 0x0⟩,
    ⟨0x102C0408, 0x10, 64, 0x4, 1, 0x0, 0xC000FFFF, 0x0, 0x0, 0x0, 0x0⟩,
    ⟨0x102C0800, 0x4, 1, 0x4, 1, 0x0, 0x0, 0xFFFFFF, 0x0, 0x0, 0x0⟩,
    ⟨0x102C0804, 0x4, 1, 0x4, 1, 0x0, 0x0, 0x0, 0x0, 0x0, 0x0⟩,
    ⟨0x102C1000, 0x10, 256, 0x4, 1, 0x0, 0x0, 0xFF001FFF, 0x0, 0x0, 0x1000168⟩,
    ⟨0x102C1004, 0x10, 256, 0x4, 1, 0x0, 0x0, 0x3FFF3FFF, 0x0, 0x0, 0x0⟩,
    ⟨0x102C1008, 0x10, 256, 0x4, 1, 0x0, 0x0, 0x7FFF7FFF, 0x0, 0x0, 0x0⟩,
    ⟨0x102C100C, 0x10, 256, 0x4, 1, 0x0, 0x0, 0xFFFFFFFF, 0x0, 0x0, 0x0⟩,
    ⟨0x102C2000, 0x10, 4, 0x4, 1, 0x0, 0xFE7FFFFF, 0x0, 0x0, 0x0, 0x600000⟩,
    ⟨0x102C2004, 0x10, 4, 0x4, 1, 0x0, 0xFFFFFFFF, 0x0, 0x0, 0x0, 0x0⟩,
    ⟨0x102C2008, 0x10, 4, 0x4, 1, 0x0, 0xFFFFFFFF, 0x0, 0x0, 0x0, 0x0⟩,
    ⟨0x102C2100, 0x4, 1, 0x4, 1, 0x0, 0xFCFFFFFF, 0x0, 0x0, 0x0, 0x226001⟩,
    ⟨0x102C2104, 0x4, 1, 0x4, 1, 0x0, 0xFFFFFFFF, 0x0, 0x0, 0x0, 0x0⟩]

/-- Rows of the SH tables. -/
def regRowsSH : List RegDesc := [
    ⟨0x10300000, 0x4, 1, 0x4, 1, 0x0, 0x20FF03FF, 0x0, 0x0, 0x0, 0xA⟩,
    ⟨0x10300004, 0x4, 1, 0x4, 1, 0xFFFF03FF, 0x0, 0x0, 0x0, 0x0, 0x0⟩,
    ⟨0x10300008, 0x4, 1, 0x4, 1, 0x0, 0x800003FF, 0x0, 0x0, 0x0, 0x0⟩,
    ⟨0x1030000C, 0x4, 1, 0x4, 1, 0xFFFF, 0x0, 0x0, 0x0, 0x0, 0x0⟩,
    ⟨0x10300010, 0x4, 1, 0x4, 1, 0x7FF, 0x0, 0x0, 0x0, 0x0, 0x0⟩,
    ⟨0x10300014, 0x4, 1, 0x4, 1, 0x7FF, 0x0, 0x0, 0x0, 0x0, 0x0⟩,
    ⟨0x10300018, 0x4, 1, 0x4, 1, 0x0, 0x0, 0x0, 0x7F, 0x0, 0x0⟩,
    ⟨0x1030001C, 0x4, 1, 0x4, 1, 0x0, 0x80073F0F, 0x0, 0x0, 0x0, 0x0⟩,
    ⟨0x10300020, 0x4, 1, 0x4, 1, 0xFFFFFFFF, 0x0, 0x0, 0x0, 0x0, 0x0⟩,
    ⟨0x10300024, 0x4, 1, 0x4, 1, 0xFFFFFFFF, 0x0, 0x0, 0x0, 0x0, 0x0⟩,
    ⟨0x10300028, 0x4, 1, 0x4, 1, 0xFFFFFFFF, 0x0, 0x0, 0x0, 0x0, 0x0⟩,
    ⟨0x1030002C, 0x4, 1, 0x4, 1, 0x0, 0x0, 0x0, 0x0, 0xFFFFFFFF, 0x0⟩,
    ⟨0x10300030, 0x4, 1, 0x4, 1, 0x0, 0x0, 0x0, 0x0, 0xFFFFFFFF, 0x0⟩,
    ⟨0x10300034, 0x4, 1, 0x4, 1, 0xFFFFFFFF, 0x0, 0x0, 0x0, 0x0, 0x0⟩,
    ⟨0x10300038, 0x4, 1, 0x4, 1, 0x0, 0x0, 0x0, 0x0, 0xFFFFFFFF, 0x0⟩,
    ⟨0x1030003C, 0x4, 1, 0x4, 1, 0xFFFFFFFF, 0x0, 0x0, 0x0, 0x0, 0x0⟩,
    ⟨0x10300040, 0x4, 1, 0x4, 1, 0xFFFFFFFF, 0x0, 0x0, 0x0, 0x0, 0x0⟩,
    ⟨0x10300080, 0x4, 10, 0x4, 1, 0x0, 0x80003FFF, 0x0, 0x0, 0x0, 0x0⟩,
    ⟨0x103000C0, 0x4, 10, 0x4, 1, 0xFFFF3FFF, 0x0, 0x0, 0x0, 0x0, 0x0⟩,
    ⟨0x10300100, 0x4, 1, 0x4, 1, 0x0, 0xFFFFFFFF, 0x0, 0x0, 0x0, 0x0⟩,
    ⟨0x10300104, 0x4, 1, 0x4, 1, 0x0, 0xFF, 0x0, 0x0, 0x0, 0x0⟩,
    ⟨0x10300108, 0x4, 1, 0x4, 1, 0x0, 0x8000001F, 0x0, 0x0, 0x0, 0xA⟩,
    ⟨0x1030010C, 0x4, 1, 0x4, 1, 0xFFFFFFFF, 0x0, 0x0, 0x0, 0x0, 0x0⟩,
    ⟨0x10300110, 0x4, 1, 0x4, 1, 0x0, 0xFFFFFFFF, 0x0, 0x0, 0x0, 0x0⟩,
    ⟨0x10300114, 0x4, 1, 0x4, 1, 0x0, 0x0, 0x0, 0x0, 0xFFFFFFFF, 0x0⟩,
    ⟨0x10300140, 0x4, 1, 0x4, 1, 0x0, 0xFFFFFFFF, 0x0, 0x0, 0x0, 0x0⟩,
    ⟨0x10300144, 0x4, 1, 0x4, 1, 0x0, 0xFF, 0x0, 0x0, 0x0, 0x0⟩,
    ⟨0x10300148, 0x4, 1, 0x4, 1, 0x0, 0x8000000F, 0x0, 0x0, 0x0, 0x4⟩,
    ⟨0x1030014C, 0x4, 1, 0x4, 1, 0x0, 0xFFFF, 0x0, 0x0, 0x0, 0x0⟩,
    ⟨0x10300150, 0x4, 1, 0x4, 1, 0xFFFF, 0x0, 0x0, 0x0, 0x0, 0x0⟩,
    ⟨0x10301000, 0x8, 1024, 0x4, 1, 0x0, 0xFFFFFFFF, 0x0, 0x0, 0x0, 0x0⟩,
    ⟨0x10301004, 0x8, 1024, 0x4, 1, 0x0, 0xFFFFFFFF, 0x0, 0x0, 0x0, 0x0⟩]

/-- Rows of the MT tables. -/
def regRowsMT : List RegDesc := [
    ⟨0x10310000, 0x4, 1, 0x4, 1, 0x0, 0x0, 0x0, 0x0, 0x0, 0x0⟩,
    ⟨0x10310004, 0x4, 1, 0x4, 1, 0x0, 0xE0F0007F, 0x0, 0x0, 0x0, 0x4⟩,
    ⟨0x10310008, 0x4, 1, 0x4, 1, 0x0, 0x3FF, 0x0, 0x0, 0x0, 0xA⟩,
    ⟨0x1031000C, 0x4, 1, 0x4, 1, 0xFF8000FF, 0x0, 0x0, 0x0, 0x0, 0x0⟩,
    ⟨0x10310010, 0x4, 1, 0x4, 1, 0x0, 0x0, 0x0, 0x1FF, 0x0, 0x0⟩,
    ⟨0x10310014, 0x4, 1, 0x4, 1, 0x0, 0x80073F0F, 0x0, 0x0, 0x0, 0x0⟩,
    ⟨0x10310018, 0x4, 1, 0x4, 1, 0xFFFFFFFF, 0x0, 0x0, 0x0, 0x0, 0x0⟩,
    ⟨0x1031001C, 0x4, 1, 0x4, 1, 0xFFFFFFFF, 0x0, 0x0, 0x0, 0x0, 0x0⟩,
    ⟨0x10310020, 0x4, 1, 0x4, 1, 0xFFFFFFFF, 0x0, 0x0, 0x0, 0x0, 0x0⟩,
    ⟨0x10310024, 0x4, 1, 0x4, 1, 0x0, 0x0, 0x0, 0x0, 0xFFFFFFFF, 0x0⟩,
    ⟨0x10310028, 0x4, 1, 0x4, 1, 0xFFFFFFFF, 0x0, 0x0, 0x0, 0x0, 0x0⟩,
    ⟨0x1031002C, 0x4, 1, 0x4, 1, 0x0, 0xFFFFFFFF, 0x0, 0x0, 0x0, 0x0⟩,
    ⟨0x10310030, 0x4, 1, 0x4, 1, 0x0, 0xFF, 0x0, 0x0, 0x0, 0x0⟩,
    ⟨0x10310034, 0x4, 1, 0x4, 1, 0xC07FFFFF, 0x0, 0x0, 0x0, 0x0, 0x0⟩,
    ⟨0x10310038, 0x4, 1, 0x4, 1, 0xFFFFFFFF, 0x0, 0x0, 0x0, 0x0, 0x0⟩,
    ⟨0x1031003C, 0x4, 1, 0x4, 1, 0xFF, 0x0, 0x0, 0x0, 0x0, 0x0⟩,
    ⟨0x10310040, 0x4, 1, 0x4, 1, 0x0, 0x0, 0x0, 0x0, 0xFFFFFFFF, 0x0⟩,
    ⟨0x10310044, 0x4, 1, 0x4, 1, 0x0, 0x0, 0x0, 0x0, 0xFFFFFFFF, 0x0⟩,
    ⟨0x10310048, 0x4, 1, 0x4, 1, 0x0, 0x0, 0x0, 0x0, 0x0, 0x0⟩,
    ⟨0x10310100, 0x10, 16, 0x4, 1, 0x0, 0x0, 0xFFFFFFFF, 0x0, 0x0, 0x0⟩,
    ⟨0x10310104, 0x10, 16, 0x4, 1, 0x0, 0x0, 0xFF, 0x0, 0x0, 0x0⟩,
    ⟨0x10310108, 0x10, 16, 0x4, 1, 0x0, 0x0, 0x807FFFFF, 0x0, 0x0, 0x0⟩]

/-- Rows of the TS tables. -/
def regRowsTS : List RegDesc := [
    ⟨0x100A0000, 0x4, 1, 0x4, 1, 0x0, 0x0, 0x7F, 0x0, 0x0, 0x10⟩,
    ⟨0x100A0004, 0x4, 1, 0x4, 1, 0x0, 0x0, 0x0, 0x0, 0x0, 0x0⟩,
    ⟨0x100A0008, 0x4, 1, 0x4, 1, 0x100FF, 0x0, 0x0, 0x0, 0x0, 0x0⟩,
    ⟨0x100A000C, 0x4, 1, 0x4, 1, 0x0, 0x0, 0x0, 0x3F, 0x0, 0x0⟩,
    ⟨0x100A0010, 0x4, 1, 0x4, 1, 0x0, 0x80073F0F, 0x0, 0x0, 0x0, 0x0⟩,
    ⟨0x100A0014, 0x4, 1, 0x4, 1, 0x0, 0x0, 0xFFFFFFFF, 0x0, 0x0, 0x88888888⟩,
    ⟨0x100A0018, 0x4, 1, 0x4, 1, 0x0, 0x0, 0xFFFFFFFF, 0x0, 0x0, 0x4A69BBFC⟩,
    ⟨0x100A0020, 0x4, 1, 0x4, 1, 0x0, 0x803FFFFF, 0x0, 0x0, 0x0, 0x800003E8⟩,
    ⟨0x100A0024, 0x4, 1, 0x4, 1, 0x0, 0x8001FFFF, 0x0, 0x0, 0x0, 0x8000003C⟩,
    ⟨0x100A0028, 0x4, 1, 0x4, 1, 0xFFFFFFFF, 0x0, 0x0, 0x0, 0x0, 0x0⟩,
    ⟨0x100A0030, 0x4, 1, 0x4, 1, 0x0, 0x3, 0x0, 0x0, 0x0, 0x0⟩,
    ⟨0x100A0034, 0x4, 1, 0x4, 1, 0xFFFF1FFF, 0x0, 0x0, 0x0, 0x0, 0x0⟩,
    ⟨0x100A0038, 0x4, 1, 0x4, 1, 0x0, 0x0, 0x0, 0x0, 0xFFFFFFFF, 0x0⟩,
    ⟨0x100A003C, 0x4, 1, 0x4, 1, 0x0, 0x0, 0x0, 0x0, 0xFFFFFFFF, 0x0⟩,
    ⟨0x100A0040, 0x4, 1, 0x4, 1, 0xFFFFFFFF, 0x0, 0x0, 0x0, 0x0, 0x0⟩,
    ⟨0x100A0044, 0x4, 1, 0x4, 1, 0xFF, 0x0, 0x0, 0x0, 0x0, 0x0⟩,
    ⟨0x100A0048, 0x4, 1, 0x4, 1, 0x1F, 0x0, 0x0, 0x0, 0x0, 0x0⟩,
    ⟨0x100A1000, 0x100, 16, 0x4, 16, 0x0, 0x0, 0xFFFFFFFF, 0x0, 0x0, 0x0⟩,
    ⟨0x100A1040, 0x100, 16, 0x4, 1, 0x0, 0x0, 0x0, 0x0, 0xFFFFFFFF, 0x0⟩,
    ⟨0x100A1044, 0x100, 16, 0x4, 1, 0x0, 0x0, 0x0, 0x0, 0xFFFFFFFF, 0x0⟩,
    ⟨0x100A1048, 0x100, 16, 0x4, 1, 0x7FFFFFF, 0x0, 0x0, 0x0, 0x0, 0x0⟩,
    ⟨0x100A104C, 0x100, 16, 0x4, 1, 0xFFFF0000, 0x0, 0x0, 0x0, 0x0, 0x0⟩,
    ⟨0x100A1050, 0x100, 16, 0x4, 1, 0xF0000000, 0x0, 0x0, 0x0, 0xFFFF, 0x0⟩,
    ⟨0x100A1054, 0x100, 16, 0x4, 1, 0x0, 0x0, 0x0, 0x0, 0xFFFFFFFF, 0x0⟩]

/-- Rows of the TY tables. -/
def regRowsTY : List RegDesc := [
    ⟨0x10340000, 0x4, 1, 0x4, 1, 0x0, 0x0, 0x0, 0x0, 0x0, 0x0⟩,
    ⟨0x10340004, 0x4, 1, 0x4, 1, 0x0, 0x0, 0x0, 0x0, 0x0, 0x0⟩,
    ⟨0x10340008, 0x4, 1, 0x4, 1, 0xF00000FF, 0x0, 0x0, 0x0, 0x0, 0x0⟩,
    ⟨0x1034000C, 0x4, 1, 0x4, 1, 0x0, 0x0, 0x0, 0xFF, 0x0, 0x0⟩,
    ⟨0x10340010, 0x4, 1, 0x4, 1, 0x0, 0x80073F0F, 0x0, 0x0, 0x0, 0x0⟩,
    ⟨0x10340014, 0x4, 1, 0x4, 1, 0x0, 0xFFF, 0x0, 0x0, 0x0, 0x3C⟩,
    ⟨0x10340018, 0x4, 1, 0x4, 1, 0xFFFFFFFF, 0x0, 0x0, 0x0, 0x0, 0x0⟩,
    ⟨0x1034001C, 0x4, 1, 0x4, 1, 0x0, 0x0, 0x0, 0x0, 0xFFFF0000, 0x0⟩,
    ⟨0x10340020, 0x4, 1, 0x4, 1, 0xFFFFFFFF, 0x0, 0x0, 0x0, 0x0, 0x0⟩,
    ⟨0x10340024, 0x4, 1, 0x4, 1, 0xFFFFFFFF, 0x0, 0x0, 0x0, 0x0, 0x0⟩,
    ⟨0x10340028, 0x4, 1, 0x4, 1, 0xFFFFFFFF, 0x0, 0x0, 0x0, 0x0, 0x0⟩,
    ⟨0x1034002C, 0x4, 1, 0x4, 1, 0xFFFFFFFF, 0x0, 0x0, 0x0, 0x0, 0x0⟩,
    ⟨0x10340030, 0x4, 1, 0x4, 1, 0xFFFFFFFF, 0x0, 0x0, 0x0, 0x0, 0x0⟩,
    ⟨0x10340034, 0x4, 1, 0x4, 1, 0xFFFFFFFF, 0x0, 0x0, 0x0, 0x0, 0x0⟩,
    ⟨0x10340100, 0x20, 32, 0x4, 1, 0x0, 0x0, 0xFFFFFF, 0x0, 0x0, 0x400000⟩,
    ⟨0x10340104, 0x20, 32, 0x4, 1, 0x0, 0x0, 0xFFFFFF, 0x0, 0x0, 0x0⟩,
    ⟨0x10340108, 0x20, 32, 0x4, 1, 0x0, 0x0, 0xFFFFFF, 0x0, 0x0, 0x0⟩,
    ⟨0x1034010C, 0x20, 32, 0x4, 1, 0x0, 0x0, 0x1FF, 0x0, 0x0, 0x0⟩,
    ⟨0x10340110, 0x20, 32, 0x4, 1, 0x80FFFFFF, 0x0, 0x0, 0x40000000, 0x0, 0x0⟩,
    ⟨0x10340600, 0x10, 8, 0x4, 1, 0x0, 0xFFFFFF7F, 0x0, 0x0, 0x0, 0x100000A⟩,
    ⟨0x10340604, 0x10, 8, 0x4, 1, 0x80FFFFFF, 0x0, 0x0, 0x0, 0x0, 0x0⟩,
    ⟨0x10340608, 0x10, 8, 0x4, 1, 0xFFFFFFFF, 0x0, 0x0, 0x0, 0x0, 0x0⟩,
    ⟨0x1034060C, 0x10, 8, 0x4, 1, 0xFFFFFFFF, 0x0, 0x0, 0x0, 0x0, 0x0⟩,
    ⟨0x10340800, 0x10, 8, 0x4, 1, 0x0, 0xDF3000FF, 0x0, 0x0, 0x0, 0x50⟩,
    ⟨0x10340804, 0x10, 8, 0x4, 1, 0x0, 0xFFFFFFFF, 0x0, 0x0, 0x0, 0xF4240⟩,
    ⟨0x10340808, 0x10, 8, 0x4, 1, 0xFFFF0000, 0x0, 0x0, 0x0, 0xFFFF, 0x0⟩,
    ⟨0x1034080C, 0x10, 8, 0x4, 1, 0xFFFFFFFF, 0x0, 0x0, 0x0, 0x0, 0x0⟩,
    ⟨0x10340900, 0x4, 8, 0x4, 1, 0x0, 0x8000071F, 0x0, 0x0, 0x0, 0x0⟩,
    ⟨0x10341000, 0x80, 24, 0x4, 1, 0x0, 0x0, 0xE71F0000, 0x0, 0x0, 0x0⟩,
    ⟨0x10341004, 0x80, 24, 0x4, 1, 0xFFFFFFFF, 0x0, 0x0, 0x0, 0x0, 0x0⟩,
    ⟨0x10341008, 0x80, 24, 0x4, 1, 0xFFFFFFFF, 0x0, 0x0, 0x0, 0x0, 0x0⟩,
    ⟨0x1034100C, 0x80, 24, 0x4, 1, 0xFFFFFFFF, 0x0, 0x0, 0x0, 0x0, 0x0⟩,
    ⟨0x10341010, 0x80, 24, 0x4, 1, 0xFFFFFFFF, 0x0, 0x0, 0x0, 0x0, 0x0⟩,
    ⟨0x10341014, 0x80, 24, 0x4, 1, 0xFFFFFFFF, 0x0, 0x0, 0x0, 0x0, 0x0⟩,
    ⟨0x10341018, 0x80, 24, 0x4, 1, 0xFFFFFFFF, 0x0, 0x0, 0x0, 0x0, 0x0⟩,
    ⟨0x1034101C, 0x80, 24, 0x4, 1, 0xFFFF, 0x0, 0x0, 0x0, 0x0, 0x0⟩,
    ⟨0x10341020, 0x80, 24, 0x4, 1, 0xFFFFFFFF, 0x0, 0x0, 0x0, 0x0, 0x0⟩,
    ⟨0x10341030, 0x80, 24, 0x10, 4, 0xFFFFFFFF, 0x0, 0x0, 0x0, 0x0, 0x0⟩,
    ⟨0x10341034, 0x80, 24, 0x10, 4, 0xFFFFFF, 0x0, 0x0, 0x0, 0x0, 0x0⟩,
    ⟨0x10341038, 0x80, 24, 0x10, 4, 0xFFFFFFFF, 0x0, 0x0, 0x0, 0x0, 0x0⟩,
    ⟨0x1034103C, 0x80, 24, 0x10, 4, 0xFFFFFFFF, 0x0, 0x0, 0x0, 0x0, 0x0⟩]

/-- Rows of the LG tables. -/
def regRowsLG : List RegDesc := [
    ⟨0x10380000, 0x4, 1, 0x4, 1, 0x0, 0x80000000, 0x0, 0x0, 0x0, 0x0⟩,
    ⟨0x10380004, 0x4, 1, 0x4, 1, 0xE0001FFF, 0x0, 0x0, 0x0, 0x0, 0x0⟩,
    ⟨0x10380008, 0x4, 1, 0x4, 1, 0x0, 0x0, 0x0, 0xF, 0x0, 0x0⟩,
    ⟨0x1038000C, 0x4, 1, 0x4, 1, 0x0, 0x80073F0F, 0x0, 0x0, 0x0, 0x0⟩,
    ⟨0x10380010, 0x4, 1, 0x4, 1, 0x0, 0xFFFF, 0x0, 0x0, 0x0, 0x3E8⟩,
    ⟨0x10380014, 0x4, 1, 0x4, 1, 0xFFFFFF, 0x0, 0x0, 0x0, 0x0, 0x0⟩,
    ⟨0x10380018, 0x4, 1, 0x4, 1, 0xFFFFFFFF, 0x0, 0x0, 0x0, 0x0, 0x0⟩,
    ⟨0x1038001C, 0x4, 1, 0x4, 1, 0xFFFFFFFF, 0x0, 0x0, 0x0, 0x0, 0x0⟩,
    ⟨0x10380020, 0x4, 1, 0x4, 1, 0x0, 0x0, 0x0, 0x0, 0xFFFFFFFF, 0x0⟩,
    ⟨0x10380024, 0x4, 1, 0x4, 1, 0x7FF, 0x0, 0x0, 0x0, 0x0, 0x0⟩,
    ⟨0x10380028, 0x4, 1, 0x4, 1, 0xFFFFFF, 0x0, 0x0, 0x0, 0x0, 0x0⟩,
    ⟨0x1038002C, 0x4, 1, 0x4, 1, 0xFFFFFFFF, 0x0, 0x0, 0x0, 0x0, 0x0⟩,
    ⟨0x10380030, 0x4, 1, 0x4, 1, 0xFFFFFF, 0x0, 0x0, 0x0, 0x0, 0x0⟩,
    ⟨0x10380040, 0x4, 1, 0x4, 1, 0x0, 0xFFFFFFFF, 0x0, 0x0, 0x0, 0x0⟩,
    ⟨0x10380044, 0x4, 1, 0x4, 1, 0x0, 0xFF, 0x0, 0x0, 0x0, 0x0⟩,
    ⟨0x10380048, 0x4, 1, 0x4, 1, 0x0, 0x8000000F, 0x0, 0x0, 0x0, 0x4⟩,
    ⟨0x1038004C, 0x4, 1, 0x4, 1, 0x0, 0xFFFF, 0x0, 0x0, 0x0, 0x0⟩,
    ⟨0x10380050, 0x4, 1, 0x4, 1, 0xFFFF, 0x0, 0x0, 0x0, 0x0, 0x0⟩,
    ⟨0x10380100, 0x20, 4, 0x4, 8, 0xFFFFFFFF, 0x0, 0x0, 0x0, 0x0, 0x0⟩]

/-- Rows of the BT tables. -/
def regRowsBT : List RegDesc := [
    ⟨0x103C0000, 0x4, 1, 0x4, 1, 0xFFC000FF, 0x0, 0x0, 0x0, 0x0, 0x0⟩,
    ⟨0x103C0004, 0x4, 1, 0x4, 1, 0x0, 0x0, 0x0, 0x3F, 0x0, 0x0⟩,
    ⟨0x103C0008, 0x4, 1, 0x4, 1, 0x0, 0x80073F0F, 0x0, 0x0, 0x0, 0x0⟩,
    ⟨0x103C000C, 0x4, 1, 0x4, 1, 0x3FFFFFFF, 0x0, 0x0, 0x0, 0x0, 0x0⟩,
    ⟨0x103C0010, 0x4, 1, 0x4, 1, 0x3FFFFFFF, 0x0, 0x0, 0x0, 0x0, 0x0⟩,
    ⟨0x103C0014, 0x4, 1, 0x4, 1, 0x7FFF, 0x0, 0x0, 0x0, 0x0, 0x0⟩,
    ⟨0x103C0018, 0x4, 1, 0x4, 1, 0x0, 0x0, 0x0, 0x0, 0x0, 0x0⟩,
    ⟨0x103C001C, 0x4, 1, 0x4, 1, 0x0, 0x0, 0x0, 0x0, 0x0, 0x0⟩,
    ⟨0x103C0020, 0x4, 1, 0x4, 1, 0xFFFF0007, 0x0, 0x0, 0x0, 0x0, 0x0⟩,
    ⟨0x103C0024, 0x4, 1, 0x4, 1, 0x0, 0xC0000000, 0x0, 0x0, 0x0, 0x0⟩,
    ⟨0x103C0028, 0x4, 1, 0x4, 1, 0x7F, 0x0, 0x0, 0x0, 0x0, 0x0⟩,
    ⟨0x103C002C, 0x4, 1, 0x4, 1, 0x0, 0x0, 0x0, 0x0, 0x0, 0x0⟩,
    ⟨0x103C0030, 0x4, 1, 0x4, 1, 0xFFFF0000, 0x0, 0x0, 0x0, 0x0, 0x0⟩,
    ⟨0x103C0034, 0x4, 1, 0x4, 1, 0xFFFFFFFF, 0x0, 0x0, 0x0, 0x0, 0x0⟩,
    ⟨0x103C0038, 0x4, 1, 0x4, 1, 0xFFFFFFFF, 0x0, 0x0, 0x0, 0x0, 0x0⟩,
    ⟨0x103C003C, 0x4, 1, 0x4, 1, 0xFFFFFFFF, 0x0, 0x0, 0x0, 0x0, 0x0⟩,
    ⟨0x103C0040, 0x4, 1, 0x4, 1, 0xFF, 0x0, 0x0, 0x0, 0x0, 0x0⟩,
    ⟨0x103C0044, 0x4, 1, 0x4, 1, 0x4E0000FF, 0x30000000, 0x0, 0x0, 0x0, 0x0⟩,
    ⟨0x103C0048, 0x4, 1, 0x4, 1, 0x0, 0xFFFFFFFF, 0x0, 0x0, 0x0, 0x0⟩,
    ⟨0x103C004C, 0x4, 1, 0x4, 1, 0x0, 0xFF, 0x0, 0x0, 0x0, 0x0⟩,
    ⟨0x103C0050, 0x4, 1, 0x4, 1, 0x0, 0xFFFFFFFF, 0x0, 0x0, 0x0, 0x0⟩,
    ⟨0x103C0054, 0x4, 1, 0x4, 1, 0x0, 0xFFFFFFFF, 0x0, 0x0, 0x0, 0x0⟩,
    ⟨0x103C0058, 0x4, 1, 0x4, 1, 0x0, 0xFF, 0x0, 0x0, 0x0, 0x0⟩,
    ⟨0x103C005C, 0x4, 1, 0x4, 1, 0xFFFFFFFF, 0x0, 0x0, 0x0, 0x0, 0x0⟩,
    ⟨0x103C0060, 0x4, 1, 0x4, 1, 0xFFFFFFFF, 0x0, 0x0, 0x0, 0x0, 0x0⟩,
    ⟨0x103C0064, 0x4, 1, 0x4, 1, 0xFFFFFFFF, 0x0, 0x0, 0x0, 0x0, 0x0⟩,
    ⟨0x103C0068, 0x4, 1, 0x4, 1, 0x3, 0x0, 0x0, 0x0, 0x0, 0x0⟩,
    ⟨0x103C006C, 0x4, 1, 0x4, 1, 0x7, 0x0, 0x0, 0x0, 0x0, 0x0⟩,
    ⟨0x103C0100, 0x4, 8, 0x4, 1, 0xFFFFFFFF, 0x0, 0x0, 0x0, 0x0, 0x0⟩,
    ⟨0x103C0120, 0x4, 24, 0x4, 1, 0x0, 0x0, 0x0, 0x0, 0x0, 0x0⟩,
    ⟨0x103C0180, 0x4, 1, 0x4, 1, 0xFF, 0x300, 0x0, 0x0, 0x0, 0x0⟩,
    ⟨0x103C0200, 0x4, 8, 0x4, 1, 0x0, 0x0, 0x0, 0x0, 0x0, 0x0⟩,
    ⟨0x103C0220, 0x4, 12, 0x4, 1, 0x0, 0x0, 0x0, 0x0, 0x0, 0x0⟩,
    ⟨0x103C0250, 0x4, 1, 0x4, 1, 0xFF, 0x0, 0x0, 0x0, 0x0, 0x0⟩]

/-- Rows of the TM tables. -/
def regRowsTM : List RegDesc := [
    ⟨0x103A0000, 0x4, 1, 0x4, 1, 0x0, 0x23FF00FF, 0x0, 0x0, 0x0, 0x40000⟩,
    ⟨0x103A0004, 0x4, 1, 0x4, 1, 0x800000FF, 0x0, 0x0, 0x0, 0x0, 0x0⟩,
    ⟨0x103A0008, 0x4, 2, 0x4, 1, 0x0, 0xFFFFFFFF, 0x0, 0x0, 0x0, 0x0⟩,
    ⟨0x103A0010, 0x4, 1, 0x4, 1, 0x0, 0xFFFFFF, 0x0, 0x0, 0x0, 0x0⟩,
    ⟨0x103A0014, 0x4, 1, 0x4, 1, 0x0, 0xFFFFFF, 0x0, 0x0, 0x0, 0x0⟩,
    ⟨0x103A0018, 0x4, 1, 0x4, 1, 0x0, 0xFFFF, 0x0, 0x0, 0x0, 0x0⟩,
    ⟨0x103A001C, 0x4, 1, 0x4, 1, 0x0, 0xFFFFFFFF, 0x0, 0x0, 0x0, 0x0⟩,
    ⟨0x103A0020, 0x4, 1, 0x4, 1, 0xFFFFFFFF, 0x0, 0x0, 0x0, 0x0, 0x0⟩,
    ⟨0x103A0024, 0x4, 1, 0x4, 1, 0x0, 0x0, 0x0, 0x1, 0x0, 0x0⟩,
    ⟨0x103A0028, 0x4, 1, 0x4, 1, 0x0, 0x80073F0F, 0x0, 0x0, 0x0, 0x0⟩,
    ⟨0x103A0100, 0x10, 4, 0x4, 1, 0x0, 0xFFFF, 0x0, 0x0, 0x0, 0x0⟩,
    ⟨0x103A0104, 0x10, 4, 0x4, 1, 0x0, 0xFFFFFFFF, 0x0, 0x0, 0x0, 0x0⟩,
    ⟨0x103A0108, 0x10, 4, 0x4, 1, 0x0, 0xFFFFFF, 0x0, 0x0, 0x0, 0x0⟩,
    ⟨0x103A010C, 0x10, 4, 0x4, 1, 0xFF, 0x0, 0x0, 0x0, 0x0, 0x0⟩,
    ⟨0x103A1000, 0x10, 64, 0x4, 1, 0x0, 0x3F3F3F3F, 0x0, 0x0, 0x0, 0x0⟩,
    ⟨0x103A1004, 0x10, 64, 0x4, 1, 0x0, 0xFFFFFFFF, 0x0, 0x0, 0x0, 0x0⟩,
    ⟨0x103A1008, 0x10, 64, 0x4, 1, 0x7F7F7F7F, 0x0, 0x0, 0x0, 0x0, 0x0⟩,
    ⟨0x103A100C, 0x10, 64, 0x4, 1, 0xFF, 0x0, 0x0, 0x0, 0x0, 0x0⟩]

/-- Every row. -/
def regRows : List RegDesc :=
  regRowsSYS ++ regRowsYS ++ regRowsDR ++ regRowsTL ++ regRowsTD ++ regRowsTB ++ regRowsLL ++ regRowsFM ++ regRowsHOST ++ regRowsNET ++ regRowsSH ++ regRowsMT ++ regRowsTS ++ regRowsTY ++ regRowsLG ++ regRowsBT ++ regRowsTM

end Sys2Proof.Machine
end

