-- ==== Sys2Proof/Machine/Regs.lean ====
section
/-!
DEFINITION. The register fields of the part, one definition each, as the register tables of the spec give them
(address, reset value of the whole register, lowest bit, width). A numbered family of registers takes its numbers as
arguments. The tables stand in the chapter that owns each prefix (R32).
-/

namespace Sys2Proof.Machine


/-! ## SYS -/

def SYS_ID_PART : Fld := ⟨0x10000000, 0x48100B00, 16, 16⟩
def SYS_ID_STEPPING : Fld := ⟨0x10000000, 0x48100B00, 8, 8⟩
def SYS_ID_GRADE : Fld := ⟨0x10000000, 0x48100B00, 4, 4⟩
def SYS_UNITS_WORD : Fld := ⟨0x10000004, 0x0, 0, 32⟩
def SYS_NEXTCFG_VALID : Fld := ⟨0x10000008, 0x0, 31, 1⟩
def SYS_NEXTCFG_WORD : Fld := ⟨0x10000008, 0x0, 0, 31⟩
def SYS_PROFILE_ACTIVE : Fld := ⟨0x1000000C, 0x0, 8, 2⟩
def SYS_PROFILE_PROFILE : Fld := ⟨0x1000000C, 0x0, 0, 2⟩
def SYS_COMMIT_COMMIT : Fld := ⟨0x10000010, 0x0, 0, 1⟩
def SYS_STATUS_PENDING : Fld := ⟨0x10000014, 0x0, 16, 1⟩
def SYS_STATUS_RESULT : Fld := ⟨0x10000014, 0x0, 0, 8⟩
def SYS_REFUSALS : Fld := ⟨0x10000018, 0x0, 0, 32⟩
def SYS_TEMP_ABOVE : Fld := ⟨0x1000001C, 0x0, 31, 1⟩
def SYS_TEMP_NEAR : Fld := ⟨0x1000001C, 0x0, 30, 1⟩
def SYS_TEMP_TEMP : Fld := ⟨0x1000001C, 0x0, 0, 12⟩

/-! ## YS -/

def YS_CTRL_REVERT : Fld := ⟨0x10090000, 0x0, 8, 1⟩
def YS_CTRL_JUMP_MODE : Fld := ⟨0x10090000, 0x0, 4, 1⟩
def YS_CTRL_GO : Fld := ⟨0x10090000, 0x0, 0, 1⟩
def YS_RATE_NUM : Fld := ⟨0x10090004, 0x3C001, 12, 20⟩
def YS_RATE_DEN : Fld := ⟨0x10090004, 0x3C001, 0, 12⟩
def YS_COMMIT_COMMIT : Fld := ⟨0x10090008, 0x0, 0, 1⟩
def YS_STATUS_SOURCE : Fld := ⟨0x1009000C, 0x70000000, 28, 4⟩
def YS_STATUS_STATE : Fld := ⟨0x1009000C, 0x70000000, 24, 3⟩
def YS_STATUS_MEMBER : Fld := ⟨0x1009000C, 0x70000000, 20, 1⟩
def YS_STATUS_PENDING : Fld := ⟨0x1009000C, 0x70000000, 16, 1⟩
def YS_STATUS_RESULT : Fld := ⟨0x1009000C, 0x70000000, 0, 8⟩
def YS_RANK_ENTRY (k : Nat) : Fld := ⟨0x10090010, 0x7, 4 * k, 4⟩
def YS_SLEW_BW : Fld := ⟨0x10090014, 0x50003E8, 24, 4⟩
def YS_SLEW_MAX : Fld := ⟨0x10090014, 0x50003E8, 0, 16⟩
def YS_JUMP_LIMIT : Fld := ⟨0x10090018, 0x200, 0, 32⟩
def YS_LOSS_LOCK_WIN : Fld := ⟨0x1009001C, 0x641003, 16, 16⟩
def YS_LOSS_QUAL_COUNT : Fld := ⟨0x1009001C, 0x641003, 8, 8⟩
def YS_LOSS_LOSS_COUNT : Fld := ⟨0x1009001C, 0x641003, 0, 4⟩
def YS_POS_LO : Fld := ⟨0x10090020, 0x0, 0, 32⟩
def YS_POS_HI : Fld := ⟨0x10090024, 0x0, 0, 32⟩
def YS_TICK_LO : Fld := ⟨0x10090028, 0x0, 0, 32⟩
def YS_TICK_HI : Fld := ⟨0x1009002C, 0x0, 0, 32⟩
def YS_ERR : Fld := ⟨0x10090030, 0x0, 0, 32⟩
def YS_RATE_ADJ : Fld := ⟨0x10090034, 0x0, 0, 32⟩
def YS_SRC_QUALIFIED (k : Nat) : Fld := ⟨0x10090038, 0x0, 17 + 1 * k, 1⟩
def YS_SRC_PRESENT (k : Nat) : Fld := ⟨0x10090038, 0x0, 1 + 1 * k, 1⟩
def YS_EVENT_HELD : Fld := ⟨0x1009003C, 0x0, 12, 1⟩
def YS_EVENT_CAP (k : Nat) : Fld := ⟨0x1009003C, 0x0, 8 + 1 * k, 1⟩
def YS_EVENT_EPOCH : Fld := ⟨0x1009003C, 0x0, 7, 1⟩
def YS_EVENT_JUMP : Fld := ⟨0x1009003C, 0x0, 6, 1⟩
def YS_EVENT_REBASE_DONE : Fld := ⟨0x1009003C, 0x0, 5, 1⟩
def YS_EVENT_REBASE_PEND : Fld := ⟨0x1009003C, 0x0, 4, 1⟩
def YS_EVENT_UNLOCKED : Fld := ⟨0x1009003C, 0x0, 3, 1⟩
def YS_EVENT_LOCKED : Fld := ⟨0x1009003C, 0x0, 2, 1⟩
def YS_EVENT_SWITCH : Fld := ⟨0x1009003C, 0x0, 1, 1⟩
def YS_EVENT_LOST : Fld := ⟨0x1009003C, 0x0, 0, 1⟩
def YS_PTP_CFG_PORT : Fld := ⟨0x10090040, 0x0, 0, 3⟩
def YS_PTP_OFF : Fld := ⟨0x10090044, 0x0, 0, 32⟩
def YS_GEN_CFG_POL : Fld := ⟨0x10090048, 0x101, 31, 1⟩
def YS_GEN_CFG_PHASE : Fld := ⟨0x10090048, 0x101, 16, 8⟩
def YS_GEN_CFG_FRAMES : Fld := ⟨0x10090048, 0x101, 8, 8⟩
def YS_GEN_CFG_PER_FRAME : Fld := ⟨0x10090048, 0x101, 0, 8⟩
def YS_LTC_CFG_TCRATE : Fld := ⟨0x1009004C, 0x4, 0, 3⟩
def YS_LTC_OFF : Fld := ⟨0x10090050, 0x0, 0, 32⟩
def YS_WCLK_CFG_FS : Fld := ⟨0x10090054, 0x0, 0, 1⟩
def YS_MAINS_CFG_PHASE : Fld := ⟨0x10090058, 0x0, 16, 8⟩
def YS_MAINS_CFG_HZ60 : Fld := ⟨0x10090058, 0x0, 8, 1⟩
def YS_MAINS_CFG_VCH : Fld := ⟨0x10090058, 0x0, 0, 3⟩
def YS_REBASE_COUNT : Fld := ⟨0x1009005C, 0x0, 16, 16⟩
def YS_REBASE_PEND : Fld := ⟨0x1009005C, 0x0, 0, 1⟩
def YS_REBASE_TO_LO : Fld := ⟨0x10090060, 0x0, 0, 32⟩
def YS_REBASE_TO_HI : Fld := ⟨0x10090064, 0x0, 0, 8⟩
def YS_WALL_SEC_LO : Fld := ⟨0x10090068, 0x0, 0, 32⟩
def YS_WALL_SEC_HI_EPOCH : Fld := ⟨0x1009006C, 0x0, 16, 16⟩
def YS_WALL_SEC_HI_SEC : Fld := ⟨0x1009006C, 0x0, 0, 16⟩
def YS_WALL_NS : Fld := ⟨0x10090070, 0x0, 0, 30⟩
def YS_HELD : Fld := ⟨0x10090074, 0x0, 0, 32⟩
def YS_HELD_MAX : Fld := ⟨0x10090078, 0x0, 0, 32⟩
def YS_NOTIFY_addr : Nat := 0x1009007C
def YS_TRIG_CFG_ENABLE (t : Nat) : Fld := ⟨0x10090080 + 4 * t, 0x0, 31, 1⟩
def YS_TRIG_CFG_INVERT (t : Nat) : Fld := ⟨0x10090080 + 4 * t, 0x0, 30, 1⟩
def YS_TRIG_CFG_ADVANCE (t : Nat) : Fld := ⟨0x10090080 + 4 * t, 0x0, 16, 8⟩
def YS_TRIG_CFG_LEVEL (t : Nat) : Fld := ⟨0x10090080 + 4 * t, 0x0, 0, 1⟩
def YS_CAP_CFG_ENABLE (c : Nat) : Fld := ⟨0x10090090 + 4 * c, 0x20000000, 31, 1⟩
def YS_CAP_CFG_EDGE (c : Nat) : Fld := ⟨0x10090090 + 4 * c, 0x20000000, 29, 2⟩
def YS_CAP_CFG_BOBBIN (c : Nat) : Fld := ⟨0x10090090 + 4 * c, 0x20000000, 28, 1⟩
def YS_CAP_TICK_LO (c : Nat) : Fld := ⟨0x100900A0 + 0x10 * c, 0x0, 0, 32⟩
def YS_CAP_TICK_HI (c : Nat) : Fld := ⟨0x100900A4 + 0x10 * c, 0x0, 0, 32⟩
def YS_CAP_POS_LO (c : Nat) : Fld := ⟨0x100900A8 + 0x10 * c, 0x0, 0, 32⟩
def YS_CAP_POS_HI (c : Nat) : Fld := ⟨0x100900AC + 0x10 * c, 0x0, 0, 32⟩
def YS_CAP_SUB_EDGE (c : Nat) : Fld := ⟨0x100900E0, 0x0, 3 + 8 * c, 1⟩
def YS_CAP_SUB_SUBNS (c : Nat) : Fld := ⟨0x100900E0, 0x0, 8 * c, 3⟩
def YS_CAP_OVR_OVR (c : Nat) : Fld := ⟨0x100900E4, 0x0, 8 * c, 8⟩
def YS_SLOT_POS_LO (s : Nat) : Fld := ⟨0x10091000 + 0x10 * s, 0x0, 0, 32⟩
def YS_SLOT_POS_HI (s : Nat) : Fld := ⟨0x10091004 + 0x10 * s, 0x0, 0, 32⟩
def YS_SLOT_CTRL_ARMED (s : Nat) : Fld := ⟨0x10091008 + 0x10 * s, 0x0, 31, 1⟩
def YS_SLOT_CTRL_ARM (s : Nat) : Fld := ⟨0x10091008 + 0x10 * s, 0x0, 30, 1⟩
def YS_SLOT_CTRL_DISARM (s : Nat) : Fld := ⟨0x10091008 + 0x10 * s, 0x0, 29, 1⟩
def YS_SLOT_CTRL_FIRED (s : Nat) : Fld := ⟨0x10091008 + 0x10 * s, 0x0, 28, 1⟩
def YS_SLOT_CTRL_SKIPPED (s : Nat) : Fld := ⟨0x10091008 + 0x10 * s, 0x0, 27, 1⟩
def YS_SLOT_CTRL_HELD (s : Nat) : Fld := ⟨0x10091008 + 0x10 * s, 0x0, 26, 1⟩
def YS_SLOT_CTRL_ACTION (s : Nat) : Fld := ⟨0x10091008 + 0x10 * s, 0x0, 20, 4⟩
def YS_SLOT_CTRL_MODE (s : Nat) : Fld := ⟨0x10091008 + 0x10 * s, 0x0, 18, 2⟩
def YS_SLOT_CTRL_PERIOD (s : Nat) : Fld := ⟨0x10091008 + 0x10 * s, 0x0, 0, 16⟩
def YS_SLOT_TARGET (s : Nat) : Fld := ⟨0x1009100C + 0x10 * s, 0x0, 0, 32⟩

/-! ## DR -/

def DR_CTRL_PAUSE : Fld := ⟨0x10100000, 0x0, 0, 1⟩
def DR_COMMIT_COMMIT : Fld := ⟨0x10100004, 0x0, 0, 1⟩
def DR_STATUS_RUNNING : Fld := ⟨0x10100008, 0x0, 23, 1⟩
def DR_STATUS_ACTIVE : Fld := ⟨0x10100008, 0x0, 20, 2⟩
def DR_STATUS_QUEUED : Fld := ⟨0x10100008, 0x0, 16, 4⟩
def DR_STATUS_PENDING : Fld := ⟨0x10100008, 0x0, 8, 1⟩
def DR_STATUS_RESULT : Fld := ⟨0x10100008, 0x0, 0, 8⟩
def DR_BUDGET_LIMIT : Fld := ⟨0x1010000C, 0x2000000, 0, 32⟩
def DR_BUDGET_USED : Fld := ⟨0x10100010, 0x0, 0, 32⟩
def DR_EVENT_BLANK : Fld := ⟨0x10100014, 0x0, 7, 1⟩
def DR_EVENT_DUP : Fld := ⟨0x10100014, 0x0, 6, 1⟩
def DR_EVENT_ING_LOSS : Fld := ⟨0x10100014, 0x0, 5, 1⟩
def DR_EVENT_LATE_FREE : Fld := ⟨0x10100014, 0x0, 4, 1⟩
def DR_EVENT_POISON : Fld := ⟨0x10100014, 0x0, 3, 1⟩
def DR_EVENT_CUT : Fld := ⟨0x10100014, 0x0, 2, 1⟩
def DR_EVENT_REFUSED : Fld := ⟨0x10100014, 0x0, 1, 1⟩
def DR_EVENT_LATE : Fld := ⟨0x10100014, 0x0, 0, 1⟩
def DR_NOTIFY_addr : Nat := 0x10100018
def DR_REL_SEQ : Fld := ⟨0x1010001C, 0x0, 0, 32⟩
def DR_REL_DONE : Fld := ⟨0x10100020, 0x0, 0, 32⟩
def DR_REL_HELD : Fld := ⟨0x10100024, 0x0, 0, 6⟩
def DR_FENCED_REL : Fld := ⟨0x10100028, 0x0, 0, 32⟩
def DR_LATE_FREE : Fld := ⟨0x1010002C, 0x0, 0, 32⟩
def DR_POISON : Fld := ⟨0x10100030, 0x0, 0, 32⟩
def DR_DUP : Fld := ⟨0x10100034, 0x0, 0, 32⟩
def DR_CAN_SIZE_WIDTH (c : Nat) : Fld := ⟨0x10100100 + 0x80 * c, 0x0, 16, 15⟩
def DR_CAN_SIZE_HEIGHT (c : Nat) : Fld := ⟨0x10100100 + 0x80 * c, 0x0, 0, 15⟩
def DR_CAN_BASE (c : Nat) : Fld := ⟨0x10100104 + 0x80 * c, 0x0, 0, 25⟩
def DR_CAN_RING_LO (c : Nat) : Fld := ⟨0x10100108 + 0x80 * c, 0x0, 0, 32⟩
def DR_CAN_RING_HI (c : Nat) : Fld := ⟨0x1010010C + 0x80 * c, 0x0, 0, 8⟩
def DR_CAN_RING_CTRL_ENABLE (c : Nat) : Fld := ⟨0x10100110 + 0x80 * c, 0x4, 31, 1⟩
def DR_CAN_RING_CTRL_RESET (c : Nat) : Fld := ⟨0x10100110 + 0x80 * c, 0x4, 30, 1⟩
def DR_CAN_RING_CTRL_LOG2SIZE (c : Nat) : Fld := ⟨0x10100110 + 0x80 * c, 0x4, 0, 4⟩
def DR_CAN_TAIL (c : Nat) : Fld := ⟨0x10100114 + 0x80 * c, 0x0, 0, 16⟩
def DR_CAN_HEAD (c : Nat) : Fld := ⟨0x10100118 + 0x80 * c, 0x0, 0, 16⟩
def DR_CAN_STAT_STATE (c : Nat) : Fld := ⟨0x1010011C + 0x80 * c, 0x0, 30, 2⟩
def DR_CAN_STAT_BLANK (c : Nat) : Fld := ⟨0x1010011C + 0x80 * c, 0x0, 29, 1⟩
def DR_CAN_STAT_ADOPTED (c : Nat) : Fld := ⟨0x1010011C + 0x80 * c, 0x0, 28, 1⟩
def DR_CAN_STAT_LAST_RESULT (c : Nat) : Fld := ⟨0x1010011C + 0x80 * c, 0x0, 16, 8⟩
def DR_CAN_STAT_POISON (c : Nat) : Fld := ⟨0x1010011C + 0x80 * c, 0x0, 6, 1⟩
def DR_CAN_STAT_CUT (c : Nat) : Fld := ⟨0x1010011C + 0x80 * c, 0x0, 5, 1⟩
def DR_CAN_STAT_LAYERS (c : Nat) : Fld := ⟨0x1010011C + 0x80 * c, 0x0, 0, 5⟩
def DR_CAN_TAG (c : Nat) : Fld := ⟨0x10100120 + 0x80 * c, 0x0, 0, 32⟩
def DR_CAN_DONE (c : Nat) : Fld := ⟨0x10100124 + 0x80 * c, 0x0, 0, 32⟩
def DR_CAN_READ (c : Nat) : Fld := ⟨0x10100128 + 0x80 * c, 0x0, 0, 32⟩
def DR_CAN_LATE (c : Nat) : Fld := ⟨0x1010012C + 0x80 * c, 0x0, 0, 32⟩
def DR_CAN_COST (c : Nat) : Fld := ⟨0x10100130 + 0x80 * c, 0x0, 0, 32⟩
def DR_CAN_SLACK (c : Nat) : Fld := ⟨0x10100134 + 0x80 * c, 0x0, 0, 32⟩
def DR_CAN_TICK_LO (c : Nat) : Fld := ⟨0x10100138 + 0x80 * c, 0x0, 0, 32⟩
def DR_CAN_TICK_HI (c : Nat) : Fld := ⟨0x1010013C + 0x80 * c, 0x0, 0, 32⟩
def DR_CAN_SEQ (c : Nat) : Fld := ⟨0x10100140 + 0x80 * c, 0x0, 0, 32⟩
def DR_ING_CFG_ENABLE (s : Nat) : Fld := ⟨0x10100300 + 0x20 * s, 0x0, 31, 1⟩
def DR_ING_CFG_SAMPLING (s : Nat) : Fld := ⟨0x10100300 + 0x20 * s, 0x0, 26, 2⟩
def DR_ING_CFG_COLOUR (s : Nat) : Fld := ⟨0x10100300 + 0x20 * s, 0x0, 25, 1⟩
def DR_ING_CFG_RANGE (s : Nat) : Fld := ⟨0x10100300 + 0x20 * s, 0x0, 24, 1⟩
def DR_ING_GEOM_WIDTH (s : Nat) : Fld := ⟨0x10100304 + 0x20 * s, 0x7800438, 16, 14⟩
def DR_ING_GEOM_HEIGHT (s : Nat) : Fld := ⟨0x10100304 + 0x20 * s, 0x7800438, 0, 14⟩
def DR_ING_BASE_LO (s : Nat) : Fld := ⟨0x10100308 + 0x20 * s, 0x0, 0, 32⟩
def DR_ING_BASE_HI (s : Nat) : Fld := ⟨0x1010030C + 0x20 * s, 0x0, 0, 8⟩
def DR_ING_STAT_NEWEST (s : Nat) : Fld := ⟨0x10100310 + 0x20 * s, 0x0, 30, 2⟩
def DR_ING_STAT_NEWEST_VALID (s : Nat) : Fld := ⟨0x10100310 + 0x20 * s, 0x0, 29, 1⟩
def DR_ING_STAT_HELD (s : Nat) : Fld := ⟨0x10100310 + 0x20 * s, 0x0, 26, 2⟩
def DR_ING_STAT_HELD_VALID (s : Nat) : Fld := ⟨0x10100310 + 0x20 * s, 0x0, 25, 1⟩
def DR_ING_STAT_FILLING (s : Nat) : Fld := ⟨0x10100310 + 0x20 * s, 0x0, 22, 2⟩
def DR_ING_STAT_PICTURES (s : Nat) : Fld := ⟨0x10100310 + 0x20 * s, 0x0, 0, 16⟩
def DR_ING_REPEAT (s : Nat) : Fld := ⟨0x10100314 + 0x20 * s, 0x0, 0, 32⟩
def DR_ING_DROP (s : Nat) : Fld := ⟨0x10100318 + 0x20 * s, 0x0, 0, 32⟩
def DR_ING_LOSS (s : Nat) : Fld := ⟨0x1010031C + 0x20 * s, 0x0, 0, 32⟩

/-! ## TL -/

def TL_CTRL_SHORT_OFF : Fld := ⟨0x10140000, 0x3, 1, 1⟩
def TL_CTRL_WEFT_DITHER : Fld := ⟨0x10140000, 0x3, 0, 1⟩
def TL_COMMIT_COMMIT : Fld := ⟨0x10140004, 0x0, 0, 1⟩
def TL_STATUS_PEND_SCAN : Fld := ⟨0x10140008, 0x0, 17, 1⟩
def TL_STATUS_PEND_PRED : Fld := ⟨0x10140008, 0x0, 16, 1⟩
def TL_STATUS_RESULT : Fld := ⟨0x10140008, 0x0, 0, 8⟩
def TL_FRONT_BLANK (c : Nat) : Fld := ⟨0x1014000C, 0xF0, 4 + 1 * c, 1⟩
def TL_FRONT_HALF (c : Nat) : Fld := ⟨0x1014000C, 0xF0, 1 * c, 1⟩
def TL_EVENT_REFUSED : Fld := ⟨0x10140010, 0x0, 6, 1⟩
def TL_EVENT_TEMP_STALE : Fld := ⟨0x10140010, 0x0, 5, 1⟩
def TL_EVENT_DERATE : Fld := ⟨0x10140010, 0x0, 4, 1⟩
def TL_EVENT_PROBE_MISS : Fld := ⟨0x10140010, 0x0, 3, 1⟩
def TL_EVENT_PROBE_VIS : Fld := ⟨0x10140010, 0x0, 2, 1⟩
def TL_EVENT_POISON : Fld := ⟨0x10140010, 0x0, 1, 1⟩
def TL_EVENT_MAPRANGE : Fld := ⟨0x10140010, 0x0, 0, 1⟩
def TL_NOTIFY_addr : Nat := 0x10140014
def TL_PROBE_ENABLE : Fld := ⟨0x10140018, 0x800001E0, 31, 1⟩
def TL_PROBE_PROBE_ZERO : Fld := ⟨0x10140018, 0x800001E0, 30, 1⟩
def TL_PROBE_PERIOD : Fld := ⟨0x10140018, 0x800001E0, 0, 16⟩
def TL_PROBES : Fld := ⟨0x10140020, 0x0, 0, 32⟩
def TL_PROBE_VIS : Fld := ⟨0x10140024, 0x0, 0, 32⟩
def TL_PROBE_MISS : Fld := ⟨0x10140028, 0x0, 0, 32⟩
def TL_MAPRANGE : Fld := ⟨0x1014002C, 0x0, 0, 32⟩
def TL_POISON : Fld := ⟨0x10140030, 0x0, 0, 32⟩
def TL_CAN_FRAME_LO (c : Nat) : Fld := ⟨0x10140040 + 8 * c, 0x0, 0, 32⟩
def TL_CAN_FRAME_HI (c : Nat) : Fld := ⟨0x10140044 + 8 * c, 0x0, 0, 8⟩
def TL_CAN_MAP_DG_EN (c : Nat) : Fld := ⟨0x10140060 + 4 * c, 0x0, 28, 1⟩
def TL_CAN_MAP_DGRP (c : Nat) : Fld := ⟨0x10140060 + 4 * c, 0x0, 24, 4⟩
def TL_CAN_MAP_MAPBASE (c : Nat) : Fld := ⟨0x10140060 + 4 * c, 0x0, 0, 22⟩
def TL_DRT_A_SRC (g : Nat) : Fld := ⟨0x10140100 + 0x10 * g, 0xC0000154, 30, 2⟩
def TL_DRT_A_KNEE (g : Nat) : Fld := ⟨0x10140100 + 0x10 * g, 0xC0000154, 0, 12⟩
def TL_DRT_B_SLOPE (g : Nat) : Fld := ⟨0x10140104 + 0x10 * g, 0xC84000, 16, 16⟩
def TL_DRT_B_FLOOR (g : Nat) : Fld := ⟨0x10140104 + 0x10 * g, 0xC84000, 0, 16⟩
def TL_GRP_OUT_WIN (t : Nat) : Fld := ⟨0x10140108 + 0x10 * t, 0x1001, 16, 16⟩
def TL_GRP_OUT_DEPTH (t : Nat) : Fld := ⟨0x10140108 + 0x10 * t, 0x1001, 8, 5⟩
def TL_GRP_OUT_DITHER (t : Nat) : Fld := ⟨0x10140108 + 0x10 * t, 0x1001, 0, 1⟩
def TL_DRT_STAT_STALE (g : Nat) : Fld := ⟨0x1014010C + 0x10 * g, 0x8000, 31, 1⟩
def TL_DRT_STAT_TEMP (g : Nat) : Fld := ⟨0x1014010C + 0x10 * g, 0x8000, 16, 12⟩
def TL_DRT_STAT_D (g : Nat) : Fld := ⟨0x1014010C + 0x10 * g, 0x8000, 0, 16⟩
def TL_INT (g : Nat) : Fld := ⟨0x10140200 + 4 * g, 0xFFFF, 0, 16⟩
def SW_STATUS_COPYING : Fld := ⟨0x10140300, 0x0, 0, 1⟩
def SW_M (k i : Nat) : Fld := ⟨0x10150000 + 48 * k + 4 * i, (if i % 4 = 0 then 0x8000 else 0), 0, 18⟩
def SW_OFF (k j : Nat) : Fld := ⟨0x10150024 + 48 * k + 4 * j, 0x0, 0, 16⟩
def PU_CTRL_ENABLE : Fld := ⟨0x10148000, 0xA, 31, 1⟩
def PU_CTRL_LOOP : Fld := ⟨0x10148000, 0xA, 30, 1⟩
def PU_CTRL_TAU : Fld := ⟨0x10148000, 0xA, 0, 6⟩
def PU_TOTAL_BUDGET : Fld := ⟨0x10148004, 0x0, 0, 32⟩
def PU_TOTAL_PRED : Fld := ⟨0x10148008, 0x0, 0, 32⟩
def PU_TOTAL_GAIN_LIMITED : Fld := ⟨0x1014800C, 0x8000, 31, 1⟩
def PU_TOTAL_GAIN_GT : Fld := ⟨0x1014800C, 0x8000, 0, 16⟩
def PU_EVENT_NO_TALLY : Fld := ⟨0x10148010, 0x0, 3, 1⟩
def PU_EVENT_BOUND : Fld := ⟨0x10148010, 0x0, 2, 1⟩
def PU_EVENT_TOTAL_LIMIT : Fld := ⟨0x10148010, 0x0, 1, 1⟩
def PU_EVENT_ZONE_LIMIT : Fld := ⟨0x10148010, 0x0, 0, 1⟩
def PU_NOTIFY_addr : Nat := 0x10148014
def PU_MIN : Fld := ⟨0x10148018, 0x3E8, 0, 24⟩
def PU_LIMITED : Fld := ⟨0x1014801C, 0x0, 0, 32⟩
def PU_Z_COEF (z c : Nat) : Fld := ⟨0x10149000 + 0x20 * z + 4 * c, 0x0, 0, 20⟩
def PU_Z_BUDGET (z : Nat) : Fld := ⟨0x1014900C + 0x20 * z, 0x0, 0, 24⟩
def PU_Z_CIRC_A_EN (z : Nat) : Fld := ⟨0x10149010 + 0x20 * z, 0x80, 31, 1⟩
def PU_Z_CIRC_A (z : Nat) : Fld := ⟨0x10149010 + 0x20 * z, 0x80, 24, 5⟩
def PU_Z_CIRC_B_EN (z : Nat) : Fld := ⟨0x10149010 + 0x20 * z, 0x80, 23, 1⟩
def PU_Z_CIRC_B (z : Nat) : Fld := ⟨0x10149010 + 0x20 * z, 0x80, 16, 5⟩
def PU_Z_CIRC_SHARE_A (z : Nat) : Fld := ⟨0x10149010 + 0x20 * z, 0x80, 0, 8⟩
def PU_Z_CORR (z : Nat) : Fld := ⟨0x10149014 + 0x20 * z, 0x4000, 0, 16⟩
def PU_Z_PRED (z : Nat) : Fld := ⟨0x10149018 + 0x20 * z, 0x0, 0, 32⟩
def PU_Z_GAIN_LIMITED (z : Nat) : Fld := ⟨0x1014901C + 0x20 * z, 0x8000, 31, 1⟩
def PU_Z_GAIN_GAIN (z : Nat) : Fld := ⟨0x1014901C + 0x20 * z, 0x8000, 0, 16⟩
def PU_K_BASE (k : Nat) : Fld := ⟨0x1014B000 + 0x10 * k, 0x0, 0, 24⟩
def PU_K_MEAS (k : Nat) : Fld := ⟨0x1014B004 + 0x10 * k, 0x0, 0, 32⟩
def PU_K_EXP (k : Nat) : Fld := ⟨0x1014B008 + 0x10 * k, 0x0, 0, 32⟩

/-! ## TD -/

def TD_CTRL_ENABLE (t : Nat) : Fld := ⟨0x10180000 + 0x1000 * t, 0x10010100, 31, 1⟩
def TD_CTRL_MODE (t : Nat) : Fld := ⟨0x10180000 + 0x1000 * t, 0x10010100, 30, 1⟩
def TD_CTRL_SEAM (t : Nat) : Fld := ⟨0x10180000 + 0x1000 * t, 0x10010100, 29, 1⟩
def TD_CTRL_EDGE (t : Nat) : Fld := ⟨0x10180000 + 0x1000 * t, 0x10010100, 28, 1⟩
def TD_CTRL_CANVAS (t : Nat) : Fld := ⟨0x10180000 + 0x1000 * t, 0x10010100, 26, 2⟩
def TD_CTRL_MULT (t : Nat) : Fld := ⟨0x10180000 + 0x1000 * t, 0x10010100, 16, 5⟩
def TD_CTRL_SCAN (t : Nat) : Fld := ⟨0x10180000 + 0x1000 * t, 0x10010100, 8, 6⟩
def TD_CTRL_DIV (t : Nat) : Fld := ⟨0x10180000 + 0x1000 * t, 0x10010100, 0, 8⟩
def TD_UNIT (t : Nat) : Fld := ⟨0x10180004 + 0x1000 * t, 0x1, 0, 16⟩
def TD_APPLY (t : Nat) : Fld := ⟨0x10180008 + 0x1000 * t, 0x0, 0, 16⟩
def TD_SPLIT (t : Nat) : Fld := ⟨0x1018000C + 0x1000 * t, 0x0, 0, 14⟩
def TD_COMMIT_COMMIT (t : Nat) : Fld := ⟨0x10180010 + 0x1000 * t, 0x0, 0, 1⟩
def TD_STATUS_STATE (t : Nat) : Fld := ⟨0x10180014 + 0x1000 * t, 0x0, 30, 2⟩
def TD_STATUS_PENDING (t : Nat) : Fld := ⟨0x10180014 + 0x1000 * t, 0x0, 29, 1⟩
def TD_STATUS_PC (t : Nat) : Fld := ⟨0x10180014 + 0x1000 * t, 0x0, 16, 9⟩
def TD_STATUS_RESULT (t : Nat) : Fld := ⟨0x10180014 + 0x1000 * t, 0x0, 0, 8⟩
def TD_EVENT_ARRIVAL (t : Nat) : Fld := ⟨0x10180018 + 0x1000 * t, 0x0, 8, 1⟩
def TD_EVENT_REFUSED (t : Nat) : Fld := ⟨0x10180018 + 0x1000 * t, 0x0, 7, 1⟩
def TD_EVENT_SUBF (t : Nat) : Fld := ⟨0x10180018 + 0x1000 * t, 0x0, 6, 1⟩
def TD_EVENT_HOLD_END (t : Nat) : Fld := ⟨0x10180018 + 0x1000 * t, 0x0, 5, 1⟩
def TD_EVENT_HOLD (t : Nat) : Fld := ⟨0x10180018 + 0x1000 * t, 0x0, 4, 1⟩
def TD_EVENT_ABSENT (t : Nat) : Fld := ⟨0x10180018 + 0x1000 * t, 0x0, 3, 1⟩
def TD_EVENT_LENGTH (t : Nat) : Fld := ⟨0x10180018 + 0x1000 * t, 0x0, 2, 1⟩
def TD_EVENT_RB_FAIL (t : Nat) : Fld := ⟨0x10180018 + 0x1000 * t, 0x0, 1, 1⟩
def TD_EVENT_OVERRUN (t : Nat) : Fld := ⟨0x10180018 + 0x1000 * t, 0x0, 0, 1⟩
def TD_NOTIFY_addr (t : Nat) : Nat := 0x1018001C + 0x1000 * t
def TD_OVERRUN (t : Nat) : Fld := ⟨0x10180020 + 0x1000 * t, 0x0, 0, 32⟩
def TD_SUBF_SHORT (t : Nat) : Fld := ⟨0x10180024 + 0x1000 * t, 0x0, 16, 16⟩
def TD_SUBF_EXTRA (t : Nat) : Fld := ⟨0x10180024 + 0x1000 * t, 0x0, 0, 16⟩
def TD_SLACK (t : Nat) : Fld := ⟨0x10180028 + 0x1000 * t, 0x0, 0, 32⟩
def TD_LINE_LINES (t : Nat) : Fld := ⟨0x1018002C + 0x1000 * t, 0x0, 16, 16⟩
def TD_LINE_ROWSEL (t : Nat) : Fld := ⟨0x1018002C + 0x1000 * t, 0x0, 0, 5⟩
def TD_WAVE (t i : Nat) : Fld := ⟨0x10180800 + 0x1000 * t + 4 * i, 0x0, 0, 32⟩
def CH_CTRL_ENABLE (n : Nat) : Fld := ⟨0x101C0000 + 0x400 * n, 0x40000000, 31, 1⟩
def CH_CTRL_LANES2 (n : Nat) : Fld := ⟨0x101C0000 + 0x400 * n, 0x40000000, 30, 1⟩
def CH_CTRL_SERPENT (n : Nat) : Fld := ⟨0x101C0000 + 0x400 * n, 0x40000000, 29, 1⟩
def CH_CTRL_MIRROR (n : Nat) : Fld := ⟨0x101C0000 + 0x400 * n, 0x40000000, 28, 1⟩
def CH_CTRL_ORDER (n : Nat) : Fld := ⟨0x101C0000 + 0x400 * n, 0x40000000, 25, 3⟩
def CH_CTRL_CTL_INV (n : Nat) : Fld := ⟨0x101C0000 + 0x400 * n, 0x40000000, 24, 1⟩
def CH_CTRL_RB_EN (n : Nat) : Fld := ⟨0x101C0000 + 0x400 * n, 0x40000000, 23, 1⟩
def CH_CTRL_RB16 (n : Nat) : Fld := ⟨0x101C0000 + 0x400 * n, 0x40000000, 22, 1⟩
def CH_CTRL_PAD (n : Nat) : Fld := ⟨0x101C0000 + 0x400 * n, 0x40000000, 16, 5⟩
def CH_ORIGIN_X (n : Nat) : Fld := ⟨0x101C0004 + 0x400 * n, 0x0, 16, 14⟩
def CH_ORIGIN_Y (n : Nat) : Fld := ⟨0x101C0004 + 0x400 * n, 0x0, 0, 14⟩
def CH_SIZE_W (n : Nat) : Fld := ⟨0x101C0008 + 0x400 * n, 0x0, 16, 15⟩
def CH_SIZE_H (n : Nat) : Fld := ⟨0x101C0008 + 0x400 * n, 0x0, 0, 15⟩
def CH_PHASE_PHASE (n : Nat) : Fld := ⟨0x101C000C + 0x400 * n, 0x0, 16, 16⟩
def CH_PHASE_OE_OFF (n : Nat) : Fld := ⟨0x101C000C + 0x400 * n, 0x0, 8, 8⟩
def CH_PHASE_ROTATE (n : Nat) : Fld := ⟨0x101C000C + 0x400 * n, 0x0, 0, 4⟩
def CH_RET_RET_ADJ (n : Nat) : Fld := ⟨0x101C0010 + 0x400 * n, 0x0, 8, 8⟩
def CH_RET_DLY (n : Nat) : Fld := ⟨0x101C0010 + 0x400 * n, 0x0, 0, 4⟩
def CH_DISC_REQ (n : Nat) : Fld := ⟨0x101C0014 + 0x400 * n, 0x0, 31, 1⟩
def CH_DISC_BUSY (n : Nat) : Fld := ⟨0x101C0014 + 0x400 * n, 0x0, 30, 1⟩
def CH_DISC_RESULT (n : Nat) : Fld := ⟨0x101C0014 + 0x400 * n, 0x0, 27, 3⟩
def CH_DISC_LENGTH (n : Nat) : Fld := ⟨0x101C0014 + 0x400 * n, 0x0, 0, 15⟩
def CH_RB_FAIL (n : Nat) : Fld := ⟨0x101C0018 + 0x400 * n, 0x0, 0, 32⟩
def CH_TEMP_VALID (n : Nat) : Fld := ⟨0x101C001C + 0x400 * n, 0x0, 31, 1⟩
def CH_TEMP_TEMP (n : Nat) : Fld := ⟨0x101C001C + 0x400 * n, 0x0, 0, 12⟩
def CH_FAULTS_OPEN (n : Nat) : Fld := ⟨0x101C0020 + 0x400 * n, 0x0, 16, 16⟩
def CH_FAULTS_SHORT (n : Nat) : Fld := ⟨0x101C0020 + 0x400 * n, 0x0, 0, 16⟩

/-! ## TB -/

def TB_STATUS_RUNNING (e : Nat) : Fld := ⟨0x10200000, 0x0, 1 * e, 1⟩
def TB_FAULT_FAULT (e : Nat) : Fld := ⟨0x10200004, 0x0, 1 * e, 1⟩
def TB_EVENT_REFUSED : Fld := ⟨0x10200008, 0x0, 2, 1⟩
def TB_EVENT_SKIP : Fld := ⟨0x10200008, 0x0, 1, 1⟩
def TB_EVENT_FAULT : Fld := ⟨0x10200008, 0x0, 0, 1⟩
def TB_NOTIFY_addr : Nat := 0x1020000C
def TB_CTRL_START (e : Nat) : Fld := ⟨0x10201000 + 0x1000 * e, 0x0, 31, 1⟩
def TB_CTRL_STOP (e : Nat) : Fld := ⟨0x10201000 + 0x1000 * e, 0x0, 30, 1⟩
def TB_CTRL_COMMIT (e : Nat) : Fld := ⟨0x10201000 + 0x1000 * e, 0x0, 29, 1⟩
def TB_CTRL_LOAD (e : Nat) : Fld := ⟨0x10201000 + 0x1000 * e, 0x0, 28, 1⟩
def TB_CTRL_KEEP_T0 (e : Nat) : Fld := ⟨0x10201000 + 0x1000 * e, 0x0, 27, 1⟩
def TB_STAT_STATE (e : Nat) : Fld := ⟨0x10201004 + 0x1000 * e, 0x0, 30, 2⟩
def TB_STAT_PENDING (e : Nat) : Fld := ⟨0x10201004 + 0x1000 * e, 0x0, 29, 1⟩
def TB_STAT_BUSY (e : Nat) : Fld := ⟨0x10201004 + 0x1000 * e, 0x0, 28, 1⟩
def TB_STAT_CAUSE (e : Nat) : Fld := ⟨0x10201004 + 0x1000 * e, 0x0, 24, 4⟩
def TB_STAT_PC (e : Nat) : Fld := ⟨0x10201004 + 0x1000 * e, 0x0, 16, 8⟩
def TB_STAT_RESULT (e : Nat) : Fld := ⟨0x10201004 + 0x1000 * e, 0x0, 0, 8⟩
def TB_T0_LO (e : Nat) : Fld := ⟨0x10201008 + 0x1000 * e, 0x0, 0, 32⟩
def TB_T0_HI (e : Nat) : Fld := ⟨0x1020100C + 0x1000 * e, 0x0, 0, 32⟩
def TB_SEED (e : Nat) : Fld := ⟨0x10201010 + 0x1000 * e, 0x1, 0, 32⟩
def TB_LOAD_LO (e : Nat) : Fld := ⟨0x10201014 + 0x1000 * e, 0x0, 0, 32⟩
def TB_LOAD_HI (e : Nat) : Fld := ⟨0x10201018 + 0x1000 * e, 0x0, 0, 8⟩
def TB_SKIP (e : Nat) : Fld := ⟨0x1020101C + 0x1000 * e, 0x0, 0, 32⟩
def TB_DISCARD (e : Nat) : Fld := ⟨0x10201020 + 0x1000 * e, 0x0, 0, 32⟩
def TB_OUT_EN (e k : Nat) : Fld := ⟨0x10201040 + 0x1000 * e + 4 * k, 0x1, 31, 1⟩
def TB_OUT_BASE (e k : Nat) : Fld := ⟨0x10201040 + 0x1000 * e + 4 * k, 0x1, 16, 12⟩
def TB_OUT_COUNT (e k : Nat) : Fld := ⟨0x10201040 + 0x1000 * e + 4 * k, 0x1, 0, 11⟩
def TB_Q (e j : Nat) : Fld := ⟨0x10201080 + 0x1000 * e + 4 * j, 0x0, 0, 32⟩
def TB_QRO (e j : Nat) : Fld := ⟨0x102010B8 + 0x1000 * e + 4 * j, 0x0, 0, 32⟩
def TB_PROG (e i : Nat) : Fld := ⟨0x10201400 + 0x1000 * e + 4 * i, 0x0, 0, 16⟩

/-! ## LL -/

def LL_CTRL_DISCOVERY : Fld := ⟨0x10240000, 0x0, 1, 1⟩
def LL_CTRL_RUN : Fld := ⟨0x10240000, 0x0, 0, 1⟩
def LL_COMMIT_COMMIT : Fld := ⟨0x10240004, 0x0, 0, 1⟩
def LL_STATUS_COPYING : Fld := ⟨0x10240008, 0x0, 18, 1⟩
def LL_STATUS_BUSY : Fld := ⟨0x10240008, 0x0, 17, 1⟩
def LL_STATUS_PENDING : Fld := ⟨0x10240008, 0x0, 16, 1⟩
def LL_STATUS_RESULT : Fld := ⟨0x10240008, 0x0, 0, 8⟩
def LL_EVENT_RDM : Fld := ⟨0x1024000C, 0x0, 6, 1⟩
def LL_EVENT_PRESENCE : Fld := ⟨0x1024000C, 0x0, 5, 1⟩
def LL_EVENT_INPUT : Fld := ⟨0x1024000C, 0x0, 4, 1⟩
def LL_EVENT_BADFIX : Fld := ⟨0x1024000C, 0x0, 3, 1⟩
def LL_EVENT_LATE : Fld := ⟨0x1024000C, 0x0, 2, 1⟩
def LL_EVENT_SKIP : Fld := ⟨0x1024000C, 0x0, 1, 1⟩
def LL_EVENT_REFUSED : Fld := ⟨0x1024000C, 0x0, 0, 1⟩
def LL_NOTIFY_addr : Nat := 0x10240010
def LL_PARAM_LO : Fld := ⟨0x10240014, 0x0, 0, 32⟩
def LL_PARAM_HI : Fld := ⟨0x10240018, 0x0, 0, 8⟩
def LL_UBUF_LO : Fld := ⟨0x1024001C, 0x0, 0, 32⟩
def LL_UBUF_HI : Fld := ⟨0x10240020, 0x0, 0, 8⟩
def LL_INBUF_LO : Fld := ⟨0x10240024, 0x0, 0, 32⟩
def LL_INBUF_HI : Fld := ⟨0x10240028, 0x0, 0, 8⟩
def LL_FIXCOUNT : Fld := ⟨0x1024002C, 0x0, 0, 18⟩
def LL_CYCLE_TIME : Fld := ⟨0x10240030, 0x0, 0, 32⟩
def LL_SKIP : Fld := ⟨0x10240034, 0x0, 0, 32⟩
def LL_LATE : Fld := ⟨0x10240038, 0x0, 0, 32⟩
def LL_BADFIX : Fld := ⟨0x1024003C, 0x0, 0, 32⟩
def LL_POISON : Fld := ⟨0x10240040, 0x0, 0, 32⟩
def LL_SPILL : Fld := ⟨0x10240044, 0x0, 0, 32⟩
def LL_INIGN : Fld := ⟨0x10240048, 0x0, 0, 32⟩
def LL_IADDR_INC : Fld := ⟨0x10240050, 0x0, 31, 1⟩
def LL_IADDR_ADDR : Fld := ⟨0x10240050, 0x0, 0, 19⟩
def LL_IDATA : Fld := ⟨0x10240054, 0x0, 0, 32⟩
def LL_CID (j : Nat) : Fld := ⟨0x10240060 + 4 * j, 0x0, 0, 32⟩
def LL_NAME (j : Nat) : Fld := ⟨0x10240070 + 4 * j, 0x0, 0, 32⟩
def LL_UCAST (i : Nat) : Fld := ⟨0x102400B0 + 4 * i, 0x0, 0, 32⟩
def LL_KEEPALIVE_MS : Fld := ⟨0x102400F0, 0x384, 0, 10⟩
def LL_RDM_CFG_SWEEP : Fld := ⟨0x102400F4, 0xA01C00, 20, 12⟩
def LL_RDM_CFG_TIMEOUT : Fld := ⟨0x102400F4, 0xA01C00, 8, 8⟩
/-- Address of the first register of this ring. -/
def LL_RING_base (r : Nat) : Nat := 0x10240100 + 0x20 * r
def DMX_CFG_MODE (n : Nat) : Fld := ⟨0x10250000 + 0x200 * n, 0x0, 30, 2⟩
def DMX_CFG_RDM_EN (n : Nat) : Fld := ⟨0x10250000 + 0x200 * n, 0x0, 29, 1⟩
def DMX_CFG_BOBBIN (n : Nat) : Fld := ⟨0x10250000 + 0x200 * n, 0x0, 28, 1⟩
def DMX_CFG_INUNI (n : Nat) : Fld := ⟨0x10250000 + 0x200 * n, 0x0, 16, 9⟩
def DMX_CFG_UNI (n : Nat) : Fld := ⟨0x10250000 + 0x200 * n, 0x0, 0, 12⟩
def DMX_TIMING_BREAK (n : Nat) : Fld := ⟨0x10250004 + 0x200 * n, 0xB00C00, 16, 10⟩
def DMX_TIMING_MAB (n : Nat) : Fld := ⟨0x10250004 + 0x200 * n, 0xB00C00, 8, 8⟩
def DMX_TIMING_MBB (n : Nat) : Fld := ⟨0x10250004 + 0x200 * n, 0xB00C00, 0, 8⟩
def DMX_SLOTS_PRIO (n : Nat) : Fld := ⟨0x10250008 + 0x200 * n, 0x640200, 16, 8⟩
def DMX_SLOTS_SLOTS (n : Nat) : Fld := ⟨0x10250008 + 0x200 * n, 0x640200, 0, 10⟩
def DMX_STAT_STATE (n : Nat) : Fld := ⟨0x1025000C + 0x200 * n, 0x0, 30, 2⟩
def DMX_STAT_LIVE (n : Nat) : Fld := ⟨0x1025000C + 0x200 * n, 0x0, 29, 1⟩
def DMX_STAT_DATA (n : Nat) : Fld := ⟨0x1025000C + 0x200 * n, 0x0, 28, 1⟩
def DMX_STAT_RESP (n : Nat) : Fld := ⟨0x1025000C + 0x200 * n, 0x0, 16, 9⟩
def DMX_PKTS (n : Nat) : Fld := ⟨0x10250010 + 0x200 * n, 0x0, 0, 32⟩
def DMX_ERR_FRAMING (n : Nat) : Fld := ⟨0x10250014 + 0x200 * n, 0x0, 16, 16⟩
def DMX_ERR_COLL (n : Nat) : Fld := ⟨0x10250014 + 0x200 * n, 0x0, 0, 16⟩
def DMX_RDM_DISC (n : Nat) : Fld := ⟨0x10250018 + 0x200 * n, 0x0, 31, 1⟩
def DMX_RDM_SWEEP_EN (n : Nat) : Fld := ⟨0x10250018 + 0x200 * n, 0x0, 30, 1⟩
def DMX_RDM_BUSY (n : Nat) : Fld := ⟨0x10250018 + 0x200 * n, 0x0, 29, 1⟩

/-! ## FM -/

def FM_CMD_OP : Fld := ⟨0x10080000, 0x0, 30, 2⟩
def FM_CMD_CORE : Fld := ⟨0x10080000, 0x0, 16, 3⟩
def FM_CMD_THREAD : Fld := ⟨0x10080000, 0x0, 8, 6⟩
def FM_STATUS_RESULT : Fld := ⟨0x10080004, 0x0, 0, 8⟩
def FM_EVENT_REFUSED : Fld := ⟨0x10080008, 0x0, 4, 1⟩
def FM_EVENT_CTX_DENY : Fld := ⟨0x10080008, 0x0, 3, 1⟩
def FM_EVENT_WDOG_WARN : Fld := ⟨0x10080008, 0x0, 2, 1⟩
def FM_EVENT_QFULL : Fld := ⟨0x10080008, 0x0, 1, 1⟩
def FM_EVENT_SUSPENDED : Fld := ⟨0x10080008, 0x0, 0, 1⟩
def FM_NOTIFY_addr : Nat := 0x1008000C
def FM_WIN_SEQ : Fld := ⟨0x10080010, 0x64, 16, 16⟩
def FM_WIN_MS : Fld := ⟨0x10080010, 0x64, 0, 14⟩
def FM_WDOG_CFG_RUNNING : Fld := ⟨0x10080014, 0x3E8, 31, 1⟩
def FM_WDOG_CFG_STUCK : Fld := ⟨0x10080014, 0x3E8, 30, 1⟩
def FM_WDOG_CFG_TIMEOUT : Fld := ⟨0x10080014, 0x3E8, 0, 16⟩
def FM_WDOG_KICK_KEY : Fld := ⟨0x10080018, 0x0, 0, 16⟩
def FM_WDOG_STAT_REJECT : Fld := ⟨0x1008001C, 0x0, 16, 16⟩
def FM_WDOG_STAT_REMAIN : Fld := ⟨0x1008001C, 0x0, 0, 16⟩
def FM_CTX_DENY : Fld := ⟨0x10080020, 0x0, 0, 32⟩
def FM_REFUSALS : Fld := ⟨0x10080024, 0x0, 0, 32⟩
def FM_LASTRESET_BITE_MS : Fld := ⟨0x10080028, 0x0, 16, 16⟩
def FM_LASTRESET_WDOG : Fld := ⟨0x10080028, 0x0, 0, 1⟩
def FM_RDY_LO (c : Nat) : Fld := ⟨0x10081000 + 0x200 * c, 0x0, 0, 32⟩
def FM_RDY_HI (c : Nat) : Fld := ⟨0x10081004 + 0x200 * c, 0x0, 0, 32⟩
def FM_RUN_VALID (c : Nat) : Fld := ⟨0x10081008 + 0x200 * c, 0x0, 31, 1⟩
def FM_RUN_THREAD (c : Nat) : Fld := ⟨0x10081008 + 0x200 * c, 0x0, 8, 6⟩
def FM_RUN_PRI (c : Nat) : Fld := ⟨0x10081008 + 0x200 * c, 0x0, 0, 6⟩
def FM_PWQ_PEAK (c : Nat) : Fld := ⟨0x1008100C + 0x200 * c, 0x0, 16, 7⟩
def FM_PWQ_DEPTH (c : Nat) : Fld := ⟨0x1008100C + 0x200 * c, 0x0, 0, 7⟩
def FM_PWQ_FULL (c : Nat) : Fld := ⟨0x10081010 + 0x200 * c, 0x0, 0, 32⟩
def FM_PWR_MODE (c : Nat) : Fld := ⟨0x10081014 + 0x200 * c, 0x64, 31, 1⟩
def FM_PWR_STATE (c : Nat) : Fld := ⟨0x10081014 + 0x200 * c, 0x64, 29, 2⟩
def FM_PWR_IDLE (c : Nat) : Fld := ⟨0x10081014 + 0x200 * c, 0x64, 0, 16⟩
def FM_SUSP (c h : Nat) : Fld := ⟨0x10081018 + 0x200 * c + 4 * h, 0x0, 0, 32⟩
def FM_BUSY (c : Nat) : Fld := ⟨0x10081020 + 0x200 * c, 0x0, 0, 32⟩
def FM_CNT_CNT (c i j : Nat) : Fld := ⟨0x10081040 + 0x200 * c + 4 * i, 0x0, 8 * j, 8⟩
def FM_BAND_COUNT (c b : Nat) : Fld := ⟨0x10081080 + 0x200 * c + 0x10 * b, 0x0, 0, 32⟩
def FM_BAND_MAX (c b : Nat) : Fld := ⟨0x10081084 + 0x200 * c + 0x10 * b, 0x0, 0, 32⟩
def FM_BAND_MEAN (c b : Nat) : Fld := ⟨0x10081088 + 0x200 * c + 0x10 * b, 0x0, 0, 32⟩
def FM_BAND_RSV (c b : Nat) : Fld := ⟨0x1008108C + 0x200 * c + 0x10 * b, 0x0, 0, 32⟩
def FM_T_STATE (c t : Nat) : Fld := ⟨0x10084000 + 0x100 * c + 4 * t, 0x0, 29, 3⟩
def FM_T_WAIT (c t : Nat) : Fld := ⟨0x10084000 + 0x100 * c + 4 * t, 0x0, 25, 4⟩
def FM_T_SYS (c t : Nat) : Fld := ⟨0x10084000 + 0x100 * c + 4 * t, 0x0, 24, 1⟩
def FM_T_PRI (c t : Nat) : Fld := ⟨0x10084000 + 0x100 * c + 4 * t, 0x0, 16, 6⟩
def FM_T_SIGPEND (c t : Nat) : Fld := ⟨0x10084000 + 0x100 * c + 4 * t, 0x0, 0, 16⟩

/-! ## HOST -/

def HP_STATUS_MODE (p : Nat) : Fld := ⟨0x10010000 + 0x10000 * p, 0x0, 31, 1⟩
def HP_STATUS_LINK (p : Nat) : Fld := ⟨0x10010000 + 0x10000 * p, 0x0, 30, 1⟩
def HP_STATUS_SPEED (p : Nat) : Fld := ⟨0x10010000 + 0x10000 * p, 0x0, 27, 3⟩
def HP_STATUS_WIDTH (p : Nat) : Fld := ⟨0x10010000 + 0x10000 * p, 0x0, 24, 3⟩
def HP_STATUS_GEN (p : Nat) : Fld := ⟨0x10010000 + 0x10000 * p, 0x0, 0, 16⟩
def HP_WIN_BASE (p : Nat) : Fld := ⟨0x10010004 + 0x10000 * p, 0x0, 0, 24⟩
def HP_EVENT_DMA_ERR (p : Nat) : Fld := ⟨0x10010008 + 0x10000 * p, 0x0, 3, 1⟩
def HP_EVENT_LINK_DOWN (p : Nat) : Fld := ⟨0x10010008 + 0x10000 * p, 0x0, 2, 1⟩
def HP_EVENT_LINK_UP (p : Nat) : Fld := ⟨0x10010008 + 0x10000 * p, 0x0, 1, 1⟩
def HP_EVENT_XSPI_ERR (p : Nat) : Fld := ⟨0x10010008 + 0x10000 * p, 0x0, 0, 1⟩
def HP_NOTIFY_addr (p : Nat) : Nat := 0x1001000C + 0x10000 * p
def HP_PCIID_DEVICE (p : Nat) : Fld := ⟨0x10010010 + 0x10000 * p, 0x48100000, 16, 16⟩
def HP_PCIID_VENDOR (p : Nat) : Fld := ⟨0x10010010 + 0x10000 * p, 0x48100000, 0, 16⟩
def HP_PEND (p h : Nat) : Fld := ⟨0x10010014 + 0x10000 * p + 4 * h, 0x0, 0, 32⟩
def HP_DMA_ERRS (p : Nat) : Fld := ⟨0x1001001C + 0x10000 * p, 0x0, 0, 32⟩
/-- Address of the first register of this ring. -/
def HP_RING_base (p r : Nat) : Nat := 0x10010040 + 0x10000 * p + 0x20 * r
def HP_VEC_SRC_EN (p v : Nat) : Fld := ⟨0x10010128 + 0x10000 * p + 8 * v, 0x0, 31, 1⟩
def HP_VEC_SRC_OFFSET (p v : Nat) : Fld := ⟨0x10010128 + 0x10000 * p + 8 * v, 0x0, 2, 21⟩
def HP_VEC_MASK (p v : Nat) : Fld := ⟨0x1001012C + 0x10000 * p + 8 * v, 0x0, 0, 32⟩
def HASP_PEEK_GRANT (n : Nat) : Fld := ⟨0x10030100 + 4 * n, 0x0, 31, 1⟩
def HASP_PEEK_ORPHAN (n : Nat) : Fld := ⟨0x10030100 + 4 * n, 0x0, 30, 1⟩
def HASP_PEEK_AGAIN (n : Nat) : Fld := ⟨0x10030100 + 4 * n, 0x0, 29, 1⟩
def HASP_PEEK_KIND (n : Nat) : Fld := ⟨0x10030100 + 4 * n, 0x0, 26, 2⟩
def HASP_PEEK_INDEX (n : Nat) : Fld := ⟨0x10030100 + 4 * n, 0x0, 16, 10⟩
def HASP_PEEK_GEN (n : Nat) : Fld := ⟨0x10030100 + 4 * n, 0x0, 0, 16⟩
def HASP_GRANT (n : Nat) : Fld := ⟨0x10030000 + 4 * n, 0x0, 31, 1⟩
def HASP_ORPHAN (n : Nat) : Fld := ⟨0x10030000 + 4 * n, 0x0, 30, 1⟩
def HASP_AGAIN (n : Nat) : Fld := ⟨0x10030000 + 4 * n, 0x0, 29, 1⟩
def HASP_KIND (n : Nat) : Fld := ⟨0x10030000 + 4 * n, 0x0, 26, 2⟩
def HASP_INDEX (n : Nat) : Fld := ⟨0x10030000 + 4 * n, 0x0, 16, 10⟩
def HASP_GEN (n : Nat) : Fld := ⟨0x10030000 + 4 * n, 0x0, 0, 16⟩
def HASP_EVENT_REJECT : Fld := ⟨0x10030200, 0x0, 1, 1⟩
def HASP_EVENT_ORPHAN : Fld := ⟨0x10030200, 0x0, 0, 1⟩
def HASP_NOTIFY_addr : Nat := 0x10030204
def HASP_REJECT : Fld := ⟨0x10030208, 0x0, 0, 32⟩
def HASP_XN_CTRL_ENABLE : Fld := ⟨0x10030300, 0x0, 31, 1⟩
def HASP_XN_CTRL_RESULT : Fld := ⟨0x10030300, 0x0, 0, 8⟩
def HASP_XN_STAT_DEFERRED : Fld := ⟨0x10030304, 0x0, 16, 16⟩
def HASP_XN_STAT_BADSIZE : Fld := ⟨0x10030304, 0x0, 0, 16⟩
def MB_TXLO : Fld := ⟨0x10040000, 0x0, 0, 32⟩
def MB_TXSTAT_OVERWROTE : Fld := ⟨0x10040004, 0x0, 8, 1⟩
def MB_TXSTAT_RESULT : Fld := ⟨0x10040004, 0x0, 0, 8⟩
def MB_TXHI (d : Nat) : Fld := ⟨0x10040040 + 4 * d, 0x0, 0, 32⟩
def MB_RX_LO (s : Nat) : Fld := ⟨0x10040100 + 0x10 * s, 0x0, 0, 32⟩
def MB_RX_HI (s : Nat) : Fld := ⟨0x10040104 + 0x10 * s, 0x0, 0, 32⟩
def MB_RX_INFO_FULL (s : Nat) : Fld := ⟨0x10040108 + 0x10 * s, 0x0, 31, 1⟩
def MB_RX_INFO_COLL (s : Nat) : Fld := ⟨0x10040108 + 0x10 * s, 0x0, 30, 1⟩
def MB_RX_INFO_STALE (s : Nat) : Fld := ⟨0x10040108 + 0x10 * s, 0x0, 29, 1⟩
def MB_RX_INFO_DEPTH (s : Nat) : Fld := ⟨0x10040108 + 0x10 * s, 0x0, 24, 4⟩
def MB_RX_INFO_THREAD (s : Nat) : Fld := ⟨0x10040108 + 0x10 * s, 0x0, 16, 6⟩
def MB_RX_INFO_GEN (s : Nat) : Fld := ⟨0x10040108 + 0x10 * s, 0x0, 0, 16⟩
def MB_ARRIVED_BOX (s : Nat) : Fld := ⟨0x10040200, 0x0, 1 * s, 1⟩
def MB_LOST (s d : Nat) : Fld := ⟨0x10048000 + 0x40 * s + 4 * d, 0x0, 0, 32⟩
def MB_FABRIC_COMPACT : Fld := ⟨0x10048400, 0x0, 31, 1⟩
def MB_FABRIC_PRESENT : Fld := ⟨0x10048400, 0x0, 0, 12⟩
def BB_LEVEL_LO_NOTICE (n : Nat) : Fld := ⟨0x103E0000, 0x0, 1 * n, 1⟩
def BB_LEVEL_HI_NOTICE (n : Nat) : Fld := ⟨0x103E0004, 0x0, 1 * n, 1⟩
def BB_STALE_LO_NOTICE (n : Nat) : Fld := ⟨0x103E0008, 0x0, 1 * n, 1⟩
def BB_STALE_HI_NOTICE (n : Nat) : Fld := ⟨0x103E000C, 0x0, 1 * n, 1⟩
def BB_NOTIFY_addr : Nat := 0x103E0010
def BB_CFG_THRESH (n : Nat) : Fld := ⟨0x103E1000 + 0x20 * n, 0xA, 28, 4⟩
def BB_CFG_STALE (n : Nat) : Fld := ⟨0x103E1000 + 0x20 * n, 0xA, 0, 16⟩
def BB_DATA_LO (n : Nat) : Fld := ⟨0x103E1004 + 0x20 * n, 0x0, 0, 32⟩
def BB_DATA_HI (n : Nat) : Fld := ⟨0x103E1008 + 0x20 * n, 0x0, 0, 32⟩
def BB_INFO_POISON (n : Nat) : Fld := ⟨0x103E100C + 0x20 * n, 0x0, 31, 1⟩
def BB_INFO_OVF (n : Nat) : Fld := ⟨0x103E100C + 0x20 * n, 0x0, 30, 1⟩
def BB_INFO_COUNT (n : Nat) : Fld := ⟨0x103E100C + 0x20 * n, 0x0, 0, 4⟩
def BB_TICK_LO (n : Nat) : Fld := ⟨0x103E1010 + 0x20 * n, 0x0, 0, 32⟩
def BB_TICK_HI (n : Nat) : Fld := ⟨0x103E1014 + 0x20 * n, 0x0, 0, 32⟩
def BB_SEQ (n : Nat) : Fld := ⟨0x103E1018 + 0x20 * n, 0x0, 0, 32⟩
def BB_FILL_OVF (n : Nat) : Fld := ⟨0x103E101C + 0x20 * n, 0x0, 16, 16⟩
def BB_FILL_FILL (n : Nat) : Fld := ⟨0x103E101C + 0x20 * n, 0x0, 0, 7⟩

/-! ## NET -/

def MAC_CTRL_ENABLE (n : Nat) : Fld := ⟨0x10280000 + 0x4000 * n, 0x0, 31, 1⟩
def MAC_CTRL_SPEED (n : Nat) : Fld := ⟨0x10280000 + 0x4000 * n, 0x0, 29, 2⟩
def MAC_CTRL_FEC (n : Nat) : Fld := ⟨0x10280000 + 0x4000 * n, 0x0, 28, 1⟩
def MAC_CTRL_BRIDGE (n : Nat) : Fld := ⟨0x10280000 + 0x4000 * n, 0x0, 27, 1⟩
def MAC_CTRL_MUSTER (n : Nat) : Fld := ⟨0x10280000 + 0x4000 * n, 0x0, 26, 1⟩
def MAC_CTRL_RX_E131 (n : Nat) : Fld := ⟨0x10280000 + 0x4000 * n, 0x0, 25, 1⟩
def MAC_CTRL_TSQ (n : Nat) : Fld := ⟨0x10280000 + 0x4000 * n, 0x0, 20, 4⟩
def MAC_STATUS_LINK (n : Nat) : Fld := ⟨0x10280004 + 0x4000 * n, 0x0, 31, 1⟩
def MAC_STATUS_RATE (n : Nat) : Fld := ⟨0x10280004 + 0x4000 * n, 0x0, 29, 2⟩
def MAC_STATUS_CHANGES (n : Nat) : Fld := ⟨0x10280004 + 0x4000 * n, 0x0, 0, 16⟩
def MAC_EVENT_TSQ_OVF (n : Nat) : Fld := ⟨0x10280008 + 0x4000 * n, 0x0, 5, 1⟩
def MAC_EVENT_QFULL (n : Nat) : Fld := ⟨0x10280008 + 0x4000 * n, 0x0, 4, 1⟩
def MAC_EVENT_NOBUF (n : Nat) : Fld := ⟨0x10280008 + 0x4000 * n, 0x0, 3, 1⟩
def MAC_EVENT_BAD (n : Nat) : Fld := ⟨0x10280008 + 0x4000 * n, 0x0, 2, 1⟩
def MAC_EVENT_LINK_DOWN (n : Nat) : Fld := ⟨0x10280008 + 0x4000 * n, 0x0, 1, 1⟩
def MAC_EVENT_LINK_UP (n : Nat) : Fld := ⟨0x10280008 + 0x4000 * n, 0x0, 0, 1⟩
def MAC_NOTIFY_addr (n : Nat) : Nat := 0x1028000C + 0x4000 * n
def MAC_ADDR_LO (n : Nat) : Fld := ⟨0x10280010 + 0x4000 * n, 0x0, 0, 32⟩
def MAC_ADDR_HI (n : Nat) : Fld := ⟨0x10280014 + 0x4000 * n, 0x0, 0, 16⟩
def MAC_IP (n : Nat) : Fld := ⟨0x10280018 + 0x4000 * n, 0x0, 0, 32⟩
def MAC_VLAN_EN (n : Nat) : Fld := ⟨0x1028001C + 0x4000 * n, 0x1, 31, 1⟩
def MAC_VLAN_VID (n : Nat) : Fld := ⟨0x1028001C + 0x4000 * n, 0x1, 0, 12⟩
def MAC_MAX_FRAME (n : Nat) : Fld := ⟨0x10280020 + 0x4000 * n, 0x5F2, 0, 14⟩
def MAC_FILT_EN (n i : Nat) : Fld := ⟨0x10280040 + 0x4000 * n + 4 * i, 0x0, 31, 1⟩
def MAC_FILT_RING (n i : Nat) : Fld := ⟨0x10280040 + 0x4000 * n + 4 * i, 0x0, 16, 2⟩
def MAC_FILT_UDP_PORT (n i : Nat) : Fld := ⟨0x10280040 + 0x4000 * n + 4 * i, 0x0, 0, 16⟩
/-- Address of the first register of this ring. -/
def MAC_TX_base (n r : Nat) : Nat := 0x10280100 + 0x4000 * n + 0x20 * r
/-- Address of the first register of this ring. -/
def MAC_RX_base (n r : Nat) : Nat := 0x10280140 + 0x4000 * n + 0x20 * r
def MAC_CNT_LO (n k : Nat) : Fld := ⟨0x10280200 + 0x4000 * n + 8 * k, 0x0, 0, 32⟩
def MAC_CNT_HI (n k : Nat) : Fld := ⟨0x10280204 + 0x4000 * n + 8 * k, 0x0, 0, 32⟩
def MAC_SNAP_LO (n k : Nat) : Fld := ⟨0x10280300 + 0x4000 * n + 8 * k, 0x0, 0, 32⟩
def MAC_SNAP_HI (n k : Nat) : Fld := ⟨0x10280304 + 0x4000 * n + 8 * k, 0x0, 0, 32⟩
def PTP_CTRL_ENABLE : Fld := ⟨0x102C0000, 0x7F03E8, 31, 1⟩
def PTP_CTRL_DOMAIN : Fld := ⟨0x102C0000, 0x7F03E8, 16, 7⟩
def PTP_CTRL_STEP_US : Fld := ⟨0x102C0000, 0x7F03E8, 0, 16⟩
def PTP_STATUS_STATE : Fld := ⟨0x102C0004, 0x0, 29, 3⟩
def PTP_STATUS_LOG_SYNC : Fld := ⟨0x102C0004, 0x0, 8, 8⟩
def PTP_STATUS_STEPS : Fld := ⟨0x102C0004, 0x0, 0, 8⟩
def PTP_OFFSET : Fld := ⟨0x102C0008, 0x0, 0, 32⟩
def PTP_MPD : Fld := ⟨0x102C000C, 0x0, 0, 32⟩
def PTP_GM_LO : Fld := ⟨0x102C0010, 0x0, 0, 32⟩
def PTP_GM_HI : Fld := ⟨0x102C0014, 0x0, 0, 32⟩
def PTP_EVENT_NBR_FAIL : Fld := ⟨0x102C0018, 0x0, 7, 1⟩
def PTP_EVENT_PARTNER : Fld := ⟨0x102C0018, 0x0, 6, 1⟩
def PTP_EVENT_MU_FULL : Fld := ⟨0x102C0018, 0x0, 5, 1⟩
def PTP_EVENT_BR_FULL : Fld := ⟨0x102C0018, 0x0, 4, 1⟩
def PTP_EVENT_TSQ_OVF : Fld := ⟨0x102C0018, 0x0, 3, 1⟩
def PTP_EVENT_GM_CHANGE : Fld := ⟨0x102C0018, 0x0, 2, 1⟩
def PTP_EVENT_STATE : Fld := ⟨0x102C0018, 0x0, 1, 1⟩
def PTP_EVENT_STEP : Fld := ⟨0x102C0018, 0x0, 0, 1⟩
def PTP_NOTIFY_addr : Nat := 0x102C001C
def MAC_SNAP_CTRL_SNAP : Fld := ⟨0x102C0020, 0x0, 31, 1⟩
def MAC_SNAP_CTRL_SEQ : Fld := ⟨0x102C0020, 0x0, 0, 16⟩
def NET_STATUS_RESULT : Fld := ⟨0x102C0024, 0x0, 0, 8⟩
def PTP_LAT_TX (n : Nat) : Fld := ⟨0x102C0040 + 4 * n, 0x0, 16, 16⟩
def PTP_LAT_RX (n : Nat) : Fld := ⟨0x102C0040 + 4 * n, 0x0, 0, 16⟩
def TSQ_TICK_LO (n : Nat) : Fld := ⟨0x102C0080 + 0x20 * n, 0x0, 0, 32⟩
def TSQ_TICK_HI (n : Nat) : Fld := ⟨0x102C0084 + 0x20 * n, 0x0, 0, 32⟩
def TSQ_SEQ (n : Nat) : Fld := ⟨0x102C0088 + 0x20 * n, 0x0, 0, 32⟩
def TSQ_INFO_VALID (n : Nat) : Fld := ⟨0x102C008C + 0x20 * n, 0x0, 31, 1⟩
def TSQ_INFO_QUEUE (n : Nat) : Fld := ⟨0x102C008C + 0x20 * n, 0x0, 28, 3⟩
def TSQ_INFO_KIND (n : Nat) : Fld := ⟨0x102C008C + 0x20 * n, 0x0, 24, 4⟩
def TSQ_INFO_ID (n : Nat) : Fld := ⟨0x102C008C + 0x20 * n, 0x0, 0, 16⟩
def TSQ_STAT_OVF (n : Nat) : Fld := ⟨0x102C0090 + 0x20 * n, 0x0, 16, 16⟩
def TSQ_STAT_DEPTH (n : Nat) : Fld := ⟨0x102C0090 + 0x20 * n, 0x0, 0, 7⟩
def BR_CTRL_LEARN : Fld := ⟨0x102C0200, 0x8000012C, 31, 1⟩
def BR_CTRL_AGE : Fld := ⟨0x102C0200, 0x8000012C, 0, 16⟩
def BR_STATUS_ENTRIES : Fld := ⟨0x102C0204, 0x0, 0, 13⟩
def BR_CMD_OP : Fld := ⟨0x102C0208, 0x0, 30, 2⟩
def BR_CMD_INDEX : Fld := ⟨0x102C0208, 0x0, 0, 12⟩
def BR_ENT_LO : Fld := ⟨0x102C020C, 0x0, 0, 32⟩
def BR_ENT_HI_VALID : Fld := ⟨0x102C0210, 0x0, 31, 1⟩
def BR_ENT_HI_STATIC : Fld := ⟨0x102C0210, 0x0, 30, 1⟩
def BR_ENT_HI_PORT : Fld := ⟨0x102C0210, 0x0, 16, 3⟩
def BR_ENT_HI_ADDR : Fld := ⟨0x102C0210, 0x0, 0, 16⟩
def BR_CNT_LO (k : Nat) : Fld := ⟨0x102C0220 + 8 * k, 0x0, 0, 32⟩
def BR_CNT_HI (k : Nat) : Fld := ⟨0x102C0224 + 8 * k, 0x0, 0, 32⟩
def BR_SNAP_LO (k : Nat) : Fld := ⟨0x102C0260 + 8 * k, 0x0, 0, 32⟩
def BR_SNAP_HI (k : Nat) : Fld := ⟨0x102C0264 + 8 * k, 0x0, 0, 32⟩
def MU_NAME (j : Nat) : Fld := ⟨0x102C0300 + 4 * j, 0x0, 0, 32⟩
def MU_IDX : Fld := ⟨0x102C0310, 0x0, 0, 8⟩
def MU_COUNT : Fld := ⟨0x102C0314, 0x0, 0, 9⟩
def MU_FULL : Fld := ⟨0x102C0318, 0x0, 0, 32⟩
def MU_DATA (j : Nat) : Fld := ⟨0x102C0320 + 4 * j, 0x0, 0, 32⟩
def NBR_IP (i : Nat) : Fld := ⟨0x102C0400 + 0x10 * i, 0x0, 0, 32⟩
def NBR_MAC_LO (i : Nat) : Fld := ⟨0x102C0404 + 0x10 * i, 0x0, 0, 32⟩
def NBR_CTRL_VALID (i : Nat) : Fld := ⟨0x102C0408 + 0x10 * i, 0x0, 31, 1⟩
def NBR_CTRL_AUTO (i : Nat) : Fld := ⟨0x102C0408 + 0x10 * i, 0x0, 30, 1⟩
def NBR_CTRL_MAC_HI (i : Nat) : Fld := ⟨0x102C0408 + 0x10 * i, 0x0, 0, 16⟩
def WF_SHOW : Fld := ⟨0x102C0800, 0x0, 0, 24⟩
def WF_COMMIT_COMMIT : Fld := ⟨0x102C0804, 0x0, 0, 1⟩
def WF_CFG_EN (s : Nat) : Fld := ⟨0x102C1000 + 0x10 * s, 0x1000168, 31, 1⟩
def WF_CFG_CANVAS (s : Nat) : Fld := ⟨0x102C1000 + 0x10 * s, 0x1000168, 29, 2⟩
def WF_CFG_PORT (s : Nat) : Fld := ⟨0x102C1000 + 0x10 * s, 0x1000168, 26, 3⟩
def WF_CFG_FORMAT (s : Nat) : Fld := ⟨0x102C1000 + 0x10 * s, 0x1000168, 24, 2⟩
def WF_CFG_SEG (s : Nat) : Fld := ⟨0x102C1000 + 0x10 * s, 0x1000168, 0, 13⟩
def WF_ORIGIN_X (s : Nat) : Fld := ⟨0x102C1004 + 0x10 * s, 0x0, 16, 14⟩
def WF_ORIGIN_Y (s : Nat) : Fld := ⟨0x102C1004 + 0x10 * s, 0x0, 0, 14⟩
def WF_SIZE_W (s : Nat) : Fld := ⟨0x102C1008 + 0x10 * s, 0x0, 16, 15⟩
def WF_SIZE_H (s : Nat) : Fld := ⟨0x102C1008 + 0x10 * s, 0x0, 0, 15⟩
def WF_DEST (s : Nat) : Fld := ⟨0x102C100C + 0x10 * s, 0x0, 0, 32⟩
def ING_NET_SRC (s : Nat) : Fld := ⟨0x102C2000 + 0x10 * s, 0x600000, 30, 2⟩
def ING_NET_PORT (s : Nat) : Fld := ⟨0x102C2000 + 0x10 * s, 0x600000, 27, 3⟩
def ING_NET_CANVAS (s : Nat) : Fld := ⟨0x102C2000 + 0x10 * s, 0x600000, 25, 2⟩
def ING_NET_PT (s : Nat) : Fld := ⟨0x102C2000 + 0x10 * s, 0x600000, 16, 7⟩
def ING_NET_UDP (s : Nat) : Fld := ⟨0x102C2000 + 0x10 * s, 0x600000, 0, 16⟩
def ING_GROUP (s : Nat) : Fld := ⟨0x102C2004 + 0x10 * s, 0x0, 0, 32⟩
def ING_SRCIP (s : Nat) : Fld := ⟨0x102C2008 + 0x10 * s, 0x0, 0, 32⟩
def PV_CFG_EN : Fld := ⟨0x102C2100, 0x226001, 31, 1⟩
def PV_CFG_CANVAS : Fld := ⟨0x102C2100, 0x226001, 29, 2⟩
def PV_CFG_PORT : Fld := ⟨0x102C2100, 0x226001, 26, 3⟩
def PV_CFG_DX : Fld := ⟨0x102C2100, 0x226001, 20, 4⟩
def PV_CFG_DY : Fld := ⟨0x102C2100, 0x226001, 16, 4⟩
def PV_CFG_PT : Fld := ⟨0x102C2100, 0x226001, 8, 8⟩
def PV_CFG_FDIV : Fld := ⟨0x102C2100, 0x226001, 0, 8⟩
def PV_DEST : Fld := ⟨0x102C2104, 0x0, 0, 32⟩

/-! ## SH -/

def SH_CTRL_RECLAIM : Fld := ⟨0x10300000, 0xA, 31, 1⟩
def SH_CTRL_STICKY_CLR : Fld := ⟨0x10300000, 0xA, 30, 1⟩
def SH_CTRL_LGFWD : Fld := ⟨0x10300000, 0xA, 29, 1⟩
def SH_CTRL_LGSEV : Fld := ⟨0x10300000, 0xA, 16, 8⟩
def SH_CTRL_FREEWHEEL : Fld := ⟨0x10300000, 0xA, 0, 10⟩
def SH_STATUS_ROLE : Fld := ⟨0x10300004, 0x0, 29, 3⟩
def SH_STATUS_RING : Fld := ⟨0x10300004, 0x0, 27, 2⟩
def SH_STATUS_UP : Fld := ⟨0x10300004, 0x0, 26, 1⟩
def SH_STATUS_DN : Fld := ⟨0x10300004, 0x0, 25, 1⟩
def SH_STATUS_NUMBERED : Fld := ⟨0x10300004, 0x0, 24, 1⟩
def SH_STATUS_RESULT : Fld := ⟨0x10300004, 0x0, 16, 8⟩
def SH_STATUS_NUMBER : Fld := ⟨0x10300004, 0x0, 0, 10⟩
def SH_DEPUTY_EN : Fld := ⟨0x10300008, 0x0, 31, 1⟩
def SH_DEPUTY_DEVICE : Fld := ⟨0x10300008, 0x0, 0, 10⟩
def SH_GEN_CGEN : Fld := ⟨0x1030000C, 0x0, 0, 16⟩
def SH_POS_POS : Fld := ⟨0x10300010, 0x0, 0, 11⟩
def SH_MEMBERS_COUNT : Fld := ⟨0x10300014, 0x0, 0, 11⟩
def SH_EVENT_CONFLICT : Fld := ⟨0x10300018, 0x0, 6, 1⟩
def SH_EVENT_HOLD : Fld := ⟨0x10300018, 0x0, 5, 1⟩
def SH_EVENT_BEACON : Fld := ⟨0x10300018, 0x0, 4, 1⟩
def SH_EVENT_MEMBER : Fld := ⟨0x10300018, 0x0, 3, 1⟩
def SH_EVENT_RING : Fld := ⟨0x10300018, 0x0, 2, 1⟩
def SH_EVENT_STICKY : Fld := ⟨0x10300018, 0x0, 1, 1⟩
def SH_EVENT_LINK : Fld := ⟨0x10300018, 0x0, 0, 1⟩
def SH_NOTIFY_addr : Nat := 0x1030001C
def SH_UP_DLY : Fld := ⟨0x10300020, 0x0, 0, 32⟩
def SH_DN_DLY : Fld := ⟨0x10300024, 0x0, 0, 32⟩
def SH_ACC : Fld := ⟨0x10300028, 0x0, 0, 32⟩
def SH_MISS : Fld := ⟨0x1030002C, 0x0, 0, 32⟩
def SH_CRC_UP : Fld := ⟨0x10300030, 0x0, 16, 16⟩
def SH_CRC_DN : Fld := ⟨0x10300030, 0x0, 0, 16⟩
def SH_FW_REMAIN : Fld := ⟨0x10300034, 0x0, 0, 32⟩
def SH_DROP : Fld := ⟨0x10300038, 0x0, 0, 32⟩
def SH_MASTER_LO : Fld := ⟨0x1030003C, 0x0, 0, 32⟩
def SH_MASTER_HI : Fld := ⟨0x10300040, 0x0, 0, 32⟩
def SH_ROUTE_EN (e : Nat) : Fld := ⟨0x10300080 + 4 * e, 0x0, 31, 1⟩
def SH_ROUTE_ENDPOINT (e : Nat) : Fld := ⟨0x10300080 + 4 * e, 0x0, 10, 4⟩
def SH_ROUTE_DEVICE (e : Nat) : Fld := ⟨0x10300080 + 4 * e, 0x0, 0, 10⟩
def SH_SRC_GEN (e : Nat) : Fld := ⟨0x103000C0 + 4 * e, 0x0, 16, 16⟩
def SH_SRC_ENDPOINT (e : Nat) : Fld := ⟨0x103000C0 + 4 * e, 0x0, 10, 4⟩
def SH_SRC_DEVICE (e : Nat) : Fld := ⟨0x103000C0 + 4 * e, 0x0, 0, 10⟩
def SH_LGC_BASE_LO : Fld := ⟨0x10300100, 0x0, 0, 32⟩
def SH_LGC_BASE_HI : Fld := ⟨0x10300104, 0x0, 0, 8⟩
def SH_LGC_CTRL_EN : Fld := ⟨0x10300108, 0xA, 31, 1⟩
def SH_LGC_CTRL_LOG2SIZE : Fld := ⟨0x10300108, 0xA, 0, 5⟩
def SH_LGC_HEAD : Fld := ⟨0x1030010C, 0x0, 0, 32⟩
def SH_LGC_TAIL : Fld := ⟨0x10300110, 0x0, 0, 32⟩
def SH_LGC_DROP : Fld := ⟨0x10300114, 0x0, 0, 32⟩
/-- Address of the first register of this ring. -/
def SH_RING_base : Nat := 0x10300140
def SH_STICKY_LO (n : Nat) : Fld := ⟨0x10301000 + 8 * n, 0x0, 0, 32⟩
def SH_STICKY_HI (n : Nat) : Fld := ⟨0x10301004 + 8 * n, 0x0, 0, 32⟩

/-! ## MT -/

def MT_CTRL_CLEAR : Fld := ⟨0x10310000, 0x0, 31, 1⟩
def MT_CTRL_YIELD : Fld := ⟨0x10310000, 0x0, 30, 1⟩
def MT_CFG_PRIMARY : Fld := ⟨0x10310004, 0x4, 31, 1⟩
def MT_CFG_SIDE : Fld := ⟨0x10310004, 0x4, 30, 1⟩
def MT_CFG_WEFT_BOTH : Fld := ⟨0x10310004, 0x4, 29, 1⟩
def MT_CFG_SEL_TREADLE : Fld := ⟨0x10310004, 0x4, 20, 4⟩
def MT_CFG_K : Fld := ⟨0x10310004, 0x4, 0, 7⟩
def MT_TIMING_RECOVER : Fld := ⟨0x10310008, 0xA, 0, 10⟩
def MT_STATUS_ROLE : Fld := ⟨0x1031000C, 0x0, 29, 3⟩
def MT_STATUS_OWNED : Fld := ⟨0x1031000C, 0x0, 28, 1⟩
def MT_STATUS_SEL : Fld := ⟨0x1031000C, 0x0, 27, 1⟩
def MT_STATUS_LINK : Fld := ⟨0x1031000C, 0x0, 26, 1⟩
def MT_STATUS_PEER_ALIVE : Fld := ⟨0x1031000C, 0x0, 25, 1⟩
def MT_STATUS_PAIRED : Fld := ⟨0x1031000C, 0x0, 24, 1⟩
def MT_STATUS_RECOVERING : Fld := ⟨0x1031000C, 0x0, 23, 1⟩
def MT_STATUS_RESULT : Fld := ⟨0x1031000C, 0x0, 0, 8⟩
def MT_EVENT_COPIED : Fld := ⟨0x10310010, 0x0, 8, 1⟩
def MT_EVENT_COPY_FAIL : Fld := ⟨0x10310010, 0x0, 7, 1⟩
def MT_EVENT_DOUBLE : Fld := ⟨0x10310010, 0x0, 6, 1⟩
def MT_EVENT_KILL : Fld := ⟨0x10310010, 0x0, 5, 1⟩
def MT_EVENT_LINK : Fld := ⟨0x10310010, 0x0, 4, 1⟩
def MT_EVENT_EQUAL : Fld := ⟨0x10310010, 0x0, 3, 1⟩
def MT_EVENT_DIVERGE : Fld := ⟨0x10310010, 0x0, 2, 1⟩
def MT_EVENT_YIELDED : Fld := ⟨0x10310010, 0x0, 1, 1⟩
def MT_EVENT_PROMOTED : Fld := ⟨0x10310010, 0x0, 0, 1⟩
def MT_NOTIFY_addr : Nat := 0x10310014
def MT_HEALTH : Fld := ⟨0x10310018, 0x0, 0, 32⟩
def MT_PEER_HEALTH : Fld := ⟨0x1031001C, 0x0, 0, 32⟩
def MT_PGEN_SWITCHES : Fld := ⟨0x10310020, 0x0, 16, 16⟩
def MT_PGEN_PGEN : Fld := ⟨0x10310020, 0x0, 0, 16⟩
def MT_DIV_DIVERGE : Fld := ⟨0x10310024, 0x0, 16, 16⟩
def MT_DIV_MISMATCH : Fld := ⟨0x10310024, 0x0, 0, 16⟩
def MT_DIV_KEY_KIND : Fld := ⟨0x10310028, 0x0, 30, 2⟩
def MT_DIV_KEY_INDEX : Fld := ⟨0x10310028, 0x0, 16, 14⟩
def MT_DIV_KEY_LINE : Fld := ⟨0x10310028, 0x0, 0, 16⟩
def MT_STAGE_LO : Fld := ⟨0x1031002C, 0x0, 0, 32⟩
def MT_STAGE_HI : Fld := ⟨0x10310030, 0x0, 0, 8⟩
def MT_COPY_STAT_VALID : Fld := ⟨0x10310034, 0x0, 31, 1⟩
def MT_COPY_STAT_HALF : Fld := ⟨0x10310034, 0x0, 30, 1⟩
def MT_COPY_STAT_LENGTH : Fld := ⟨0x10310034, 0x0, 0, 23⟩
def MT_COPY_FRAME_LO : Fld := ⟨0x10310038, 0x0, 0, 32⟩
def MT_COPY_FRAME_HI : Fld := ⟨0x1031003C, 0x0, 0, 8⟩
def MT_COPY_LATE : Fld := ⟨0x10310040, 0x0, 0, 32⟩
def MT_COPY_BAD : Fld := ⟨0x10310044, 0x0, 0, 32⟩
def MT_COMMIT_COMMIT : Fld := ⟨0x10310048, 0x0, 0, 1⟩
def MT_REG_LO (i : Nat) : Fld := ⟨0x10310100 + 0x10 * i, 0x0, 0, 32⟩
def MT_REG_HI (i : Nat) : Fld := ⟨0x10310104 + 0x10 * i, 0x0, 0, 8⟩
def MT_REG_LEN_EN (i : Nat) : Fld := ⟨0x10310108 + 0x10 * i, 0x0, 31, 1⟩
def MT_REG_LEN_LENGTH (i : Nat) : Fld := ⟨0x10310108 + 0x10 * i, 0x0, 0, 23⟩

/-! ## TS -/

def TS_CTRL_N : Fld := ⟨0x100A0000, 0x10, 0, 7⟩
def TS_COMMIT_COMMIT : Fld := ⟨0x100A0004, 0x0, 0, 1⟩
def TS_STATUS_PENDING : Fld := ⟨0x100A0008, 0x0, 16, 1⟩
def TS_STATUS_RESULT : Fld := ⟨0x100A0008, 0x0, 0, 8⟩
def TS_EVENT_EXT_UNCORR : Fld := ⟨0x100A000C, 0x0, 5, 1⟩
def TS_EVENT_EXT_CORR : Fld := ⟨0x100A000C, 0x0, 4, 1⟩
def TS_EVENT_UNCORR : Fld := ⟨0x100A000C, 0x0, 3, 1⟩
def TS_EVENT_CORR : Fld := ⟨0x100A000C, 0x0, 2, 1⟩
def TS_EVENT_SCRUB_PASS : Fld := ⟨0x100A000C, 0x0, 1, 1⟩
def TS_EVENT_REFUSED : Fld := ⟨0x100A000C, 0x0, 0, 1⟩
def TS_NOTIFY_addr : Nat := 0x100A0010
def TS_RANK_LO_PRIO (r : Nat) : Fld := ⟨0x100A0014, 0x88888888, 4 * r, 4⟩
def TS_RANK_HI_PRIO (r : Nat) : Fld := ⟨0x100A0018, 0x4A69BBFC, 4 * r, 4⟩
def TS_SCRUB_CFG_EN : Fld := ⟨0x100A0020, 0x800003E8, 31, 1⟩
def TS_SCRUB_CFG_PERIOD : Fld := ⟨0x100A0020, 0x800003E8, 0, 22⟩
def TS_EXT_SCRUB_EN : Fld := ⟨0x100A0024, 0x8000003C, 31, 1⟩
def TS_EXT_SCRUB_PERIOD : Fld := ⟨0x100A0024, 0x8000003C, 0, 17⟩
def TS_SCRUB_STAT_PASSES : Fld := ⟨0x100A0028, 0x0, 16, 16⟩
def TS_SCRUB_STAT_EXT_PASSES : Fld := ⟨0x100A0028, 0x0, 0, 16⟩
def TS_EXT_NEXT_VALID : Fld := ⟨0x100A0030, 0x0, 1, 1⟩
def TS_EXT_NEXT_PROTECT : Fld := ⟨0x100A0030, 0x0, 0, 1⟩
def TS_EXT_STATUS_TRAINED : Fld := ⟨0x100A0034, 0x0, 31, 1⟩
def TS_EXT_STATUS_PROTECT : Fld := ⟨0x100A0034, 0x0, 30, 1⟩
def TS_EXT_STATUS_FALLBACK : Fld := ⟨0x100A0034, 0x0, 29, 1⟩
def TS_EXT_STATUS_INSTALLED : Fld := ⟨0x100A0034, 0x0, 16, 13⟩
def TS_EXT_STATUS_USABLE : Fld := ⟨0x100A0034, 0x0, 0, 13⟩
def TS_EXT_CORR : Fld := ⟨0x100A0038, 0x0, 0, 32⟩
def TS_EXT_UNCORR : Fld := ⟨0x100A003C, 0x0, 0, 32⟩
def TS_EXT_ERRADDR_LO : Fld := ⟨0x100A0040, 0x0, 0, 32⟩
def TS_EXT_ERRADDR_HI : Fld := ⟨0x100A0044, 0x0, 0, 8⟩
def TS_EXT_MR4_RATE : Fld := ⟨0x100A0048, 0x0, 0, 5⟩
def TS_SLOT_VALID (g j i : Nat) : Fld := ⟨0x100A1000 + 0x100 * g + 4 * j, (slotReset g j), 7 + 8 * i, 1⟩
def TS_SLOT_RSV (g j i : Nat) : Fld := ⟨0x100A1000 + 0x100 * g + 4 * j, (slotReset g j), 4 + 8 * i, 3⟩
def TS_SLOT_REQ (g j i : Nat) : Fld := ⟨0x100A1000 + 0x100 * g + 4 * j, (slotReset g j), 8 * i, 4⟩
def TS_CORR (g : Nat) : Fld := ⟨0x100A1040 + 0x100 * g, 0x0, 0, 32⟩
def TS_UNCORR (g : Nat) : Fld := ⟨0x100A1044 + 0x100 * g, 0x0, 0, 32⟩
def TS_ERRADDR (g : Nat) : Fld := ⟨0x100A1048 + 0x100 * g, 0x0, 0, 27⟩
def TS_SPARES_SPARES (g : Nat) : Fld := ⟨0x100A104C + 0x100 * g, 0x0, 24, 8⟩
def TS_SPARES_EXCLUDED (g : Nat) : Fld := ⟨0x100A104C + 0x100 * g, 0x0, 16, 8⟩
def TS_WAIT_REQ (g : Nat) : Fld := ⟨0x100A1050 + 0x100 * g, 0x0, 28, 4⟩
def TS_WAIT_MAX (g : Nat) : Fld := ⟨0x100A1050 + 0x100 * g, 0x0, 0, 16⟩
def TS_PREEMPT (g : Nat) : Fld := ⟨0x100A1054 + 0x100 * g, 0x0, 0, 32⟩

/-! ## TY -/

def TY_CTRL_SAVE_NOW : Fld := ⟨0x10340000, 0x0, 1, 1⟩
def TY_CTRL_SNAP : Fld := ⟨0x10340000, 0x0, 0, 1⟩
def TY_COMMIT_COMMIT : Fld := ⟨0x10340004, 0x0, 0, 1⟩
def TY_STATUS_RUNNING : Fld := ⟨0x10340008, 0x0, 31, 1⟩
def TY_STATUS_RESTORED : Fld := ⟨0x10340008, 0x0, 30, 1⟩
def TY_STATUS_ZEROED : Fld := ⟨0x10340008, 0x0, 29, 1⟩
def TY_STATUS_PENDING : Fld := ⟨0x10340008, 0x0, 28, 1⟩
def TY_STATUS_RESULT : Fld := ⟨0x10340008, 0x0, 0, 8⟩
def TY_EVENT_WRAP : Fld := ⟨0x1034000C, 0x0, 7, 1⟩
def TY_EVENT_SAVE_FAIL : Fld := ⟨0x1034000C, 0x0, 6, 1⟩
def TY_EVENT_PULSE_FULL : Fld := ⟨0x1034000C, 0x0, 5, 1⟩
def TY_EVENT_MAINS : Fld := ⟨0x1034000C, 0x0, 4, 1⟩
def TY_EVENT_SAT : Fld := ⟨0x1034000C, 0x0, 3, 1⟩
def TY_EVENT_FAULT : Fld := ⟨0x1034000C, 0x0, 2, 1⟩
def TY_EVENT_WINDOW : Fld := ⟨0x1034000C, 0x0, 1, 1⟩
def TY_EVENT_REFUSED : Fld := ⟨0x1034000C, 0x0, 0, 1⟩
def TY_NOTIFY_addr : Nat := 0x10340010
def TY_SAVE_PERIOD : Fld := ⟨0x10340014, 0x3C, 0, 12⟩
def TY_SAVE_SEQ : Fld := ⟨0x10340018, 0x0, 0, 32⟩
def TY_SAVE_FAIL_FAIL : Fld := ⟨0x1034001C, 0x0, 16, 16⟩
def TY_WIN_SEQ : Fld := ⟨0x10340020, 0x0, 0, 32⟩
def TY_WIN_TICK_LO : Fld := ⟨0x10340024, 0x0, 0, 32⟩
def TY_WIN_TICK_HI : Fld := ⟨0x10340028, 0x0, 0, 32⟩
def TY_SNAP_SEQ : Fld := ⟨0x1034002C, 0x0, 0, 32⟩
def TY_SNAP_TICK_LO : Fld := ⟨0x10340030, 0x0, 0, 32⟩
def TY_SNAP_TICK_HI : Fld := ⟨0x10340034, 0x0, 0, 32⟩
def TY_GAIN (n : Nat) : Fld := ⟨0x10340100 + 0x20 * n, 0x400000, 0, 24⟩
def TY_OFFSET (n : Nat) : Fld := ⟨0x10340104 + 0x20 * n, 0x0, 0, 24⟩
def TY_FS (n : Nat) : Fld := ⟨0x10340108 + 0x20 * n, 0x0, 0, 24⟩
def TY_PHASE (n : Nat) : Fld := ⟨0x1034010C + 0x20 * n, 0x0, 0, 9⟩
def TY_CH_FAULT (n : Nat) : Fld := ⟨0x10340110 + 0x20 * n, 0x0, 31, 1⟩
def TY_CH_SAT (n : Nat) : Fld := ⟨0x10340110 + 0x20 * n, 0x0, 30, 1⟩
def TY_CH_SAMPLE (n : Nat) : Fld := ⟨0x10340110 + 0x20 * n, 0x0, 0, 24⟩
def TY_ZX_CFG_HYST (v : Nat) : Fld := ⟨0x10340600 + 0x10 * v, 0x100000A, 8, 24⟩
def TY_ZX_CFG_TIMEOUT (v : Nat) : Fld := ⟨0x10340600 + 0x10 * v, 0x100000A, 0, 7⟩
def TY_ZX_PRESENT (v : Nat) : Fld := ⟨0x10340604 + 0x10 * v, 0x0, 31, 1⟩
def TY_ZX_FREQ (v : Nat) : Fld := ⟨0x10340604 + 0x10 * v, 0x0, 0, 24⟩
def TY_ZX_TICK_LO (v : Nat) : Fld := ⟨0x10340608 + 0x10 * v, 0x0, 0, 32⟩
def TY_ZX_TICK_HI (v : Nat) : Fld := ⟨0x1034060C + 0x10 * v, 0x0, 0, 32⟩
def TY_PULSE_EN (p : Nat) : Fld := ⟨0x10340800 + 0x10 * p, 0x50, 31, 1⟩
def TY_PULSE_INVERT (p : Nat) : Fld := ⟨0x10340800 + 0x10 * p, 0x50, 30, 1⟩
def TY_PULSE_CIRC (p : Nat) : Fld := ⟨0x10340800 + 0x10 * p, 0x50, 24, 5⟩
def TY_PULSE_QTY (p : Nat) : Fld := ⟨0x10340800 + 0x10 * p, 0x50, 20, 2⟩
def TY_PULSE_WIDTH (p : Nat) : Fld := ⟨0x10340800 + 0x10 * p, 0x50, 0, 8⟩
def TY_PULSE_CONST (p : Nat) : Fld := ⟨0x10340804 + 0x10 * p, 0xF4240, 0, 32⟩
def TY_PULSE_BACK_BACKLOG (p : Nat) : Fld := ⟨0x10340808 + 0x10 * p, 0x0, 16, 16⟩
def TY_PULSE_BACK_DROPPED (p : Nat) : Fld := ⟨0x10340808 + 0x10 * p, 0x0, 0, 16⟩
def TY_PULSE_COUNT (p : Nat) : Fld := ⟨0x1034080C + 0x10 * p, 0x0, 0, 32⟩
def TY_EXPORT_EN (e : Nat) : Fld := ⟨0x10340900 + 4 * e, 0x0, 31, 1⟩
def TY_EXPORT_DIV (e : Nat) : Fld := ⟨0x10340900 + 4 * e, 0x0, 8, 3⟩
def TY_EXPORT_CH (e : Nat) : Fld := ⟨0x10340900 + 4 * e, 0x0, 0, 5⟩
def TY_CIRC_EN (c : Nat) : Fld := ⟨0x10341000 + 0x80 * c, 0x0, 31, 1⟩
def TY_CIRC_DC (c : Nat) : Fld := ⟨0x10341000 + 0x80 * c, 0x0, 30, 1⟩
def TY_CIRC_PURSE_Q (c : Nat) : Fld := ⟨0x10341000 + 0x80 * c, 0x0, 29, 1⟩
def TY_CIRC_VCH (c : Nat) : Fld := ⟨0x10341000 + 0x80 * c, 0x0, 24, 3⟩
def TY_CIRC_ICH (c : Nat) : Fld := ⟨0x10341000 + 0x80 * c, 0x0, 16, 5⟩
def TY_CSTAT_PUBLISHED (c : Nat) : Fld := ⟨0x10341004 + 0x80 * c, 0x0, 31, 1⟩
def TY_CSTAT_FAULT_MS (c : Nat) : Fld := ⟨0x10341004 + 0x80 * c, 0x0, 0, 31⟩
def TY_VRMS (c : Nat) : Fld := ⟨0x10341008 + 0x80 * c, 0x0, 0, 32⟩
def TY_IRMS (c : Nat) : Fld := ⟨0x1034100C + 0x80 * c, 0x0, 0, 32⟩
def TY_IMEAN (c : Nat) : Fld := ⟨0x10341010 + 0x80 * c, 0x0, 0, 32⟩
def TY_P (c : Nat) : Fld := ⟨0x10341014 + 0x80 * c, 0x0, 0, 32⟩
def TY_S (c : Nat) : Fld := ⟨0x10341018 + 0x80 * c, 0x0, 0, 32⟩
def TY_PF (c : Nat) : Fld := ⟨0x1034101C + 0x80 * c, 0x0, 0, 16⟩
def TY_M (c : Nat) : Fld := ⟨0x10341020 + 0x80 * c, 0x0, 0, 32⟩
def TY_ENERGY_LO (c q : Nat) : Fld := ⟨0x10341030 + 0x80 * c + 0x10 * q, 0x0, 0, 32⟩
def TY_ENERGY_HI_WRAP (c q : Nat) : Fld := ⟨0x10341034 + 0x80 * c + 0x10 * q, 0x0, 16, 8⟩
def TY_ENERGY_HI_ENERGY (c q : Nat) : Fld := ⟨0x10341034 + 0x80 * c + 0x10 * q, 0x0, 0, 16⟩
def TY_ESNAP_LO (c q : Nat) : Fld := ⟨0x10341038 + 0x80 * c + 0x10 * q, 0x0, 0, 32⟩
def TY_ESNAP_HI (c q : Nat) : Fld := ⟨0x1034103C + 0x80 * c + 0x10 * q, 0x0, 0, 32⟩

/-! ## LG -/

def LG_CTRL_FREEZE : Fld := ⟨0x10380000, 0x0, 31, 1⟩
def LG_CTRL_FLUSH : Fld := ⟨0x10380000, 0x0, 30, 1⟩
def LG_CTRL_GASP_CLR : Fld := ⟨0x10380000, 0x0, 29, 1⟩
def LG_STATUS_LEDGER_FAULT : Fld := ⟨0x10380004, 0x0, 31, 1⟩
def LG_STATUS_FROZEN : Fld := ⟨0x10380004, 0x0, 30, 1⟩
def LG_STATUS_ARCH_FAULT : Fld := ⟨0x10380004, 0x0, 29, 1⟩
def LG_STATUS_HELD : Fld := ⟨0x10380004, 0x0, 8, 5⟩
def LG_STATUS_RESULT : Fld := ⟨0x10380004, 0x0, 0, 8⟩
def LG_EVENT_FAULT : Fld := ⟨0x10380008, 0x0, 3, 1⟩
def LG_EVENT_RETIRED : Fld := ⟨0x10380008, 0x0, 2, 1⟩
def LG_EVENT_THAW : Fld := ⟨0x10380008, 0x0, 1, 1⟩
def LG_EVENT_LOST : Fld := ⟨0x10380008, 0x0, 0, 1⟩
def LG_NOTIFY_addr : Nat := 0x1038000C
def LG_REPEAT_WINDOW : Fld := ⟨0x10380010, 0x3E8, 0, 16⟩
def LG_NEXTSEQ : Fld := ⟨0x10380014, 0x0, 0, 24⟩
def LG_LAST_REPEAT_LO : Fld := ⟨0x10380018, 0x0, 0, 32⟩
def LG_LAST_REPEAT_HI : Fld := ⟨0x1038001C, 0x0, 0, 32⟩
def LG_LOST : Fld := ⟨0x10380020, 0x0, 0, 32⟩
def LG_RETIRED : Fld := ⟨0x10380024, 0x0, 0, 11⟩
def LG_ARCHSEQ : Fld := ⟨0x10380028, 0x0, 0, 24⟩
def LG_OPSEC : Fld := ⟨0x1038002C, 0x0, 0, 32⟩
def LG_PCYCLE : Fld := ⟨0x10380030, 0x0, 0, 24⟩
/-- Address of the first register of this ring. -/
def LG_RING_base : Nat := 0x10380040
def LG_GASP (k j : Nat) : Fld := ⟨0x10380100 + 0x20 * k + 4 * j, 0x0, 0, 32⟩

/-! ## BT -/

def BT_STATUS_STEP : Fld := ⟨0x103C0000, 0x0, 28, 4⟩
def BT_STATUS_SOURCE : Fld := ⟨0x103C0000, 0x0, 26, 2⟩
def BT_STATUS_SLOT : Fld := ⟨0x103C0000, 0x0, 25, 1⟩
def BT_STATUS_OWNED : Fld := ⟨0x103C0000, 0x0, 24, 1⟩
def BT_STATUS_DEBUG : Fld := ⟨0x103C0000, 0x0, 22, 2⟩
def BT_STATUS_RESULT : Fld := ⟨0x103C0000, 0x0, 0, 8⟩
def BT_EVENT_TAMPER : Fld := ⟨0x103C0004, 0x0, 5, 1⟩
def BT_EVENT_DEBUG : Fld := ⟨0x103C0004, 0x0, 4, 1⟩
def BT_EVENT_UPDATE : Fld := ⟨0x103C0004, 0x0, 3, 1⟩
def BT_EVENT_REFUSED : Fld := ⟨0x103C0004, 0x0, 2, 1⟩
def BT_EVENT_FALLBACK : Fld := ⟨0x103C0004, 0x0, 1, 1⟩
def BT_EVENT_STEP_FAIL : Fld := ⟨0x103C0004, 0x0, 0, 1⟩
def BT_NOTIFY_addr : Nat := 0x103C0008
def BT_JOURNAL_STEP (n : Nat) : Fld := ⟨0x103C000C, 0x0, 2 * n, 2⟩
def BT_PREVJ_STEP (n : Nat) : Fld := ⟨0x103C0010, 0x0, 2 * n, 2⟩
def BT_FALLBACK_STEP (n : Nat) : Fld := ⟨0x103C0014, 0x0, 1 * n, 1⟩
def BT_STEP_OP : Fld := ⟨0x103C0018, 0x0, 30, 2⟩
def BT_STEP_STEP : Fld := ⟨0x103C0018, 0x0, 0, 4⟩
def BT_RERUN_RERUN (k : Nat) : Fld := ⟨0x103C001C, 0x0, 9 + 1 * k, 1⟩
def BT_RSTCAUSE_WARMS : Fld := ⟨0x103C0020, 0x0, 16, 16⟩
def BT_RSTCAUSE_CAUSE : Fld := ⟨0x103C0020, 0x0, 0, 3⟩
def BT_CFG_CHECK : Fld := ⟨0x103C0024, 0x0, 31, 1⟩
def BT_CFG_SERVE : Fld := ⟨0x103C0024, 0x0, 30, 1⟩
def BT_SLOTS_SLOTS : Fld := ⟨0x103C0028, 0x0, 0, 7⟩
def BT_CONFIRM_CONFIRM : Fld := ⟨0x103C002C, 0x0, 0, 1⟩
def BT_SVN_FUSED : Fld := ⟨0x103C0030, 0x0, 24, 8⟩
def BT_SVN_IMAGE : Fld := ⟨0x103C0030, 0x0, 16, 8⟩
def BT_SVN_ADVANCE : Fld := ⟨0x103C0030, 0x0, 0, 1⟩
def BT_VERSION_LO : Fld := ⟨0x103C0034, 0x0, 0, 32⟩
def BT_VERSION_HI : Fld := ⟨0x103C0038, 0x0, 0, 32⟩
def BT_HANDOFF_LO : Fld := ⟨0x103C003C, 0x0, 0, 32⟩
def BT_HANDOFF_HI : Fld := ⟨0x103C0040, 0x0, 0, 8⟩
def BT_UCODE_GO : Fld := ⟨0x103C0044, 0x0, 31, 1⟩
def BT_UCODE_BUSY : Fld := ⟨0x103C0044, 0x0, 30, 1⟩
def BT_UCODE_UNIT : Fld := ⟨0x103C0044, 0x0, 28, 2⟩
def BT_UCODE_LOADED (u : Nat) : Fld := ⟨0x103C0044, 0x0, 25 + 1 * u, 1⟩
def BT_UCODE_RESULT : Fld := ⟨0x103C0044, 0x0, 0, 8⟩
def BT_UCODE_ADDR_LO : Fld := ⟨0x103C0048, 0x0, 0, 32⟩
def BT_UCODE_ADDR_HI : Fld := ⟨0x103C004C, 0x0, 0, 8⟩
def BT_UCODE_LEN : Fld := ⟨0x103C0050, 0x0, 0, 32⟩
def BT_HOSTBOOT_LO : Fld := ⟨0x103C0054, 0x0, 0, 32⟩
def BT_HOSTBOOT_HI_GO : Fld := ⟨0x103C0058, 0x0, 31, 1⟩
def BT_HOSTBOOT_HI_ADDR : Fld := ⟨0x103C0058, 0x0, 0, 8⟩
def BT_SERIAL_LO : Fld := ⟨0x103C005C, 0x0, 0, 32⟩
def BT_SERIAL_HI : Fld := ⟨0x103C0060, 0x0, 0, 32⟩
def BT_UPDATE_OPEN : Fld := ⟨0x103C0064, 0x0, 31, 1⟩
def BT_UPDATE_SLOT : Fld := ⟨0x103C0064, 0x0, 30, 1⟩
def BT_UPDATE_KIND : Fld := ⟨0x103C0064, 0x0, 28, 2⟩
def BT_UPDATE_WRITTEN : Fld := ⟨0x103C0064, 0x0, 0, 28⟩
def BT_SETTINGS : Fld := ⟨0x103C0068, 0x0, 0, 2⟩
def BT_TAMPER_CAUSE (k : Nat) : Fld := ⟨0x103C006C, 0x0, 1 * k, 1⟩
def BT_DBG_NONCE (j : Nat) : Fld := ⟨0x103C0100 + 4 * j, 0x0, 0, 32⟩
def BT_DBG_RESP (j : Nat) : Fld := ⟨0x103C0120 + 4 * j, 0x0, 0, 32⟩
def BT_DBG_CTRL_SUBMIT : Fld := ⟨0x103C0180, 0x0, 31, 1⟩
def BT_DBG_CTRL_SCOPE : Fld := ⟨0x103C0180, 0x0, 8, 2⟩
def BT_DBG_CTRL_RESULT : Fld := ⟨0x103C0180, 0x0, 0, 8⟩
def BT_PROV_KEY (j : Nat) : Fld := ⟨0x103C0200 + 4 * j, 0x0, 0, 32⟩
def BT_PROV_HASH (j : Nat) : Fld := ⟨0x103C0220 + 4 * j, 0x0, 0, 32⟩
def BT_PROV_CTRL_PROGRAM : Fld := ⟨0x103C0250, 0x0, 31, 1⟩
def BT_PROV_CTRL_RESULT : Fld := ⟨0x103C0250, 0x0, 0, 8⟩

/-! ## TM -/

def TM_CTRL_START : Fld := ⟨0x103A0000, 0x40000, 31, 1⟩
def TM_CTRL_ABORT : Fld := ⟨0x103A0000, 0x40000, 30, 1⟩
def TM_CTRL_APPLY : Fld := ⟨0x103A0000, 0x40000, 29, 1⟩
def TM_CTRL_DOMAIN : Fld := ⟨0x103A0000, 0x40000, 24, 2⟩
def TM_CTRL_WIN : Fld := ⟨0x103A0000, 0x40000, 16, 8⟩
def TM_CTRL_TARGET : Fld := ⟨0x103A0000, 0x40000, 0, 8⟩
def TM_STATUS_BUSY : Fld := ⟨0x103A0004, 0x0, 31, 1⟩
def TM_STATUS_RESULT : Fld := ⟨0x103A0004, 0x0, 0, 8⟩
def TM_PORTS (h : Nat) : Fld := ⟨0x103A0008 + 4 * h, 0x0, 0, 32⟩
def TM_VREF : Fld := ⟨0x103A0010, 0x0, 0, 24⟩
def TM_IREF : Fld := ⟨0x103A0014, 0x0, 0, 24⟩
def TM_PHI : Fld := ⟨0x103A0018, 0x0, 0, 16⟩
def TM_CLK_CORR : Fld := ⟨0x103A001C, 0x0, 0, 32⟩
def TM_CLK_MEAS : Fld := ⟨0x103A0020, 0x0, 0, 32⟩
def TM_EVENT_DONE : Fld := ⟨0x103A0024, 0x0, 0, 1⟩
def TM_NOTIFY_addr : Nat := 0x103A0028
def TM_D_COUNT (d : Nat) : Fld := ⟨0x103A0100 + 0x10 * d, 0x0, 0, 16⟩
def TM_D_SEC (d : Nat) : Fld := ⟨0x103A0104 + 0x10 * d, 0x0, 0, 32⟩
def TM_D_PCYC (d : Nat) : Fld := ⟨0x103A0108 + 0x10 * d, 0x0, 0, 24⟩
def TM_D_LAST (d : Nat) : Fld := ⟨0x103A010C + 0x10 * d, 0x0, 0, 8⟩
def TM_TAP_TAP (n k : Nat) : Fld := ⟨0x103A1000 + 0x10 * n, 0x0, 8 * k, 6⟩
def TM_BOARD_BOARD (n k : Nat) : Fld := ⟨0x103A1004 + 0x10 * n, 0x0, 8 * k, 8⟩
def TM_FLIP_FLIP (n k : Nat) : Fld := ⟨0x103A1008 + 0x10 * n, 0x0, 8 * k, 7⟩
def TM_EDGE_NOEDGE (n k : Nat) : Fld := ⟨0x103A100C + 0x10 * n, 0x0, 4 + 1 * k, 1⟩
def TM_EDGE_SAT (n k : Nat) : Fld := ⟨0x103A100C + 0x10 * n, 0x0, 1 * k, 1⟩

/-! ## The common ring registers (R116) and the NOTIFY layout (R63) -/

def RING_LO (b : Nat) : Fld := ⟨b + 0, 0x0, 0, 32⟩
def RING_HI (b : Nat) : Fld := ⟨b + 4, 0x0, 0, 8⟩
def RING_CTRL_ENABLE (b : Nat) : Fld := ⟨b + 8, 0x4, 31, 1⟩
def RING_CTRL_RESET (b : Nat) : Fld := ⟨b + 8, 0x4, 30, 1⟩
def RING_CTRL_LOG2SIZE (b : Nat) : Fld := ⟨b + 8, 0x4, 0, 4⟩
def RING_TAIL (b : Nat) : Fld := ⟨b + 12, 0x0, 0, 16⟩
def RING_HEAD (b : Nat) : Fld := ⟨b + 16, 0x0, 0, 16⟩
def NOTIFY_ENABLE (b : Nat) : Fld := ⟨b + 0, 0x0, 31, 1⟩
def NOTIFY_CORE (b : Nat) : Fld := ⟨b + 0, 0x0, 16, 3⟩
def NOTIFY_THREAD (b : Nat) : Fld := ⟨b + 0, 0x0, 8, 6⟩
def NOTIFY_SIGNAL (b : Nat) : Fld := ⟨b + 0, 0x0, 0, 4⟩

end Sys2Proof.Machine
end

