-- ==== Sys2Proof/Machine/State.lean ====
section
/-!
DEFINITION. The state of the part: its registers, its memories and the state its units keep beside their registers,
as plain data, and the queue of the commands that wait. Every register the spec names lives in `regs` under its
address, at its reset value while it is not listed there.
-/

namespace Sys2Proof.Machine

/-- Why the part would stop. The spec names no event after which the part stops for good, so there is no constructor:
safe, since a step can then never answer a fault. -/
inductive Fault
  deriving DecidableEq, Repr

/-- Why a command has no meaning in the model. -/
inductive Refusal
  /-- Raised by `exec` for a row of the table that has no meaning yet. Safe: nothing can be proved of its result. -/
  | notModelled (mnemonic : String)
  deriving DecidableEq, Repr

/-! ## Yardstick -/

/-- What Yardstick keeps of a reference source (R46, R50, R51); `anchor` is the position of a frequency source's last event, an exact
fraction of position units. -/
structure YsSource where
  lastTick : Option Nat := none
  valid : Nat := 0
  missing : Nat := 0
  anchor : Option (Int × Nat) := none
  lastCount : Nat := 0
  days : Nat := 0
  deriving DecidableEq, Repr

/-- A trigger action taken up by Yardstick (R76). -/
structure Takeup where
  slot : Nat
  out : Nat
  action : Nat
  width : Nat
  due : Nat
  made : Bool
  deriving DecidableEq, Repr

/-- Where a re-base leads and how many boundaries it still waits for (R58, R59), and whether a beacon announced it. -/
structure Rebase where
  w : Int
  target : Nat
  wait : Nat
  fromMaster : Bool := false
  deriving DecidableEq, Repr

/-- Yardstick's own state. `pos` is the position of R40, `tick` the cascade tick of R63; `rem` is the remainder of R42,
`fracDue` the fraction already owed to the frame that the next boundary opens, `checked` the position up to which the slots have
been looked at; `tickDebt` is how far a member's tick has yet to slew, `tickRem` the part of a tick that the clock correction has
gathered, in 0.001 ppm of a tick (R63, R517); `integral` is the loop's integral term in units of 2^-32 of 0.001 ppm (R55). -/
structure Ys where
  pos : Nat := 0
  tick : Nat := 0
  rem : Nat := 0
  fracDue : Nat := 0
  checked : Nat := 0
  savedTick : Nat := 0
  aonTime : Nat := 0
  tickDebt : Int := 0
  tickRem : Int := 0
  seq : Nat := 0
  aligned : Bool := false
  sources : SMap YsSource := []
  integral : Int := 0
  recent : List Int := []
  lockRun : Nat := 0
  rebase : Option Rebase := none
  snap : Option Int := none
  snapped : Bool := false
  clock : Int := 0
  trig : List Takeup := []
  pulseEnd : SMap Nat := []
  lastCapture : SMap (Option Nat) := []
  deriving DecidableEq, Repr

/-! ## Chandler and Foreman -/

/-- The states of a thread (R267). -/
inductive ThreadState | dormant | ready | running | blocked | suspended
  deriving DecidableEq, Repr

/-- What a BLOCKED thread waits on (R246), with the registers its instruction writes. -/
inductive Wait
  | none
  | position (p : Nat) (rd : Nat)
  | sleep (rd : Nat)
  | signal (mask : Nat) (rd : Nat)
  | mailbox (sender : Nat) (rd rb : Nat)
  | fence (engine fence value : Nat) (rd : Nat)
  | room (core thread bits : Nat) (rd : Nat)
  deriving DecidableEq, Repr

/-- A hardware thread: its registers while it runs or has not yet run, and what Foreman keeps of it (R267 to R271).
`result` holds the registers its completed blocking instruction writes when it next runs, `fresh` says that the
context is not in its context area yet, `nextPri` is the priority it takes when it next becomes READY (R274), `matched` and `timed` that the position comparator or the timer has already
given the wake of the present wait. -/
structure Thread where
  st : ThreadState := .dormant
  wait : Wait := .none
  deadline : Option Nat := none
  matched : Bool := false
  timed : Bool := false
  nextPri : Option Nat := none
  result : List (Nat × DWord) := []
  fresh : Bool := false
  pri : Nat := 0
  g : SMap DWord := []
  pc : DWord := 0
  sys : Bool := false
  intrap : Bool := false
  tvec : DWord := 0
  epc : DWord := 0
  ecause : DWord := 0
  eaddr : DWord := 0
  escratch : DWord := 0
  priMax : DWord := 0x3F
  retired : DWord := 0
  gen : Nat := 0
  sigpend : Nat := 0
  readyAt : Nat := 0
  deriving DecidableEq, Repr

/-- An entry of a core's pending-wake queue (R276). -/
inductive WakeEntry
  | signal (t bits : Nat)
  | timeline (t : Nat)
  | position (t : Nat) (late : Bool)
  | mailbox (sender : Nat)
  | fence (engine fence : Nat)
  | timer (t : Nat)
  deriving DecidableEq, Repr

/-- Where a held wake waits (R276). -/
inductive HeldIn
  | slot (s : Nat) (due : Nat)
  | issuer (core t : Nat)
  | source
  deriving DecidableEq, Repr

/-- A wake that found its queue full. -/
structure Held where
  entry : WakeEntry
  origin : HeldIn
  deriving DecidableEq, Repr

/-- A line of a core's cache (R265). -/
structure CacheLine where
  tag : Nat
  data : List Byte
  deriving DecidableEq, Repr

/-- A cache of a core: valid lines by set and way, and the three replacement bits of each set. -/
structure Cache where
  lines : SMap (Option CacheLine) := []
  plru : SMap Nat := []
  deriving DecidableEq, Repr

/-- The figures of one band of levels in a measurement window (R281). -/
structure Band where
  count : Nat := 0
  max : Nat := 0
  sum : Nat := 0
  deriving DecidableEq, Repr

/-- The dispatch of a thread that is coming in: its band, its waiting time in ticks, and when the switch began (R275, R281). -/
structure Entering where
  band : Nat := 0
  wait : Nat := 0
  since : Nat := 0
  deriving DecidableEq, Repr

/-- A Chandler core as Foreman sees it (R264, R273 to R282). -/
structure Core where
  queue : List WakeEntry := []
  held : List Held := []
  ready : SMap (List Nat) := []
  running : Option Nat := none
  incoming : Option Nat := none
  icache : Cache := {}
  dcache : Cache := {}
  idleSince : Nat := 0
  busySince : Option Nat := none
  busy : Nat := 0
  bands : SMap Band := []
  fullSeen : Bool := false
  lastSender : Nat := 11
  entering : Entering := {}
  deriving DecidableEq, Repr

/-- When the cores were last reset (CYCLES, R258), the watchdog and the measurement window (R281, R285). -/
structure Fm where
  resetAt : Nat := 0
  winStart : Nat := 0
  wdogKicked : Nat := 0
  wdogTimeout : Nat := 0
  wdogWarned : Bool := false
  deriving DecidableEq, Repr

/-! ## Ledger -/

/-- A record of Ledger (R460). -/
structure LRec where
  code : Nat
  src : Nat
  sev : Nat
  repeats : Nat
  sec : Nat
  pcycle : Nat
  flags : Nat
  tick : Nat
  payload : Nat
  seq : Nat
  deriving DecidableEq, Repr

/-- An entry of the hold queue: a held record, or a held repeat of the open ring record (R468). -/
structure HoldEntry where
  record : LRec
  isRepeat : Bool
  deriving DecidableEq, Repr

/-- What waits for the archive: a ring slot, or a record of its own: an update copy (R471) or a record taken with no
ring region left (R475). -/
inductive ArchItem
  | slot (n : Nat)
  | copy (r : LRec)
  deriving DecidableEq, Repr

/-- Ledger's own state (R464 to R476): whether it takes records; those taken before boot step 13 (R473); the intake queue, and whether
a record was lost since the last one; the open record with its slot (R466); when it last took a record; the hold queue, when the
freeze began and whether a record was lost in it (R468); the next slot of the ring and the retired regions (R475); what waits for
the archive, its next place, the repeats already archived, whether it is dead, whether a flush runs and when the next one is due
(R470 to R472); the next last-gasp slot (R476); whether boot step 13 has restored it. -/
structure Lg where
  taking : Bool := false
  pre : List LRec := []
  intake : List LogReq := []
  lossNext : Bool := false
  openRec : Option LRec := none
  openSlot : Option Nat := none
  lastAt : Nat := 0
  hold : List HoldEntry := []
  freezeAt : Option Nat := none
  lostFrozen : Bool := false
  ringNext : Nat := 0
  retired : List Nat := []
  archQueue : List ArchItem := []
  archNext : Nat := 0
  archRepeats : Option Nat := none
  archDead : Bool := false
  flushing : Bool := false
  gaspNext : Nat := 1
  flushAt : Nat := 0
  restored : Bool := false
  deriving DecidableEq, Repr

/-! ## Memory -/

/-- A transaction that holds a group: requester, whether it is a 2-cycle transaction of R416, when it was granted, the
CK_PIX cycles that emergency requesters took from it (R431), and whether a refused kick has recorded it (R285). -/
structure TsRun where
  req : Nat
  rmw : Bool
  since : Nat
  lost : Nat := 0
  told : Bool := false
  deriving DecidableEq, Repr

/-- What Stockroom and the external memory controller keep beside the bytes (R419 to R433): the symbols in error of a
word, the excluded and the repaired rows, the words the scrubbers visit next and what the pass has corrected; of each group the
grants, whether a longest-waiting grant is owed, the requester it parks on and the transaction that holds it; and whether inline
protection was on at the last start; and when the two scrubbers go on (in CK_PIX cycles and in ns). -/
structure Ts where
  symbols : SMap Nat := []
  excluded : SMap Bool := []
  repaired : SMap Bool := []
  scrubAt : Nat := 0
  scrubFixed : Nat := 0
  extScrubAt : Nat := 0
  grants : SMap Nat := []
  owed : SMap Bool := []
  parked : SMap (Option Nat) := []
  running : SMap (Option TsRun) := []
  protectWas : Option Bool := none
  scrubDue : Nat := 0
  extScrubDue : Nat := 0
  deriving DecidableEq, Repr

/-! ## Thimble -/

/-- A step that an engine executes (R173): its position and the tick it was delivered at, the word to execute next,
the instructions executed, the open block (descriptor, index, word after EACH), the values written through OUT, the
register writes that wait for its end (R187), and the registers as it found them. -/
structure TbStep where
  pos : Nat
  since : Nat
  pc : Nat := 0
  done : Nat := 0
  block : Option (Nat × Nat × Nat) := none
  outs : SMap (Option Nat) := []
  writes : List (Nat × Nat) := []
  saved : List Nat := []
  deriving DecidableEq, Repr

/-- What a Thimble engine keeps beside its registers: a START that waits for a step, the step being executed, the set
that waits for its tick (with the tick, R174), the targets that a stop or a disabled descriptor leaves held until
after the next latch (R183), the cycle in which an event last gave it a step (R173), and the image address of the LOAD that runs (R186). -/
structure TbEngine where
  starting : Bool := false
  step : Option TbStep := none
  set : Option (Nat × SMap (Option Nat)) := none
  fading : List Nat := []
  steppedAt : Option Nat := none
  image : Nat := 0
  deriving DecidableEq, Repr

/-- The engines, the value last published for each target while it is driven, with its tick and its engine (R182 to R184), and the targets held
up to a latch only, with its time: they are undriven from the cycle after it. -/
structure Tb where
  engines : SMap TbEngine := []
  targets : SMap (Option Nat) := []
  source : SMap (Option (Nat × Nat)) := []
  leaving : List Nat := []
  latchAt : Nat := 0
  deriving DecidableEq, Repr

/-! ## Draper -/

/-- A layer descriptor (R90). -/
structure Layer where
  buf : Nat
  stride : Nat
  slot : Nat
  format : Nat
  blend : Nat
  ss : Bool
  matrixEn : Bool
  source : Nat
  stream : Nat
  opacity : Nat
  srcX : Nat
  srcY : Nat
  srcW : Nat
  srcH : Nat
  dstX : Int
  dstY : Int
  dstW : Nat
  dstH : Nat
  stepX : Nat
  stepY : Nat
  coefs : List Int
  offs : List Int
  deriving DecidableEq, Repr

/-- An adopted command list (R89, R92): its layers lie in slot order. -/
structure DrList where
  notify : Bool
  background : Nat
  signal : Nat
  tag : Nat
  layers : List Layer
  deriving DecidableEq, Repr

/-- A layer of a composition: with its modulation, and the first byte and the row pitch of its source; an ingest layer
whose stream never completed a picture has none (R111, R113). -/
structure LayerRun where
  layer : Layer
  modOp : Nat
  dx : Int
  dy : Int
  from_ : Option (Nat × Nat)
  deriving DecidableEq, Repr

/-- The phases of a composition: waiting, begun, or abandoned with reads outstanding (R94, R97). -/
inductive CompPhase | queued | running | draining
  deriving DecidableEq, Repr

/-- A composition: its canvas and frame, the ring entry it adopted, the list in use and the admitted layers, and when its last tile is written or
its last read has returned (R95, R97). -/
structure Comp where
  canvas : Nat
  frame : Nat
  endsAt : Nat := 0
  phase : CompPhase := .queued
  entry : Option Nat := none
  list : Option DrList := none
  layers : List LayerRun := []
  cut : Bool := false
  deriving DecidableEq, Repr

/-- Draper's own state. `written` is the frame that a canvas's back half holds complete; `used` and `taken` tell which
ingest picture a canvas last used and whether the newest one has been used at all (R110, R111). -/
structure Dr where
  order : List Comp := []
  adopted : SMap (Option DrList) := []
  written : SMap (Option Nat) := []
  held : List (Nat × Nat) := []
  used : SMap (Option Nat) := []
  taken : SMap Bool := []
  watch : List (Nat × Nat × Nat) := []
  deriving DecidableEq, Repr

/-! ## Tailor and Purse -/

/-- What one recomputation of Purse gives (R136): zone predictions, gains and expected currents, and the totals. -/
structure PurseCalc where
  p : SMap Nat := []
  g : SMap Nat := []
  f : SMap Nat := []
  pt : Nat := 0
  gt : Nat := 32768
  deriving DecidableEq, Repr

/-- What a lamp of a chain port shows in a frame: its lamp-map entry, the stage-8 value of each channel (in sub-frame 0),
and the values shifted for each channel, one for each sub-frame in bit-plane mode and one in memory-driver mode. -/
structure LampOut where
  entry : Nat
  lit : List Nat
  vals : List (List Nat)
  deriving DecidableEq, Repr

/-- Tailor's and Purse's own state: zone sums by canvas, zone and channel (R135), recomputations (R137), the loop's window
(R138, R139) and when it last closed, the intensities held for the frame (R130), when each port last gave a temperature (R164), the lamps shown
in this frame and in the last one (R163), what a probe still takes away (R133), the probes to resolve with the frame ends they still wait for
(R134), the damaged words delivered in this frame (R122), when the recomputation and the Swatch copy end (R128, R137), and when each group's
source was chosen (R129). -/
structure Tl where
  sums : SMap Nat := []
  newest : PurseCalc := {}
  running : Bool := false
  toAdopt : Option PurseCalc := none
  frames : Nat := 0
  winX : SMap Nat := []
  winLimited : SMap Bool := []
  window : Option (List (Option Nat)) := none
  intensity : SMap Nat := []
  tempAt : SMap (Option Nat) := []
  shown : SMap (Option LampOut) := []
  prevShown : SMap (Option LampOut) := []
  carry : SMap Nat := []
  due : SMap (Option (Nat × Nat)) := []
  seen : List Nat := []
  windowAt : Nat := 0
  calcEnds : Nat := 0
  copyEnds : Nat := 0
  sourceAt : SMap Nat := []
  deriving DecidableEq, Repr

/-! ## Treadles and chain ports -/

/-- Why a port runs discovery (R165, R167). -/
inductive DiscWhy | enable | request | readback | absent
  deriving DecidableEq, Repr

/-- A chain port's own state: a discovery that waits, one that runs, whether it has left the program's output, whether
its chain was found absent, failed reads in a row, the plane shifted and the plane latched, and its open windows in chain clocks of the
frame (R154, R162, R165 to R167). -/
structure Port where
  asked : Option DiscWhy := none
  runs : Option DiscWhy := none
  out : Bool := false
  rejoin : Bool := false
  absent : Bool := false
  absentAt : Nat := 0
  fails : Nat := 0
  shifted : Option Nat := none
  latched : Option Nat := none
  windows : List (Nat × Nat) := []
  deriving DecidableEq, Repr

/-- What the output pins of a chain port carry apart from the bits of a shift: whether CK runs, the level of the lanes and the pin level of
CTL (R148, R149, R165, R168). -/
structure ChainPins where
  ck : Bool := false
  lanes : Bool := false
  ctl : Bool := false
  deriving DecidableEq, Repr

/-- What a Treadle puts out in a sub-frame, for the replay of a HOLD: a port's shift, a port's CTL between two clocks, and the row pins at a
clock (R159). -/
inductive Shown
  | shift (port : Nat) (da db : List Bool)
  | ctl (port start stop : Nat) (level : Bool)
  | row (clock line : Nat)
  deriving DecidableEq, Repr

/-- A Treadle's run of its program in the present frame, in chain clocks from the frame boundary: counters, sub-frame
marks, line count, the line, when the last window closes, the levels the last instructions left, and the boundaries a
HOLD still waits for (R146 to R154, R159). `closing` says that the frame's program has come to its end. `part` is what the
sub-frame that began at clock `partAt` has put out, and `last` the last complete one, of `lastLen` clocks, from its own beginning. -/
structure TdRun where
  ended : Bool := true
  clock : Nat := 0
  counters : List Nat := [0, 0, 0, 0]
  marks : Nat := 0
  lines : Nat := 0
  line : Nat := 0
  windowEnd : Nat := 0
  ck : Bool := false
  lanes : Bool := false
  ctl : Bool := false
  closing : Bool := false
  hold : Nat := 0
  part : List Shown := []
  partAt : Nat := 0
  last : List Shown := []
  lastLen : Nat := 0
  deriving DecidableEq, Repr

/-- The Treadles and their ports. -/
structure Td where
  runs : SMap TdRun := []
  ports : SMap Port := []
  deriving DecidableEq, Repr

/-! ## Network -/

/-- A stamp (R66): cascade tick, sequence number, LOCAL and device number. -/
structure Stamp where
  tick : Nat := 0
  seq : Nat := 0
  isLocal : Bool := false
  device : Nat := 0
  deriving DecidableEq, Repr

/-- A frame that waits for a medium, with the kind and number its stamp queue entry will carry (R346; kind 0: none). -/
structure TxFrame where
  frame : EthFrame
  kind : Nat
  id : Nat
  deriving DecidableEq, Repr

/-- A stamp of a frame that was sent (R346). -/
structure TsqEntry where
  tick : Nat
  seq : Nat
  queue : Nat
  kind : Nat
  id : Nat
  deriving DecidableEq, Repr

/-- A MAC's own state: transmit queues, the software rings whose head entry has its frame in a queue or on the medium, with the stamp of its
beginning (R333), the frame on the medium with its end, the groups it has joined, the stamp queue,
and the second in which each queue last recorded a drop (R327, R331, R332, R346). -/
structure Mac where
  queues : SMap (List TxFrame) := []
  inFlight : SMap Bool := []
  softStamp : SMap Stamp := []
  sending : Option (Nat × TxFrame × Nat) := none
  groups : List Nat := []
  tsq : List TsqEntry := []
  dropNoted : SMap Nat := []
  deriving DecidableEq, Repr

/-- An entry of the bridge's address table (R338). -/
structure BrEntry where
  addr : Nat
  port : Nat
  fixed : Bool
  at_ : Nat
  deriving DecidableEq, Repr

/-- An entry of the partner table (R356): temperature in signed quarter degrees as 16 bits, and when it was heard. -/
structure Partner where
  identity : Nat
  ip : Nat
  mac : Nat
  kind : Nat
  flags : Nat
  device : Nat
  temp : Nat
  port : Nat
  model : Nat
  heard : Nat
  deriving DecidableEq, Repr

/-- The PTP instance (R343 to R345): the Announce of each master heard with its time, the parent's identity, a Sync that
waits for its Follow_Up with its t2, the last (t2 - t1) with its time, the Delay_Req in flight with its t3, the last 16
path delays, good Syncs in a row, the slewing of wall time in parts per billion and what its next interval is. -/
structure Ptp where
  masters : List (PtpMsg × Nat) := []
  parent : Option (Nat × Nat) := none
  sync : Option (PtpMsg × Nat) := none
  lastMs : Option Int := none
  delay : Option (Nat × Nat) := none
  delaySeq : Nat := 0
  answered : Bool := false
  logDelay : Int := -3
  delayAt : Nat := 0
  paths : List Int := []
  good : Nat := 0
  slew : Int := 0
  deriving DecidableEq, Repr

/-- The picture that an ingest stream is assembling (R110, R347, R353): the expected sequence number, the Weft frame, the
pixels of each line received in order, the samples by pixel, and whether something was lost. -/
structure Ingest where
  next : Option Nat := none
  frame : Option Nat := none
  lines : SMap Nat := []
  data : SMap Nat := []
  bad : Bool := false
  deriving DecidableEq, Repr

/-- The network's own state. -/
structure Net where
  macs : SMap Mac := []
  table : SMap (Option BrEntry) := []
  fullNoted : Nat := 0
  nbrNoted : SMap Nat := []
  arpAt : SMap Nat := []
  partners : SMap (Option Partner) := []
  musterSeq : Nat := 0
  musterAt : SMap Nat := []
  ptp : Ptp := {}
  wall : Option Int := none
  wallRem : Int := 0
  epoch : Nat := 0
  ingests : SMap Ingest := []
  wfPending : Bool := false
  wfLine : SMap Nat := []
  pvFrames : Nat := 0
  pvTime : Nat := 0
  pvLine : Option Nat := none
  pvSeq : Nat := 0
  deriving DecidableEq, Repr

/-! ## Lamplighter -/

/-- Who feeds an input row (R207): an E1.31 source by its CID, or a DMX port. -/
inductive InId | cid (c : List Byte) | dmx (port : Nat)
  deriving DecidableEq, Repr

/-- A source of an input row: its priority, last accepted sequence number, slots, and when it was last heard (R207). -/
structure InSource where
  id : InId
  prio : Nat
  seq : Nat
  slots : List Byte
  heard : Nat
  deriving DecidableEq, Repr

/-- What Lamplighter keeps of an output row (R211, R212): the last sequence number, the slots last sent and how many
packets carried them in a row, the packet in hand with its sequence number once it has one, the MACs it is still owed to,
and when the row last sent. -/
structure OutRow where
  seq : Nat := 0
  last : Option (List Byte) := none
  same : Nat := 0
  hand : List Byte := []
  handSeq : Option Nat := none
  owed : List Nat := []
  sentAt : Option Nat := none
  deriving DecidableEq, Repr

/-- A responder of an RDM port (R219). -/
structure Responder where
  uid : Nat
  misses : Nat
  tick : Nat
  deriving DecidableEq, Repr

/-- A ring entry taken into a port's queue: its ring, its address and its first 40 bytes (R221). -/
structure RdmJob where
  ring : Nat
  addr : Nat
  entry : List Byte
  deriving DecidableEq, Repr

/-- The request an RDM port has on the line (R216 to R218): an un-mute broadcast, a branch of a range, a mute of a
responder (new, or known by its table index), or a ring's request, with the tries left, whether any response came, and
the data collected. -/
inductive RdmWork
  | unMute
  | branch (lo hi : Nat)
  | mute (uid : Nat) (known : Option Nat)
  | job (j : RdmJob) (tries : Nat) (heard : Bool) (data : List Byte)
  deriving DecidableEq, Repr

/-- A DMX port's own state: its RDM queue, the request on the line, one to be repeated, the steps that the part of a
sweep has left and which part runs (0: none), a sweep that waits with its un-mute, whether a level packet has gone since
the last transaction, when it last swept and when its line is free again, and the last transaction number (R214 to R218, R222). -/
structure DmxPort where
  queue : List RdmJob := []
  work : Option RdmWork := none
  resume : Option RdmWork := none
  steps : List RdmWork := []
  part : Nat := 0
  asked : Option Bool := none
  level : Bool := false
  sweptAt : Nat := 0
  busyTo : Nat := 0
  transaction : Nat := 0
  deriving DecidableEq, Repr

/-- Lamplighter's own state. `asm` and `send` are the banks of the universe buffers by row and slot; `tabS` and `tabA`
the shadow and active banks of the internal tables by word; `held` the packets that wait for room on a MAC. -/
structure Ll where
  asm : SMap Byte := []
  send : SMap Byte := []
  started : Nat := 0
  due : Nat := 0
  copyAt : Nat := 0
  late : Bool := false
  badNoted : Bool := false
  spillNoted : Bool := false
  assembled : Bool := false
  adopted : Bool := false
  inCycle : List Nat := []
  rows : SMap OutRow := []
  held : List (Nat × Nat × TxFrame) := []
  sources : SMap (Option InSource) := []
  tabS : SMap Word := []
  tabA : SMap Word := []
  copied : Nat := 0
  syncSeq : SMap Nat := []
  discoveryAt : Nat := 0
  responders : SMap (Option Responder) := []
  ports : SMap DmxPort := []
  deriving DecidableEq, Repr

/-! ## Host ports, Hasps, mailboxes and Bobbins -/

/-- The identity of a requester (R299, R301): kind, index and generation. -/
structure Ident where
  kind : Nat
  index : Nat
  gen : Nat
  deriving DecidableEq, Repr

/-- A Hasp: its owner, and whether it was last freed as an orphan (R301, R303). -/
structure Hasp where
  owner : Option Ident := none
  orphan : Bool := false
  deriving DecidableEq, Repr

/-- A message of a mailbox with its tag (R306, R309). -/
structure MbWord where
  value : DWord
  gen : Nat
  thread : Nat
  device : Nat
  coll : Bool := false
  deriving DecidableEq, Repr

/-- A mailbox: its messages, oldest first (R306). -/
structure Mbox where
  words : List MbWord := []
  deriving DecidableEq, Repr

/-- A byte in a Bobbin with its stamp; `bad` says that its parity fails (R315, R316). -/
structure BbByte where
  val : Byte
  tick : Nat
  seq : Nat
  bad : Bool
  deriving DecidableEq, Repr

/-- A Bobbin (R315 to R318): its bytes, whether bytes were dropped before the next word, whether the last byte was
dropped, the time its staleness counts from, and whether its stale notice has been given since the last read. -/
structure Bobbin where
  bytes : List BbByte := []
  ovf : Bool := false
  dropping : Bool := false
  since : Nat := 0
  told : Bool := false
  deriving DecidableEq, Repr

/-- The XN window (R320 to R322): the levels last written, the levels in effect, the writes deferred to the next boundary,
and whether rows 0 to 255 take their slots from it. -/
structure Xn where
  written : SMap Byte := []
  levels : SMap Byte := []
  deferred : List (Nat × Byte) := []
  rows : Bool := false
  deriving DecidableEq, Repr

/-- An entry of a port's MSI-X table in BAR2, with its bit of the pending-bit array (R290, R298). -/
structure Msix where
  addr : Nat := 0
  data : Nat := 0
  masked : Bool := true
  held : Bool := false
  deriving DecidableEq, Repr

/-- The host ports', Hasps', mailboxes' and Bobbins' own state. `low` holds each port's MB_TXLO; `moved` is how far the entry in progress of a
DMA ring has come, and `served` the ring of each port that had the last turn (R295). -/
structure Hst where
  hasps : SMap Hasp := []
  boxes : SMap Mbox := []
  low : SMap Word := []
  txStat : SMap Nat := []
  bobbins : SMap Bobbin := []
  xn : Xn := {}
  octal : SMap Bool := []
  xspiErr : SMap Bool := []
  moved : SMap Nat := []
  served : SMap Nat := []
  deriving DecidableEq, Repr

/-! ## Start and update -/

/-- The one-time-programmable fuses (R290, R369, R435, R505): the Shuttle links' asymmetry in units of 1/8 ns; keys and hashes as numbers, most significant byte first. -/
structure Fuses where
  serial : Nat := 0
  vendor : Nat := 0
  grade : Nat := 0
  rollback : Nat := 0
  owned : Bool := false
  vendorHash : Nat := 0
  ownerHash : Nat := 0
  vendorKey : Nat := 0
  ownerKey : Nat := 0
  asymUp : Int := 0
  asymDn : Int := 0
  deriving DecidableEq, Repr

/-- An update session (R500): its owner, its slot, the spans written (each from its first offset to the one after its last), and
whether its header has been checked. -/
structure Session where
  owner : Ident
  slot : Nat
  spans : List (Nat × Nat) := []
  checked : Bool := false
  deriving DecidableEq, Repr

/-- A service request in progress (R313): the OK reply that its endpoint is to have, and when. -/
structure Serving where
  ep : Endpoint
  op : Nat
  tag : Nat
  value : Nat
  due : Nat
  deriving DecidableEq, Repr

/-- What the boot and security block keeps beside its registers: fuses; the update session; when a RESET command takes
effect; whether the device has halted (R487), waits at a step, has yet to start, starts from power-on, and has its service
agent running with the requests in progress; whether this start's configuration word is to enable Shuttle (R65); what the
boot ROM met so far; of the booted image its source, settings format, key and entry; the exclusion list, sequence number,
place and power-cycle count of the next journal record (R489, R490); when the step in progress began; the cleared key ladder
and the block on submissions (R507); the bytes of an IMAGE collected and the offset to serve next (R499); what holds the
device in reset (R508); what the next start has to record (R286, R486, R508); and a microcode load that runs, with its unit,
address and length (R496). -/
structure Boot where
  fuse : Fuses := {}
  session : Option Session := none
  resetAt : Option Nat := none
  halted : Bool := false
  waits : Option Nat := none
  fromFlash : Bool := false
  setfmt : Nat := 0
  keysel : Nat := 0
  excl : List Nat := []
  atStart : Bool := true
  cold : Bool := true
  agent : Bool := false
  env : Option BootEnv := none
  jseq : Nat := 0
  jnext : Nat := 0
  jcount : Nat := 0
  stepAt : Nat := 0
  keysGone : Bool := false
  blockedTo : Nat := 0
  collected : List (Nat × Nat) := []
  serveAt : Nat := 0
  tamperHeld : Nat := 0
  tapHeld : Bool := false
  pendBite : Bool := false
  pendStep : Option Nat := none
  pendTamper : Option Nat := none
  serving : SMap (Option Serving) := []
  willShuttle : Bool := true
  ucode : Option (Nat × Nat × Nat) := none
  deriving DecidableEq, Repr

/-! ## Shuttle -/

/-- What Shuttle keeps beside its registers (R362 to R382): the next SEQ; whether it runs and whether it has yet to pass a frame
boundary; the MASTER_SEL strap; the sender and SEQ of the last frame taken that came both ways; of each device number its ring position,
CGEN, links reported down and surveys missed in a row; the numbers present, those heard in this survey, whether one had no
number, whether a survey runs and whether its replies are still awaited; the last 64 delays of each link; beacons missed in a
row, when the beacon was lost, whether the freewheel limit has passed and whether a regained beacon is to be recorded; the
deputy announced, and whether this one is to act; the position of a RECLAIM; records that wait to be forwarded; the second in
which each link last recorded drops; a number received whose first beacon has not come; when the wait for ASSIGN ends; the number of the device that sent the last
beacon; and a second master met since power-on (R377). -/
structure Sh where
  seq : Nat := 0
  started : Bool := false
  fresh : Bool := false
  master : Bool := false
  lastTaken : Option (Nat × Nat) := none
  positions : SMap Nat := []
  gens : SMap Nat := []
  downs : List (Nat × Bool) := []
  missed : SMap Nat := []
  present : List Nat := []
  heard : List Nat := []
  unnumbered : Bool := false
  surveyed : Bool := false
  surveying : Bool := false
  upDelays : List Nat := []
  dnDelays : List Nat := []
  misses : Nat := 0
  lostAt : Option Nat := none
  held : Bool := false
  regaining : Bool := false
  announced : Option Nat := none
  actingNext : Bool := false
  reclaim : Option Nat := none
  records : List (List Byte) := []
  dropNoted : SMap (Option Nat) := []
  joining : Option Nat := none
  assignBy : Option Nat := none
  surveyAt : Nat := 0
  measureAt : Nat := 0
  masterNo : Nat := 0
  conflicted : Bool := false
  deriving DecidableEq, Repr

/-! ## Mantle -/

/-- The phases of a claim (R389): none, waiting for a high line, in the confirm window, backing off; with its end. -/
inductive Claim | none | wait (till : Nat) | confirm (till : Nat) | backoff (till : Nat)
  deriving DecidableEq, Repr

/-- What Mantle keeps beside its registers (R385 to R413): frames sent; the line (pulled low by this device, read low); whether
PAIR_ALIVE_O runs; the claim with its conflicts in a row; whether the peer reads as owning and its last role; HELLO sent
and received; whether pairing goes on in the background, and when step 11 ends; own signatures, and received ones not yet
compared, and mismatches in a row of a kind and index; the health words of a divergence and of the last HEALTH sent, and whether
the active is to yield; the frame being copied out, whether the next COPY is a frame's first, whether the boundary adopts a copy, and
the frame last copied; profile requests of R397 (frame, profile, time) and their decision frame; a recovery's start; kill pulses, whether
one runs and when it began; what the health word counts; PAIR_SEL to be driven by its time, and the line count of SEL_TREADLE then; a
pending commit; when HEALTH is next sent; of the copy being sent the bytes sent, their running CRC and when the next COPY frame goes; the level
of PAIR_ALIVE_O and its next edge; and when PROFILE is next sent. -/
structure Mt where
  seq : Nat := 0
  pulls : Bool := false
  low : Bool := false
  alive : Bool := false
  claim : Claim := .none
  conflicts : Nat := 0
  peerOwns : Bool := false
  peerRole : Nat := 0
  helloSent : Bool := false
  hello : Option HelloFrame := none
  background : Bool := false
  stepEnd : Option Nat := none
  sigs : List SigEntry := []
  peerSigs : List SigEntry := []
  streak : SMap Nat := []
  diverged : Option Nat := none
  wordSent : Nat := 0
  yields : Bool := false
  copying : Option Nat := none
  copyFresh : Bool := true
  adopt : Bool := false
  copied : Option Nat := none
  own : Option (Nat × Nat × Nat) := none
  peer : Option (Nat × Nat × Nat) := none
  decideAt : Option Nat := none
  recovery : Option Nat := none
  kills : Nat := 0
  killing : Bool := false
  killAt : Nat := 0
  faults : List (Nat × Nat) := []
  selBy : Option Nat := none
  commit : Bool := false
  healthAt : Nat := 0
  sent : Nat := 0
  copyCrc : Nat := 0xFFFFFFFF
  copyAt : Nat := 0
  selLine : Nat := 0
  aliveOut : Bool := false
  aliveAt : Nat := 0
  profileAt : Nat := 0
  deriving DecidableEq, Repr

/-! ## Tally and Trim -/

/-- What Tally keeps of a channel (R441, R442, R450, R451): the last two corrected samples, the scaled sample it feeds its circuits
with and the one before it, the detector (armed, the last sample below 0 with its tick, the crossing that awaits HYST), the last
crossing, the last valid interval and the valid crossings in a row, and the window's first crossing and intervals. -/
structure TyChan where
  prev : Int := 0
  now : Int := 0
  u : Int := 0
  uPrev : Int := 0
  armed : Bool := false
  below : Option (Int × Nat) := none
  cross : Option Nat := none
  last : Option Nat := none
  gap : Nat := 0
  run : Nat := 0
  first : Option Nat := none
  count : Nat := 0
  satNoted : Bool := false
  deriving DecidableEq, Repr

/-- What Tally keeps of a circuit (R442 to R448): samples and sums of the period, sums of the window, whether a fault fell in
the window, and samples of fault not yet a whole ms. -/
structure TyCirc where
  n : Nat := 0
  p : Int := 0
  sv : Nat := 0
  si : Nat := 0
  wv : Nat := 0
  wi : Nat := 0
  wp : Int := 0
  wm : Int := 0
  fault : Bool := false
  faultPart : Nat := 0
  deriving DecidableEq, Repr

/-- What Tally keeps of a pulse output (R452): the count A, the end of the pulse, when it last went inactive, the minute of
the last record, and a change of its registers that waits for a sample. -/
structure TyPulse where
  acc : Nat := 0
  till : Option Nat := none
  idleAt : Nat := 0
  noted : Option Nat := none
  changed : Bool := false
  deriving DecidableEq, Repr

/-- Tally's own state: samples since the start and in the window, channels, circuits, residues by circuit and quantity, pulse
outputs, a snapshot and a save that wait for a sample, the captured record that is being written, the
place in the save ring and the sequence number of the next one, when the next save is due, samples seen by each export, and when sampling stopped
(R439 to R458). -/
structure Ty where
  samples : Nat := 0
  window : Nat := 0
  chans : SMap TyChan := []
  circs : SMap TyCirc := []
  res : SMap Nat := []
  pulses : SMap TyPulse := []
  snap : Bool := false
  saveNow : Bool := false
  save : Option (List Byte) := none
  slot : Nat := 0
  seq : Nat := 0
  saveAt : Nat := 0
  exports : SMap Nat := []
  stopped : Option Nat := none
  deriving DecidableEq, Repr

/-- The Trim run in progress (R511): domain, APPLY, TARGET, ports, and its start. -/
structure TrimRun where
  domain : Nat
  apply : Bool
  target : Nat
  win : Nat
  ports : Nat
  since : Nat
  deriving DecidableEq, Repr

/-! ## What leaves the part -/

/-- What the part has sent or driven, oldest first: the model's own record of its outputs. A chain port's CTL is de-asserted outside the
intervals that `ctl` gives; `flat` is a number of steps of one level on a port's lanes. -/
inductive OutMsg
  | vector (port v : Nat)
  | chain (port : Nat) (da db : List Bool)
  | flat (port steps : Nat) (one : Bool)
  | ctl (port start stop : Nat) (level : Bool)
  | row (treadle clock line : Nat)
  | eth (port : Nat) (frame : EthFrame)
  | dmx (port : Nat) (slots : List Byte)
  | rdm (port : Nat) (work : RdmWork) (transaction : Nat) (data : List Byte)
  | dma (port : Nat) (addr : Nat) (data : List Byte) (poison : Bool)
  | shuttle (link : ShLink) (seq : Nat) (f : ShFrame)
  | pair (seq : Nat) (f : PairFrame)
  | ownLine (low : Bool)
  | kill (low : Bool)
  | sel (drive : Bool) (side : Nat)
  deriving DecidableEq, Repr

/-! ## The whole part -/

/-- The state of the part. -/
structure State where
  pending : List Instr := []
  now : Nat := 0
  freeCount : Nat := 0
  regs : SMap Word := []
  active : SMap Word := []
  predicted : SMap Word := []
  latches : SMap Word := []
  reply : List Byte := []
  mem : SMap Byte := []
  poison : SMap Bool := []
  flash : SMap Byte := []
  ys : Ys := {}
  threads : SMap Thread := []
  cores : SMap Core := []
  fm : Fm := {}
  lg : Lg := {}
  ts : Ts := {}
  dr : Dr := {}
  tb : Tb := {}
  tl : Tl := {}
  td : Td := {}
  net : Net := {}
  ll : Ll := {}
  hst : Hst := {}
  msix : SMap Msix := []
  boot : Boot := {}
  sh : Sh := {}
  mt : Mt := {}
  ty : Ty := {}
  trim : Option TrimRun := none
  fences : SMap Nat := []
  out : List OutMsg := []
  deriving DecidableEq, Repr

/-- The machine right after power-on reset: every register at its reset value, nothing in memory, boot at step 0. -/
def State.reset : State := {}

end Sys2Proof.Machine
end

