-- ==== Sys2Proof/Machine/Ops.lean ====
section
/-!
DEFINITION. What a step can do to the state, said once: an update (`Upd`) replaces one register, one byte or one
unit's own state, and an action (`Act`) answers the list of updates it makes in a given state. Every command is an
action, so what holds of every update holds of every command. After that, the operations every unit shares: register
fields, counters, event bits with their NOTIFY signals and interrupt vectors, the pending-wake queues, Ledger's intake,
stamps, and memory.
-/

namespace Sys2Proof.Machine

/-- One update of the state. Registers carry their reset value, which an unlisted register reads as. -/
inductive Upd
  | now (t : Nat)
  | free (n : Nat)
  | reg (a : Nat) (reset : Nat) (v : Word)
  | active (a : Nat) (reset : Nat) (v : Word)
  | predicted (a : Nat) (reset : Nat) (v : Word)
  | latch (k : Nat) (v : Word)
  | reply (bs : List Byte)
  | keepRegs (p : Nat → Bool)
  | mem (a : Nat) (b : Byte)
  | poison (w : Nat) (p : Bool)
  | flash (a : Nat) (b : Byte)
  | clearMem (lo hi : Nat)
  | thread (k : Nat) (t : Thread)
  | core (k : Nat) (c : Core)
  | intake (r : LogReq)
  | ys (x : Ys)
  | fm (x : Fm)
  | lg (x : Lg)
  | ts (x : Ts)
  | out (m : OutMsg)
  | fence (k : Nat) (v : Nat)
  | clearFlash (lo hi : Nat)
  | activate (lo hi : Nat)
  | predict (lo hi : Nat)
  | scan (lo hi : Nat)
  | dr (x : Dr)
  | tb (x : Tb)
  | tl (x : Tl)
  | td (x : Td)
  | net (x : Net)
  | ll (x : Ll)
  | hst (x : Hst)
  | msix (k : Nat) (x : Msix)
  | boot (x : Boot)
  | sh (x : Sh)
  | mt (x : Mt)
  | ty (x : Ty)
  | trim (x : Option TrimRun)

/-- The integer square root, rounded down: bit by bit from bit `k - 1` down. -/
def isqrtFrom : Nat → Nat → Nat → Nat
  | 0, _, r => r
  | k + 1, n, r => isqrtFrom k n (if (r + 2 ^ k) * (r + 2 ^ k) ≤ n then r + 2 ^ k else r)
/-- The integer square root, rounded down. -/
def isqrt (n : Nat) : Nat := isqrtFrom (Nat.log2 n / 2 + 1) n 0

/-- What a byte of memory that nothing has written reads as. DESIGN CHOICE (log 3): zero; unsafe. -/
def memReset : Byte := 0

/-- The most records Ledger's intake queue holds (R464). -/
def intakeSize : Nat := 64

/-- The state with one update made. A record that finds the intake queue full is not queued (R464). -/
def Upd.apply (s : State) : Upd → State
  | .now t => { s with now := t }
  | .free n => { s with freeCount := n }
  | .reg a r v => { s with regs := s.regs.set (BitVec.ofNat 32 r) a v }
  | .active a r v => { s with active := s.active.set (BitVec.ofNat 32 r) a v }
  | .predicted a r v => { s with predicted := s.predicted.set (BitVec.ofNat 32 r) a v }
  | .latch k v => { s with latches := s.latches.set 0 k v }
  | .reply bs => { s with reply := bs }
  | .keepRegs p => { s with regs := s.regs.keep p, active := s.active.keep p, predicted := s.predicted.keep p,
                            latches := [] }
  | .mem a b => { s with mem := s.mem.set memReset a b }
  | .poison w p => { s with poison := s.poison.set false w p }
  | .flash a b => { s with flash := s.flash.set 0xFF a b }
  | .clearMem lo hi => { s with mem := s.mem.keep fun a => decide (a < lo ∨ hi ≤ a),
                                poison := s.poison.keep fun w => decide (w * 32 < lo ∨ hi ≤ w * 32) }
  | .thread k t => { s with threads := s.threads.set {} k t }
  | .core k c => { s with cores := s.cores.set {} k c }
  | .intake r =>
    if s.lg.intake.length < intakeSize then { s with lg := { s.lg with intake := s.lg.intake ++ [r] } } else s
  | .ys x => { s with ys := x }
  | .fm x => { s with fm := x }
  | .lg x => { s with lg := x }
  | .ts x => { s with ts := x }
  | .out m => { s with out := s.out ++ [m] }
  | .fence k v => { s with fences := s.fences.set 0 k v }
  | .activate lo hi => { s with active := s.active.splice lo hi s.regs }
  | .predict lo hi => { s with predicted := s.predicted.splice lo hi s.regs }
  | .scan lo hi => { s with active := s.active.splice lo hi s.predicted }
  | .dr x => { s with dr := x }
  | .tb x => { s with tb := x }
  | .tl x => { s with tl := x }
  | .td x => { s with td := x }
  | .net x => { s with net := x }
  | .ll x => { s with ll := x }
  | .hst x => { s with hst := x }
  | .msix k x => { s with msix := s.msix.set {} k x }
  | .boot x => { s with boot := x }
  | .sh x => { s with sh := x }
  | .mt x => { s with mt := x }
  | .ty x => { s with ty := x }
  | .trim x => { s with trim := x }
  | .clearFlash lo hi => { s with flash := s.flash.keep fun a => decide (a < lo ∨ hi ≤ a) }

/-- The state with a list of updates made in order. -/
def applyAll : List Upd → State → State
  | [], s => s
  | u :: us, s => applyAll us (u.apply s)

/-- An action: the updates it makes in a state. -/
abbrev Act := State → List Upd

/-- The state after an action. -/
def Act.run (a : Act) (s : State) : State := applyAll (a s) s

/-- The action that changes nothing. -/
def skip : Act := fun _ => []

/-- One action after another, each seeing the state the ones before it leave. -/
def acts : List Act → Act
  | [], _ => []
  | a :: as, s => let us := a s; us ++ acts as (applyAll us s)

/-- An action chosen by the state it starts in. -/
def withS (f : State → Act) : Act := fun s => f s s

/-- An action made only if a condition holds. -/
def whenDo (c : Bool) (a : Act) : Act := if c then a else skip

/-- An action for each of `0 … n - 1`. -/
def forN (n : Nat) (f : Nat → Act) : Act := acts ((List.range n).map f)

/-- An action for each element of a list. -/
def forEach {α : Type} (l : List α) (f : α → Act) : Act := acts (l.map f)

/-- The outcome of a command that runs an action. -/
def done (a : Act) (s : State) : Host.Outcome State Fault Refusal := .next (a.run s)

/-! ## Registers -/

/-- The value a register reads as in a register map. -/
def regOf (m : SMap Word) (f : Fld) : Word := m.get (BitVec.ofNat 32 f.reset) f.addr

/-- A field's value as the register holds it; of an RWS field, the shadow (R9). -/
def State.rd (s : State) (f : Fld) : Nat := f.of (regOf s.regs f)

/-- An RWS field's value in effect. -/
def State.rdA (s : State) (f : Fld) : Nat := f.of (regOf s.active f)

/-- An RWS field's value in effect for Purse's prediction (R127). -/
def State.rdP (s : State) (f : Fld) : Nat := f.of (regOf s.predicted f)

/-- A one-bit field. -/
def State.on (s : State) (f : Fld) : Bool := s.rd f == 1

/-- A one-bit RWS field in effect. -/
def State.onA (s : State) (f : Fld) : Bool := s.rdA f == 1

/-- Replace a field. -/
def wr (f : Fld) (n : Nat) : Act := fun s => [.reg f.addr f.reset (f.put (regOf s.regs f) n)]

/-- Replace a field in effect. -/
def wrA (f : Fld) (n : Nat) : Act := fun s => [.active f.addr f.reset (f.put (regOf s.active f) n)]

/-- Put the shadow of the register that holds `f` into effect. -/
def apply1 (f : Fld) : Act := fun s => [.active f.addr f.reset (regOf s.regs f)]

/-- Put the shadows of the registers from `lo` to below `hi` into effect. -/
def applyRange (lo hi : Nat) : Act := fun _ => [.activate lo hi]

/-- Put the shadows of the registers from `lo` to below `hi` into effect for prediction (R127). -/
def predictRange (lo hi : Nat) : Act := fun _ => [.predict lo hi]

/-- Put the prediction settings from `lo` to below `hi` into effect for scan-out (R127). -/
def scanRange (lo hi : Nat) : Act := fun _ => [.scan lo hi]

/-- Add to a counter field that stops at its greatest value. -/
def count (f : Fld) (n : Nat) : Act := withS fun s => wr f (satAdd (2 ^ f.width - 1) (s.rd f) n)

/-- Add to a counter field modulo its width. -/
def bump (f : Fld) (n : Nat) : Act := withS fun s => wr f (s.rd f + n)

/-- Set a status field. -/
def result (f : Fld) (st : Status) : Act := wr f st.code

/-- Write a 64-bit value into a pair of registers. -/
def wrPair (lo hi : Fld) (n : Nat) : Act := acts [wr lo n, wr hi (n / 2 ^ 32)]

/-- The value of a pair of registers. -/
def State.pair (s : State) (lo hi : Fld) : Nat := s.rd lo + s.rd hi * 2 ^ 32

/-- The value in effect of a pair of registers. -/
def State.pairA (s : State) (lo hi : Fld) : Nat := s.rdA lo + s.rdA hi * 2 ^ 32

/-! ## Unit state -/

def updYs (f : Ys → Ys) : Act := fun s => [.ys (f s.ys)]
def updFm (f : Fm → Fm) : Act := fun s => [.fm (f s.fm)]
def updLg (f : Lg → Lg) : Act := fun s => [.lg (f s.lg)]
def updTs (f : Ts → Ts) : Act := fun s => [.ts (f s.ts)]
def updDr (f : Dr → Dr) : Act := fun s => [.dr (f s.dr)]
def updTl (f : Tl → Tl) : Act := fun s => [.tl (f s.tl)]
def updTd (f : Td → Td) : Act := fun s => [.td (f s.td)]
def updNet (f : Net → Net) : Act := fun s => [.net (f s.net)]
def updLl (f : Ll → Ll) : Act := fun s => [.ll (f s.ll)]
def updSh (f : Sh → Sh) : Act := fun s => [.sh (f s.sh)]
def updMt (f : Mt → Mt) : Act := fun s => [.mt (f s.mt)]
def updTy (f : Ty → Ty) : Act := fun s => [.ty (f s.ty)]
def setTrim (x : Option TrimRun) : Act := fun _ => [.trim x]
def updBoot (f : Boot → Boot) : Act := fun s => [.boot (f s.boot)]
def updHst (f : Hst → Hst) : Act := fun s => [.hst (f s.hst)]
def updTb (f : Tb → Tb) : Act := fun s => [.tb (f s.tb)]
def emit (m : OutMsg) : Act := fun _ => [.out m]
def State.core (s : State) (c : Nat) : Core := s.cores.get {} c
def updCore (c : Nat) (f : Core → Core) : Act := fun s => [.core c (f (s.core c))]
/-- The key of thread `t` of core `c`. -/
def tkey (c t : Nat) : Nat := c * 64 + t
def State.thread (s : State) (c t : Nat) : Thread := s.threads.get {} (tkey c t)
def updThread (c t : Nat) (f : Thread → Thread) : Act := fun s => [.thread (tkey c t) (f (s.thread c t))]
/-- What a read hands to its requester. -/
def reply (bs : List Byte) : Act := fun _ => [.reply bs]
/-- The free value of this moment, for an action to use (log 2); the next use takes another. -/
def withFree (f : Nat → Act) : Act := fun s => .free (s.freeCount + 1) :: f (Config.freeValue s.freeCount) s

/-! ## Which units are enabled (R3, R36) -/

/-- Bit `k` of the configuration word in effect. -/
def State.unit (s : State) (k : Nat) : Bool := bit (s.rd SYS_UNITS_WORD) k
/-- The numbers of the configuration bits of SYS_UNITS. -/
inductive UnitBit | draper | treadle | thimble | lamplighter | dmx | trunk | fixports | shuttle | mantle | tally
  deriving DecidableEq, Repr
def UnitBit.bit : UnitBit → Nat
  | .draper => 8 | .treadle => 9 | .thimble => 10 | .lamplighter => 11 | .dmx => 12 | .trunk => 13
  | .fixports => 14 | .shuttle => 15 | .mantle => 16 | .tally => 17
/-- The bit of BT_UCODE.LOADED of a unit that needs microcode (R496). -/
def UnitBit.ucode : UnitBit → Option Nat
  | .treadle => some 0 | .thimble => some 1 | .draper => some 2 | _ => none
/-- The unit is enabled; one without its microcode is as a disabled unit (R496). -/
def State.has (s : State) (u : UnitBit) : Bool :=
  s.unit u.bit && (match u.ucode with | some k => s.on (BT_UCODE_LOADED k) | none => true)
/-- Core `c` is enabled. -/
def State.coreOn (s : State) (c : Nat) : Bool := decide (c < 8) && s.unit c
/-- The mailboxes run in their Compact mode (R4). -/
def State.compact (s : State) : Bool := s.unit 30

/-! ## The pair (R352, R386, R393, R400, R412) -/

def rolePairing : Nat := 1
def roleActive : Nat := 2
def roleStandby : Nat := 3
def roleFaulty : Nat := 4
def roleDouble : Nat := 5
/-- The device outputs as the standby of a pair: in STANDBY, in FAULTY, and in DOUBLE without the line (R393, R400, R412). -/
def State.isStandby (s : State) : Bool :=
  let r := s.rd MT_STATUS_ROLE
  s.has .mantle && (r == roleStandby || r == roleFaulty || (r == roleDouble && !s.mt.pulls))
/-- OWNER of Weft and Muster: 1 outside a pair, and inside one on its owner (R352, R393). -/
def State.isOwner (s : State) : Bool := !s.isStandby
/-- SH_STATUS.ROLE of a member of a cascade (R384). -/
def roleMember : Nat := 2
/-- The standby follows the active's beacon, unless it is a member of a cascade (R394). -/
def State.followsPair (s : State) : Bool := s.isStandby && s.rd SH_STATUS_ROLE != roleMember

/-- The counts of the health word (R401). -/
inductive Ailment | uncorr | logic | core | env | scrub | link
  deriving DecidableEq, Repr
def Ailment.code : Ailment → Nat | .uncorr => 0 | .logic => 1 | .core => 2 | .env => 3 | .scrub => 4 | .link => 5
/-- Note something that the health word counts for 60 s (R401). -/
def ail (k : Ailment) : Act := withS fun s => whenDo (s.has .mantle)
  (updMt fun m => { m with faults := (m.faults.filter fun f => decide (s.now < f.2 + 60 * 10 ^ 9)) ++ [(k.code, s.now)] })

/-- COMPOSE and LL_CYCLE events are ignored and no canvas swaps: in MEMBER_HOLD until it is left, and in DOUBLE (R378, R412). -/
def State.held (s : State) : Bool := s.sh.held || s.rd MT_STATUS_ROLE == roleDouble

/-! ## Interrupt vectors (R298) -/

/-- The MSI-X entry of vector `v` of port `p`. -/
def State.msixAt (s : State) (p v : Nat) : Msix := s.msix.get {} (p * 64 + v)
def updMsix (p v : Nat) (f : Msix → Msix) : Act := fun s => [.msix (p * 64 + v) (f (s.msixAt p v))]

/-- HA_IRQ_N or HB_IRQ_N is low: a vector is pending on a port in xSPI mode. -/
def State.irqLow (s : State) (p : Nat) : Bool :=
  s.on (HP_STATUS_MODE p) && (s.rd (HP_PEND p 0) != 0 || s.rd (HP_PEND p 1) != 0)

/-- Raise vector `v` of host port `p`: sent in PCI Express mode or held while it is masked, a pending bit in xSPI mode. -/
def raiseVector (p v : Nat) : Act := withS fun s =>
  if s.on (HP_STATUS_MODE p) then
    let f := HP_PEND p (v / 32)
    wr f (s.rd f ||| 2 ^ (v % 32))
  else if (s.msixAt p v).masked then updMsix p v fun x => { x with held := true }
  else emit (.vector p v)

/-- Raise every vector that bit `k` of the W1C register at `a`, going from 0 to 1, selects. -/
def raiseFor (a k : Nat) : Act :=
  forN 2 fun p => forN 59 fun v => withS fun s =>
    whenDo (s.on (HP_VEC_SRC_EN p v) && s.rd (HP_VEC_SRC_OFFSET p v) * 4 + 0x10000000 == a
            && bit (s.rd (HP_VEC_MASK p v)) k) (raiseVector p (v + 5))

/-! ## Ledger's intake (R461, R464) -/

def note : Nat := 1
def warning : Nat := 2
def error : Nat := 3
def critical : Nat := 4

/-- Source units of R463. -/
inductive Src
  | sys | yardstick | draper | tailor | treadle | thimble | lamplighter | foreman | chandler (n : Nat)
  | hostA | hostB | hasp | mailbox | bobbin | xnWindow | network | shuttle | mantle | stockroom | external | tally
  | boot | trim | ledger
  deriving DecidableEq, Repr
def Src.code : Src → Nat
  | .sys => 0 | .yardstick => 1 | .draper => 2 | .tailor => 3 | .treadle => 4 | .thimble => 5 | .lamplighter => 6
  | .foreman => 7 | .chandler n => 8 + n | .hostA => 0x10 | .hostB => 0x11 | .hasp => 0x12 | .mailbox => 0x13
  | .bobbin => 0x14 | .xnWindow => 0x15 | .network => 0x16 | .shuttle => 0x17 | .mantle => 0x18
  | .stockroom => 0x19 | .external => 0x1A | .tally => 0x1B | .boot => 0x1C | .trim => 0x1D | .ledger => 0x1E

/-- Set a W1C bit, raising the vectors that select it when it goes from 0 to 1. -/
def setBit (f : Fld) : Act := withS fun s => whenDo (!s.on f) (acts [wr f 1, raiseFor f.addr f.lo])

/-- The address of the NOTIFY register of the event register at `a`. -/
def notifyAddr (a : Nat) : Nat :=
  if a = YS_EVENT_HELD.addr then YS_NOTIFY_addr
  else if (BB_LEVEL_LO_NOTICE 0).addr ≤ a ∧ a < BB_NOTIFY_addr then BB_NOTIFY_addr
  else a + 4

/-- A wake takes a free entry of core `c`'s queue. -/
def queueWake (c : Nat) (e : WakeEntry) : Act := withS fun s => acts [
  updCore c fun k => { k with queue := k.queue ++ [e] },
  wr (FM_PWQ_PEAK c) (max ((s.core c).queue.length + 1) (s.rd (FM_PWQ_PEAK c)))]

/-- Hand a wake to core `c`'s pending-wake queue, or hold it while the queue is full or others are held before it (R276, R277). A queue that becomes
full is counted, and recorded once in a measurement window. A wake of a disabled core has no effect (R3). -/
def pushCore (c : Nat) (e : WakeEntry) (o : HeldIn) : Act := withS fun s =>
  let k := s.core c
  if !s.coreOn c then skip
  else if k.queue.length < 64 && k.held.isEmpty then acts [
    queueWake c e,
    whenDo (k.queue.length == 63) (acts [count (FM_PWQ_FULL c) 1,
      whenDo (!k.fullSeen) (acts [updCore c fun k => { k with fullSeen := true },
        fun _ => [.intake ⟨0xB301, Src.foreman.code, warning, c⟩]])])]
  else updCore c fun k => { k with held := k.held ++ [⟨e, o⟩] }

/-- The signal a NOTIFY register at `n` gives when it is enabled (R82). -/
def notify (n : Nat) : Act := withS fun s =>
  whenDo (s.on (NOTIFY_ENABLE n))
    (pushCore (s.rd (NOTIFY_CORE n)) (.signal (s.rd (NOTIFY_THREAD n)) (2 ^ s.rd (NOTIFY_SIGNAL n))) .source)

/-- Set a bit of an event register: its NOTIFY signal and the vectors that select it follow a 0 to 1 change. -/
def setEvent (f : Fld) : Act := withS fun s =>
  whenDo (!s.on f) (acts [wr f 1, raiseFor f.addr f.lo, notify (notifyAddr f.addr)])

/-- Set the full-queue event when core `c`'s queue holds 64 entries. -/
def noteFull (c : Nat) : Act := withS fun s =>
  whenDo ((s.core c).queue.length == 64) (setEvent FM_EVENT_QFULL)

/-- Hand a wake to a core (R276). -/
def pushWake (c : Nat) (e : WakeEntry) (o : HeldIn) : Act := acts [pushCore c e o, noteFull c]

/-- Hand a record to Ledger. One that finds the intake queue full is dropped and counted, and the next record taken
carries LOSS (R464). -/
def ledger (code : Nat) (src : Src) (sev payload : Nat) : Act := withS fun s =>
  if !s.lg.taking then skip
  else if s.lg.intake.length < intakeSize then fun _ => [.intake ⟨code, src.code, sev, payload % 2 ^ 32⟩]
  else acts [count LG_LOST 1, setEvent LG_EVENT_LOST, updLg fun l => { l with lossNext := true }]

/-- The record of a register write refused with STATE where its chapter names no code of its own (R527, R529). -/
def stateRefused (src : Src) (addr : Nat) : Act := ledger 0xB003 src note (addr - 0x10000000)

/-- The source unit that stands for a requester (R31). -/
def srcOf : Requester → Src
  | .hostA => .hostA | .hostB => .hostB | .thread c _ => .chandler c | .draper => .draper | .tailor => .tailor
  | .lamplighter => .lamplighter | .thimble => .thimble | .network => .network | .shuttle => .shuttle
  | .mantle => .mantle | .ledger => .ledger | .agent => .boot | .boot => .boot | .debug => .boot

/-- The record of an access to an address that is not mapped (R31). -/
def unmapped (w : Requester) (addr : Nat) : Act := ledger 0x8001 (srcOf w) warning (bits addr 39 8)

/-- A number of each requester, for its read latches (R81). -/
def Requester.key : Requester → Nat
  | .hostA => 0 | .hostB => 1 | .draper => 2 | .tailor => 3 | .lamplighter => 4 | .thimble => 5 | .network => 6
  | .shuttle => 7 | .mantle => 8 | .ledger => 9 | .agent => 10 | .boot => 11 | .debug => 12
  | .thread c t => 16 + c.val * 64 + t.val

/-! ## Stamps (R66, R67) -/

/-- LOCAL marks stamps of a device with Shuttle enabled until it is aligned with a cascade (R65). -/
def State.isLocal (s : State) : Bool :=
  (if s.rd SYS_UNITS_WORD = 0 then s.boot.willShuttle else s.has .shuttle) && !s.ys.aligned

/-- Make a stamp: the sequence number increases by one (R67). -/
def withStamp (f : Stamp → Act) : Act := fun s =>
  acts [updYs fun y => { y with seq := (y.seq + 1) % 2 ^ 32 },
    f ⟨s.ys.tick, s.ys.seq, s.isLocal, s.rd SH_STATUS_NUMBER⟩] s

/-- The half-word of a stamp that holds LOCAL and the device number. -/
def Stamp.half (t : Stamp) : Nat := b2n t.isLocal * 2 ^ 15 + t.device

end Sys2Proof.Machine
end

