-- ==== Sys2Proof/Machine/Memory.lean ====
section
/-!
DEFINITION. Memory as every unit reads and writes it: the regions of R30, the bank groups of R416 and R417, and a read
or a write with the symbol code's effects (R419 to R421, R423, R425).
-/

namespace Sys2Proof.Machine

/-- First address of external memory. -/
def extBase : Nat := 0x100000000
/-- Usable bytes of external memory (R30). -/
def State.extSize (s : State) : Nat := s.rd TS_EXT_STATUS_USABLE * 2 ^ 20
/-- The address lies in Stockroom. -/
def inStock (a : Nat) : Bool := decide (a < 0x6000000)
/-- The address lies in Draper's tile cache. -/
def inTile (a : Nat) : Bool := decide (0x4C00000 ≤ a ∧ a < 0x5800000)
/-- The address lies in the Ledger ring. -/
def inRing (a : Nat) : Bool := decide (0x5800000 ≤ a ∧ a < 0x5900000)
/-- The address lies in scratch. -/
def inScratch (a : Nat) : Bool := decide (0x5900000 ≤ a ∧ a < 0x6000000)
/-- The address lies in usable external memory. -/
def State.inExt (s : State) (a : Nat) : Bool := decide (extBase ≤ a ∧ a < extBase + s.extSize)
/-- The address lies in the register space. -/
def inRegs (a : Nat) : Bool := decide (0x10000000 ≤ a ∧ a < 0x10800000)
/-- The address lies in Stockroom or in usable external memory. -/
def State.inMem (s : State) (a : Nat) : Bool := inStock a || s.inExt a
/-- The `n` bytes at `a` lie in usable external memory. -/
def State.extRange (s : State) (a n : Nat) : Bool := s.inExt a && decide (a + n ≤ extBase + s.extSize)
/-- The `n` bytes at `a` lie in external memory or in scratch: where rings and buffers may stand. -/
def State.extOrScratch (s : State) (a n : Nat) : Bool :=
  s.extRange a n || (inScratch a && decide (a + n ≤ 0x6000000))

/-- The debug port exists under debug authorisation of SCOPE bit 1 only (R431, R507). -/
def State.debugPort (s : State) : Bool := bit (s.rd BT_STATUS_DEBUG) 1
/-- A requester may read the byte at `a` (R30, R31). -/
def State.mayRead (s : State) (w : Requester) (a : Nat) : Bool :=
  s.inMem a && (!inTile a || w == .draper) && (w != .debug || s.debugPort)
/-- A requester may write the byte at `a` (R30, R31). -/
def State.mayWrite (s : State) (w : Requester) (a : Nat) : Bool :=
  s.mayRead w a && (!inRing a || w == .ledger)

/-- The bank group of a Stockroom address (R417). -/
def groupOf (a : Nat) : Nat :=
  if a < 0x4400000 then bits a 11 8
  else if a < 0x4C00000 then (a - 0x4400000) / 2 ^ 20
  else if a < 0x5800000 then bits a 11 8
  else if a < 0x5900000 then 8
  else 9 + (a - 0x5900000) / 2 ^ 20

/-- The word index of a Stockroom address within its group (R422). -/
def wordIndex (a : Nat) : Nat :=
  if a < 0x4400000 then (a / 4096 * 256 + a % 256) / 32
  else if a < 0x4C00000 then 163840 + (a - 0x4400000) % 2 ^ 20 / 32
  else if a < 0x5800000 then ((a - 0x4C00000 + 0x4400000) / 4096 * 256 + a % 256) / 32
  else if a < 0x5900000 then 163840 + (a - 0x5800000) / 32
  else 163840 + (a - 0x5900000) % 2 ^ 20 / 32

/-- The address of word `i` of group `g`: the inverse of `groupOf` and `wordIndex`. -/
def wordAddr (g i : Nat) : Nat :=
  if i < 163840 then
    let off := i * 32
    let lin := off / 256 * 4096 + g * 256 + off % 256
    if lin < 0x4400000 then lin else lin - 0x4400000 + 0x4C00000
  else
    let off := (i - 163840) * 32
    if g < 8 then 0x4400000 + g * 2 ^ 20 + off
    else if g = 8 then 0x5800000 + off
    else 0x5900000 + (g - 9) * 2 ^ 20 + off

/-- The row of a word, over all groups: 6,144 rows of 32 words in each (R423). -/
def rowOf (a : Nat) : Nat := groupOf a * 6144 + wordIndex a / 32

/-- The row that holds the word at `a` is excluded (R423). -/
def State.excludedAt (s : State) (a : Nat) : Bool := inStock a && s.ts.excluded.get false (rowOf a)

/-- The word that holds `a` is delivered poisoned. Without inline protection external memory is never poisoned
(R425). -/
def State.poisonedAt (s : State) (a : Nat) : Bool :=
  s.excludedAt a || (s.poison.get false (a / 32) && (inStock a || s.on TS_EXT_STATUS_PROTECT))

/-- One byte of memory as it is stored. -/
def State.byteAt (s : State) (a : Nat) : Byte := s.mem.get memReset a

/-- `n` bytes of memory as they are stored. -/
def State.bytesAt (s : State) (a n : Nat) : List Byte := (List.range n).map fun i => s.byteAt (a + i)

/-- The addresses of the 32-byte words that the `n` bytes at `a` touch. -/
def wordsOf (a n : Nat) : List Nat :=
  if n = 0 then [] else (List.range ((a + n - 1) / 32 - a / 32 + 1)).map fun i => (a / 32 + i) * 32

/-- Report a corrected word (R420, R425). -/
def reportCorrected (a : Nat) : Act :=
  if inStock a then
    acts [count (TS_CORR (groupOf a)) 1, setEvent TS_EVENT_CORR, ledger 0x8002 .stockroom note (bits a 26 0)]
  else acts [count TS_EXT_CORR 1, setEvent TS_EVENT_EXT_CORR, ledger 0x8008 .external note (bits a 39 8)]

/-- Report an uncorrectable word (R421, R425). -/
def reportPoison (a : Nat) : Act :=
  if inStock a then
    acts [ail .uncorr, count (TS_UNCORR (groupOf a)) 1, wr (TS_ERRADDR (groupOf a)) a, setEvent TS_EVENT_UNCORR,
      ledger 0x8003 .stockroom error (bits a 26 0)]
  else acts [ail .uncorr, count TS_EXT_UNCORR 1, wrPair TS_EXT_ERRADDR_LO TS_EXT_ERRADDR_HI a, setEvent TS_EVENT_EXT_UNCORR,
      ledger 0x8009 .external error (bits a 39 8)]

/-- What reading the word at `a` reports: a corrected or an uncorrectable word (R420, R421). -/
def touchWord (a : Nat) : Act := withS fun s =>
  if s.poisonedAt a then reportPoison a
  else whenDo (decide (0 < s.ts.symbols.get 0 (a / 32))) (reportCorrected a)

/-- Read `n` bytes at `a`: the data, and whether any of its words was delivered poisoned. -/
def withMem (a n : Nat) (f : List Byte → Bool → Act) : Act := withS fun s =>
  acts [forEach (wordsOf a n) touchWord, f (s.bytesAt a n) ((wordsOf a n).any s.poisonedAt)]

/-- Store bytes in order from `a` on. -/
def storeBytes : Nat → List Byte → Act
  | _, [] => skip
  | a, b :: bs => fun s => .mem a b :: storeBytes (a + 1) bs s

/-- Write the part of `data` (at `a`) that falls in the word at `w`: a whole word clears poison and symbol errors, a
part of a poisoned word leaves it poisoned, and an excluded word takes nothing (R416, R421, R423). -/
def writeWord (a : Nat) (data : List Byte) (w : Nat) : Act := withS fun s =>
  let lo := max a w
  let hi := min (a + data.length) (w + 32)
  let part := (data.drop (lo - a)).take (hi - lo)
  if s.excludedAt w then whenDo (decide (hi - lo < 32)) (reportPoison w)
  else acts [
    whenDo (decide (hi - lo < 32)) (touchWord w),
    storeBytes lo part,
    updTs fun t => { t with symbols := t.symbols.set 0 (w / 32) 0 },
    whenDo (hi - lo == 32) fun _ => [.poison (w / 32) false]]

/-- Write bytes at `a`. -/
def memWrite (a : Nat) (data : List Byte) : Act := forEach (wordsOf a data.length) (writeWord a data)

/-- The bytes of a number, lowest first. -/
def leBytes : Nat → Nat → List Byte
  | 0, _ => []
  | n + 1, v => BitVec.ofNat 8 v :: leBytes n (v / 256)

/-- The number whose bytes, lowest first, these are. -/
def ofLe : List Byte → Nat
  | [] => 0
  | b :: bs => b.toNat + 256 * ofLe bs

/-- The number whose bytes, highest first, these are. -/
def ofBe (bs : List Byte) : Nat := bs.foldl (fun n b => n * 256 + b.toNat) 0

/-- The bytes of a number, highest first. -/
def beBytes (n v : Nat) : List Byte := (leBytes n v).reverse

/-- A little-endian field of a list of bytes. -/
def leAt (bs : List Byte) (off n : Nat) : Nat := ofLe ((bs.drop off).take n)

/-- Identifier of a requester at the Turnstiles (R18); the debug port has none. -/
def Requester.id : Requester → Option Nat
  | .thread c _ => some c.val | .draper => some 8 | .tailor => some 9 | .lamplighter => some 10 | .thimble => some 11
  | .network => some 12 | .hostA => some 13 | .hostB => some 13 | .agent => some 13 | .boot => some 13
  | .shuttle => some 14 | .mantle => some 14 | .ledger => some 15 | .debug => none

/-- A write to `n` bytes at `a` reaches external memory that a running composition reads (R108). -/
def watchWrite (w : Requester) (a n : Nat) : Act := withS fun s =>
  match s.dr.watch.find? fun (_, lo, hi) => decide (a < hi ∧ lo < a + n) with
  | some (c, _, _) => whenDo (w != .draper) (acts [count DR_LATE_FREE 1, setEvent DR_EVENT_LATE_FREE,
      ledger 0x2005 .draper note (c * 2 ^ 24 + bits a 31 8)])
  | none => skip

/-- The thread whose context area holds the byte at `a` (R267). -/
def ctxThread (a : Nat) : Option (Nat × Nat) :=
  if 0x5900000 ≤ a ∧ a < 0x5940000 then some ((a - 0x5900000) / 0x8000, (a - 0x5900000) % 0x8000 / 0x200) else none

/-- The byte at `a` lies in the context area of a thread that is READY, RUNNING or BLOCKED (R268). -/
def State.ctxLocked (s : State) (a : Nat) : Bool :=
  match ctxThread a with
  | some (c, t) => match (s.thread c t).st with
    | .ready | .running | .blocked => true
    | .dormant | .suspended => false
  | none => false

/-- A write of a locked context area is discarded (R268). -/
def ctxDeny (a : Nat) : Act :=
  acts [count FM_CTX_DENY 1, setEvent FM_EVENT_CTX_DENY, ledger 0xB305 .foreman note (bits a 31 8)]

/-- Write bytes for a requester: bytes it may not write are discarded and recorded (R31), and so is what lies in a locked
context area (R268). DESIGN CHOICE (log 143): an access of which any byte lies outside what the requester may write is discarded whole,
with one record that names its first address. -/
def memWriteFor (w : Requester) (a : Nat) (data : List Byte) : Act := withS fun s =>
  if (List.range data.length).all fun i => s.mayWrite w (a + i) then
    let ws := wordsOf a data.length
    acts [forEach (ws.filter fun x => !s.ctxLocked x) (writeWord a data), whenDo (ws.any s.ctxLocked) (ctxDeny a),
      whenDo (!s.dr.watch.isEmpty) (watchWrite w a data.length)]
  else unmapped w a

/-- Read bytes for a requester: what it may not read is zero and recorded (R31). DESIGN CHOICE (log 143): an access of which any byte lies
outside what the requester may read returns zeros throughout, with one record that names its first address. -/
def withMemFor (w : Requester) (a n : Nat) (f : List Byte → Bool → Act) : Act := withS fun s =>
  if (List.range n).all fun i => s.mayRead w (a + i) then withMem a n f
  else acts [unmapped w a, f (List.replicate n 0) false]

/-! ## Latched reads (R81) -/

/-- The key of the latch of register `a` for a requester. -/
def latchKey (w : Requester) (a : Nat) : Nat := Requester.key w * 2 ^ 24 + (a - 0x10000000)
/-- Latch a register's value for a requester. -/
def latch (w : Requester) (a v : Nat) : Act := fun _ => [.latch (latchKey w a) (BitVec.ofNat 32 v)]
/-- What a requester's latch of a register holds. -/
def State.latched (s : State) (w : Requester) (a : Nat) : Nat := (s.latches.get 0 (latchKey w a)).toNat

end Sys2Proof.Machine
end

