-- ==== Sys2Proof/Machine/Bobbin.lean ====
section
/-!
DEFINITION. The Bobbins (R314 to R319): bytes that arrive, reads of a word and the notices.
-/

namespace Sys2Proof.Machine

def State.bobbin (s : State) (n : Nat) : Bobbin := s.hst.bobbins.get {} n
def updBobbin (n : Nat) (f : Bobbin → Bobbin) : Act :=
  updHst fun h => { h with bobbins := h.bobbins.set {} n (f (h.bobbins.get {} n)) }

/-- The level notice of Bobbin `n`. -/
def levelNotice (n : Nat) : Fld := if n < 32 then BB_LEVEL_LO_NOTICE n else BB_LEVEL_HI_NOTICE (n - 32)
/-- The stale notice of Bobbin `n`. -/
def staleNotice (n : Nat) : Fld := if n < 32 then BB_STALE_LO_NOTICE n else BB_STALE_HI_NOTICE (n - 32)

/-- A byte arrives at Bobbin `n` (R315, R317, R318); `bad` says that its stage will fail its parity (R316). The time of its way to the head is not
kept (log 17). -/
def bobbinByte (n : Nat) (b : Byte) (bad : Bool) : Act := withS fun s =>
  let x := s.bobbin n
  if 64 ≤ x.bytes.length then acts [count (BB_FILL_OVF n) 1,
    whenDo (!x.dropping) (ledger 0xB601 .bobbin warning n),
    updBobbin n fun x => { x with ovf := true, dropping := true }]
  else withStamp fun t =>
    let fill := x.bytes.length + 1
    let level := 8 * min 8 (s.rd (BB_CFG_THRESH n))
    acts [
      updBobbin n fun x => { x with bytes := x.bytes ++ [⟨b, t.tick, t.seq, bad⟩], dropping := false,
                                    since := if x.bytes.isEmpty then s.now else x.since },
      wr (BB_FILL_FILL n) fill,
      whenDo (decide (0 < level ∧ fill = level)) (setEvent (levelNotice n))]

/-- The source of Bobbin `n` is enabled (R314, R319). -/
def State.bobbinFed (s : State) (n : Nat) : Bool :=
  if n < 32 then s.has .dmx && s.onA (DMX_CFG_BOBBIN n)
  else if n < 34 then s.on (HP_STATUS_MODE (n - 32))
  else if n = 34 then true
  else if n < 39 then s.on (YS_CAP_CFG_BOBBIN (n - 35))
  else if n < 47 then s.has .tally && s.on (TY_EXPORT_EN (n - 39))
  else true

/-- `BOBBIN_BYTE_ARRIVE`: the Bobbin of a disabled source takes nothing (R319). -/
def execBobbinByteArrive (n : Fin 48) (b : StageByte) (s : State) : Host.Outcome State Fault Refusal :=
  done (whenDo (s.bobbinFed n) (bobbinByte n b.val b.bad)) s

/-- A read of BB_n_DATA_LO takes up to 8 bytes and latches the rest of the word (R315 to R317). -/
def bobbinTake (w : Requester) (n : Nat) : Act := withS fun s =>
  let x := s.bobbin n
  let word := x.bytes.take 8
  let bad := word.any (·.bad)
  let v := ofLe (word.map (·.val))
  let (tick, seq) := match word with | y :: _ => (y.tick, y.seq) | [] => (0, 0)
  acts [
    latch w (BB_DATA_HI n).addr (v / 2 ^ 32),
    latch w (BB_INFO_COUNT n).addr (b2n bad * 2 ^ 31 + b2n (x.ovf && !word.isEmpty) * 2 ^ 30 + word.length),
    latch w (BB_TICK_LO n).addr tick, latch w (BB_TICK_HI n).addr (tick / 2 ^ 32), latch w (BB_SEQ n).addr seq,
    whenDo bad (ledger 0xB602 .bobbin warning n),
    whenDo (!word.isEmpty) (updBobbin n fun x => { x with bytes := x.bytes.drop 8, ovf := false }),
    updBobbin n fun x => { x with since := s.now, told := false },
    wr (BB_FILL_FILL n) (x.bytes.length - word.length),
    reply (leBytes 4 v)]

/-- `BOBBIN_READ`. -/
def execBobbinRead (w : Requester) (n : Fin 48) (s : State) : Host.Outcome State Fault Refusal :=
  done (bobbinTake w n) s

/-- The stale notice, once STALE × 100 µs have passed since the later of the last read and the arrival of the oldest unread byte (R318). -/
def bobbinStale (n : Nat) : Act := withS fun s =>
  let x := s.bobbin n
  let t := s.rd (BB_CFG_STALE n)
  whenDo (!x.bytes.isEmpty && !x.told && t != 0 && decide (x.since + t * 100000 ≤ s.now))
    (acts [updBobbin n fun x => { x with told := true }, setEvent (staleNotice n)])

/-- `BOBBIN_STALE_NOTICE`. -/
def execBobbinStaleNotice (n : Fin 48) (s : State) : Host.Outcome State Fault Refusal := done (bobbinStale n) s

end Sys2Proof.Machine
end

