-- ==== Sys2Proof/Machine/Crc.lean ====
section
/-!
DEFINITION. The CRC-32 of IEEE 802.3, which the bridge's table, the frames of the links, the signatures and the image
checks use (R338, R363, R398, R494).
-/

namespace Sys2Proof.Machine

/-- One bit of the reflected CRC-32. -/
def crcBit (c : Nat) : Nat := if c % 2 = 1 then (c / 2) ^^^ 0xEDB88320 else c / 2
/-- One byte of the reflected CRC-32. -/
def crcByte (c : Nat) (b : Byte) : Nat := (List.range 8).foldl (fun c _ => crcBit c) (c ^^^ b.toNat)
/-- The CRC-32 of bytes, in the order of transmission. -/
def crc32 (bs : List Byte) : Nat := bs.foldl crcByte 0xFFFFFFFF ^^^ 0xFFFFFFFF
/-- The CRC-32 of bits, in the order sent. -/
def crcBits (bs : List Bool) : Nat :=
  bs.foldl (fun c b => crcBit (c ^^^ b2n b)) 0xFFFFFFFF ^^^ 0xFFFFFFFF

end Sys2Proof.Machine
end

