-- ==== Sys2Proof/Machine/Ring.lean ====
section
/-!
DEFINITION. The submission rings in the form every engine and MAC shares (R86 to R88, R116, R250), and the fences
that count their completions (R106, R250).
-/

namespace Sys2Proof.Machine

/-- The address of a ring's first register. -/
def ringBase : RingId → Nat
  | .engine n =>
    if n.val < 4 then 0x10100108 + 0x80 * n.val
    else if n.val < 6 then LL_RING_base (n.val - 4)
    else if n.val < 14 then HP_RING_base ((n.val - 6) / 4) ((n.val - 6) % 4)
    else if n.val = 14 then LG_RING_base else SH_RING_base
  | .macTx n r => MAC_TX_base n r
  | .macRx n r => MAC_RX_base n r

/-- The status field that shows a refusal of a ring's registers; a host port has none. -/
def ringResult : RingId → Option Fld
  | .engine n =>
    if n.val < 4 then some DR_STATUS_RESULT else if n.val < 6 then some LL_STATUS_RESULT
    else if n.val < 14 then none else if n.val = 14 then some LG_STATUS_RESULT else some SH_STATUS_RESULT
  | .macTx .. | .macRx .. => some NET_STATUS_RESULT

/-- Show the status of a write to a ring's registers. -/
def ringStatus (r : RingId) (st : Status) : Act :=
  match ringResult r with | some f => result f st | none => skip

/-- The MAC is enabled by the configuration word (R36). -/
def State.macOn (s : State) (n : Nat) : Bool := if n < 4 then s.has .trunk else s.has .fixports

/-- The unit behind a ring is enabled; a host port's rings are absent in xSPI mode (R294). -/
def State.ringUnit (s : State) : RingId → Bool
  | .engine n =>
    if n.val < 4 then s.has .draper else if n.val < 6 then s.has .lamplighter
    else if n.val < 14 then !s.on (HP_STATUS_MODE ((n.val - 6) / 4)) else if n.val = 14 then true else s.has .shuttle
  | .macTx n _ | .macRx n _ => s.macOn n

/-- The address of a ring's array (R86). -/
def State.ringAddr (s : State) (b : Nat) : Nat := s.pair (RING_LO b) (RING_HI b)
/-- The entries of a ring's array (R86). -/
def State.ringSize (s : State) (b : Nat) : Nat := 2 ^ s.rd (RING_CTRL_LOG2SIZE b)
/-- The entries a ring holds (R86). -/
def State.ringCount (s : State) (b : Nat) : Nat := (s.rd (RING_TAIL b) + 2 ^ 16 - s.rd (RING_HEAD b)) % 2 ^ 16
/-- The address of entry `n` of a ring (R86). -/
def State.ringEntry (s : State) (b n : Nat) : Nat := s.ringAddr b + n % s.ringSize b * 64

/-- The status field of a ring that shows every TAIL write, good ones too: Draper's and Shuttle's (R116, R384). -/
def tailShown : RingId → Bool | .engine n => decide (n.val < 4 ∨ n.val = 15) | _ => false

/-- A write of TAIL (R87). -/
def ringTail (r : RingId) (v : Nat) : Act := withS fun s =>
  let b := ringBase r
  let n := (v % 2 ^ 16 + 2 ^ 16 - s.rd (RING_HEAD b)) % 2 ^ 16
  if s.ringSize b < n ∨ n < s.ringCount b then ringStatus r .badarg else acts [wr (RING_TAIL b) v, whenDo (tailShown r) (ringStatus r .ok)]

/-- A write of a ring's address registers (R116). -/
def ringAddrWrite (r : RingId) (f : Fld) (v : Nat) : Act := withS fun s =>
  if s.on (RING_CTRL_ENABLE (ringBase r)) then ringStatus r .busy else wr f v

/-- Fence `f` of engine `e` in the fence file: engines 2 to 5; Draper's fences are its registers (R106, R250). -/
def fenceKey (e f : Nat) : Nat := e * 16 + f
/-- The value of fence `f` of engine `e`. -/
def State.fenceValue (s : State) (e f : Nat) : Nat :=
  if e = 0 then
    if f < 4 then s.rd (DR_CAN_DONE f) else if f < 8 then s.rd (DR_CAN_READ (f - 4)) else s.rd DR_REL_DONE
  else s.fences.get 0 (fenceKey e f)
/-- A value has reached a target under the comparison of R106. -/
def reached (value target : Nat) : Bool := decide ((value + 2 ^ 32 - target % 2 ^ 32) % 2 ^ 32 < 2 ^ 31)

/-- Core `c` has a thread that waits on the fence. -/
def State.waitsFence (s : State) (c e f : Nat) : Bool :=
  (List.range 64).any fun t => match (s.thread c t).wait with
    | .fence e' f' _ _ => e' == e && f' == f | _ => false

/-- A fence has advanced: every core with a thread that waits on it gets one wake, and one held flag stands for every
advance not yet seen (R276). -/
def fenceWake (e f : Nat) : Act :=
  forN 8 fun c => withS fun s =>
    whenDo (s.waitsFence c e f && !((s.core c).held.any fun h => h.entry == .fence e f))
      (pushWake c (.fence e f) .source)

/-- Advance a fence of engines 2 to 5 by one (R295). -/
def fenceStep (e f : Nat) : Act := withS fun s =>
  acts [fun _ => [.fence (fenceKey e f) ((s.fenceValue e f + 1) % 2 ^ 32)], fenceWake e f]

/-- The engine and fence that count a ring's completions since it was enabled (R295, R380, R477). Lamplighter's rings
have none. -/
def ringFence : RingId → Option (Nat × Nat)
  | .engine n =>
    if n.val < 6 then none
    else if n.val < 10 then some (2, n.val - 6) else if n.val < 14 then some (3, n.val - 10)
    else if n.val = 14 then some (4, 0) else some (5, 0)
  | _ => none

/-- Host port and number of a DMA ring (R294). -/
def dmaRing : RingId → Option (Nat × Nat)
  | .engine n => if 6 ≤ n.val ∧ n.val < 14 then some ((n.val - 6) / 4, (n.val - 6) % 4) else none
  | _ => none

/-- How far the entry at the head of a port's DMA ring has come (R295). -/
def State.dmaMoved (s : State) (p r : Nat) : Nat := s.hst.moved.get 0 (p * 4 + r)
def setMoved (p r n : Nat) : Act := updHst fun h => { h with moved := h.moved.set 0 (p * 4 + r) n }

/-- What an ENABLE of a disabled ring with 2^`size` entries meets (R116, R294). -/
def State.ringCheck (s : State) (r : RingId) (size : Nat) : Status :=
  let a := s.ringAddr (ringBase r)
  let alone := match r with | .engine n => decide (6 ≤ n.val ∧ n.val < 14) | _ => false
  if alone && !s.ringUnit r then .absent
  else if size < 4 ∨ 8 < size ∨ a % 64 ≠ 0 ∨ !s.extOrScratch a (2 ^ size * 64) then .badarg
  else .ok

/-- A write of a ring's control register (R116). RESET clears HEAD and TAIL of a disabled ring; a refused ENABLE changes nothing but the status (R15);
a new size of an enabled ring is discarded. -/
def ringCtrl (r : RingId) (v : Nat) : Act := withS fun s =>
  let b := ringBase r
  let on := s.on (RING_CTRL_ENABLE b)
  let size := bits v 3 0
  let st := s.ringCheck r size
  if on then acts [
    whenDo (size != s.rd (RING_CTRL_LOG2SIZE b) || bit v 30) (ringStatus r .busy),
    whenDo (!bit v 31) (wr (RING_CTRL_ENABLE b) 0)]
  else if bit v 31 && st != .ok then ringStatus r st
  else acts [
    wr (RING_CTRL_LOG2SIZE b) size,
    whenDo (bit v 30) (acts [wr (RING_HEAD b) 0, wr (RING_TAIL b) 0]),
    match dmaRing r with | some (p, n) => setMoved p n 0 | none => skip,
    whenDo (bit v 31) (acts [wr (RING_CTRL_ENABLE b) 1, ringStatus r .ok,
      match ringFence r with | some (e, f) => fun _ => [.fence (fenceKey e f) 0] | none => skip])]

/-- `RING_TAIL_WRITE` (R87). A disabled unit takes no write (R3). -/
def execRingTailWrite (_w : Requester) (ring : RingId) (v : Word) (s : State) : Host.Outcome State Fault Refusal :=
  done (whenDo (s.ringUnit ring) (ringTail ring v.toNat)) s

/-- The register block of a ring is present: a disabled unit's registers take no write (R3), a host port's do. -/
def State.ringRegs (s : State) (r : RingId) : Bool :=
  s.ringUnit r || (match r with | .engine n => decide (6 ≤ n.val ∧ n.val < 14) | _ => false)

/-- `RING_ENABLE`: a write of the control register with ENABLE set (R116). -/
def execRingEnable (_w : Requester) (ring : RingId) (v : Word) (s : State) : Host.Outcome State Fault Refusal :=
  done (whenDo (s.ringRegs ring) (ringCtrl ring (v ||| 0x80000000#32).toNat)) s

/-- `RING_RESET`: a write of the control register with RESET set (R116). -/
def execRingReset (_w : Requester) (ring : RingId) (v : Word) (s : State) : Host.Outcome State Fault Refusal :=
  done (whenDo (s.ringRegs ring) (ringCtrl ring (v ||| 0x40000000#32).toNat)) s

/-- SUBMIT's effect: copy an entry to index TAIL with the word at 0x38 zero, and advance TAIL (R250). -/
def ringSubmit (w : Requester) (r : RingId) (entry : List Byte) : Act := withS fun s =>
  let b := ringBase r
  acts [memWriteFor w (s.ringEntry b (s.rd (RING_TAIL b))) (entry.take 0x38 ++ List.replicate 8 0), bump (RING_TAIL b) 1]

/-- The ring's head entry exists: the ring is enabled and not empty. -/
def State.ringHas (s : State) (r : RingId) : Bool :=
  s.ringUnit r && s.on (RING_CTRL_ENABLE (ringBase r)) && decide (0 < s.ringCount (ringBase r))

/-- Write the completion of the entry at `a`: the words from 0x20 to 0x37 first, the word at 0x38, with WRITTEN set,
last (R88). -/
def completionAt (w : Requester) (a : Nat) (t : Option Stamp) (w30 w38hi flags : Nat) (st : Status) : Act := acts [
  match t with
  | some t => memWriteFor w (a + 0x20) (leBytes 8 t.tick ++ leBytes 4 t.seq ++ leBytes 2 t.half ++ leBytes 2 0
      ++ leBytes 8 w30)
  | none => memWriteFor w (a + 0x30) (leBytes 8 w30),
  memWriteFor w (a + 0x38) (leBytes 8 (w38hi * 2 ^ 32 + flags + 0x8000 + st.code))]

/-- Write a completion, with a stamp of its own where the ring's entries carry one. -/
def ringCompletion (w : Requester) (a : Nat) (stamped : Bool) (w30 w38hi flags : Nat) (st : Status) : Act :=
  if stamped then withStamp fun t => completionAt w a (some t) w30 w38hi flags st
  else completionAt w a none w30 w38hi flags st

end Sys2Proof.Machine
end

