-- ==== Sys2Proof/Machine/Mac.lean ====
section
/-!
DEFINITION. The Ethernet MACs as the units that send see them (their chapter): counters, frames and their lengths,
destinations, transmit queues, group membership and stamp queues.
-/

namespace Sys2Proof.Machine

/-! ## Counters (R336) -/

def State.mac (s : State) (n : Nat) : Mac := s.net.macs.get {} n
def updMac (n : Nat) (f : Mac → Mac) : Act := updNet fun t => { t with macs := t.macs.set {} n (f (t.macs.get {} n)) }

/-- Add to a 64-bit counter modulo 2^64. -/
def countPair (lo hi : Fld) (n : Nat) : Act := withS fun s => wrPair lo hi ((s.pair lo hi + n) % 2 ^ 64)
/-- Count on counter `k` of MAC `n`. -/
def macCount (n k v : Nat) : Act := countPair (MAC_CNT_LO n k) (MAC_CNT_HI n k) v
/-- Count on counter `k` of the bridge. -/
def bridgeCount (k : Nat) : Act := countPair (BR_CNT_LO k) (BR_CNT_HI k) 1

def cRxFrames : Nat := 0
def cRxOctets : Nat := 1
def cRxRunt : Nat := 2
def cRxOversize : Nat := 3
def cRxFcs : Nat := 4
def cRxPcs : Nat := 5
def cRxVlan : Nat := 6
def cRxNobuf : Nat := 7
def cRxNotus : Nat := 8
def cRxPause : Nat := 9
def cTxFrames : Nat := 10
def cTxOctets : Nat := 11
def cTxNolink : Nat := 12
def cTxQfull : Nat := 13
def cTxUnresolved : Nat := 14
def cBrStomp : Nat := 15

/-! ## Frames (R329, R330, R333) -/

def State.linkUp (s : State) (n : Nat) : Bool := s.macOn n && s.on (MAC_STATUS_LINK n)
def State.macAddr (s : State) (n : Nat) : Nat := s.pair (MAC_ADDR_LO n) (MAC_ADDR_HI n)
def State.macIp (s : State) (n : Nat) : Nat := s.rd (MAC_IP n)
/-- MAX_FRAME in use. -/
def State.maxFrame (s : State) (n : Nat) : Nat := max 1518 (min 9600 (s.rd (MAC_MAX_FRAME n)))

/-- Octets of a PTP message (IEEE 1588). -/
def ptpLen (m : PtpMsg) : Nat := match m.kind with | .announce => 64 | .delayResp => 54 | _ => 44
/-- Octets of a UDP payload: E1.31 and RTP headers by their standards; R213 gives the E1.31 data packet as 638 octets
with 512 slots. -/
def udpLen : UdpData → Nat
  | .e131 _ _ _ _ _ _ _ _ _ slots => 126 + slots.length
  | .e131Sync .. => 49
  | .e131Discovery _ _ us => 120 + 2 * us.length
  | .ptp m => ptpLen m
  | .rtp r => r.rows.foldl (fun n (_, _, bs) => n + 6 + bs.length) 14
  | .bytes bs => bs.length
/-- Octets a frame carries after its addresses, tag and type. -/
def bodyLen : EthBody → Nat
  | .arp .. => 28 | .igmpQuery _ | .igmpReport _ | .igmpLeave _ => 32 | .pause => 46 | .ptp m => ptpLen m
  | .udp _ _ _ _ d => 28 + udpLen d | .ip .. => 20 | .other => 46
/-- The length of a frame with its FCS, padded to 60 octets before it (R333). -/
def frameLen (tagged : Bool) (b : EthBody) : Nat := max 60 (14 + 4 * b2n tagged + bodyLen b) + 4

/-- The tag of a frame that MAC `n` sends from queue `q` (R330). -/
def State.txTag (s : State) (n q : Nat) : Option (BitVec 16) :=
  if s.on (MAC_VLAN_EN n) then some (BitVec.ofNat 16 (q * 2 ^ 13 + s.rd (MAC_VLAN_VID n))) else none

/-- A frame that MAC `n` sends from queue `q`. -/
def State.txFrame (s : State) (n q dst : Nat) (b : EthBody) : EthFrame :=
  { dst := BitVec.ofNat 48 dst, src := BitVec.ofNat 48 (s.macAddr n), tag := s.txTag n q,
    len := frameLen (s.on (MAC_VLAN_EN n)) b, pcsBad := false, fcsBad := false, age := 0, body := b, octets := [] }

/-! ## Transmit queues (R331, R332) -/

/-- The octets a queue holds. -/
def State.queued (s : State) (n q : Nat) : Nat :=
  ((s.mac n).queues.get [] q).foldl (fun k t => k + t.frame.len) 0
/-- Queue `q` of MAC `n` has room for a frame of `len` octets: it holds 64 KiB. -/
def State.queueRoom (s : State) (n q len : Nat) : Bool := decide (s.queued n q + len ≤ 65536)

/-- A packet finds its queue without room (R332). The record is made once per second for each queue. -/
def queueFull (n q : Nat) : Act := withS fun s =>
  let sec := s.now / 10 ^ 9 + 1
  acts [macCount n cTxQfull 1, setEvent (MAC_EVENT_QFULL n),
    whenDo ((s.mac n).dropNoted.get 0 q != sec) (acts [
      updMac n fun m => { m with dropNoted := m.dropNoted.set 0 q sec },
      ledger 0x5004 .network warning (n * 2 ^ 24 + q)])]

/-- Offer a frame to queue `q` of MAC `n`. With its link down it is dropped as the frames that wait there are (R326). -/
def enqueue (n q : Nat) (t : TxFrame) : Act := withS fun s =>
  if !s.linkUp n then macCount n cTxNolink 1
  else if s.queueRoom n q t.frame.len then
    updMac n fun m => { m with queues := m.queues.set [] q (m.queues.get [] q ++ [t]) }
  else queueFull n q

/-! ## Destinations (R327, R328) -/

/-- The address of an IPv4 multicast group (RFC 1112). -/
def groupMac (ip : Nat) : Nat := 0x01005E000000 + ip % 2 ^ 23
def isGroup (ip : Nat) : Bool := bits ip 31 28 == 0xE
/-- The neighbour entry for an address: a valid one before others. -/
def State.neighbour (s : State) (ip : Nat) : Option Nat :=
  let mine := if ip = 0 then [] else (List.range 64).filter fun i => s.rd (NBR_IP i) == ip
  (mine.find? fun i => s.on (NBR_CTRL_VALID i)).orElse fun _ => mine.head?
/-- The MAC address for an IPv4 destination. -/
def State.resolve (s : State) (ip : Nat) : Option Nat :=
  if isGroup ip then some (groupMac ip)
  else match s.neighbour ip with
    | some i => if s.on (NBR_CTRL_VALID i) then some (s.rd (NBR_MAC_LO i) + s.rd (NBR_CTRL_MAC_HI i) * 2 ^ 32) else none
    | none => none

/-- A packet without a destination is dropped; an entry's failure is recorded once per minute (R328). -/
def unresolved (n ip : Nat) : Act := withS fun s => acts [macCount n cTxUnresolved 1,
  match s.neighbour ip with
  | some i =>
    let min := s.now / (60 * 10 ^ 9) + 1
    whenDo (s.net.nbrNoted.get 0 i != min) (acts [
      updNet fun t => { t with nbrNoted := t.nbrNoted.set 0 i min },
      setEvent PTP_EVENT_NBR_FAIL, ledger 0x500D .network warning i])
  | none => skip]

/-- Send a UDP datagram from MAC `n` on queue `q`, with the kind and number of its stamp queue entry (R327, R328). -/
def sendUdp (n q ip sport dport : Nat) (d : UdpData) (kind id : Nat) : Act := withS fun s =>
  if s.macIp n = 0 then macCount n cTxUnresolved 1
  else match s.resolve ip with
    | none => unresolved n ip
    | some dst => enqueue n q ⟨s.txFrame n q dst (.udp (s.macIp n) ip sport dport d), kind, id⟩

/-- The octets of the frame that `sendUdp` would make. -/
def State.udpFrameLen (s : State) (n : Nat) (d : UdpData) : Nat :=
  frameLen (s.on (MAC_VLAN_EN n)) (.udp 0 0 0 0 d)

/-! ## Groups (R206, R327, R334) -/

/-- A word of Lamplighter's active tables. -/
def State.tabA (s : State) (a : Nat) : Nat := (s.ll.tabA.get 0 (a / 4)).toNat
/-- The universe number of input row `r` in effect; 0 when it is unused (R206). -/
def State.inRow (s : State) (r : Nat) : Nat := bits (s.tabA (0x50000 + 8 * r)) 15 0
/-- The multicast group of an E1.31 universe (R211). -/
def universeIp (u : Nat) : Nat := 0xEFFF0000 + u % 2 ^ 16
def ptpGroup : Nat := 0xE0000181
def musterGroup : Nat := 0xEFFF300A

/-- The groups MAC `n` should have joined. -/
def State.wantedGroups (s : State) (n : Nat) : List Nat :=
  if !s.linkUp n || s.macIp n == 0 then []
  else ((if s.on (MAC_CTRL_RX_E131 n) then
          ((List.range 512).map s.inRow).filter (· ≠ 0) |>.map universeIp else [])
      ++ (List.range 4).filterMap (fun t => if s.on (DR_ING_CFG_ENABLE t) && s.rd (ING_NET_PORT t) == n
            && isGroup (s.rd (ING_GROUP t)) then some (s.rd (ING_GROUP t)) else none)
      ++ (if s.on PTP_CTRL_ENABLE && s.rd YS_PTP_CFG_PORT == n then [ptpGroup] else [])
      ++ if s.on (MAC_CTRL_MUSTER n) then [musterGroup] else []).eraseDups

/-- Report a group on joining it (R327). -/
def igmpReport (n g : Nat) : Act := withS fun s => enqueue n 3 ⟨s.txFrame n 3 (groupMac g) (.igmpReport g), 0, 0⟩
/-- Send a leave on leaving a group (R327). -/
def igmpLeave (n g : Nat) : Act := withS fun s =>
  enqueue n 3 ⟨s.txFrame n 3 (groupMac 0xE0000002) (.igmpLeave g), 0, 0⟩

/-- Bring the groups of MAC `n` up to date (R327). -/
def syncGroups (n : Nat) : Act := withS fun s =>
  let old := (s.mac n).groups
  let new := s.wantedGroups n
  whenDo (old != new) (acts [updMac n fun m => { m with groups := new },
    forEach (new.filter (!old.contains ·)) (igmpReport n), forEach (old.filter (!new.contains ·)) (igmpLeave n)])

/-- Bring the groups of every MAC up to date. -/
def syncAllGroups : Act := forN 6 syncGroups

/-! ## The medium and stamp queues (R331, R344, R346) -/

/-- The bit of MAC_CTRL.TSQ that selects a kind of frame. -/
def tsqSelected (sel kind : Nat) : Bool := decide (1 ≤ kind ∧ kind ≤ 4) && bit sel (4 - kind)

/-- Put the transmit stamp of a frame into the stamp queue (R346). -/
def tsqPush (n q : Nat) (t : TxFrame) : Act := withS fun s =>
  whenDo (tsqSelected (s.rd (MAC_CTRL_TSQ n)) t.kind) (withStamp fun st =>
    if (s.mac n).tsq.length < 64 then acts [
      updMac n fun m => { m with tsq := m.tsq ++
        [⟨st.tick + s.rd (PTP_LAT_TX n) / 8, st.seq, q, t.kind, t.id⟩] },
      bump (TSQ_STAT_DEPTH n) 1]
    else acts [count (TSQ_STAT_OVF n) 1, setEvent (MAC_EVENT_TSQ_OVF n), setEvent PTP_EVENT_TSQ_OVF,
      ledger 0x5003 .network warning n])

/-- A read of PTP_TSQn_TICK_LO takes the oldest entry and latches the rest of it (R346). -/
def tsqTake (w : Requester) (n : Nat) : Act := withS fun s =>
  let give (tick seq info : Nat) := acts [latch w (TSQ_TICK_HI n).addr (tick / 2 ^ 32), latch w (TSQ_SEQ n).addr seq,
    latch w (TSQ_INFO_VALID n).addr info, reply (leBytes 4 tick)]
  match (s.mac n).tsq with
  | [] => give 0 0 0
  | e :: es => acts [updMac n fun m => { m with tsq := es }, wr (TSQ_STAT_DEPTH n) es.length,
      give e.tick e.seq (2 ^ 31 + e.queue * 2 ^ 28 + e.kind * 2 ^ 24 + e.id % 2 ^ 16)]

/-- `TSQ_READ`. A disabled MAC's registers read zero (R3, R359). -/
def execTsqRead (w : Requester) (n : Fin 6) (s : State) : Host.Outcome State Fault Refusal :=
  done (if s.macOn n then tsqTake w n else reply (leBytes 4 0)) s

/-- Gigabits per second of MAC `n`'s link. -/
def State.macGbps (s : State) (n : Nat) : Nat :=
  match s.rd (MAC_STATUS_RATE n) with | 0 => 25 | 1 => 10 | _ => 1

/-- The kinds of frame that the MAC itself looks at as they leave: a bridged PTP event message, whose correction takes its residence
time (R342), the instance's own Delay_Req (R344), and the frame of a software ring, whose number is the `id` (R333). -/
def kindBridgedPtp : Nat := 5
def kindDelayReq : Nat := 6
def kindSoft : Nat := 7

/-- The octets of a frame with its FCS, or with an inverted one (R333, R341). -/
def withFcs (inverted : Bool) (bs : List Byte) : List Byte :=
  bs ++ leBytes 4 (if inverted then 2 ^ 32 - 1 - crc32 bs else crc32 bs)

/-- Ones' complement addition of 16 bits. -/
def addOnes (a b : Nat) : Nat := let c := a + b; if 2 ^ 16 ≤ c then c - (2 ^ 16 - 1) else c

/-- The octets of a PTP message that goes on with `stay` more in its correctionField: a UDP checksum that is not zero follows incrementally, and the
FCS is computed anew (R342). -/
def patchPtp (stay : Int) (f : EthFrame) : List Byte :=
  let bs := f.octets
  let ip := 14 + 4 * b2n f.tag.isSome
  let udp := match f.body with | .udp .. => true | _ => false
  let base := if udp then ip + 4 * ((bs.getD ip 0).toNat % 16) + 8 else ip
  if bs.length < base + 20 then bs
  else
    let old := ofBe ((bs.drop (base + 8)).take 8)
    let new := (((old : Int) + stay) % 2 ^ 64).toNat
    let sum := ofBe ((bs.drop (base - 2)).take 2)
    let next := (List.range 4).foldl (fun c i =>
      addOnes (addOnes c (2 ^ 16 - 1 - old / 2 ^ (16 * i) % 2 ^ 16)) (new / 2 ^ (16 * i) % 2 ^ 16)) (2 ^ 16 - 1 - sum)
    let check := if next = 2 ^ 16 - 1 then 2 ^ 16 - 1 else 2 ^ 16 - 1 - next
    let head := if udp && sum != 0 then bs.take (base - 2) ++ beBytes 2 check else bs.take base
    withFcs f.fcsBad ((head ++ (bs.drop base).take 8 ++ beBytes 8 new ++ bs.drop (base + 16)).take (bs.length - 4))

/-- Replace the PTP message that a body carries. -/
def mapPtp (f : PtpMsg → PtpMsg) : EthBody → EthBody
  | .ptp m => .ptp (f m)
  | .udp a b c d (.ptp m) => .udp a b c d (.ptp (f m))
  | b => b

/-- Recovered wall time at the present instant, in ns (R345); until a first Sync, the time since the model's start. -/
def State.wallNow (s : State) : Int := s.net.wall.getD s.now

/-- What a MAC writes into a frame as it leaves (R342, R344). A bridged message carries its ingress instant in `age`, in
units of 125 ps. -/
def State.onMedium (s : State) (n : Nat) (t : TxFrame) : EthFrame :=
  if t.kind = kindBridgedPtp then
    let stay : Int := ((s.now * 8 + s.rd (PTP_LAT_TX n) : Nat) - (t.frame.age : Int)) * 2 ^ 13
    let add (m : PtpMsg) : PtpMsg := { m with correction := m.correction + stay }
    { t.frame with age := 0, body := mapPtp add t.frame.body, octets := patchPtp stay t.frame }
  else if t.kind = kindDelayReq then { t.frame with body := mapPtp (fun m => { m with time := s.wallNow.toNat }) t.frame.body }
  else t.frame

/-- The instance keeps the transmit time of its own Delay_Req (R344). -/
def keepT3 (t : TxFrame) : Act := withS fun s =>
  whenDo (t.kind == kindDelayReq) (updNet fun x => { x with ptp := { x.ptp with
    delay := some (t.id, s.wallNow.toNat) } })

/-- Make a stamp at the medium as a frame leaves MAC `n` (R344). -/
def mediumStamp (n : Nat) (k : Stamp → Act) : Act := withS fun s =>
  withStamp fun st => k { st with tick := st.tick + s.rd (PTP_LAT_TX n) / 8 }

/-- The MAC holds the stamp of a software ring's frame until its entry completes (R333). -/
def keepSoft (n : Nat) (t : TxFrame) : Act := whenDo (t.kind == kindSoft)
  (mediumStamp n fun st => updMac n fun m => { m with softStamp := m.softStamp.set {} t.id st })

/-- Software transmit ring `r` of MAC `n`. -/
def txRing (n r : Nat) : RingId := .macTx ⟨n % 6, Nat.mod_lt _ (by decide)⟩ ⟨r % 2, Nat.mod_lt _ (by decide)⟩

/-- The head entry of a software ring completes (R333). -/
def softDone (n r : Nat) (st : Status) (t : Stamp) : Act := withS fun s =>
  let b := ringBase (txRing n r)
  let a := s.ringEntry b (s.rd (RING_HEAD b))
  acts [bump (RING_HEAD b) 1, completionAt .network a (some t) 0 (leAt (s.bytesAt a 0x20) 0x18 4) 0 st]

/-- A frame begins on the medium: the highest queue that is not empty is served (R331). The idle step runs this
(log 5). -/
def macBegin (n : Nat) : Act := withS fun s =>
  whenDo (s.linkUp n && (s.mac n).sending.isNone)
    (match [7, 6, 5, 4, 3, 2, 1, 0].find? fun q => !((s.mac n).queues.get [] q).isEmpty with
     | none => skip
     | some q => match (s.mac n).queues.get [] q with
       | [] => skip
       | t :: ts => acts [
           updMac n fun m => { m with
             queues := m.queues.set [] q ts,
             sending := some (q, { t with frame := s.onMedium n t }, s.now + (t.frame.len + 20) * 8 / s.macGbps n) },
           keepT3 t, keepSoft n t, tsqPush n q t])

/-- A frame has left MAC `n`. -/
def sent (n : Nat) (f : EthFrame) : Act :=
  acts [emit (.eth n f), macCount n cTxFrames 1, macCount n cTxOctets f.len]

/-- The end of the frame on the medium. The idle step runs this (log 5). -/
def macEnd (n : Nat) : Act := withS fun s =>
  match (s.mac n).sending with
  | some (_, t, e) => whenDo (decide (e ≤ s.now)) (acts [updMac n fun m => { m with sending := none }, sent n t.frame,
      whenDo (t.kind == kindSoft) (acts [updMac n fun m => { m with inFlight := m.inFlight.set false t.id false },
        whenDo (s.ringHas (txRing n t.id)) (softDone n t.id .ok ((s.mac n).softStamp.get {} t.id))])])
  | none => skip

end Sys2Proof.Machine
end

