-- ==== Sys2Proof/Machine/Hasp.lean ====
section
/-!
DEFINITION. Requesters' identities, the Hasps and the mailboxes (R299 to R311), and what the loss of Hasp 0 does to an
update session (R501, R313).
-/

namespace Sys2Proof.Machine

/-! ## Identities (R299, R301) -/

/-- The kind of a core thread and of a Shuttle remote (R301). -/
def kindThread : Nat := 2
def kindRemote : Nat := 3

/-- INDEX of a thread's identity: core and thread (R301). -/
def threadIndex (c t : Nat) : Nat := c * 128 + t

/-- The identity of thread `t` of core `c`. -/
def State.threadIdent (s : State) (c t : Nat) : Ident := ⟨kindThread, threadIndex c t, (s.thread c t).gen⟩

/-- The identity of host `p`. -/
def State.hostIdent (s : State) (p : Nat) : Ident := ⟨p, 0, s.rd (HP_STATUS_GEN p)⟩

/-- The identity that an access carries: engines, the boot and security block and the debug port carry none. -/
def State.identOf (s : State) : Requester → Option Ident
  | .hostA => some (s.hostIdent 0)
  | .hostB => some (s.hostIdent 1)
  | .thread c t => some (s.threadIdent c t)
  | _ => none

def State.hasp (s : State) (n : Nat) : Hasp := s.hst.hasps.get {} n
def updHasp (n : Nat) (f : Hasp → Hasp) : Act :=
  updHst fun h => { h with hasps := h.hasps.set {} n (f (h.hasps.get {} n)) }

/-- The requester holds Hasp `n`. -/
def State.holdsHasp (s : State) (me : Option Ident) (n : Nat) : Bool := me.isSome && (s.hasp n).owner == me

/-- The requester holds Hasp 0, which carries the authority for device-wide operations (R300). -/
def State.holds0 (s : State) (w : Requester) : Bool := s.holdsHasp (s.identOf w) 0

/-! ## Update sessions (R501) -/

/-- First flash address of an image slot, and its length (R491). -/
def slotBase (k : Nat) : Nat := k * 0x4000000
def slotBytes : Nat := 0x4000000
/-- The erase block of the flash. -/
def flashBlock : Nat := 0x10000

/-- No session is open any more. -/
def closeSession : Act := acts [updBoot fun b => { b with session := none }, wr BT_UPDATE_OPEN 0, wr BT_UPDATE_SLOT 0,
  wr BT_UPDATE_KIND 0, wr BT_UPDATE_WRITTEN 0]

/-- Abandon the session: its header block is erased and TRY stays (R501). -/
def abandonSession : Act := withS fun s => match s.boot.session with
  | some x => acts [fun _ => [.clearFlash (slotBase x.slot) (slotBase x.slot + flashBlock)], closeSession,
      setEvent BT_EVENT_UPDATE, ledger 0xA004 .boot note x.slot]
  | none => skip

/-- A requester loses Hasp `n`: with Hasp 0 goes its update session (R313, R501). -/
def lostHasp (n : Nat) (me : Ident) : Act := withS fun s =>
  whenDo (n == 0 && (match s.boot.session with | some x => x.owner == me | none => false)) abandonSession

/-! ## Hasps (R301 to R305) -/

/-- The value of HASP_n. -/
def haspValue (grant orphan again : Bool) (o : Option Ident) : Nat :=
  b2n grant * 2 ^ 31 + b2n orphan * 2 ^ 30 + b2n again * 2 ^ 29 +
    (match o with | some i => i.kind * 2 ^ 26 + i.index * 2 ^ 16 + i.gen | none => 0)

/-- The value of HASP_PEEKn: GRANT and AGAIN are 0. -/
def State.haspPeek (s : State) (n : Nat) : Nat := haspValue false (s.hasp n).orphan false (s.hasp n).owner

/-- Acquire Hasp `n` for a requester, giving the value read (R301, R303). -/
def haspAcquire (n : Nat) (me : Ident) (k : Nat → Act) : Act := withS fun s =>
  let h := s.hasp n
  match h.owner with
  | none => acts [updHasp n fun _ => { owner := some me, orphan := false }, k (haspValue true h.orphan false (some me))]
  | some o => if o == me then k (haspValue true false true (some me)) else k (haspValue false false false (some o))

/-- A read of HASP_n (R301). A requester without an identity acquires nothing and reads what HASP_PEEKn shows. -/
def haspRead (w : Requester) (n : Nat) : Act := withS fun s =>
  match s.identOf w with
  | some me => haspAcquire n me fun v => reply (leBytes 4 v)
  | none => reply (leBytes 4 (s.haspPeek n))

/-- Release Hasp `n`, held by `me`. -/
def haspFree (n : Nat) (me : Ident) : Act :=
  acts [updHasp n fun _ => {}, lostHasp n me]

/-- A write that HASP_n does not take (R302). A writer without an identity has no kind of its own: that field of the record is
a free value (log 2). -/
def haspReject (n : Nat) (me : Option Ident) : Act := acts [count HASP_REJECT 1, setEvent HASP_EVENT_REJECT,
  match me with
  | some i => ledger 0xB402 .hasp note (n * 2 ^ 24 + i.kind * 2 ^ 16)
  | none => withFree fun v => ledger 0xB402 .hasp note (n * 2 ^ 24 + v % 4 * 2 ^ 16)]

/-- A write of HASP_n: zero by the owner releases it, anything else is discarded (R302). -/
def haspWrite (w : Requester) (n v : Nat) : Act := withS fun s =>
  match s.identOf w with
  | some me => if v == 0 && s.holdsHasp (some me) n then haspFree n me else haspReject n (some me)
  | none => haspReject n none

/-- Free every Hasp whose owner `p` accepts, as orphans (R303). -/
def orphanHasps (p : Ident → Bool) : Act := forN 64 fun n => withS fun s =>
  match (s.hasp n).owner with
  | some o => whenDo (p o) (acts [updHasp n fun _ => { owner := none, orphan := true }, setEvent HASP_EVENT_ORPHAN,
      ledger 0xB401 .hasp note (n * 2 ^ 24 + o.kind * 2 ^ 16), lostHasp n o])
  | none => skip

/-- `HASP_ACQUIRE`. -/
def execHaspAcquire (w : Requester) (n : Fin 64) (s : State) : Host.Outcome State Fault Refusal := done (haspRead w n) s

/-- `HASP_RELEASE`. -/
def execHaspRelease (w : Requester) (n : Fin 64) (v : Word) (s : State) : Host.Outcome State Fault Refusal :=
  done (haspWrite w n v.toNat) s

/-! ## Mailboxes (R306 to R311) -/

/-- The code 0xB001 of a device-wide register write refused with STATE (R300, R558). -/
def refusedWrite (src : Src) (a : Nat) (st : Status) : Act :=
  ledger 0xB001 src note (st.code * 2 ^ 24 + (a - 0x10000000))

def State.box (s : State) (src dst : Nat) : Mbox := s.hst.boxes.get {} (src * 12 + dst)
def updBox (src dst : Nat) (f : Mbox → Mbox) : Act :=
  updHst fun h => { h with boxes := h.boxes.set {} (src * 12 + dst) (f (h.boxes.get {} (src * 12 + dst))) }

/-- Messages a mailbox holds (R306). -/
def State.boxSize (s : State) : Nat := if s.compact then 8 else 1

/-- The endpoint is enabled (R249, R306). -/
def State.endpointOn (s : State) (e : Nat) : Bool :=
  if s.compact then decide (e < 2) || (decide (e < 6) && s.coreOn (e - 2))
  else decide (e < 2) || (decide (e < 10) && s.coreOn (e - 2)) || (e == 10 && s.has .shuttle) || (e == 11 && s.has .mantle)

/-- A gated core is powered up (R283). -/
def powerUp (c : Nat) : Act := withS fun s => whenDo (s.rd (FM_PWR_STATE c) == 2) (wr (FM_PWR_STATE c) 3)

/-- A message has arrived in the mailbox from `src`: a host gets vector 0 when its MB_ARRIVED bit rises, a core a wake, for
which one held flag stands (R276, R298, R311). -/
def boxArrival (src dst : Nat) (wasEmpty : Bool) : Act := withS fun s =>
  if dst < 2 then whenDo wasEmpty (raiseVector dst 0)
  else if dst < 10 then acts [
    whenDo (!((s.core (dst - 2)).held.any fun h => h.entry == .mailbox src)) (pushWake (dst - 2) (.mailbox src) .source),
    powerUp (dst - 2)]
  else skip

/-- Store a message from `src` for `dst`; a full mailbox has its newest entry overwritten, and that one's collision flag set (R306,
R307). -/
def boxPut (src dst : Nat) (m : MbWord) (k : Bool → Act) : Act := withS fun s =>
  let b := s.box src dst
  let full := decide (s.boxSize ≤ b.words.length)
  acts [
    updBox src dst fun b => if full then { words := b.words.dropLast ++ [{ m with coll := true }] }
      else { words := b.words ++ [m] },
    boxArrival src dst b.words.isEmpty, k full]

/-- Take the oldest message of a mailbox, with its collision flag (R249, R306, R308). -/
def boxTake (src dst : Nat) : Act := updBox src dst fun b => { words := b.words.drop 1 }

/-- The generation of a message's sender now (R309, R381, R396). -/
def State.senderGen (s : State) (src : Nat) (m : MbWord) : Nat :=
  if src < 2 then s.rd (HP_STATUS_GEN src)
  else if src < 10 then (s.thread (src - 2) m.thread).gen
  else if src = 10 then s.rd SH_GEN_CGEN else s.rd MT_PGEN_PGEN

/-- The message is stale (R309). -/
def State.stale (s : State) (src : Nat) (m : MbWord) : Bool := m.gen != s.senderGen src m

/-- Clear the inbound mailboxes of an endpoint (R310). -/
def clearInbound (dst : Nat) : Act := withS fun s =>
  let n := (List.range 12).foldl (fun n src => n + (s.box src dst).words.length) 0
  acts [
    forN 12 fun src => withS fun s => acts [count (MB_LOST src dst) (s.box src dst).words.length,
      updBox src dst fun _ => {}],
    whenDo (decide (0 < n)) (ledger 0xB501 .mailbox warning (dst * 2 ^ 24 + n))]

/-- What MB_RXs_INFO shows for host `p` (R308, R309). -/
def State.boxInfo (s : State) (src p : Nat) : Nat :=
  let b := s.box src p
  match b.words with
  | m :: _ => 2 ^ 31 + b2n m.coll * 2 ^ 30 + b2n (s.stale src m) * 2 ^ 29 + b.words.length * 2 ^ 24 + m.thread * 2 ^ 16
      + m.gen
  | [] => 0

/-- A host's read of MB_RXs_LO latches HI and INFO (R308). -/
def boxReadLo (w : Requester) (p src : Nat) : Act := withS fun s =>
  let v := match (s.box src p).words with | m :: _ => m.value.toNat | [] => 0
  acts [latch w (MB_RX_HI src).addr (v / 2 ^ 32), latch w (MB_RX_INFO_FULL src).addr (s.boxInfo src p),
    reply (leBytes 4 v)]

/-- A host's read of MB_RXs_HI takes the message (R308). -/
def boxReadHi (w : Requester) (p src : Nat) : Act := withS fun s =>
  acts [reply (leBytes 4 (s.latched w (MB_RX_HI src).addr)), boxTake src p]

/-- The requester behind host port `p`. -/
def hostReq (p : Nat) : Requester := if p = 0 then .hostA else .hostB

/-- `MB_HOST_TAKE`: a host reads LO and then HI of the mailbox from a sender (R308). -/
def execMbHostTake (port : Fin 2) (sender : Fin 16) (s : State) : Host.Outcome State Fault Refusal :=
  done (whenDo (decide (sender.val < 12)) (acts [boxReadLo (hostReq port) port sender,
    withS fun s => acts [boxReadHi (hostReq port) port sender,
      reply (s.reply ++ leBytes 4 (s.latched (hostReq port) (MB_RX_HI sender).addr))]])) s

end Sys2Proof.Machine
end

