-- ==== Sys2Proof/Machine/Foreman.lean ====
section
/-!
DEFINITION. Foreman (its chapter): context areas, threads and their states, dispatch, the pending-wake queues, the
measurement window, power gating and the watchdog.
-/

namespace Sys2Proof.Machine

/-! ## Threads and their contexts (R267 to R269) -/

/-- A general register: register 0 is zero (R228). -/
def Thread.reg (t : Thread) (i : Nat) : DWord := if i = 0 then 0 else t.g.get 0 i
/-- Write a general register: a write of register 0 is discarded (R228). -/
def Thread.setReg (t : Thread) (i : Nat) (v : DWord) : Thread := if i = 0 then t else { t with g := t.g.set 0 i v }
/-- Make the register writes of a completed instruction. -/
def Thread.setRegs (t : Thread) (l : List (Nat × DWord)) : Thread := l.foldl (fun t (i, v) => t.setReg i v) t

/-- A thread designator (R245). -/
def designator (c t : Nat) : Nat := c * 2 ^ 16 + t * 2 ^ 8

/-- The first address of a context area (R267). -/
def ctxBase (c t : Nat) : Nat := 0x5900000 + 0x8000 * c + 0x200 * t

/-- The 384 bytes that Foreman writes into a context area (R267). -/
def Thread.context (t : Thread) : List Byte :=
  ((List.range 32).flatMap fun i => leBytes 8 (t.reg i).toNat) ++ leBytes 8 t.pc.toNat
    ++ leBytes 8 (b2n t.sys + 2 * b2n t.intrap) ++ leBytes 8 t.tvec.toNat ++ leBytes 8 t.epc.toNat
    ++ leBytes 8 t.ecause.toNat ++ leBytes 8 t.eaddr.toNat ++ leBytes 8 t.escratch.toNat ++ leBytes 8 t.priMax.toNat
    ++ leBytes 8 t.retired.toNat ++ List.replicate 56 0

/-- The thread with the registers that a context area holds (R267). -/
def Thread.restore (t : Thread) (bs : List Byte) : Thread :=
  let w (off : Nat) : DWord := BitVec.ofNat 64 (leAt bs off 8)
  let g : SMap DWord := (List.range 32).foldl (fun g i => if i = 0 then g else g.set 0 i (w (8 * i))) []
  { t with g := g, pc := w 0x100, sys := bit (leAt bs 0x108 8) 0, intrap := bit (leAt bs 0x108 8) 1, tvec := w 0x110,
           epc := w 0x118, ecause := w 0x120, eaddr := w 0x128, escratch := w 0x130, priMax := w 0x138,
           retired := w 0x140 }

/-- Foreman writes a thread's context into its area (R267). -/
def saveCtx (c t : Nat) : Act := withS fun s => acts [memWrite (ctxBase c t) (s.thread c t).context,
  updThread c t fun x => { x with fresh := false }]

/-! ## Ready lists (R273) -/

/-- The priority at which a thread becomes READY: the one that SETPRI gave it while it was BLOCKED or SUSPENDED (R274). -/
def Thread.readyPri (x : Thread) : Nat := x.nextPri.getD x.pri

/-- A thread joins the ready list of its level, at its tail or its head. -/
def enlist (c t : Nat) (front : Bool) : Act := withS fun s =>
  let p := (s.thread c t).readyPri
  acts [
    updThread c t fun x => { x with st := .ready, pri := p, nextPri := none, wait := .none, deadline := none, matched := false, timed := false,
                                    readyAt := s.now },
    updCore c fun k =>
      let l := k.ready.get [] p
      { k with ready := k.ready.set [] p (if front then t :: l else l ++ [t]) }]

/-- The head of the highest ready list that is not empty. -/
def State.nextReady (s : State) (c : Nat) : Option (Nat × Nat) :=
  let lists := (s.core c).ready
  ((List.range 64).map (63 - ·)).findSome? fun p => ((lists.get [] p).head?).map fun t => (p, t)

/-- A core stops being busy unless a thread takes its place (R281). -/
def endBusy (c : Nat) : Act := withS fun s => updCore c fun k =>
  { k with busy := k.busy + (match k.busySince with | some b => s.now - b | none => 0), busySince := none,
           idleSince := s.now }

/-- Take a thread off its ready list, off the core and out of a switch; the core's idle time counts from here (R282). -/
def unseat (c t : Nat) : Act := withS fun s =>
  let k := s.core c
  let p := (s.thread c t).pri
  acts [
    updCore c fun k => { k with ready := k.ready.set [] p ((k.ready.get [] p).filter (· ≠ t)), idleSince := s.now },
    whenDo (k.running == some t) (acts [updCore c fun k => { k with running := none }, endBusy c]),
    whenDo (k.incoming == some t) (acts [updCore c fun k => { k with incoming := none }, endBusy c])]

/-! ## Dispatch (R273 to R275) -/

/-- Begin a context switch to a thread. -/
def beginSwitch (c t : Nat) : Act := withS fun s =>
  let x := s.thread c t
  updCore c fun k => { k with
    ready := k.ready.set [] x.pri ((k.ready.get [] x.pri).filter (· ≠ t)), running := none, incoming := some t,
    busySince := some (k.busySince.getD s.now), entering := { band := x.pri / 8, wait := s.now - x.readyAt, since := s.now } }

/-- The dispatch of the thread that came in is counted in its band (R281). -/
def Core.dispatched (k : Core) : Core :=
  let y := k.bands.get {} k.entering.band
  let d := k.entering.wait
  { k with bands := k.bands.set {} k.entering.band { count := y.count + 1, max := max y.max d, sum := y.sum + d } }

/-- Dispatch the head of the highest level when the core is free, or in place of a thread of lower priority (R273,
R274). -/
def dispatch (c : Nat) : Act := withS fun s =>
  whenDo (s.coreOn c && s.rd (FM_PWR_STATE c) == 0 && (s.core c).incoming.isNone) (match s.nextReady c with
    | none => skip
    | some (p, t) => match (s.core c).running with
      | none => beginSwitch c t
      | some r => whenDo (decide ((s.thread c r).pri < p)) (acts [saveCtx c r, enlist c r true, beginSwitch c t]))

/-- `THREAD_DISPATCH`. -/
def execThreadDispatch (core : Fin 8) (s : State) : Host.Outcome State Fault Refusal := done (dispatch core) s

/-- Suspend a thread that is off the core (R271, R275): its wait is kept. -/
def markSuspended (c t : Nat) : Act :=
  acts [updThread c t fun x => { x with st := .suspended }, setEvent FM_EVENT_SUSPENDED]

/-! ## Traps (R255, R256) -/

def trapFetch : Nat := 1
def trapPoisonFetch : Nat := 2
def trapIllegal : Nat := 3
def trapPriv : Nat := 4
def trapAlign : Nat := 5
def trapAccess : Nat := 6
def trapAtomic : Nat := 7
def trapPoison : Nat := 8
def trapSoft : Nat := 9

/-- The context of a thread that stops running goes to its context area, and the thread leaves the core. -/
def leaveCore (c t : Nat) : Act := acts [saveCtx c t, unseat c t]

/-- A trap, or a double trap. -/
def trap (c t cause eaddr : Nat) : Act := withS fun s =>
  let x := s.thread c t
  acts [
    updThread c t fun x => { x with
      epc := if cause = trapSoft then x.pc + 4 else x.pc, ecause := BitVec.ofNat 64 (b2n x.sys * 2 ^ 16 + cause),
      eaddr := BitVec.ofNat 64 eaddr },
    if x.intrap || x.tvec == 0 then acts [
      ledger 0xB201 (.chandler c) error (c * 2 ^ 24 + t * 2 ^ 16 + cause), leaveCore c t, markSuspended c t]
    else updThread c t fun x => { x with sys := true, intrap := true, pc := x.tvec }]

/-- The access trap of a thread that reaches an unmapped address (R31, R256): the RUNNING thread of its core takes it. -/
def accessTrap (w : Requester) (a : Nat) : Act := match w with
  | .thread c t => withS fun s => whenDo ((s.core c).running == some t.val) (trap c t trapAccess a)
  | _ => skip

/-- The switch ends: the context is restored by 11 reads and the thread runs, with the registers its completed instruction writes; a
poisoned restore suspends it, and no dispatch is counted (R275). A thread that has not run since its start has its context in the buffer only. -/
def switchDone (c : Nat) : Act := withS fun s =>
  match (s.core c).incoming with
  | none => skip
  | some t =>
    let run : Act := acts [
      updThread c t fun x => { (x.setRegs x.result) with st := .running, result := [] },
      updCore c fun k => { k.dispatched with incoming := none, running := some t }]
    if (s.thread c t).fresh then run
    else withMem (ctxBase c t) 0x160 fun bs bad =>
      if bad then acts [unseat c t, markSuspended c t, ledger 0xB307 .foreman error (designator c t)]
      else acts [updThread c t fun x => x.restore bs, run]

/-- `CONTEXT_SWITCH_DONE`. -/
def execContextSwitchDone (core : Fin 8) (s : State) : Host.Outcome State Fault Refusal := done (switchDone core) s

/-! ## Waits (R246, R276 to R278) -/

/-- The sender that RECV on core `c` takes from: the one named, or the next in turn (R249). -/
def State.recvFrom (s : State) (c sender : Nat) : Option Nat :=
  if sender = 15 then ((List.range 12).map fun i => ((s.core c).lastSender + 1 + i) % 12).find? fun e =>
    !(s.box e (c + 2)).words.isEmpty
  else if (s.box sender (c + 2)).words.isEmpty then none else some sender

/-- The registers RECV writes. With rd and rb one register the spec does not say which value stays: a free value (log 2). -/
def recvRegs (rd rb st msg : Nat) (k : List (Nat × DWord) → Act) : Act :=
  if rd = rb then withFree fun v => k [(rd, BitVec.ofNat 64 v)]
  else k [(rb, BitVec.ofNat 64 msg), (rd, BitVec.ofNat 64 st)]

/-- Take the oldest message for RECV (R249). -/
def recvTake (c src rd rb : Nat) (k : List (Nat × DWord) → Act) : Act := withS fun s =>
  let b := s.box src (c + 2)
  match b.words with
  | [] => skip
  | m :: _ =>
    let st := (if s.stale src m then Status.stale else Status.ok).code
    acts [boxTake src (c + 2), updCore c fun x => { x with lastSender := src },
      recvRegs rd rb (st + src * 2 ^ 8 + b2n m.coll * 2 ^ 12) m.value.toNat k]

/-- When what a thread waits on holds, take it and go on with the registers its instruction writes (R246). -/
def tryWait (c t : Nat) (w : Wait) (k : List (Nat × DWord) → Act) (no : Act) : Act := withS fun s =>
  match w with
  | .signal mask rd =>
    let b := (s.thread c t).sigpend &&& mask
    if b = 0 then no
    else acts [updThread c t fun x => { x with sigpend := x.sigpend - b }, k [(rd, BitVec.ofNat 64 (b * 2 ^ 16))]]
  | .mailbox sender rd rb => match s.recvFrom c sender with
    | some src => recvTake c src rd rb k
    | none => no
  | .fence e f v rd => if reached (s.fenceValue e f) v then k [(rd, 0)] else no
  | .none | .position .. | .sleep _ | .room .. => no

/-- A blocked instruction completes: its thread becomes READY, or stays SUSPENDED with the instruction complete (R271, R277);
a gated core is powered up (R283). -/
def complete (c t : Nat) (l : List (Nat × DWord)) : Act := withS fun s =>
  match (s.thread c t).st with
  | .blocked => acts [updThread c t fun x => { x with result := l }, enlist c t false, powerUp c]
  | .suspended => updThread c t fun x =>
      { x with result := l, wait := .none, deadline := none, matched := false, timed := false }
  | _ => skip

/-- The thread waits, BLOCKED or SUSPENDED. -/
def State.waiting (s : State) (c t : Nat) : Bool :=
  match (s.thread c t).st with | .blocked | .suspended => (s.thread c t).wait != .none | _ => false

/-- Complete the wait of a thread if its condition holds. -/
def wakeIf (c t : Nat) : Act := withS fun s =>
  whenDo (s.waiting c t) (tryWait c t (s.thread c t).wait (complete c t) skip)

/-- What a timer entry does to a thread whose time has passed: the condition first, then TIMEOUT; SLEEP ends with OK (R248,
R278). -/
def timedOut (c t : Nat) : Act := withS fun s =>
  let late : DWord := BitVec.ofNat 64 Status.timeout.code
  match (s.thread c t).wait with
  | .sleep rd => complete c t [(rd, 0)]
  | .signal m rd => tryWait c t (.signal m rd) (complete c t) (complete c t [(rd, late)])
  | .mailbox x rd rb => tryWait c t (.mailbox x rd rb) (complete c t) (complete c t [(rd, late)])
  | .fence e f v rd => tryWait c t (.fence e f v rd) (complete c t) (complete c t [(rd, late)])
  | .none | .position .. | .room .. => skip

/-- What a pending-wake entry does when it is taken (R277). Several threads that wait on one mailbox or fence are served in
ascending order (log 23). -/
def wakeEffect (c : Nat) : WakeEntry → Act
  | .signal t b => acts [updThread c t fun x => { x with sigpend := x.sigpend ||| b }, withS fun s =>
      match (s.thread c t).wait with | .signal .. => wakeIf c t | _ => skip]
  | .timeline t => withS fun s => match (s.thread c t).wait with
      | .sleep rd => complete c t [(rd, 0)] | _ => skip
  | .position t late => withS fun s => match (s.thread c t).wait with
      | .position _ rd => whenDo (s.thread c t).matched
          (complete c t [(rd, if late then BitVec.ofNat 64 Status.late.code else 0)])
      | _ => skip
  | .mailbox src => forN 64 fun t => withS fun s => match (s.thread c t).wait with
      | .mailbox x _ _ => whenDo (x == src || x == 15) (wakeIf c t)
      | _ => skip
  | .fence e f => forN 64 fun t => withS fun s => match (s.thread c t).wait with
      | .fence e' f' _ _ => whenDo (e == e' && f == f') (wakeIf c t)
      | _ => skip
  | .timer t => withS fun s => whenDo ((s.thread c t).timed && s.waiting c t) (timedOut c t)

/-- A held wake of a slot is delivered (R73). -/
def heldSlot (c k due : Nat) : Act := withS fun s => acts [
  count YS_HELD 1, wr YS_HELD_MAX (min (2 ^ 32 - 1) (max (s.rd YS_HELD_MAX) (s.ys.tick - due))), setEvent YS_EVENT_HELD,
  ledger 0x100A .yardstick warning k,
  whenDo (!((s.core c).held.any fun h => match h.origin with | .slot x _ => x == k | _ => false))
    (wr (YS_SLOT_CTRL_HELD k) 0)]

/-- The first held wake enters the queue when there is room (R277); a SIGNAL that was held completes (R248). The queue was full until then: FM_c_FULL
does not count it again (R279's example). -/
def admitHeld (c : Nat) : Act := withS fun s =>
  let k := s.core c
  match k.held with
  | [] => skip
  | h :: hs => whenDo (decide (k.queue.length < 64)) (acts [
      updCore c fun k => { k with held := hs }, queueWake c h.entry,
      match h.origin with
      | .slot x due => heldSlot c x due
      | .issuer ic it => withS fun s => match (s.thread ic it).wait with
        | .room _ _ _ rd => complete ic it [(rd, 0)]
        | _ => skip
      | .source => skip])

/-- Take one entry of a core's queue, to which the first held wake comes; none is taken during a context switch (R277). -/
def takeEntry (c : Nat) : Act := withS fun s =>
  whenDo (s.coreOn c && (s.core c).incoming.isNone) (match (s.core c).queue with
    | [] => skip
    | e :: es => acts [updCore c fun k => { k with queue := es }, wakeEffect c e, admitHeld c])

/-- `WAKE_ENTRY_TAKE`. -/
def execWakeEntryTake (core : Fin 8) (s : State) : Host.Outcome State Fault Refusal := done (takeEntry core) s

/-- `HELD_WAKE_ADMIT`. -/
def execHeldWakeAdmit (core : Fin 8) (s : State) : Host.Outcome State Fault Refusal := done (admitHeld core) s

/-- A timer check: expired waits give their wakes while there is room (R276). -/
def timerThread (c t : Nat) : Act := withS fun s =>
  let x := s.thread c t
  whenDo (s.waiting c t && !x.timed && (match x.deadline with | some d => decide (d ≤ s.ys.tick) | none => false)
      && decide ((s.core c).queue.length < 64) && (s.core c).held.isEmpty)
    (acts [updThread c t fun x => { x with timed := true }, pushWake c (.timer t) .source])

/-- A timer check of every core. -/
def timerCheckAll : Act := forN 8 fun c => withS fun s => whenDo (s.coreOn c) (forN 64 (timerThread c))

/-- `TIMER_CHECK`. -/
def execTimerCheck (s : State) : Host.Outcome State Fault Refusal := done timerCheckAll s

/-- A thread's comparator matches: the position has reached its operand, or a forward re-base has passed it (R74, R276). -/
def comparator (c t : Nat) (late : Bool) : Act := withS fun s =>
  let x := s.thread c t
  match x.wait with
  | .position p _ => whenDo (!x.matched && decide (p < s.ys.pos ∨ p = s.ys.pos ∧ late = false)) (acts [
      updThread c t fun x => { x with matched := true }, pushWake c (.position t late) .source])
  | _ => skip

/-- `POSITION_COMPARATOR_MATCH`. -/
def execPositionComparatorMatch (core : Fin 8) (t : Fin 64) (s : State) : Host.Outcome State Fault Refusal :=
  done (comparator core t false) s

/-! ## Thread commands (R269 to R272) -/

/-- The entry names thread `t`. -/
def WakeEntry.names (t : Nat) : WakeEntry → Bool
  | .signal x _ => x == t | .timeline x => x == t | .position x _ => x == t | .timer x => x == t
  | .mailbox _ => false | .fence .. => false

/-- The held wake is one of thread `t` of core `c`: its comparator's, its timer's, or a signal to it that no slot and no issuer holds. -/
def Held.names (t : Nat) (h : Held) : Bool := h.origin == .source && h.entry.names t

/-- A thread becomes DORMANT: it loses signals, waits, and queued and held wakes, and its Hasps become orphans (R270, R303). A SIGNAL that it was
stalled on is not performed. Held wakes come to the entries that it leaves. -/
def becomeDormant (c t : Nat) : Act := withS fun s =>
  let me := s.threadIdent c t
  acts [
    unseat c t,
    updCore c fun k => { k with queue := k.queue.filter fun e => !e.names t },
    forN 8 fun d => updCore d fun k => { k with held := k.held.filter fun h => h.origin != .issuer c t },
    updCore c fun k => { k with held := k.held.filter fun h => !h.names t },
    updThread c t fun x => { x with st := .dormant, wait := .none, deadline := none, matched := false, timed := false,
                                    nextPri := none, result := [], sigpend := 0 },
    forN 64 fun _ => admitHeld c,
    orphanHasps (· == me)]

/-- KILL: the context of a RUNNING thread is saved as it leaves the core (R267, R270). -/
def killThread (c t : Nat) : Act := withS fun s => acts [
  whenDo ((s.core c).running == some t) (saveCtx c t), becomeDormant c t, result FM_STATUS_RESULT .ok]

/-- START on a DORMANT thread (R269). -/
def startThread (c t : Nat) : Act := withMem (ctxBase c t + 0x180) 0x80 fun bs bad => withS fun s =>
  let w := leAt bs 0x20 8
  if bad then result FM_STATUS_RESULT .corrupt
  else if w / 2 ^ 9 != 0 || bits w 7 6 != 0 || leAt bs 0x28 0x58 != 0 then result FM_STATUS_RESULT .badarg
  else
    let x : Thread := { fresh := true, pri := bits w 5 0, sys := bit w 8, pc := BitVec.ofNat 64 (leAt bs 0 8),
                        gen := ((s.thread c t).gen + 1) % 2 ^ 16 }
    let g (k off : Nat) (x : Thread) : Thread := x.setReg k (BitVec.ofNat 64 (leAt bs off 8))
    acts [updThread c t fun _ => g 1 8 (g 30 0x10 (g 29 0x18 x)), enlist c t false, powerUp c,
      result FM_STATUS_RESULT .ok]

/-- SUSPEND (R271). -/
def suspendThread (c t : Nat) : Act := withS fun s => acts [
  whenDo ((s.core c).running == some t || (s.thread c t).fresh) (saveCtx c t),
  unseat c t, markSuspended c t, ledger 0xB304 .foreman note (designator c t), result FM_STATUS_RESULT .ok]

/-- RESUME (R271). -/
def resumeThread (c t : Nat) : Act := withS fun s => acts [
  if (s.thread c t).wait == .none then enlist c t false else updThread c t fun x => { x with st := .blocked },
  powerUp c, result FM_STATUS_RESULT .ok]

/-- A refused thread command (R272). -/
def cmdRefused (op : Nat) (st : Status) : Act := acts [result FM_STATUS_RESULT st, setEvent FM_EVENT_REFUSED,
  whenDo (st == .state) (acts [count FM_REFUSALS 1, ledger 0xB306 .foreman note (op * 2 ^ 24 + st.code)])]

/-- A write of FM_CMD (R272). -/
def fmCommand (op v : Nat) : Act := withS fun s =>
  let c := bits v 18 16
  let t := bits v 13 8
  let st := (s.thread c t).st
  if bits v 29 19 != 0 || bits v 15 14 != 0 || bits v 7 0 != 0 then cmdRefused op .badarg
  else if !s.coreOn c then cmdRefused op .absent
  else if op = 0 then if st == .dormant then acts [startThread c t, withS fun s =>
      whenDo (s.rd FM_STATUS_RESULT != 0) (setEvent FM_EVENT_REFUSED)] else cmdRefused op .state
  else if op = 1 then if st == .dormant then cmdRefused op .state
    else killThread c t
  else if op = 2 then if st == .dormant || st == .suspended then cmdRefused op .state else suspendThread c t
  else if st == .suspended then resumeThread c t else cmdRefused op .state

/-- `FM_START`: a write of FM_CMD with OP 0. -/
def execFmStart (_w : Requester) (v : Word) (s : State) : Host.Outcome State Fault Refusal := done (fmCommand 0 v.toNat) s
/-- `FM_KILL`: a write of FM_CMD with OP 1. -/
def execFmKill (_w : Requester) (v : Word) (s : State) : Host.Outcome State Fault Refusal := done (fmCommand 1 v.toNat) s
/-- `FM_SUSPEND`: a write of FM_CMD with OP 2. -/
def execFmSuspend (_w : Requester) (v : Word) (s : State) : Host.Outcome State Fault Refusal :=
  done (fmCommand 2 v.toNat) s
/-- `FM_RESUME`: a write of FM_CMD with OP 3. -/
def execFmResume (_w : Requester) (v : Word) (s : State) : Host.Outcome State Fault Refusal :=
  done (fmCommand 3 v.toNat) s

/-- `CONTEXT_AREA_WRITE` (R268): a write whose first byte lies in a context area. -/
def execContextAreaWrite (w : Requester) (addr : BitVec 40) (data : List Byte) (s : State) :
    Host.Outcome State Fault Refusal :=
  done (whenDo (ctxThread addr.toNat).isSome (memWriteFor w addr.toNat data)) s

/-! ## Power gating (R282, R283) -/

/-- The core has had no READY and no RUNNING thread for IDLE µs (R282). -/
def State.idleLong (s : State) (c : Nat) : Bool :=
  decide (max (s.core c).idleSince s.fm.resetAt + max 1 (s.rd (FM_PWR_IDLE c)) * 1000 ≤ s.now)

/-- A core powers down: AUTO, and none of its threads READY or RUNNING for IDLE µs; its caches become invalid. -/
def powerDown (c : Nat) : Act := withS fun s =>
  let k := s.core c
  whenDo (decide (0 < c) && s.coreOn c && s.on (FM_PWR_MODE c) && s.rd (FM_PWR_STATE c) == 0 && k.running.isNone
      && k.incoming.isNone && (s.nextReady c).isNone && s.idleLong c)
    (acts [wr (FM_PWR_STATE c) 2, updCore c fun k => { k with icache := {}, dcache := {} }])

/-- `CORE_POWER_DOWN`. -/
def execCorePowerDown (core : Fin 8) (s : State) : Host.Outcome State Fault Refusal := done (powerDown core) s
/-- `CORE_POWER_UP`. -/
def execCorePowerUp (core : Fin 8) (s : State) : Host.Outcome State Fault Refusal := done (powerUp core) s
/-- The core is powered. -/
def powerUpDone (c : Nat) : Act := withS fun s => whenDo (s.rd (FM_PWR_STATE c) == 3) (wr (FM_PWR_STATE c) 0)
/-- `CORE_POWER_UP_DONE`. -/
def execCorePowerUpDone (core : Fin 8) (s : State) : Host.Outcome State Fault Refusal := done (powerUpDone core) s

/-! ## The measurement window (R281) -/

/-- Start a window anew. -/
def windowStart : Act := withS fun s => acts [updFm fun f => { f with winStart := s.now },
  forN 8 fun c => updCore c fun k => { k with busy := 0, busySince := k.busySince.map fun _ => s.now, bands := [],
                                              fullSeen := false }]

/-- The window ends: every figure of every core is published. -/
def windowEnd : Act := acts [
  forN 8 fun c => withS fun s =>
    let k := s.core c
    let top := 2 ^ 32 - 1
    acts [wr (FM_BUSY c) (min top (k.busy + (match k.busySince with | some b => s.now - b | none => 0))),
      forN 8 fun b =>
        let y := k.bands.get {} b
        acts [wr (FM_BAND_COUNT c b) (min top y.count), wr (FM_BAND_MAX c b) (min top y.max),
          wr (FM_BAND_MEAN c b) (if y.count = 0 then 0 else y.sum / y.count)]],
  windowStart, bump FM_WIN_SEQ 1]

/-- `FOREMAN_WINDOW_END`. -/
def execForemanWindowEnd (s : State) : Host.Outcome State Fault Refusal := done windowEnd s

/-- The window length in ms. -/
def State.windowMs (s : State) : Nat := max 1 (min 10000 (s.rd FM_WIN_MS))

/-- A write of FM_WIN restarts the window. -/
def fmWinWrite (v : Nat) : Act := acts [wr FM_WIN_MS v, windowStart]

/-! ## The watchdog (R285) -/

/-- The access comes from a thread of Chandler 0. -/
def fromCore0 : Requester → Bool | .thread c _ => c == 0 | _ => false

/-- TIMEOUT held to its limits, in ms. -/
def State.wdogMs (s : State) : Nat := max 10 (min 60000 (s.rd FM_WDOG_CFG_TIMEOUT))

/-- A transaction has run for more than 10 µs, beside the CK_PIX cycles of 5/6 ns that emergency requesters took (R285, R431). -/
def TsRun.stuck (r : TsRun) (now : Nat) : Bool := decide (60000 + 5 * r.lost < 6 * (now - r.since))

/-- The groups that hold a stuck transaction. -/
def State.stuckGroups (s : State) : List Nat :=
  (List.range 16).filter fun g => (s.ts.running.get none g).any (·.stuck s.now)

/-- Record group `g`'s stuck transaction, once (R285). -/
def tellStuck (g : Nat) : Act := withS fun s => match s.ts.running.get none g with
  | some r => whenDo (!r.told) (acts [ledger 0xB308 .foreman error g,
      updTs fun t => { t with running := t.running.set none g (some { r with told := true }) }])
  | none => skip

/-- Start the watchdog, or restart its count: a new TIMEOUT takes effect. -/
def wdogRestart : Act := withS fun s => updFm fun f =>
  { f with wdogKicked := s.now, wdogTimeout := s.wdogMs, wdogWarned := false }

/-- Boot step 14 begins: the watchdog starts. -/
def wdogStart : Act := withS fun s => whenDo (!s.on FM_WDOG_CFG_RUNNING) (acts [wr FM_WDOG_CFG_RUNNING 1, wdogRestart])

/-- A write of FM_WDOG_KICK (R285). -/
def wdogKickWrite (w : Requester) (v : Nat) : Act := withS fun s =>
  if !(fromCore0 w && v % 2 ^ 16 == 0x4B1C) then count FM_WDOG_STAT_REJECT 1
  else
    let stuck := s.stuckGroups
    if stuck.isEmpty then acts [wr FM_WDOG_CFG_STUCK 0, wdogRestart]
    else acts [count FM_WDOG_STAT_REJECT 1, wr FM_WDOG_CFG_STUCK 1, forEach stuck tellStuck]

/-- `WDOG_KICK`. -/
def execWdogKick (w : Requester) (v : Word) (s : State) : Host.Outcome State Fault Refusal := done (wdogKickWrite w v.toNat) s

/-- A write of FM_WDOG_CFG: from Chandler 0 only. -/
def wdogCfgWrite (w : Requester) (v : Nat) : Act :=
  if fromCore0 w then wr FM_WDOG_CFG_TIMEOUT v else count FM_WDOG_STAT_REJECT 1

/-- The ms before a bite. -/
def State.wdogRemain (s : State) : Nat :=
  if s.on FM_WDOG_CFG_RUNNING then s.fm.wdogTimeout - (s.now - s.fm.wdogKicked) / 10 ^ 6 else 0

/-- Half the timeout has passed without a kick. -/
def wdogWarning : Act := withS fun s => whenDo (s.on FM_WDOG_CFG_RUNNING && !s.fm.wdogWarned) (acts [
  updFm fun f => { f with wdogWarned := true }, setEvent FM_EVENT_WDOG_WARN,
  ledger 0xB302 .foreman warning s.wdogRemain])

/-- `WDOG_WARN`. -/
def execWdogWarn (s : State) : Host.Outcome State Fault Refusal := done wdogWarning s

end Sys2Proof.Machine
end

