-- ==== Sys2Proof/Machine/ShuttleLink.lean ====
section
/-!
DEFINITION. How a Shuttle frame leaves the part (R362, R363, R372, R373), and the forwarding of Ledger records (R382).
-/

namespace Sys2Proof.Machine

/-- The frame with its header changed; the two delay frames pass over one link only and have no header of interest (R364). -/
def mapHead (g : ShHead → ShHead) : ShFrame → ShFrame
  | .beacon f => .beacon { f with head := g f.head }
  | .delayReq => .delayReq
  | .delayResp t => .delayResp t
  | .enum f => .enum { f with head := g f.head }
  | .enumReply f => .enumReply { f with head := g f.head }
  | .assign f => .assign { f with head := g f.head }
  | .mailbox f => .mailbox { f with head := g f.head }
  | .ledger f => .ledger { f with head := g f.head }
  | .linkchg f => .linkchg { f with head := g f.head }
  | .image f => .image { f with head := g f.head }
  | .reclaim f => .reclaim { f with head := g f.head }

/-- The other link. -/
def otherLink : ShLink → ShLink | .up => .dn | .dn => .up
/-- The payload of a link in Ledger's records. -/
def linkNo : ShLink → Nat | .up => 0 | .dn => 1
/-- A link is up. -/
def State.shLink (s : State) : ShLink → Bool | .up => s.on SH_STATUS_UP | .dn => s.on SH_STATUS_DN
/-- The number that stands for every device, and for a sender without one (R363). -/
def everyDevice : Nat := 0xFFFF
def roleMaster : Nat := 1
def roleActing : Nat := 3
def roleConflict : Nat := 4

/-- Shuttle runs: it is enabled and boot step 10 has started it (R361). -/
def State.shOn (s : State) : Bool := s.has .shuttle && s.sh.started

/-- The device waits for its image from the Shuttle master: Shuttle works regardless of the configuration word (R37, R499). -/
def State.bootsShuttle (s : State) : Bool := s.boot.waits == some 5 && s.rd BT_STATUS_SOURCE == 3

/-- Send a frame on a link; at a down link it is turned round, and one sent both ways is dropped (R372). -/
def shEmit (l : ShLink) (seq : Nat) (head : ShHead) (f : ShFrame) : Act := withS fun s =>
  if s.shLink l then emit (.shuttle l seq f)
  else whenDo (!head.both && s.shLink (otherLink l))
    (emit (.shuttle (otherLink l) seq (mapHead (fun h => { h with turned := true, upstream := l == .dn }) f)))

/-- The header of a frame of this device. -/
def State.shHead (s : State) (l : ShLink) (dst : Nat) (both : Bool) : ShHead :=
  { upstream := l == .up, turned := false, both := both,
    src := if s.on SH_STATUS_NUMBERED then s.rd SH_STATUS_NUMBER else everyDevice,
    dst := dst, hops := 0, cgen := s.rd SH_GEN_CGEN }

/-- Take the next SEQ. A device in ROLE CONFLICT sends nothing of its own (R377). -/
def withSeq (f : Nat → Act) : Act := withS fun s =>
  whenDo (s.shOn && s.rd SH_STATUS_ROLE != roleConflict)
    (acts [updSh fun h => { h with seq := (h.seq + 1) % 2 ^ 32 }, f s.sh.seq])

/-- Send a frame of this device on a link. -/
def shSend (l : ShLink) (dst : Nat) (f : ShHead → ShFrame) : Act := withS fun s =>
  let h := s.shHead l dst false
  withSeq fun q => shEmit l q h (f h)

/-- Send a frame of the master: downstream, and both ways while a link of the ring is down (R373). -/
def shMasterSend (dst : Nat) (f : ShHead → ShFrame) : Act := withS fun s =>
  if 2 ≤ s.rd SH_STATUS_RING then
    let d := s.shHead .dn dst true
    let u := s.shHead .up dst true
    withSeq fun q => acts [shEmit .dn q d (f d), shEmit .up q u (f u)]
  else shSend .dn dst f

/-- The hops after which a frame is dropped (R362). -/
def hopLimit : Nat := 2048

/-- Forward a frame that arrived on a link, in the direction it travels (R362). -/
def shForward (l : ShLink) (seq : Nat) (head : ShHead) (f : ShFrame) : Act :=
  let h := { head with hops := head.hops + 1 }
  whenDo (decide (h.hops < hopLimit)) (shEmit (otherLink l) seq h (mapHead (fun x => { x with hops := x.hops + 1 }) f))

/-- A frame comes in on a running Shuttle whose link is up. -/
def State.shHears (s : State) (l : ShLink) : Bool := s.shOn && s.shLink l

/-- The device goes by its number: in ROLE CONFLICT it forwards everything (R377). -/
def State.shNamed (s : State) : Bool := s.on SH_STATUS_NUMBERED && s.rd SH_STATUS_ROLE != roleConflict
/-- The frame is addressed to this device alone. -/
def State.shMine (s : State) (h : ShHead) : Bool := s.shNamed && h.dst == s.rd SH_STATUS_NUMBER
/-- The frame is this device's own, come round. -/
def State.shOwn (s : State) (h : ShHead) : Bool := s.shNamed && h.src == s.rd SH_STATUS_NUMBER

/-- The frame is the second copy of one that went both ways or was turned round (R373). -/
def State.shRepeat (s : State) (seq : Nat) (h : ShHead) : Bool :=
  (h.both || h.turned) && (match s.sh.lastTaken with
    | some (src, q) => src == h.src && decide ((q + 2 ^ 32 - seq % 2 ^ 32) % 2 ^ 32 < 2 ^ 16)
    | none => false)

/-- Note the SEQ of a frame taken. -/
def shTaken (seq : Nat) (h : ShHead) : Act := updSh fun x => { x with lastTaken := some (h.src, seq) }

/-- Send every record that waits to be forwarded, oldest first. -/
def shFlush : Act := withS fun s => whenDo (s.shLink .dn || s.shLink .up) (acts [
  updSh fun h => { h with records := [] },
  forEach s.sh.records fun r => shSend .dn s.sh.masterNo fun h => .ledger { head := h, record := r }])

/-- A member with LGFWD forwards a record of severity LGSEV or more through its 16-record queue (R382). -/
def shCollect (sev : Nat) (bytes : List Byte) : Act := withS fun s =>
  whenDo (s.shOn && s.rd SH_STATUS_ROLE == roleMember && s.on SH_CTRL_LGFWD && decide (s.rd SH_CTRL_LGSEV ≤ sev))
    (if 16 ≤ s.sh.records.length then count SH_LGC_DROP 1
     else acts [updSh fun h => { h with records := h.records ++ [bytes] }, shFlush])

end Sys2Proof.Machine
end

