-- ==== Sys2Proof/Machine/Ledger.lean ====
section
/-!
DEFINITION. Ledger (its chapter): taking records, repeats, the ring, freezes, the flash archive, the last-gasp slots
and the export ring.
-/

namespace Sys2Proof.Machine

/-- First address of the Ledger ring (R466). -/
def ledgerRing : Nat := 0x5800000
/-- Slots of the ring, and records of a region (R466, R475). -/
def ringSlots : Nat := 32768
def regionSize : Nat := 32
/-- First flash address of the archive (R470). -/
def archiveBase : Nat := 0x9000000
/-- Records of the archive and of one of its blocks (R470). -/
def archiveSize : Nat := 2048 * 2048
def archiveBlock : Nat := 2048

/-- A record as its 32 bytes (R460). -/
def LRec.bytes (r : LRec) : List Byte :=
  [BitVec.ofNat 8 r.sev, BitVec.ofNat 8 r.src] ++ leBytes 2 r.code ++ leBytes 4 r.repeats ++ leBytes 4 r.sec
    ++ [BitVec.ofNat 8 r.flags] ++ leBytes 3 r.pcycle ++ leBytes 8 r.tick ++ leBytes 4 r.payload
    ++ [0xA5#8] ++ leBytes 3 r.seq

def flagLocal : Nat := 1
def flagHeld : Nat := 2
def flagPre : Nat := 4
def flagUpdate : Nat := 8
def flagLoss : Nat := 16

/-- The repeat window in nanoseconds (R465, R479). -/
def State.repeatWindow (s : State) : Nat := min 60000 (s.rd LG_REPEAT_WINDOW) * 10 ^ 6

/-- `r`, arriving now, repeats the record `o` (R465). -/
def State.repeats (s : State) (r : LogReq) (o : LRec) : Bool :=
  decide (0 < s.repeatWindow ∧ s.now - s.lg.lastAt ≤ s.repeatWindow) && r.code == o.code && r.src == o.src
    && r.payload == o.payload

/-- The record made of `r` when it is taken now (R460). -/
def State.newRec (s : State) (r : LogReq) (held : Bool) : LRec :=
  { code := r.code, src := r.src, sev := r.sev, repeats := 0, sec := s.rd LG_OPSEC, pcycle := s.rd LG_PCYCLE,
    flags := b2n s.isLocal * flagLocal + b2n held * flagHeld + b2n (!s.lg.restored) * flagPre
      + b2n s.lg.lossNext * flagLoss,
    tick := s.ys.tick, payload := r.payload, seq := s.rd LG_NEXTSEQ }

/-! ## The ring (R466, R475) -/

/-- The next slot from `n` on that lies in no retired region, within `fuel` regions. -/
def nextSlot (retired : List Nat) : Nat → Nat → Option Nat
  | 0, _ => none
  | fuel + 1, n =>
    let m := n % ringSlots
    if retired.contains (m / regionSize) then nextSlot retired fuel ((m / regionSize + 1) * regionSize) else some m

/-- No region of the ring remains. -/
def State.ringDead (s : State) : Bool := (nextSlot s.lg.retired 1025 s.lg.ringNext).isNone

/-- Retire a region (R475). -/
def retireRegion (g : Nat) : Act := acts [updLg fun l => { l with retired := g :: l.retired },
  count LG_RETIRED 1, setEvent LG_EVENT_RETIRED, ledger 0xF002 .ledger warning g]

/-- Retire the regions in excluded rows that the next write would meet (R475). -/
def retireBad : Nat → Act
  | 0 => skip
  | fuel + 1 => withS fun s =>
    match nextSlot s.lg.retired 1025 s.lg.ringNext with
    | none => skip
    | some n => whenDo (s.excludedAt (ledgerRing + n * 32)) (acts [retireRegion (n / regionSize), retireBad fuel])

/-- Start a flush: the flash writer takes the waiting items one by one, each ending with `ARCHIVE_WRITE_DONE`
(R470). -/
def flush : Act := updLg fun l => { l with flushing := !l.archQueue.isEmpty }

/-- Queue an item for the archive. -/
def archive (i : ArchItem) : Act := updLg fun l => { l with archQueue := l.archQueue ++ [i] }

/-- Close the open record: when it is archived with fewer REPEATS, an update copy follows (R471). -/
def closeRecord : Act := withS fun s =>
  match s.lg.openRec with
  | none => skip
  | some r => acts [
      whenDo (match s.lg.archRepeats with | some n => decide (n < r.repeats) | none => false)
        (archive (.copy { r with flags := r.flags ||| flagUpdate })),
      updLg fun l => { l with openRec := none, openSlot := none, archRepeats := none }]

/-- Fill the last-gasp slot `k` with a record, w7 last (R476). -/
def gaspWrite (k : Nat) (r : LRec) : Act :=
  forN 8 fun j => wr (LG_GASP k j) (leAt r.bytes (4 * j) 4)

/-- Neither store takes records: slot 0 takes code 0xF004 once, and slots 1 to 3 the newest records in turn (R476). -/
def gasp (r : LRec) : Act := withS fun s => acts [
  whenDo (!s.on LG_STATUS_LEDGER_FAULT) (acts [wr LG_STATUS_LEDGER_FAULT 1, setEvent LG_EVENT_FAULT,
    withS fun s => gaspWrite 0 (s.newRec ⟨0xF004, Src.ledger.code, critical, 0⟩ false), bump LG_NEXTSEQ 1]),
  gaspWrite s.lg.gaspNext r, updLg fun l => { l with gaspNext := l.gaspNext % 3 + 1 }]

/-- Store a new record in the ring and make it the open record; with no region left it goes straight to the archive,
and with the archive failing too to the last-gasp slots (R466, R470, R475, R476). Shuttle forwards it where it collects
records (R382). -/
def storeRec (r : LRec) : Act := acts [closeRecord, shCollect r.sev r.bytes, retireBad 1025, withS fun s =>
  match nextSlot s.lg.retired 1025 s.lg.ringNext with
  | some n => acts [memWrite (ledgerRing + n * 32) r.bytes,
      updLg fun l => { l with openRec := some r, openSlot := some n, ringNext := (n + 1) % ringSlots },
      archive (.slot n), whenDo (decide (error ≤ r.sev ∨ r.code = 0xF001)) flush]
  | none => if s.lg.archDead then gasp r else acts [archive (.copy r), flush]]

/-- Write the open record again after a repeat (R466). -/
def rewriteOpen (o : LRec) : Act := withS fun s => acts [updLg fun l => { l with openRec := some o },
  match s.lg.openSlot with | some n => memWrite (ledgerRing + n * 32) o.bytes | none => skip]

/-- Note the tick of a repeat. -/
def noteRepeat : Act := withS fun s => acts [wrPair LG_LAST_REPEAT_LO LG_LAST_REPEAT_HI s.ys.tick,
  updLg fun l => { l with lastAt := s.now }]

/-- Add to a record's REPEATS. -/
def LRec.more (r : LRec) (n : Nat) : LRec := { r with repeats := satAdd (2 ^ 32 - 1) r.repeats n }

/-- The open record's region is in the ring still (R465). -/
def State.openSlotGood (s : State) : Bool :=
  match s.lg.openSlot with | some n => !s.lg.retired.contains (n / regionSize) | none => false

/-- Take a record while the ring runs (R465). -/
def takeRunning (r : LogReq) : Act := withS fun s =>
  match s.lg.openRec with
  | some o => if s.repeats r o && s.openSlotGood then acts [rewriteOpen (o.more 1), noteRepeat] else fresh s
  | none => fresh s
where
  fresh (s : State) : Act := acts [bump LG_NEXTSEQ 1, storeRec (s.newRec r false),
    updLg fun l => { l with lastAt := s.now, lossNext := false }]

/-- The hold queue's last entry with its REPEATS raised. -/
def bumpLast (h : List HoldEntry) : List HoldEntry :=
  match h.getLast? with
  | some e => h.dropLast ++ [{ e with record := e.record.more 1 }]
  | none => h

/-- Put a new entry into the hold queue, or drop it when the queue is full (R468). -/
def hold (e : HoldEntry) (isNew : Bool) : Act := withS fun s =>
  if s.lg.hold.length < 16 then acts [
    updLg fun l => { l with hold := l.hold ++ [e], lastAt := s.now, lossNext := l.lossNext && !isNew },
    bump LG_STATUS_HELD 1, whenDo isNew (bump LG_NEXTSEQ 1)]
  else acts [count LG_LOST 1, setEvent LG_EVENT_LOST, updLg fun l => { l with lossNext := true, lostFrozen := true }]

/-- Take a record while frozen: a repeat of the last held entry, a held repeat of the open record, or a held record
(R468). -/
def takeFrozen (r : LogReq) : Act := withS fun s =>
  let newHeld := hold ⟨s.newRec r true, false⟩ true
  match s.lg.hold.getLast?, s.lg.openRec with
  | some e, _ => if s.repeats r e.record then acts [updLg fun l => { l with hold := bumpLast l.hold }, noteRepeat]
      else newHeld
  | none, some o => if s.repeats r o then acts [hold ⟨{ o with repeats := 0 }, true⟩ false, noteRepeat] else newHeld
  | none, none => newHeld

/-- Take a record before boot step 13: Ledger keeps it until then (R473, log 24). -/
def takePre (r : LogReq) : Act := withS fun s =>
  let new := updLg fun l => { l with pre := l.pre ++ [s.newRec r false], lastAt := s.now, lossNext := false }
  match s.lg.pre.getLast? with
  | some o => if s.repeats r o then acts [updLg fun l => { l with pre := l.pre.dropLast ++ [o.more 1] }, noteRepeat] else new
  | none => new

/-- Take the first record of the intake queue (R464). -/
def takeRecord : Act := withS fun s =>
  match s.lg.intake with
  | [] => skip
  | r :: rest => whenDo s.lg.taking (acts [updLg fun l => { l with intake := rest },
      if s.on LG_STATUS_FROZEN then takeFrozen r else if s.lg.restored then takeRunning r else takePre r])

/-- `LEDGER_RECORD_TAKE` (R464). -/
def execLedgerRecordTake (s : State) : Host.Outcome State Fault Refusal := done takeRecord s

/-- `LEDGER_RECORD_DROP` (R464): a unit hands in a record; with the queue full it is dropped and counted. -/
def execLedgerRecordDrop (record : LogReq) (s : State) : Host.Outcome State Fault Refusal :=
  done (if s.lg.intake.length < intakeSize then fun _ => [.intake record]
    else acts [count LG_LOST 1, setEvent LG_EVENT_LOST, updLg fun l => { l with lossNext := true }]) s

/-- The repeat window has passed without a repeat (R471). While frozen the open record waits for what the hold queue adds to it (R468, R469). -/
def windowOver : Act := withS fun s => whenDo (!s.on LG_STATUS_FROZEN) closeRecord

/-- `RECORD_CLOSE`. -/
def execRecordClose (s : State) : Host.Outcome State Fault Refusal := done windowOver s

/-! ## Freeze (R468, R469) -/

/-- Give the hold entries to the ring in order (R469). -/
def releaseHold : List HoldEntry → Act
  | [] => skip
  | e :: es => acts [
      if e.isRepeat then withS fun s =>
        match s.lg.openRec with | some o => rewriteOpen (o.more (e.record.repeats + 1)) | none => skip
      else storeRec e.record,
      releaseHold es]

/-- End a freeze; `limit` when its 100 ms have passed (R469). -/
def thaw (limit : Bool) : Act := withS fun s => whenDo (s.on LG_STATUS_FROZEN) (acts [
  wr LG_CTRL_FREEZE 0, wr LG_STATUS_FROZEN 0, wr LG_STATUS_HELD 0,
  updLg fun l => { l with hold := [], freezeAt := none, lostFrozen := false },
  releaseHold s.lg.hold,
  whenDo limit (acts [setEvent LG_EVENT_THAW, ledger 0xF005 .ledger warning s.lg.hold.length]),
  whenDo s.lg.lostFrozen (ledger 0xF006 .ledger warning (s.rd LG_LOST))])

/-- Begin a freeze (R468). -/
def freeze : Act := withS fun s => whenDo (!s.on LG_STATUS_FROZEN) (acts [
  wr LG_CTRL_FREEZE 1, wr LG_STATUS_FROZEN 1, updLg fun l => { l with freezeAt := some s.now }])

/-! ## Archive (R470 to R472) -/

/-- The record an archive item holds. -/
def State.archRecord (s : State) : ArchItem → List Byte
  | .slot n => s.bytesAt (ledgerRing + n * 32) 32
  | .copy r => r.bytes

/-- Program the next archive item: w0 to w6 first and w7 last; entering block b erases block b + 1 (R470). -/
def archiveOne (i : ArchItem) (rest : List ArchItem) : Act := withS fun s =>
  let n := s.lg.archNext
  let a := archiveBase + n * 32
  let e := archiveBase + (n / archiveBlock + 1) % 2048 * archiveBlock * 32
  let bs := s.archRecord i
  acts [
    whenDo (n % archiveBlock == 0) fun _ => [.clearFlash e (e + archiveBlock * 32)],
    fun _ => (List.range 32).map fun k => .flash (a + k) (bs.getD k 0),
    wr LG_ARCHSEQ (leAt bs 29 3),
    updLg fun l => { l with
      archQueue := rest, archNext := (n + 1) % archiveSize, archDead := false
      flushing := l.flushing && !rest.isEmpty
      archRepeats := match i, l.openSlot with
        | .slot k, some o => if k == o then some (leAt bs 4 4) else l.archRepeats
        | _, _ => l.archRepeats }]

/-- `ARCHIVE_WRITE_DONE` (R470, R472): a program or erase of the archive by the flush in progress ends. A failure skips the slot, and the
records stay for a later flush. -/
def execArchiveWriteDone (ok : Bool) (s : State) : Host.Outcome State Fault Refusal :=
  done (match s.lg.archQueue with
    | [] => skip
    | i :: rest => whenDo s.lg.flushing (
      if ok then archiveOne i rest
      else acts [wr LG_STATUS_ARCH_FAULT 1, ledger 0xF003 .ledger error (s.lg.archNext / archiveBlock),
        updLg fun l => { l with archNext := (l.archNext + 1) % archiveSize, archDead := true, flushing := false },
        match i with
        | .copy r => whenDo s.ringDead (acts [gasp r, updLg fun l => { l with archQueue := rest }])
        | .slot _ => skip])) s

/-- `LG_ARCHIVE_FLUSH` (R470). -/
def execLgArchiveFlush (s : State) : Host.Outcome State Fault Refusal := done flush s

/-- Clear the last-gasp slots; refused while neither store takes records (R476). -/
def gaspClear : Act := withS fun s =>
  if s.on LG_STATUS_LEDGER_FAULT && s.ringDead && s.lg.archDead then result LG_STATUS_RESULT .state
  else acts [forN 4 fun k => forN 8 fun j => wr (LG_GASP k j) 0, wr LG_STATUS_LEDGER_FAULT 0,
    updLg fun l => { l with gaspNext := 1 }, result LG_STATUS_RESULT .ok]

/-- A write of LG_CTRL (R468, R470, R476). -/
def lgCtrlWrite (v : Nat) : Act := acts [
  if bit v 31 then freeze else thaw false, whenDo (bit v 30) flush, whenDo (bit v 29) gaspClear]

/-- `LG_FREEZE`: a write of LG_CTRL with FREEZE set. -/
def execLgFreeze (_w : Requester) (v : Word) (s : State) : Host.Outcome State Fault Refusal :=
  done (lgCtrlWrite (v ||| 0x80000000#32).toNat) s

/-- `LG_THAW`: a write of LG_CTRL with FREEZE clear. -/
def execLgThaw (_w : Requester) (v : Word) (s : State) : Host.Outcome State Fault Refusal :=
  done (lgCtrlWrite (v &&& 0x7FFFFFFF#32).toNat) s

/-- `LG_FREEZE_LIMIT`: 100 ms of freeze have passed (R469). -/
def execLgFreezeLimit (s : State) : Host.Outcome State Fault Refusal := done (thaw true) s

/-- `LG_FLUSH`: a write of LG_CTRL with FLUSH set. -/
def execLgFlush (_w : Requester) (v : Word) (s : State) : Host.Outcome State Fault Refusal :=
  done (lgCtrlWrite (v ||| 0x40000000#32).toNat) s

/-- `LG_GASP_CLR`: a write of LG_CTRL with GASP_CLR set. -/
def execLgGaspClr (_w : Requester) (v : Word) (s : State) : Host.Outcome State Fault Refusal :=
  done (lgCtrlWrite (v ||| 0x20000000#32).toNat) s

/-! ## Restoring (R473, R474) -/

/-- A 32-byte slot holds a record: its mark is set. -/
def marked (r : List Byte) : Bool := r.getD 28 0 == 0xA5#8

/-- A record's power-cycle count, seconds, sequence number and REPEATS. -/
def recPcycle (r : List Byte) : Nat := leAt r 13 3
def recSec (r : List Byte) : Nat := leAt r 8 4
def recSeq (r : List Byte) : Nat := leAt r 29 3

/-- Of the slots that hold records, the one with the highest power-cycle count, then seconds, then (modulo 2^24) sequence
number (R467, R473). -/
def newestSlot (read : Nat → List Byte) (n : Nat) : Option Nat :=
  (List.range n).foldl (fun best i =>
    let r := read i
    if !marked r then best
    else match best with
      | none => some i
      | some b =>
        let o := read b
        if recPcycle o < recPcycle r ∨ recPcycle o = recPcycle r ∧ (recSec o < recSec r ∨ recSec o = recSec r
            ∧ (recSeq r + 2 ^ 24 - recSeq o) % 2 ^ 24 < 2 ^ 23) then some i else some b) none

/-- A slot of the archive in flash. -/
def State.archSlot (s : State) (n : Nat) : List Byte := (List.range 32).map fun k => s.flash.get 0xFF (archiveBase + n * 32 + k)
/-- A slot of the ring. -/
def State.ringSlot (s : State) (n : Nat) : List Byte := s.bytesAt (ledgerRing + n * 32) 32

/-- The records taken before step 13 go to the ring, with the restored count and seconds (R473). -/
def storePre (sec : Nat) : List LRec → Act
  | [] => skip
  | r :: rs => withS fun s => acts [
      bump LG_NEXTSEQ 1, storeRec { r with pcycle := s.rd LG_PCYCLE, sec := r.sec + sec, seq := s.rd LG_NEXTSEQ },
      storePre sec rs]

/-- Boot step 13 after power-on: count, seconds and sequence from the newest archive record and the boot journal's count;
`readable` tells whether the archive can be read (R473). -/
def ledgerRestoreCold (journalCount : Nat) (readable : Bool) : Act := withS fun s =>
  let newest := if readable then newestSlot s.archSlot archiveSize else none
  let (count, sec, seq, slot) := match newest with
    | some n => let r := s.archSlot n
      (max (recPcycle r) journalCount + 1, recSec r, recSeq r + 1, (n + 1) % archiveSize)
    | none => (journalCount + 1, 0, 0, 0)
  acts [wr LG_PCYCLE count, bump LG_OPSEC sec, wr LG_NEXTSEQ seq,
    updLg fun l => { l with restored := true, archNext := slot, pre := [] }, storePre sec s.lg.pre,
    if readable then ledger 0xF001 .ledger note count else ledger 0xF007 .ledger error 0, flush]

/-- Boot step 13 after a warm reset: ring and sequence number go on after the newest record (R474); a record closed by the
reset with more REPEATS than its archived copy is archived again. -/
def ledgerRestoreWarm : Act := withS fun s =>
  let newest := newestSlot s.ringSlot ringSlots
  let (slot, seq) := match newest with
    | some n => ((n + 1) % ringSlots, recSeq (s.ringSlot n) + 1)
    | none => (0, 0)
  acts [wr LG_NEXTSEQ seq, closeRecord,
    updLg fun l => { l with restored := true, ringNext := slot, pre := [] }, storePre 0 s.lg.pre, flush]

/-! ## Export ring (R477) -/

/-- How far back the record lies whose sequence number is `q`, in records: sequence numbers are compared modulo 2^24, and one ahead of
the next to be given lies below zero (R467). -/
def ageOf (next q : Nat) : Int := signedOf 24 ((next + 2 ^ 24 - 1 - q % 2 ^ 24) % 2 ^ 24)

/-- Put a record into its place in the order of sequence numbers: after those of an equal one. -/
def bySeq (next : Nat) (r : List Byte) : List (List Byte) → List (List Byte)
  | [] => [r]
  | x :: xs => if ageOf next (recSeq x) < ageOf next (recSeq r) then r :: x :: xs else x :: bySeq next r xs

/-- The valid records of a store of `n` slots whose oldest slot is `start`, in sequence order. -/
def heldRecords (read : Nat → List Byte) (n start next : Nat) : List (List Byte) :=
  (((List.range n).map fun i => read ((start + i) % n)).filter marked).foldl (fun rs r => bySeq next r rs) []

/-- Those of them not older than `first`, at most `cnt`. -/
def exportRecords (read : Nat → List Byte) (n start next first cnt : Nat) : List (List Byte) :=
  ((heldRecords read n start next).filter fun r => decide (ageOf next (recSeq r) ≤ ageOf next first)).take cnt

/-- FIRST is older than the oldest record held (R477). -/
def exportStale (read : Nat → List Byte) (n start next first : Nat) : Bool :=
  (heldRecords read n start next).head?.any fun r => decide (ageOf next (recSeq r) < ageOf next first)

/-- Flash cannot be read in this start. -/
def State.flashFails (s : State) : Bool := s.boot.env.any fun e => !e.flash

/-- The export entry at the ring's head is carried out (R477). DESIGN CHOICE (log 155): a poisoned entry completes with CORRUPT. -/
def exportEntry : Act := withS fun s =>
  let ring := RingId.engine 14
  let b := ringBase ring
  whenDo (s.ringHas ring) (
    let a := s.ringEntry b (s.rd (RING_HEAD b))
    withMem a 64 fun e poisoned =>
      let dest := leAt e 0 8; let first := leAt e 8 4; let word := leAt e 12 4
      let cnt := bits word 16 1; let fromArchive := bit word 0
      let bad := dest % 64 != 0 || dest / 2 ^ 40 != 0 || first / 2 ^ 24 != 0 || word / 2 ^ 17 != 0
        || leAt e 16 8 != 0 || cnt == 0 || decide (ringSlots < cnt) || !s.extOrScratch dest (cnt * 32)
      let next := s.rd LG_NEXTSEQ
      let (read, size, start) := if fromArchive then (s.archSlot, archiveSize, s.lg.archNext) else (s.ringSlot, ringSlots, s.lg.ringNext)
      let corrupt := poisoned || fromArchive && s.flashFails
      let st := if poisoned then Status.corrupt else if bad then .badarg else if corrupt then .corrupt
        else if exportStale read size start next first then .stale else .ok
      let out := if bad || corrupt then [] else exportRecords read size start next first cnt
      acts [memWriteFor .ledger dest out.flatten, ringCompletion .ledger a false out.length (leAt e 0x18 4) 0 st,
        bump (RING_HEAD b) 1, fenceStep 4 0])

/-- `LG_EXPORT_ENTRY`. -/
def execLgExportEntry (s : State) : Host.Outcome State Fault Refusal := done exportEntry s

/-! ## Time (R464, R469 to R471, R477) -/

/-- Put a new record among those that came in the same cycle: in ascending SOURCE (R464). -/
def bySource (r : LogReq) : List LogReq → List LogReq
  | [] => [r]
  | x :: xs => if r.src < x.src then r :: x :: xs else x :: bySource r xs

/-- The records that came in after the first `n` enter in ascending SOURCE (R464). -/
def sourceOrder (n : Nat) : Act := updLg fun l =>
  { l with intake := l.intake.take n ++ (l.intake.drop n).foldl (fun rs r => bySource r rs) [] }

/-- What Ledger does in its own time: one record for each of `n` CK_PIX cycles, the limits of a freeze and of a repeat window, a flush every
10 s, and the export ring. -/
def ledgerRun (n : Nat) : Act := withS fun s => acts [
  forN n fun _ => takeRecord,
  whenDo (s.lg.freezeAt.any fun t => decide (t + 100 * 10 ^ 6 ≤ s.now)) (thaw true),
  whenDo (s.lg.openRec.isSome && decide (s.lg.lastAt + s.repeatWindow < s.now)) windowOver,
  whenDo (s.lg.restored && decide (s.lg.flushAt ≤ s.now)) (acts [flush, updLg fun l => { l with flushAt := s.now + 10 ^ 10 }]),
  exportEntry]

end Sys2Proof.Machine
end

