-- ==== Sys2Proof/Machine/Reset.lean ====
section
/-!
DEFINITION. Power-on and warm reset (R480 to R482): what each unit's chapter keeps across them.
-/

namespace Sys2Proof.Machine

/-- Registers that a warm reset keeps: those that lie in PD_AON (R39, R286, R324, R384, R415, R438, R479, R510, R513), the
strapped and fused ones, and Tally's energies and pulse counts (R456). -/
def keptWarm (a : Nat) : Bool :=
  a == SYS_ID_PART.addr || a == SYS_NEXTCFG_WORD.addr || a == FM_LASTRESET_WDOG.addr
  || a == (HP_STATUS_GEN 0).addr || a == (HP_STATUS_GEN 1).addr || a == (HP_PCIID_VENDOR 0).addr
  || a == (HP_PCIID_VENDOR 1).addr || a == (BT_JOURNAL_STEP 0).addr || a == (BT_PREVJ_STEP 0).addr
  || a == BT_RSTCAUSE_CAUSE.addr || a == (BT_TAMPER_CAUSE 0).addr || a == BT_SERIAL_LO.addr || a == BT_SERIAL_HI.addr
  || a == BT_STATUS_SOURCE.addr || a == BT_SVN_FUSED.addr || a == SH_GEN_CGEN.addr || a == MT_PGEN_PGEN.addr
  || a == TM_CLK_CORR.addr || decide ((TM_D_COUNT 0).addr ≤ a ∧ a < (TM_D_COUNT 4).addr)
  || (decide ((TM_TAP_TAP 0 0).addr ≤ a ∧ a < (TM_TAP_TAP 64 0).addr) && a % 16 == 0)
  || a == TS_EXT_NEXT_VALID.addr
  || (decide (0x100A1000 ≤ a ∧ a < 0x100A2000) && a % 0x100 == 0x4C)
  || a == LG_OPSEC.addr || a == LG_PCYCLE.addr || decide ((LG_GASP 0 0).addr ≤ a ∧ a < (LG_GASP 4 0).addr)
  || (decide (0x10341000 ≤ a ∧ a < 0x10341000 + 24 * 0x80) && decide (0x30 ≤ a % 0x80 ∧ a % 0x10 < 8))
  || (decide (0x10340800 ≤ a ∧ a < 0x10340880) && decide (8 ≤ a % 0x10))

/-- The parts of kept registers that do return to their reset value. -/
def clearParts : Act := acts [
  forN 2 fun p => acts [wr (HP_STATUS_LINK p) 0, wr (HP_STATUS_SPEED p) 0, wr (HP_STATUS_WIDTH p) 0],
  wr BT_STATUS_STEP 0, wr BT_STATUS_SLOT 0, wr BT_STATUS_DEBUG 0, wr BT_STATUS_RESULT 0, wr BT_SVN_IMAGE 0,
  forN 8 fun p => wr (TY_PULSE_BACK_DROPPED p) 0]

/-- Threads, cores and fences as after reset. -/
def clearCores : Act := acts [
  fun s => s.threads.map fun (k, _) => .thread k {}, fun s => s.cores.map fun (k, _) => .core k {},
  fun s => s.fences.map fun (k, _) => .fence k 0,
  fun s => [.fm { resetAt := s.now, winStart := s.now }]]

/-- The units that keep nothing. -/
def clearUnits : Act := acts [
  clearCores, updDr fun _ => {}, updTb fun _ => {}, updTl fun _ => {}, updTd fun _ => {}, updNet fun _ => {},
  updLl fun _ => {}, updHst fun _ => {}, fun s => s.msix.map fun (k, _) => .msix k {}, setTrim none]

/-- What is left of Yardstick: its tick starts at the later of the saved value plus 2 ms and the time that CK_AON counted, up to the next whole millisecond (R64, R82). CK_AON's conversion is a free value within ±500 ppm. -/
def ysWarm : Act := withFree fun v => withS fun s =>
  let aon := s.ys.aonTime * (1000000 - 500 + v % 1001) / 1000000
  updYs fun y => { tick := roundUp (10 ^ 6) (max (y.savedTick + 2 * 10 ^ 6) aon), savedTick := y.savedTick,
                   aonTime := y.aonTime }

/-- What is left of Ledger (R474). -/
def lgWarm : Act := updLg fun l =>
  { l with taking := false, intake := [], hold := [], freezeAt := none, lostFrozen := false, flushing := false,
           restored := false, lossNext := l.lossNext || !l.intake.isEmpty || !l.hold.isEmpty }

/-- The line PAIR_OWN_N is released, and PAIR_SEL and PAIR_KILL_O go to high impedance (R388). -/
def releasePair : Act := withS fun s => acts [whenDo s.mt.pulls (emit (.ownLine false)),
  whenDo s.mt.killing (emit (.kill false)), whenDo (s.on MT_STATUS_SEL) (emit (.sel false 0))]

/-- A warm reset with a cause (R480): PD_AON, memory and the flash are kept. -/
def warmReset (cause : Nat) : Act := withS fun s =>
  let bite := cause == 2
  let ms := s.fm.wdogTimeout
  acts [
    releasePair,
    match s.boot.session with
    | some x => fun _ => [.clearFlash (slotBase x.slot) (slotBase x.slot + flashBlock)] | none => skip,
    fun _ => [.keepRegs keptWarm], clearParts, clearUnits, ysWarm, lgWarm,
    updTs fun t => { symbols := t.symbols, excluded := t.excluded, repaired := t.repaired, protectWas := t.protectWas },
    updSh fun h => { master := h.master, conflicted := h.conflicted }, updMt fun m => { low := m.low && !m.pulls },
    updTy fun t => { res := t.res, pulses := t.pulses, slot := t.slot, seq := t.seq,
                     stopped := if s.on TY_STATUS_RUNNING then some s.now else t.stopped },
    updBoot fun b =>
      { fuse := b.fuse, excl := b.excl, jseq := b.jseq, jnext := b.jnext, jcount := b.jcount, tamperHeld := b.tamperHeld, tapHeld := b.tapHeld,
        cold := b.cold && b.atStart, pendBite := bite || b.pendBite, pendStep := b.pendStep, pendTamper := b.pendTamper },
    wr FM_LASTRESET_WDOG (b2n bite), wr FM_LASTRESET_BITE_MS (if bite then ms else 0),
    wr BT_RSTCAUSE_CAUSE cause, count BT_RSTCAUSE_WARMS 1]

/-- The code of a warm cause in BT_RSTCAUSE, and its rank: the least wins (R481). -/
def warmCode : WarmCause → Nat
  | .wrst => 1 | .watchdog => 2 | .service => 3 | .tamper => 4 | .stepTimeout => 5 | .selfReset => 6
def warmRank : WarmCause → Nat
  | .tamper => 0 | .watchdog => 1 | .wrst => 2 | .stepTimeout => 3 | .selfReset => 4 | .service => 5

/-- The cause of highest rank. -/
def topCause : List WarmCause → Option WarmCause
  | [] => none
  | c :: cs => match topCause cs with | some d => some (if warmRank c ≤ warmRank d then c else d) | none => some c

/-- `WARM_RESET`: causes that come in one CK_AON cycle (R481). -/
def execWarmReset (causes : List WarmCause) (s : State) : Host.Outcome State Fault Refusal :=
  done (match topCause causes with | some c => warmReset (warmCode c) | none => skip) s

/-- The fused values (R290, R505). -/
def loadFuses : Act := withS fun s =>
  let f := s.boot.fuse
  acts [wr SYS_ID_GRADE f.grade, wr (HP_PCIID_VENDOR 0) f.vendor, wr (HP_PCIID_VENDOR 1) f.vendor,
    wr BT_STATUS_OWNED (b2n f.owned), wr BT_SVN_FUSED f.rollback, wrPair BT_SERIAL_LO BT_SERIAL_HI f.serial]

/-- Power-on reset: PD_AON and memory are cleared, the straps sampled (R480, R482). -/
def powerOn (env : PowerEnv) : Act := acts [
  releasePair,
  fun _ => [.keepRegs fun _ => false, .clearMem 0 (2 ^ 40)], clearUnits,
  updYs fun _ => {}, updLg fun _ => {}, updTs fun _ => {}, updSh fun _ => { master := env.master },
  updMt fun m => { low := m.low && !m.pulls }, updTy fun _ => {},
  updBoot fun b => { fuse := b.fuse, tamperHeld := b.tamperHeld },
  loadFuses, wr (HP_STATUS_MODE 0) (b2n env.haXspi), wr (HP_STATUS_MODE 1) (b2n env.hbXspi),
  wr BT_STATUS_SOURCE env.bootSrc]

/-- `POWER_ON_RESET`. -/
def execPowerOnReset (env : PowerEnv) (s : State) : Host.Outcome State Fault Refusal := done (powerOn env) s

/-- `CORE_SUPPLY_LOSS` (R388, R545): PAIR_OWN_N is released and the outputs go to high impedance; what runs on the core supply
is lost until the power-on reset that must follow. -/
def execCoreSupplyLoss (s : State) : Host.Outcome State Fault Refusal :=
  done (acts [releasePair, updMt fun m => { m with pulls := false, claim := .none, selBy := none },
    wr MT_STATUS_SEL 0, updBoot fun b => { b with halted := true }, wr SYS_UNITS_WORD 0]) s

/-- `WDOG_BITE` (R286): the timeout has passed without a kick. -/
def execWdogBite (s : State) : Host.Outcome State Fault Refusal :=
  done (whenDo (s.on FM_WDOG_CFG_RUNNING) (warmReset (warmCode .watchdog))) s

end Sys2Proof.Machine
end

