-- ==== Sys2Proof/Machine/Image.lean ====
section
/-!
DEFINITION. Firmware images and the boot journal: the fields of an image (R492, R493), its checks (R494), its decryption into the
staging area (R495), and the journal records in flash (R484, R489, R490).
-/

namespace Sys2Proof.Machine

/-! ## Flash -/

/-- `n` bytes of flash. -/
def State.flashAt (s : State) (a n : Nat) : List Byte := (List.range n).map fun k => s.flash.get 0xFF (a + k)
/-- Program bytes of flash. -/
def flashWrite (a : Nat) (bs : List Byte) : Act := fun _ => bs.mapIdx fun k b => .flash (a + k) b
/-- Zero a range of memory with its poison marks and symbol errors. -/
def zeroRange (lo hi : Nat) : Act := acts [fun _ => [.clearMem lo hi],
  updTs fun t => { t with symbols := t.symbols.keep fun w => decide (w * 32 < lo ∨ hi ≤ w * 32) }]

/-! ## Spans -/

/-- Add `[lo, hi)` to disjoint spans in ascending order. -/
def spanAdd (lo hi : Nat) : List (Nat × Nat) → List (Nat × Nat)
  | [] => [(lo, hi)]
  | (a, b) :: r =>
    if hi < a then (lo, hi) :: (a, b) :: r else if b < lo then (a, b) :: spanAdd lo hi r
    else spanAdd (min a lo) (max b hi) r
/-- The spans reach from 0 to `n`. -/
def spanTo (n : Nat) : List (Nat × Nat) → Bool
  | (0, b) :: _ => decide (n ≤ b)
  | _ => false
/-- `[lo, hi)` meets a span. -/
def spanMeets (lo hi : Nat) (l : List (Nat × Nat)) : Bool := l.any fun (a, b) => decide (a < hi ∧ lo < b)

/-! ## The header (R492, R493) -/

def imgHeader : Nat := 512
def imgBodyLen (h : List Byte) : Nat := leAt h 0x28 4
def imgSvn (h : List Byte) : Nat := leAt h 0x10 4
def imgKeysel (h : List Byte) : Nat := leAt h 9 1
def imgVersion (h : List Byte) : Nat := leAt h 0x18 8
def imgEntry (h : List Byte) : Nat := leAt h 0x30 8
/-- A field of section entry `i`. -/
def imgSec (h : List Byte) (i off n : Nat) : Nat := leAt h (0x120 + 16 * i + off) n
def secType (h : List Byte) (i : Nat) : Nat := imgSec h i 0 1
def secMask (h : List Byte) (i : Nat) : Nat := imgSec h i 1 1
def secOffset (h : List Byte) (i : Nat) : Nat := imgSec h i 4 4
def secLength (h : List Byte) (i : Nat) : Nat := imgSec h i 8 4
def secDest (h : List Byte) (i : Nat) : Nat := imgSec h i 0xC 4
/-- The section entries in use. -/
def secUsed (h : List Byte) : List Nat := (List.range 8).filter fun i => secType h i != 0

/-- Bytes of a core's local memory, and where core `c`'s begins (R262, R416). -/
def localSize : Nat := 0x100000
def localBase (c : Nat) : Nat := 0x4400000 + c * localSize

/-- The staging area, the top 64 MiB of usable external memory (R495), and where IMAGE frames are collected (R499). -/
def stagingSize : Nat := 0x4000000
def State.staging (s : State) : Nat := extBase + s.extSize - stagingSize
def State.collectBase (s : State) : Nat := s.staging - stagingSize

/-- The cores whose local memory a section goes to. -/
def secCores (h : List Byte) (i : Nat) : List Nat :=
  if secType h i = 1 then [0] else if secType h i = 2 then (List.range 8).filter fun c => bit (secMask h i) (c - 1) && c != 0 else []

/-- Two sections have memory in common at their destinations. -/
def secMeet (h : List Byte) (i j : Nat) : Bool :=
  decide (secDest h i < secDest h j + secLength h j ∧ secDest h j < secDest h i + secLength h i)
  && ((secCores h i).any (fun c => (secCores h j).contains c) || (secType h i == 6 && secType h j == 6))

/-- A section lies within the plaintext and fits its destination, clear of the staging area (R493, R494). -/
def State.secFits (s : State) (h : List Byte) (i : Nat) : Bool :=
  decide (secOffset h i + secLength h i ≤ imgBodyLen h) &&
  (match secType h i with
  | 1 | 2 => decide (secDest h i + secLength h i ≤ localSize)
  | 3 | 4 | 5 => secDest h i == 0
  | 6 => decide (extBase + secDest h i + secLength h i ≤ s.staging)
  | _ => false)

/-- The sections pass R493 and R494. -/
def State.secsLegal (s : State) (h : List Byte) : Bool :=
  let l := secUsed h
  let first := l.filter fun i => secType h i == 1
  l.all (s.secFits h) && (l.all fun i => l.all fun j => i == j || !secMeet h i j)
  && (match first with
    | [i] => decide (localBase 0 + secDest h i ≤ imgEntry h ∧ imgEntry h < localBase 0 + secDest h i + secLength h i)
    | _ => false)

/-- The bytes of the header that must be zero (R492, R493). -/
def imgReservedZero (h : List Byte) : Bool :=
  leAt h 0xA 2 == 0 && !bit (leAt h 0xC 4) 31 && leAt h 0x2C 4 == 0 && leAt h 0x38 8 == 0 && leAt h 0x5C 4 == 0
  && leAt h 0x88 8 == 0 && ((List.range 8).all fun i => imgSec h i 2 2 == 0)

/-- The checks of R494 up to the SVN rows. -/
def State.imgHeadCheck (s : State) (h : List Byte) : Status :=
  let pub := (h.drop 0xC0).take 96
  let owned := s.on BT_STATUS_OWNED
  if leAt h 0 4 != 0x4D494E5A || leAt h 4 2 != 1 || !imgReservedZero h then .format
  else if leAt h 6 2 != s.rd SYS_ID_PART || leAt h 8 1 != s.rd SYS_ID_STEPPING then .format
  else if leAt h 0x20 8 != 0 && leAt h 0x20 8 != s.pair BT_SERIAL_LO BT_SERIAL_HI then .denied
  else if imgKeysel h != b2n owned
      || Config.sha384 pub != (if owned then s.boot.fuse.ownerHash else s.boot.fuse.vendorHash) then .denied
  else if !Config.ecdsa (Config.sha384 pub) (Config.sha384 (h.take 0x1A0)) ((h.drop 0x1A0).take 96) then .corrupt
  else if 64 < imgSvn h then .badarg
  else if imgSvn h < s.rd BT_SVN_FUSED then .stale
  else .ok

/-- The checks of R494 before decryption; `ct` is the ciphertext. -/
def State.imgCheck (s : State) (h ct : List Byte) : Status :=
  let st := s.imgHeadCheck h
  let len := imgBodyLen h
  if st != .ok then st
  else if len % 64 != 0 || len < 64 || 67108352 < len || !s.secsLegal h then .badarg
  else if Config.sha384 ct != ofBe ((h.drop 0x90).take 48) then .corrupt
  else .ok

/-- Decryption, with the GCM tag's check; while a debug grant holds it gives DENIED (R494, R495, R507). -/
def State.imgDecrypt (s : State) (h ct : List Byte) : Status × List Byte :=
  if s.boot.keysGone then (.denied, [])
  else match Config.decrypt (if imgKeysel h = 1 then s.boot.fuse.ownerKey else s.boot.fuse.vendorKey) h ct with
    | some pt => (.ok, pt)
    | none => (.corrupt, [])

/-- An image is refused (R494). -/
def imgRefuse (source : Nat) (st : Status) : Act := acts [result BT_STATUS_RESULT st, setEvent BT_EVENT_REFUSED,
  ledger 0xA001 .boot warning (source * 2 ^ 24 + st.code)]

/-- Step 6 puts header and plaintext into the staging area and copies the 0x01 and 0x06 sections (R495). -/
def imgLoad (h pt : List Byte) : Act := withS fun s => acts [
  memWrite s.staging (h ++ pt),
  forEach (secUsed h) fun i =>
    let data := (pt.drop (secOffset h i)).take (secLength h i)
    if secType h i = 1 then memWrite (localBase 0 + secDest h i) data
    else whenDo (secType h i == 6) (memWrite (extBase + secDest h i) data),
  wrPair BT_HANDOFF_LO BT_HANDOFF_HI s.staging,
  wr BT_SVN_IMAGE (imgSvn h), wrPair BT_VERSION_LO BT_VERSION_HI (imgVersion h),
  updBoot fun b => { b with setfmt := leAt h 0x14 4, keysel := imgKeysel h }]

/-! ## The journal (R483 to R490) -/

def journalBase : Nat := 0x8FE0000
/-- Records of one of the area's two blocks. -/
def journalBlock : Nat := 1024

/-- The states of a step (R484). -/
def stepStarted : Nat := 1
def stepDone : Nat := 2
def stepFailed : Nat := 3

/-- BT_JOURNAL as one number. -/
def State.journal (s : State) : Nat := (List.range 15).foldl (fun n k => n + s.rd (BT_JOURNAL_STEP k) * 4 ^ k) 0

/-- An entry of the exclusion list for a row counted over all groups (R489). -/
def exclEntry (r : Nat) : Nat := 2 ^ 31 + r / 6144 * 2 ^ 24 + r % 6144

/-- The power-cycle count that journal records of this start carry: until step 13 restores it, the one read from flash. -/
def State.journalCount (s : State) : Nat := if s.rd LG_PCYCLE = 0 then s.boot.jcount else s.rd LG_PCYCLE

/-- The journal record that stands for the state now (R489). -/
def State.journalRec (s : State) : List Byte :=
  let excl := (List.range 8).flatMap fun k => leBytes 4 (match s.boot.excl[k]? with | some r => exclEntry r | none => 0)
  let head := leBytes 4 0x4A524E4C ++ leBytes 4 s.boot.jseq ++ leBytes 4 s.journalCount ++ leBytes 4 s.journal
    ++ leBytes 1 (s.rd BT_RSTCAUSE_CAUSE) ++ leBytes 1 (s.rd BT_SLOTS_SLOTS) ++ leBytes 2 0 ++ excl ++ leBytes 4 0
  head ++ leBytes 4 (crc32 head) ++ leBytes 3 0 ++ [0xA5#8]

/-- Write a journal record; the other block is erased as one is entered (R489). -/
def journalWrite : Act := withS fun s =>
  let n := s.boot.jnext
  let other := journalBase + (1 - n / journalBlock) * 0x10000
  whenDo (match s.boot.env with | some e => e.flash | none => false) (acts [
    flashWrite (journalBase + n * 64) s.journalRec,
    whenDo (n % journalBlock == 0) fun _ => [.clearFlash other (other + 0x10000)],
    updBoot fun b => { b with jseq := (b.jseq + 1) % 2 ^ 32, jnext := (n + 1) % (2 * journalBlock) }])

/-- A journal record is valid. -/
def journalValid (r : List Byte) : Bool :=
  leAt r 0 4 == 0x4A524E4C && leAt r 0x3F 1 == 0xA5 && leAt r 0x38 4 == crc32 (r.take 0x38)
/-- Journal record `n` in flash. -/
def State.journalAt (s : State) (n : Nat) : List Byte := s.flashAt (journalBase + n * 64) 64
/-- The valid record with the highest SEQ. -/
def State.newestJournal (s : State) : Option Nat :=
  (List.range (2 * journalBlock)).foldl (fun best n =>
    if !journalValid (s.journalAt n) then best
    else match best with
      | some b => if leAt (s.journalAt b) 4 4 < leAt (s.journalAt n) 4 4 then some n else some b
      | none => some n) none

/-- Mark a step in the journal; a FAILED step is recorded (R484, R488). -/
def markStep (n v : Nat) : Act := acts [wr (BT_JOURNAL_STEP n) v, journalWrite,
  whenDo (v == stepFailed) (acts [setEvent BT_EVENT_STEP_FAIL, ledger 0x0002 .boot warning n])]

/-- The previous start failed step `n`: one that it left STARTED counts as FAILED (R484). -/
def State.prevFailed (s : State) (n : Nat) : Bool :=
  s.rd (BT_PREVJ_STEP n) == stepFailed || s.rd (BT_PREVJ_STEP n) == stepStarted

/-- A step begins: one in its fallback form is recorded (R485). -/
def beginStep (n : Nat) : Act := withS fun s => acts [wr BT_STATUS_STEP n, markStep n stepStarted,
  updBoot fun b => { b with stepAt := s.now },
  whenDo (s.on (BT_FALLBACK_STEP n)) (acts [setEvent BT_EVENT_FALLBACK, ledger 0x0003 .boot warning n])]

/-- Ledger takes what waits in its queue: a boot step lasts far longer than that takes (R464). -/
def ledgerDrain : Act := forN intakeSize fun _ => takeRecord

/-- Fields of BT_SLOTS (R489). -/
def slotActive (v : Nat) : Nat := bits v 0 0
def slotTry (v : Nat) : Option Nat := if bits v 2 2 = 1 then some (bits v 1 1) else none
def slotTryUsed (v : Nat) : Bool := bit v 3
def slotLast (v : Nat) : Nat := bits v 4 4
/-- BT_SLOTS put together. -/
def slotsWord (active : Nat) (tryS : Option Nat) (used : Bool) (last : Nat) : Nat :=
  active + (match tryS with | some k => 4 + 2 * k | none => 0) + b2n used * 8 + last * 16

end Sys2Proof.Machine
end

