-- ==== Sys2Proof/Machine/PairLink.lean ====
section
/-!
DEFINITION. What the units need of Mantle: frames on the pair link, the health word, DOUBLE, and signatures with the divergence
they declare (R395, R398, R399, R401, R411).
-/

namespace Sys2Proof.Machine

/-- Mantle runs: it is enabled and boot step 11 has started it (R387, R391). -/
def State.mtOn (s : State) : Bool := s.has .mantle && s.mt.alive

/-- Send a frame on the pair link (R395). -/
def pairSend (f : PairFrame) : Act := withS fun s => whenDo (s.mtOn && s.on MT_STATUS_LINK)
  (acts [updMt fun m => { m with seq := (m.seq + 1) % 2 ^ 32 }, emit (.pair s.mt.seq f)])

/-- How often an ailment was noted in the last 60 s. -/
def State.ailments (s : State) (k : Ailment) : Nat :=
  (s.mt.faults.filter fun f => f.1 == k.code && decide (s.now < f.2 + 60 * 10 ^ 9)).length

/-- The health word (R401). -/
def State.healthWord (s : State) : Nat :=
  satNat 4 (s.ailments .uncorr) * 2 ^ 28 + satNat 4 (s.ailments .logic) * 2 ^ 24 + satNat 4 (s.ailments .core) * 2 ^ 20
    + satNat 4 (s.ailments .env) * 2 ^ 16 + satNat 8 (Nat.log2 (s.ailments .scrub + 1)) * 2 ^ 8 + satNat 8 (s.ailments .link)

/-- Send HEALTH, at a divergence or periodically (R395, R399). -/
def sendHealth (diverged : Bool) : Act := withS fun s => acts [
  updMt fun m => { m with wordSent := s.healthWord },
  pairSend (.health s.healthWord diverged (s.rd MT_STATUS_ROLE))]

/-- Enter DOUBLE: a claim in hand is given up, and DOUBLE is announced (R411, R412). The recovery goes on to an end of R411's own. -/
def enterDouble (cause : Nat) : Act := withS fun s =>
  let giveUp := match s.mt.claim with | .confirm _ => true | _ => false
  acts [
    wr MT_STATUS_ROLE roleDouble,
    whenDo giveUp (emit (.ownLine false)),
    updMt fun m => { m with claim := .none, selBy := none, pulls := m.pulls && !giveUp,
                            diverged := none, yields := false, copying := none },
    setEvent MT_EVENT_DOUBLE, ledger 0x700B .mantle error cause, sendHealth false]

/-- A second fault during a recovery puts the device into DOUBLE (R411). -/
def secondFault (cause : Nat) : Act := withS fun s =>
  whenDo (s.mt.recovery.isSome && s.rd MT_STATUS_ROLE != roleDouble) (enterDouble cause)

/-- A recovery begins (R411). -/
def beginRecovery : Act := withS fun s => whenDo s.mt.recovery.isNone (acts [
  updMt fun m => { m with recovery := some s.now }, wr MT_STATUS_RECOVERING 1])

/-- MT_CFG.K in use (R399). -/
def State.divergeRun (s : State) : Nat := min 64 (max 1 (s.rd MT_CFG_K))

/-- The standby declares divergence (R399, R411). -/
def declareDivergence (key frame : Nat) : Act := withS fun s => acts [
  count MT_DIV_DIVERGE 1, wr MT_DIV_KEY_KIND (bits key 31 30), wr MT_DIV_KEY_INDEX (bits key 29 16),
  wr MT_DIV_KEY_LINE (bits key 15 0), setEvent MT_EVENT_DIVERGE, ledger 0x7005 .mantle warning key,
  if s.mt.recovery.isSome then secondFault 1
  else acts [beginRecovery, whenDo (s.on MT_STATUS_LINK) (acts [pairSend (.diverge key frame),
    updMt fun m => { m with diverged := some s.healthWord }, sendHealth true])]]

/-- Compare two signatures of one KEY and frame (R399). -/
def compareSig (own peer : SigEntry) : Act := withS fun s =>
  let k := own.key / 2 ^ 16
  if own.crc == peer.crc then updMt fun m => { m with streak := m.streak.set 0 k 0 }
  else
    let n := s.mt.streak.get 0 k + 1
    acts [count MT_DIV_MISMATCH 1,
      updMt fun m => { m with streak := m.streak.set 0 k (if s.divergeRun ≤ n then 0 else n) },
      whenDo (decide (s.divergeRun ≤ n)) (declareDivergence own.key own.frame)]

/-- Two signatures are of one KEY and frame. -/
def sameSig (a b : SigEntry) : Bool := a.key == b.key && a.frame == b.frame

/-- A unit of this device has a signature: the active sends it, the standby compares it (R398). -/
def sign (kind index line frame crc : Nat) : Act := withS fun s =>
  let e : SigEntry := ⟨kind * 2 ^ 30 + index * 2 ^ 16 + line % 2 ^ 16, frame % 2 ^ 32, crc⟩
  whenDo (s.on MT_STATUS_PAIRED) (
    if s.rd MT_STATUS_ROLE == roleActive then pairSend (.sig [e])
    else whenDo (s.rd MT_STATUS_ROLE == roleStandby) (match s.mt.peerSigs.find? (sameSig e) with
      | some p => acts [updMt fun m => { m with peerSigs := m.peerSigs.filter fun x => !sameSig e x }, compareSig e p]
      | none => updMt fun m => { m with sigs := m.sigs ++ [e] }))

/-- Bits of two lanes in the order sent: the DA bit before the DB bit (R398). -/
def interleave : List Bool → List Bool → List Bool
  | a :: as, b :: bs => a :: b :: interleave as bs
  | as, [] => as
  | [], bs => bs

end Sys2Proof.Machine
end

