-- ==== Sys2Proof/Machine/Yardstick.lean ====
section
/-!
DEFINITION. Yardstick (the timeline chapter): position and rate, references and their selection, the loop, re-bases,
arm slots, trigger outputs and captures.
-/

namespace Sys2Proof.Machine

/-! ## Position and rate (R40 to R45) -/

/-- Fraction units in a frame (R40). -/
def frameUnits : Nat := 2 ^ 24
/-- Positions in all (R40). -/
def posMod : Nat := 2 ^ 64
/-- The frame number of the position. -/
def State.frame (s : State) : Nat := s.ys.pos / frameUnits
/-- NUM in effect. -/
def State.rateNum (s : State) : Nat := s.rdA YS_RATE_NUM
/-- DEN in effect. -/
def State.rateDen (s : State) : Nat := max 1 (s.rdA YS_RATE_DEN)
/-- A frame lasts `framePeriod / NUM` ticks (R42). -/
def State.framePeriod (s : State) : Nat := s.rateDen * 10 ^ 9

/-- A rate is legal (R41). -/
def legalRate (num den : Nat) : Bool := decide (1 ≤ den ∧ 24000 * den ≤ 1001 * num ∧ num ≤ 240 * den)
/-- The greatest frame rate of a profile (R6). -/
def profileMaxRate : Nat → Nat | 0 => 240 | 1 => 120 | _ => 60
/-- The greatest refresh multiplier of a profile (R6). -/
def profileMaxMult : Nat → Nat | 0 => 8 | _ => 16
/-- The layer budget of a profile (R6). -/
def profileBudget : Nat → Nat | 0 => 8 | _ => 16
/-- The rate is within the profile's maximum. -/
def rateWithin (prof num den : Nat) : Bool := decide (num ≤ profileMaxRate prof * den)

/-- The entries of a rank list before its end (R52). -/
def rankList (e : Nat → Nat) : List Nat := ((List.range 8).map e).takeWhile (· ≠ 0)
/-- The rank passes the checks of R45. -/
def legalRank (e : Nat → Nat) : Bool := (List.range 8).all (fun k => decide (e k < 8)) && (rankList e).Nodup
/-- SLEW_MAX passes the check of R45. -/
def legalSlew (n : Nat) : Bool := decide (1 ≤ n ∧ n ≤ 50000)

/-- The BADARG checks of R45 on the shadowed settings. -/
def ysCommitLegal (s : State) : Bool :=
  legalRate (s.rd YS_RATE_NUM) (s.rd YS_RATE_DEN) && legalRank (fun k => s.rd (YS_RANK_ENTRY k))
  && legalSlew (s.rd YS_SLEW_MAX)

/-! ## State, lock and selection (R51 to R62) -/

def stStarting : Nat := 0
def stAcquiring : Nat := 1
def stLocked : Nat := 2
def stFreewheel : Nat := 3
def stMemberHold : Nat := 4

/-- Enter a value of YS_STATUS.STATE; leaving and entering LOCKED are recorded (R56). -/
def enterState (n payload : Nat) : Act := withS fun s =>
  let old := s.rd YS_STATUS_STATE
  whenDo (old != n) (acts [
    whenDo (old == stLocked) (acts [setEvent YS_EVENT_UNLOCKED, ledger 0x1004 .yardstick warning payload]),
    wr YS_STATUS_STATE n,
    whenDo (n == stLocked)
      (acts [setEvent YS_EVENT_LOCKED, ledger 0x1003 .yardstick note (s.rd YS_STATUS_SOURCE)])])

/-- Free-run is the only entry of the rank in effect (R56); a device that follows a beacon ignores the rank (R54, R394). DESIGN CHOICE
(log 144): a rank whose list is empty counts as free-run alone, which stands implicitly after its end (R52). -/
def State.freeRunOnly (s : State) : Bool :=
  !(s.on YS_STATUS_MEMBER || s.followsPair) && (rankList fun k => s.rdA (YS_RANK_ENTRY k)).all (· == 7)

/-- What Yardstick keeps of source `k`. -/
def State.source (s : State) (k : Nat) : YsSource := s.ys.sources.get {} k
def updSource (k : Nat) (f : YsSource → YsSource) : Act :=
  updYs fun y => { y with sources := y.sources.set {} k (f (y.sources.get {} k)) }
/-- Source `k` is qualified. -/
def State.qualified (s : State) (k : Nat) : Bool := decide (1 ≤ k ∧ k ≤ 6) && s.on (YS_SRC_QUALIFIED (k - 1))
/-- The device is master or acting master of a cascade (R360, R375). -/
def State.isMaster (s : State) : Bool := s.rd SH_STATUS_ROLE == 1 || s.rd SH_STATUS_ROLE == 3

/-- The source the selection names: the beacon on a member (R54) and on a standby
that follows its active (R394), free-run in ROLE CONFLICT (R377), else the first qualified
entry of the rank, 0x6 skipped on a master, free-run after the last (R52). -/
def State.selection (s : State) : Nat :=
  if s.rd SH_STATUS_ROLE == 4 then 7
  else if s.on YS_STATUS_MEMBER || s.followsPair then (if s.qualified 6 then 6 else 7)
  else ((rankList fun k => s.rdA (YS_RANK_ENTRY k)).find? fun e =>
    e == 7 || (s.qualified e && !(e == 6 && s.isMaster))).getD 7

/-- The mean of the last corrections, held while freewheeling (R61). -/
def meanRecent (l : List Int) : Int := if l.isEmpty then 0 else l.foldl (· + ·) 0 / l.length

/-- STATE after the source in use or the rank changes, outside STARTING and MEMBER_HOLD (R56). -/
def refreshState (changed : Bool) : Act := withS fun s =>
  let st := s.rd YS_STATUS_STATE
  if st == stStarting || st == stMemberHold then skip
  else if s.rd YS_STATUS_SOURCE == 7 then enterState (if s.freeRunOnly then stLocked else stFreewheel) 0
  else whenDo (changed || st == stFreewheel) (enterState stAcquiring 0)

/-- The sum of two fractions in lowest terms. -/
def addFrac (a b : Int × Nat) : Int × Nat :=
  let n := a.1 * b.2 + b.1 * a.2
  let g := max 1 (Nat.gcd n.natAbs (a.2 * b.2))
  (n / (g : Nat), a.2 * b.2 / g)

/-- The position units that the timeline gains in `p / q` ticks at zero slew (R42). -/
def State.unitsIn (s : State) (p q : Nat) : Int × Nat := ((p * s.rateNum * frameUnits : Nat), q * s.framePeriod)

/-- Anchor source `n` to the present position: its last event lies as many ticks behind it as have passed since, so that its error starts
at zero (R50). -/
def anchorNow (n : Nat) : Act := withS fun s =>
  let since := match (s.source n).lastTick with | some t => s.now - t | none => 0
  let back := s.unitsIn since 1
  updSource n fun x => { x with anchor := some (addFrac (s.ys.pos, 1) (-back.1, back.2)) }

/-- Take `n` as the source in use (R52, R56). A frequency source is anchored to the present position (R50). DESIGN CHOICE (log 144): when a
commit, not a loss, puts free-run in use, the correction stays as it stands. -/
def useSource (n : Nat) : Act := withS fun s =>
  let old := s.rd YS_STATUS_SOURCE
  if n == old then refreshState false
  else acts [wr YS_STATUS_SOURCE n,
    updYs (fun y => { y with lockRun := 0 }),
    anchorNow n,
    setEvent YS_EVENT_SWITCH, ledger 0x1002 .yardstick note (old * 256 + n),
    refreshState true]

/-- Run the selection and take what it names. -/
def reselect : Act := withS fun s => useSource s.selection

/-- Hold the correction at the mean of the last 16 (R61). -/
def freewheel : Act := withS fun s => wr YS_RATE_ADJ (ofSigned 32 (meanRecent s.ys.recent))

/-- Source `k` is lost (R46, R51, R52). -/
def loseSource (k : Nat) : Act := withS fun s => acts [
  wr (YS_SRC_PRESENT (k - 1)) 0, wr (YS_SRC_QUALIFIED (k - 1)) 0,
  updSource k (fun x => { x with valid := 0, lastTick := none }),
  whenDo (s.rd YS_STATUS_SOURCE == k) (acts [
    setEvent YS_EVENT_LOST, ledger 0x1001 .yardstick warning k, reselect,
    withS fun s => whenDo (s.rd YS_STATUS_SOURCE == 7) freewheel])]

/-! ## Reference events (R46 to R50) -/

/-- Timecode rate of YS_LTC_CFG as a fraction, and whether it drops frames (R48). -/
def tcRate : Nat → Option (Nat × Nat × Bool)
  | 0 => some (24, 1, false) | 1 => some (25, 1, false) | 2 => some (30000, 1001, true)
  | 3 => some (30000, 1001, false) | 4 => some (30, 1, false) | 5 => some (24000, 1001, false) | _ => none
/-- Nominal frames in a second of timecode. -/
def tcBase : Nat → Nat | 0 => 24 | 1 => 25 | 5 => 24 | _ => 30
/-- The count of timecode frames an address names (ST 12-1, R48). -/
def tcCount (rate h m sec f : Nat) : Nat :=
  let n := ((h * 60 + m) * 60 + sec) * tcBase rate + f
  if rate = 2 then let mins := h * 60 + m; n - 2 * (mins - mins / 10) else n
/-- Timecode frames in a day. -/
def tcDay (rate : Nat) : Nat := if rate = 2 then 24 * 107892 else 86400 * tcBase rate

/-- The timeline rate divided by the timecode rate, when it is an integer from 1 to 10 (R48). -/
def State.ltcK (s : State) : Option Nat :=
  match tcRate (s.rd YS_LTC_CFG_TCRATE) with
  | none => none
  | some (a, b, _) =>
    let n := s.rateNum * b; let d := s.rateDen * a
    if n % d = 0 ∧ 1 ≤ n / d ∧ n / d ≤ 10 then some (n / d) else none

/-- Nominal mains frequency (R49). -/
def State.mainsHz (s : State) : Nat := if s.on YS_MAINS_CFG_HZ60 then 60 else 50
/-- Mains as a phase source: frames per cycle and cycles per frame, one of them 1 and the other 1 to 8 (R49). -/
def State.mainsRatio (s : State) : Option (Nat × Nat) :=
  let hz := s.mainsHz
  let n := s.rateNum; let d := s.rateDen * hz
  if n % d = 0 ∧ 1 ≤ n / d ∧ n / d ≤ 8 then some (n / d, 1)
  else if d % n = 0 ∧ 1 ≤ d / n ∧ d / n ≤ 8 then some (1, d / n) else none

/-- A phase source's marks: frames per mark, marks per frame and the phase (R49). DESIGN CHOICE (log 144): a FRAMES or a PER_FRAME of 0 acts
as 1, and one above 16 as it stands. -/
def State.phaseMarks (s : State) (src : Nat) : Option (Nat × Nat × Nat) :=
  if src = 2 then
    let fr := max 1 (s.rd YS_GEN_CFG_FRAMES); let per := max 1 (s.rd YS_GEN_CFG_PER_FRAME)
    if fr > 1 ∧ per > 1 then none else some (fr, per, s.rd YS_GEN_CFG_PHASE)
  else if src = 5 then s.mainsRatio.map fun (fr, per) => (fr, per, s.rd YS_MAINS_CFG_PHASE)
  else none

/-- The spacing of a source's events in ticks, as a fraction; none when its mapping never qualifies (R51). -/
def State.spacing (s : State) (ev : RefEvent) : Option (Nat × Nat) :=
  let p := s.framePeriod; let n := s.rateNum
  match ev with
  | .ptp _ => if s.rd YS_PTP_CFG_PORT < 6 then some (p, n) else none
  | .genlock => (s.phaseMarks 2).map fun (fr, per, _) => (p * fr, n * per)
  | .ltc .. => s.ltcK.map fun k => (p * k, n)
  | .wclk e => some (e * 10 ^ 9, if s.on YS_WCLK_CFG_FS then 96000 else 48000)
  | .mains => some (10 ^ 9, s.mainsHz)
  | .beacon _ => some (p, n)

/-- The gap between two events lies within SLEW_MAX of the spacing (R51). -/
def gapValid (slew gap p q : Nat) : Bool :=
  decide (((gap * q : Int) - p).natAbs * 10 ^ 6 ≤ slew * p)

/-- The reduction of a phase error to the nearest mark: `d` units past a mark, marks `m` units apart (R55). -/
def nearest (d m : Int) : Int := let r := d % m; if 2 * r ≤ m then -r else m - r

/-- The error of an event in position units times `k`, with `k` (R47 to R50, R55): reference minus local; none while the source's mapping
lets it assert no position (R48, R49). -/
def State.refError (s : State) (ev : RefEvent) : Option (Int × Nat) :=
  let pos : Int := s.ys.pos
  let running (k : Nat) : Option (Int × Nat) := (s.source k).anchor.map fun a => (a.1 - pos * a.2, a.2)
  let marks (m : Nat × Nat × Nat) : Int × Nat :=
    let (fr, per, ph) := m
    if per > 1 then (nearest (pos * per) frameUnits, per) else (nearest (pos - ph * frameUnits) (fr * frameUnits), 1)
  match ev with
  | .ptp ns => some ((ns * s.rateNum * frameUnits / s.framePeriod : Nat) +
      signedOf 32 (s.rd YS_PTP_OFF) * frameUnits - pos, 1)
  | .ltc h m sec f _ =>
    let r := s.rd YS_LTC_CFG_TCRATE
    let c := tcCount r h m sec f + (s.source 3).days * tcDay r + 1
    s.ltcK.map fun k => ((c * k : Nat) * (frameUnits : Int) + signedOf 32 (s.rd YS_LTC_OFF) * frameUnits - pos, 1)
  | .beacon p => some ((p.toNat : Int) - pos, 1)
  | .genlock => (s.phaseMarks 2).map marks
  | .mains => match s.phaseMarks 5 with
    | some m => some (marks m)
    | none => running 5
  | .wclk _ => running 4

/-- Move a frequency source's running position on by one event; the rational count is kept exactly (R50). -/
def advanceAnchor (ev : RefEvent) : Act := withS fun s =>
  match ev, s.spacing ev with
  | .wclk _, some (p, q) | .mains, some (p, q) =>
    updSource ev.source fun x => { x with anchor := x.anchor.map fun a => addFrac a (s.unitsIn p q) }
  | _, _ => skip

/-- Keep the days of a timecode source: a fall from the last count of a day to 0 adds one (R48). -/
def trackDays (ev : RefEvent) : Act := withS fun s =>
  match ev with
  | .ltc h m sec f _ =>
    let r := s.rd YS_LTC_CFG_TCRATE
    let c := tcCount r h m sec f
    updSource 3 fun x => { x with lastCount := c, days := x.days + b2n (decide (c = 0 ∧ x.lastCount + 1 = tcDay r)) }
  | _ => skip

/-- Position units as ticks, rounded down (R55). -/
def State.unitsToTicks (s : State) (e : Int) (k : Nat) : Int := e * s.framePeriod / (s.rateNum * frameUnits * k : Nat)

/-- The whole frames nearest to an error (R57). -/
def wholeFrames (e : Int) : Int := (e + frameUnits / 2) / frameUnits

/-- Announce, replace or cancel a re-base by `w` whole frames (R58). -/
def announceRebase (w : Int) : Act := withS fun s =>
  if s.ys.rebase.map (·.w) == some w then skip
  else if w == 0 then
    whenDo s.ys.rebase.isSome (acts [updYs fun y => { y with rebase := none }, wr YS_REBASE_PEND 0])
  else
    let target := ofSigned 40 (s.frame + 2 + w)
    acts [updYs fun y => { y with rebase := some { w, target, wait := 2 } }, wr YS_REBASE_PEND 1,
      wrPair YS_REBASE_TO_LO YS_REBASE_TO_HI target, setEvent YS_EVENT_REBASE_PEND,
      ledger 0x1006 .yardstick note target]

/-- Twice the loop's angular frequency times an error, the loop's proportional term with damping 1, in units of 2^-32 of 0.001 ppm: the
natural bandwidth is 0.01 Hz times 2^BW, the error is in ticks (R55). -/
def loopProportional (bw : Nat) (e : Int) : Int := 2 * (Config.twoPi * 2 ^ bw : Nat) * e / 100

/-- What an error adds to the loop's integral term over the event spacing of `p / q` ticks: the square of the angular frequency times the
error and the spacing (R55). -/
def loopIncrement (bw : Nat) (e : Int) (p q : Nat) : Int :=
  ((Config.twoPi * 2 ^ bw) ^ 2 * p : Nat) * e / (10 ^ 4 * 2 ^ 32 * 10 ^ 9 * max 1 q : Nat)

/-- Steer by an error of the source in use: the loop's correction with its clamp, the lock rule and, for an absolute
source, the jump rule (R55 to R57). The loop is R55's, second-order with damping 1, in the form that log 4 names. While the start snap is owed,
the snap takes the whole error and no re-base is announced (R60). DESIGN CHOICE (log 144): a later error within JUMP_LIMIT cancels an announced
re-base. -/
def steer (ev : RefEvent) (absolute : Bool) (e : Int) (k : Nat) : Act := withS fun s =>
  let ticks := s.unitsToTicks e k
  let top : Int := (s.rdA YS_SLEW_MAX * 1000 : Nat)
  let bw := min 10 (s.rdA YS_SLEW_BW)
  let snaps := s.rd YS_STATUS_STATE == stStarting && !s.ys.snapped
  let beyond := absolute && !snaps && decide ((e.natAbs : Int) * 256 > s.rdA YS_JUMP_LIMIT * frameUnits)
  let w := wholeFrames e
  let jump := beyond && s.onA YS_CTRL_JUMP_MODE
  let used := if jump then s.unitsToTicks (e - w * frameUnits) k else ticks
  let (p, q) := (s.spacing ev).getD (0, 1)
  let raw := (loopProportional bw used + s.ys.integral) / 2 ^ 32
  let adj := clampInt (-top) top raw
  let win : Int := (max 1 (s.rd YS_LOSS_LOCK_WIN) : Nat)
  acts [
    wr YS_ERR (satSigned 32 ticks), wr YS_RATE_ADJ (ofSigned 32 adj),
    updYs (fun y => { y with
      integral := if (raw.natAbs : Int) < top then y.integral + loopIncrement bw used p q else y.integral
      recent := (adj :: y.recent).take 16
      lockRun := if (ticks.natAbs : Int) ≤ win then y.lockRun + 1 else 0 }),
    whenDo beyond (acts [setEvent YS_EVENT_JUMP,
      whenDo (!jump) (ledger 0x1005 .yardstick warning (ofSigned 32 w))]),
    whenDo (absolute && (jump || s.ys.rebase.any fun r => !r.fromMaster)) (announceRebase (if jump then w else 0)),
    withS fun s => if 16 ≤ s.ys.lockRun then enterState stLocked 0
      else whenDo (s.rd YS_STATUS_STATE == stLocked && decide ((ticks.natAbs : Int) > 4 * win))
        (enterState stAcquiring (satSigned 32 ticks))]

/-- A source that qualifies takes over from free-run at once, or, with REVERT set, at the next frame boundary (R53); a device that follows a
beacon takes it at once (R54, R394). -/
def State.takesAtOnce (s : State) : Bool :=
  s.rd YS_STATUS_SOURCE == 7 && (!s.on YS_CTRL_REVERT || s.on YS_STATUS_MEMBER || s.followsPair)

/-- A configuration that lets source `k` assert no position: PTP on a reserved port, genlock with both fields above 1, timecode of no whole
ratio (R46, R48, R49). -/
def State.unmappable (s : State) (k : Nat) : Bool :=
  (k == 1 && decide (6 ≤ s.rd YS_PTP_CFG_PORT)) || (k == 2 && (s.phaseMarks 2).isNone) || (k == 3 && s.ltcK.isNone)

/-- A source whose mapping a write or a rate change takes away is not qualified any more; it stays present. DESIGN CHOICE (log 144): when it is in
use, the selection runs at once, and no loss is recorded. -/
def unmapSources : Act := forN 4 fun k => withS fun s => whenDo (s.unmappable k && s.qualified k) (acts [
  wr (YS_SRC_QUALIFIED (k - 1)) 0, updSource k (fun x => { x with valid := 0 }),
  whenDo (s.rd YS_STATUS_SOURCE == k) (acts [reselect, withS fun s => whenDo (s.rd YS_STATUS_SOURCE == 7) freewheel])])

/-- Source `k` becomes qualified: it takes over from free-run, or is snapped to while STARTING (R51, R53, R60, R61). -/
def qualify (k : Nat) : Act := withS fun s =>
  whenDo (!s.qualified k) (acts [wr (YS_SRC_QUALIFIED (k - 1)) 1, withS fun s => whenDo s.takesAtOnce reselect])

/-- A source is absolute (R46). -/
def absoluteRef : RefEvent → Bool | .ptp _ | .ltc .. | .beacon _ => true | _ => false

/-- The state with the position of `ago` ns before. -/
def State.earlier (s : State) (ago : Nat) : State :=
  { s with ys := { s.ys with pos := s.ys.pos - ago * s.rateNum * frameUnits / s.framePeriod } }

/-- A reference event arrives that is `ago` ns old (R46, R51, R55). The first event of a source has no spacing and is not counted. -/
def referenceAt (ago : Nat) (ev : RefEvent) : Act := withS fun s =>
  let k := ev.source
  let x := s.source k
  let now := s.now - ago
  let ok := match s.spacing ev, x.lastTick with
    | some (p, q), some t => gapValid (s.rdA YS_SLEW_MAX) (now - t) p q
    | _, _ => false
  acts [
    (match ev with | .ltc _ _ _ _ word => forEach (word.take 10) fun b => bobbinByte 34 b false | _ => skip),
    wr (YS_SRC_PRESENT (k - 1)) 1, trackDays ev, advanceAnchor ev,
    updSource k (fun x => { x with lastTick := some now, missing := 0, valid := if ok then x.valid + 1 else 0 }),
    withS fun s => whenDo ((s.spacing ev).isSome
        && decide (max 1 (s.rd YS_LOSS_QUAL_COUNT) ≤ (s.source k).valid)) (qualify k),
    withS fun s => match (s.earlier ago).refError ev with
      | some (e, m) => whenDo (s.rd YS_STATUS_SOURCE == k) (acts [
        whenDo (s.rd YS_STATUS_STATE == stStarting && !s.ys.snapped && s.ys.snap.isNone)
          (updYs fun y => { y with snap := some (e / m) }),
        steer ev (absoluteRef ev) e m])
      | none => skip]

/-- A reference event that arrives as it happens. -/
def referenceEvent : RefEvent → Act := referenceAt 0

/-- `REFERENCE_EVENT`. -/
def execReferenceEvent (ev : RefEvent) (s : State) : Host.Outcome State Fault Refusal := done (referenceEvent ev) s

/-- Missing events after which a source is lost (R46). -/
def State.lossLimit (s : State) (k : Nat) : Nat :=
  if k = 4 then 1 else if k = 6 then 3 else max 1 (s.rd YS_LOSS_LOSS_COUNT)

/-- `YS_COMMIT` (R45): a commit waits for the next frame boundary. -/
def execYsCommit (_w : Requester) (v : Word) (s : State) : Host.Outcome State Fault Refusal :=
  done (whenDo (bit v.toNat 0) (wr YS_STATUS_PENDING 1)) s

/-- End STARTING (R60). -/
def endStarting : Act := withS fun s => whenDo (s.rd YS_STATUS_STATE == stStarting)
  (if s.rd YS_STATUS_SOURCE == 7 then enterState (if s.freeRunOnly then stLocked else stFreewheel) 0
   else enterState stAcquiring 0)

/-- A write of YS_CTRL: GO ends STARTING; the other fields are stored (R60). -/
def ysCtrlWrite (v : Word) : Act := acts [
  wr YS_CTRL_REVERT (bits v.toNat 8 8), wr YS_CTRL_JUMP_MODE (bits v.toNat 4 4), whenDo (bit v.toNat 0) endStarting]

/-- `YS_GO`. -/
def execYsGo (_w : Requester) (v : Word) (s : State) : Host.Outcome State Fault Refusal := done (ysCtrlWrite v) s

/-- Save the tick, rounded down to a whole millisecond, in PD_AON (R64). -/
def saveTick : Act := updYs fun y => { y with savedTick := y.tick / 10 ^ 6 * 10 ^ 6 }

/-- `TICK_MS_SAVE` (R64). -/
def execTickMsSave (s : State) : Host.Outcome State Fault Refusal := done saveTick s

/-- Step the cascade tick forward to `t`; it never steps backwards (R63, R65). -/
def stepTick (t : Nat) : Act := withS fun s =>
  whenDo (decide (s.ys.tick < t)) (acts [updYs fun y => { y with tick := t % 2 ^ 64, tickDebt := 0 }, saveTick,
    ledger 0x1009 .yardstick note (bits s.ys.tick 39 8)])

/-! ## Frame boundary: Yardstick's part (R43 to R45, R53, R59, R60, R62) -/

/-- The profiles that a rate has to suit: the one in effect after the SYS decision, and the one a SYS request still pending asks for (R559). -/
def State.profilesDue (s : State) : List Nat :=
  s.rd SYS_PROFILE_ACTIVE ::
    (if s.on SYS_STATUS_PENDING && decide (s.rd SYS_PROFILE_PROFILE < 3) then [s.rd SYS_PROFILE_PROFILE] else [])

/-- Apply or refuse the pending commit (R45, R559). DESIGN CHOICE (log 144): a rate change drops the remainder of the division that is carried
from tick to tick, a part of one fraction unit (R42, R44). -/
def ysCommitBoundary : Act := withS fun s =>
  let refuse (st : Status) := acts [result YS_STATUS_RESULT st, ledger 0x100D .yardstick note st.code]
  whenDo (s.on YS_STATUS_PENDING) (acts [wr YS_STATUS_PENDING 0,
    if !ysCommitLegal s then refuse .badarg
    else if !s.profilesDue.all fun prof => rateWithin prof (s.rd YS_RATE_NUM) (s.rd YS_RATE_DEN) then refuse .state
    else
      let rate := regOf s.regs YS_RATE_NUM != regOf s.active YS_RATE_NUM
      let rank := regOf s.regs (YS_RANK_ENTRY 0) != regOf s.active (YS_RANK_ENTRY 0)
      acts [result YS_STATUS_RESULT .ok, apply1 YS_RATE_NUM, apply1 (YS_RANK_ENTRY 0), apply1 YS_SLEW_MAX,
        apply1 YS_JUMP_LIMIT, wrA YS_CTRL_JUMP_MODE (s.rd YS_CTRL_JUMP_MODE),
        whenDo rate (acts [updYs fun y => { y with rem := 0 },
          ledger 0x100C .yardstick note (s.rd YS_RATE_NUM), unmapSources,
          withS fun t => whenDo (s.mainsRatio.isSome && t.mainsRatio.isNone) (anchorNow 5)]),
        whenDo rank reselect]])

/-- Switch to a higher-ranked source that has qualified, with REVERT set (R53). -/
def revertBoundary : Act := withS fun s => whenDo (s.on YS_CTRL_REVERT) reselect

/-- The position that the boundary opens: the reference at the start snap (R60), the announced frame at the second boundary after a re-base
was decided (R59), else the next frame. The snap takes a re-base that waits with it. -/
def positionBoundary : Act := withS fun s =>
  let next := (s.frame + 1) % 2 ^ 40
  let frac := s.ys.fracDue
  let go (p : Nat) (first : Nat) := updYs fun y =>
    { y with pos := p % posMod, fracDue := 0, checked := (first + posMod - 1) % posMod }
  let drop := updYs fun y => { y with snap := none }
  if s.rd YS_STATUS_STATE == stStarting && s.ys.snap.isSome then
    let p := ofSigned 64 ((next * frameUnits + frac : Nat) + s.ys.snap.getD 0)
    acts [go p p, updYs fun y => { y with snap := none, snapped := true, rebase := none }, wr YS_REBASE_PEND 0,
      ledger 0x1000 .yardstick note (p / frameUnits)]
  else match s.ys.rebase with
  | some r =>
    if r.wait ≤ 1 then acts [drop, go (r.target * frameUnits + frac) (r.target * frameUnits), updYs fun y => { y with rebase := none },
      bump YS_REBASE_COUNT 1, wr YS_REBASE_PEND 0, setEvent YS_EVENT_REBASE_DONE,
      ledger 0x1007 .yardstick warning r.target]
    else acts [drop, go (next * frameUnits + frac) (next * frameUnits),
      updYs fun y => { y with rebase := some { r with wait := r.wait - 1 } }]
  | none => acts [drop, go (next * frameUnits + frac) (next * frameUnits)]

/-! ## Arm slots (R69 to R75) -/

/-- The position of a slot. -/
def State.slotPos (s : State) (k : Nat) : Nat := s.pair (YS_SLOT_POS_LO k) (YS_SLOT_POS_HI k)
/-- A slot is ARMED or HELD. -/
def State.slotBusy (s : State) (k : Nat) : Bool := s.on (YS_SLOT_CTRL_ARMED k) || s.on (YS_SLOT_CTRL_HELD k)

/-- TARGET holds only the fields of its action, each in range (R75). -/
def targetOk (action target : Nat) : Bool :=
  match action with
  | 0 | 2 | 3 => true
  | 1 | 4 | 5 => decide (target < 4)
  | 6 => bits target 7 2 == 0 && decide (8 ≤ target / 256)
  | 7 => target == bits target 18 16 * 2 ^ 16 + bits target 13 8 * 2 ^ 8
  | 8 => target == bits target 18 16 * 2 ^ 16 + bits target 13 8 * 2 ^ 8 + bits target 3 0
  | _ => false

/-- The target's unit or core is disabled (R75). -/
def State.targetAbsent (s : State) (action target : Nat) : Bool :=
  match action with
  | 1 => !s.has .draper | 2 => !s.has .lamplighter | 3 => !s.has .thimble
  | 7 | 8 => !s.coreOn (bits target 18 16) | _ => false

/-- The checks of an arm, in the order of R70. -/
def State.armCheck (s : State) (k pos target period action mode : Nat) : Status :=
  if !targetOk action target || decide (1 < mode) || (mode == 1 && period == 0) then .badarg
  else if s.slotBusy k then .busy
  else if mode == 0 && decide (pos ≤ s.ys.pos) then .late
  else if s.targetAbsent action target then .absent
  else .ok

/-- A write of YS_SLOTs_CTRL (R70, R71). A refused ARM changes nothing but RESULT; on a slot that is busy with the same settings the
clears act all the same. -/
def slotCtrlWrite (k : Nat) (v : Word) : Act := withS fun s =>
  let n := v.toNat
  let (action, mode, period) := (bits n 23 20, bits n 19 18, bits n 15 0)
  let keep := action == s.rd (YS_SLOT_CTRL_ACTION k) && mode == s.rd (YS_SLOT_CTRL_MODE k) && period == s.rd (YS_SLOT_CTRL_PERIOD k)
  let st := s.armCheck k (s.slotPos k) (s.rd (YS_SLOT_TARGET k)) period action mode
  if bit n 30 && bit n 29 then result YS_STATUS_RESULT .badarg
  else if s.slotBusy k && !keep then result YS_STATUS_RESULT .busy
  else if bit n 30 && st != .ok && !s.slotBusy k then result YS_STATUS_RESULT st
  else acts [
    wr (YS_SLOT_CTRL_ACTION k) action, wr (YS_SLOT_CTRL_MODE k) mode, wr (YS_SLOT_CTRL_PERIOD k) period,
    whenDo (bit n 28) (wr (YS_SLOT_CTRL_FIRED k) 0), whenDo (bit n 27) (wr (YS_SLOT_CTRL_SKIPPED k) 0),
    whenDo (bit n 29) (acts [wr (YS_SLOT_CTRL_ARMED k) 0,
      updYs fun y => { y with trig := y.trig.filter fun t => t.slot != k }]),
    whenDo (bit n 30) (acts [result YS_STATUS_RESULT st, whenDo (st == .ok) (wr (YS_SLOT_CTRL_ARMED k) 1)])]

/-- A write of a position or target register of a slot: discarded while the slot is ARMED or HELD (R70). -/
def slotFieldWrite (k : Nat) (f : Fld) (v : Word) : Act := withS fun s =>
  if s.slotBusy k then result YS_STATUS_RESULT .busy else wr f v.toNat

/-- `SLOT_ARM`: a write of YS_SLOTs_CTRL with ARM set (R70). -/
def execSlotArm (_w : Requester) (slot : Fin 256) (v : Word) (s : State) : Host.Outcome State Fault Refusal :=
  done (slotCtrlWrite slot (v ||| 0x40000000#32)) s

/-- `SLOT_DISARM`: a write of YS_SLOTs_CTRL with DISARM set (R71). -/
def execSlotDisarm (_w : Requester) (slot : Fin 256) (v : Word) (s : State) : Host.Outcome State Fault Refusal :=
  done (slotCtrlWrite slot (v ||| 0x20000000#32)) s

/-- ARMAT: the slot's registers take the values and the slot is armed in one step, or is unchanged (R247). -/
def armAt (k pos target period action mode : Nat) : Act := withS fun s =>
  let st := s.armCheck k pos target period action mode
  acts [result YS_STATUS_RESULT st, whenDo (st == .ok) (acts [
    wrPair (YS_SLOT_POS_LO k) (YS_SLOT_POS_HI k) pos, wr (YS_SLOT_TARGET k) target,
    wr (YS_SLOT_CTRL_PERIOD k) period, wr (YS_SLOT_CTRL_ACTION k) action, wr (YS_SLOT_CTRL_MODE k) mode,
    wr (YS_SLOT_CTRL_ARMED k) 1])]

/-- A WAKE or SIGNAL event of slot `k` reaches Foreman, or is held in the slot (R73, R75). -/
def slotWake (k : Nat) : Act := withS fun s =>
  let t := s.rd (YS_SLOT_TARGET k)
  let core := bits t 18 16
  let e := if s.rd (YS_SLOT_CTRL_ACTION k) == 7 then WakeEntry.timeline (bits t 13 8)
    else .signal (bits t 13 8) (2 ^ bits t 3 0)
  acts [whenDo (s.coreOn core && (decide (64 ≤ (s.core core).queue.length) || !(s.core core).held.isEmpty)) (wr (YS_SLOT_CTRL_HELD k) 1),
    pushWake core e (.slot k s.ys.tick)]

/-! ## Trigger outputs (R76, R77) -/

/-- Set the level of trigger output `o` by an action (R77). -/
def trigApply (o action width : Nat) : Act := withS fun s =>
  whenDo (s.on (YS_TRIG_CFG_ENABLE o)) (acts [
    wr (YS_TRIG_CFG_LEVEL o) (b2n (action != 5)),
    updYs fun y => { y with pulseEnd := y.pulseEnd.set 0 o (if action == 6 then s.now + width else 0) }])

/-- The position after `p` at which an ARMED slot fires (R69): its own of a ONCE one, the first occurrence of a PERIODIC one. -/
def State.fireAfter (s : State) (k p : Nat) : Nat :=
  if s.rd (YS_SLOT_CTRL_MODE k) = 0 then s.slotPos k
  else
    let start := s.slotPos k / frameUnits
    let frac := s.slotPos k % frameUnits
    let per := max 1 (s.rd (YS_SLOT_CTRL_PERIOD k))
    let from_ := max start (if p % frameUnits < frac then p / frameUnits else p / frameUnits + 1)
    (start + (from_ - start + per - 1) / per * per) * frameUnits + frac

/-- The position at which an ARMED slot fires next. -/
def State.nextFire (s : State) (k : Nat) : Nat := s.fireAfter k s.ys.pos

/-- The first position of the frame that a re-base at the next boundary opens. -/
def State.rebaseNext (s : State) : Option Nat := s.ys.rebase.bind fun r => if r.wait ≤ 1 then some (r.target * frameUnits) else none

/-- The position units until an ARMED slot fires, and whether a forward re-base at the next boundary passes it there (R74). -/
def State.unitsUntil (s : State) (k : Nat) : Nat × Bool :=
  let p := s.nextFire k
  let edge := (s.frame + 1) * frameUnits
  match s.rebaseNext with
  | some start =>
    if p < edge then (p - s.ys.pos, false)
    else
      let q := s.fireAfter k (start - 1)
      if q < start then (edge - s.ys.pos, true) else (edge - s.ys.pos + (q - start), false)
  | none => (p - s.ys.pos, false)

/-- The ticks until the position has gained `d` units, at the rate and with the correction and the remainder that stand (R42, R55). -/
def State.ticksIn (s : State) (d : Nat) : Nat :=
  let step := s.rateNum * frameUnits * (10 ^ 9 + signedOf 32 (s.rd YS_RATE_ADJ)).toNat
  (d * (s.framePeriod * 10 ^ 9) - s.ys.rem + step - 1) / max 1 step

/-- The tick at which an action of slot `k` taken up now changes output `o`: ADVANCE ticks before the one at which its position is reached, or
the next one when that has passed; at the boundary itself when a re-base passes the slot (R76). -/
def State.changeAt (s : State) (k o : Nat) : Nat :=
  let (d, passes) := s.unitsUntil k
  let wait := s.ticksIn d
  let advance := if passes then 0 else s.rd (YS_TRIG_CFG_ADVANCE o)
  if advance ≤ wait then s.now + (wait - advance) else s.now + 1

/-- Take up the trigger action of slot `k` (R76): ADVANCE is sampled now. -/
def takeUp (k : Nat) : Act := withS fun s =>
  let t := s.rd (YS_SLOT_TARGET k)
  let a := s.rd (YS_SLOT_CTRL_ACTION k)
  let o := bits t 1 0
  whenDo (s.on (YS_SLOT_CTRL_ARMED k) && decide (4 ≤ a ∧ a ≤ 6)
      && !(s.ys.trig.any fun x => x.slot == k))
    (updYs fun y => { y with trig := y.trig ++ [⟨k, o, a, t / 256, s.changeAt k o, false⟩] })

/-- `TRIG_ACTION_TAKE_UP` (R76). -/
def execTrigActionTakeUp (slot : Fin 256) (s : State) : Host.Outcome State Fault Refusal := done (takeUp slot) s

/-- The earliest action taken up for output `o` that has not changed it yet; of several the one of the lowest slot (R77). -/
def State.nextTakeup (s : State) (o : Nat) : Option Takeup :=
  s.ys.trig.foldl (fun best x =>
    if x.out != o || x.made then best
    else match best with
      | none => some x
      | some b => if x.due < b.due || (x.due == b.due && x.slot < b.slot) then some x else some b) none

/-- An action taken up changes its output (R76). -/
def makeChange (x : Takeup) : Act := acts [trigApply x.out x.action x.width,
  updYs fun y => { y with trig := y.trig.map fun z => if z == x then { z with made := true } else z }]

/-- The earliest action taken up for output `o` changes the output (R76, R77). -/
def trigChange (o : Nat) : Act := withS fun s =>
  match s.nextTakeup o with
  | none => skip
  | some x => makeChange x

/-- `TRIG_OUTPUT_CHANGE`. -/
def execTrigOutputChange (out : Fin 4) (s : State) : Host.Outcome State Fault Refusal := done (trigChange out) s

/-- The end of a pulse (R77). -/
def pulseOver (o : Nat) : Act := withS fun s =>
  whenDo (s.ys.pulseEnd.get 0 o != 0) (acts [wr (YS_TRIG_CFG_LEVEL o) 0,
    updYs fun y => { y with pulseEnd := y.pulseEnd.set 0 o 0 }])

/-- `TRIG_PULSE_END`. -/
def execTrigPulseEnd (out : Fin 4) (s : State) : Host.Outcome State Fault Refusal := done (pulseOver out) s

/-- A trigger slot fires: an action taken up has changed the output already, any other changes it now (R76). -/
def trigFire (k : Nat) : Act := withS fun s =>
  let t := s.rd (YS_SLOT_TARGET k)
  acts [whenDo (!(s.ys.trig.any fun x => x.slot == k && x.made))
      (trigApply (bits t 1 0) (s.rd (YS_SLOT_CTRL_ACTION k)) (t / 256)),
    updYs fun y => { y with trig := y.trig.filter fun x => x.slot != k }]

/-- A write of YS_TRIG_CFGt: clearing ENABLE ends a pulse and sets LEVEL to 0 (R76). -/
def trigCfgWrite (o : Nat) (v : Word) : Act := acts [
  wr (YS_TRIG_CFG_ENABLE o) (bits v.toNat 31 31), wr (YS_TRIG_CFG_INVERT o) (bits v.toNat 30 30),
  wr (YS_TRIG_CFG_ADVANCE o) (bits v.toNat 23 16),
  whenDo (!bit v.toNat 31) (acts [wr (YS_TRIG_CFG_LEVEL o) 0,
    updYs fun y => { y with pulseEnd := y.pulseEnd.set 0 o 0 }])]

/-- `TRIG_DISABLE`: a write of YS_TRIG_CFGt with ENABLE clear. -/
def execTrigDisable (_w : Requester) (out : Fin 4) (v : Word) (s : State) : Host.Outcome State Fault Refusal :=
  done (trigCfgWrite out (v &&& 0x7FFFFFFF#32)) s

/-- The pin level of trigger output `o` (R76): low while the part has never enabled it. -/
def State.trigPin (s : State) (o : Nat) : Bool := s.on (YS_TRIG_CFG_LEVEL o) != s.on (YS_TRIG_CFG_INVERT o)

end Sys2Proof.Machine
end

