-- ==== Sys2Proof/Machine/Shuttle.lean ====
section
/-!
DEFINITION. Shuttle (its chapter): links and the ring, enumeration and the number table, beacons, the loss of the master,
and collection of Ledger records. Mailbox and image frames stand with the mailboxes and the boot block.
-/

namespace Sys2Proof.Machine

/-! ## The ring (R360, R361, R372, R373) -/

/-- The number of devices between the master and its UP link. -/
def State.ringLength (s : State) : Nat := s.sh.positions.foldl (fun n p => max n p.2) 0 + 1

/-- The cable at a device's link, named by the ring position of the device whose DN it is. -/
def State.cableOf (s : State) (device : Nat) (isUp : Bool) : Nat :=
  let p := if device == s.rd SH_STATUS_NUMBER then (if s.rd SH_STATUS_ROLE == roleMaster then 0 else s.rd SH_POS_POS)
    else s.sh.positions.get 0 device
  if isUp then (p + s.ringLength - 1) % s.ringLength else p

/-- The cables known to be down. -/
def State.cablesDown (s : State) : List Nat :=
  let own := s.rd SH_STATUS_NUMBER
  (s.sh.downs ++ (if s.shLink .up then [] else [(own, true)]) ++ (if s.shLink .dn then [] else [(own, false)])).map
    (fun (d, u) => s.cableOf d u) |>.dedup

/-- What SH_STATUS.RING shows: the master knows of every link, another device of its own. -/
def State.ringNow (s : State) : Nat :=
  if !s.shLink .up && !s.shLink .dn then 0
  else if s.isMaster then (match s.cablesDown.length with | 0 => 1 | 1 => 2 | _ => 3)
  else if s.shLink .up && s.shLink .dn then 1 else 2

/-- Show the state of the ring; the master records that it broke or closed (R373). `before` is the number of cables down until
now, `pos` the ring position of the report. -/
def ringRefresh (before pos : Nat) : Act := withS fun s =>
  let old := s.rd SH_STATUS_RING
  let new := s.ringNow
  acts [wr SH_STATUS_RING new, whenDo (old != new) (setEvent SH_EVENT_RING),
    whenDo s.isMaster (acts [
      whenDo (decide (2 ≤ new ∧ (old = 1 ∨ before < s.cablesDown.length))) (ledger 0x6006 .shuttle warning pos),
      whenDo (new == 1 && decide (2 ≤ old)) (ledger 0x6007 .shuttle note 0)])]

/-- A link of this device changes state (R361). -/
def shLinkChange (l : ShLink) (up : Bool) : Act := withS fun s =>
  whenDo ((s.has .shuttle || s.bootsShuttle) && s.shLink l != up) (
    let before := s.cablesDown.length
    acts [
      wr (match l with | .up => SH_STATUS_UP | .dn => SH_STATUS_DN) (b2n up),
      setEvent SH_EVENT_LINK,
      if up then ledger 0x6005 .shuttle note (linkNo l) else ledger 0x6004 .shuttle warning (linkNo l),
      ringRefresh before (if s.rd SH_STATUS_ROLE == roleMaster then 0 else s.rd SH_POS_POS),
      withS fun s => acts [
        whenDo (!s.isMaster) (shSend .dn s.sh.masterNo fun h => .linkchg { head := h, up := s.shLink .up, dn := s.shLink .dn }),
        whenDo up shFlush]])

/-- `SHUTTLE_LINK_CHANGE`. -/
def execShuttleLinkChange (link : ShLink) (up : Bool) (s : State) : Host.Outcome State Fault Refusal :=
  done (shLinkChange link up) s

/-- `LINKCHG`: the master takes a device's links (R361, R373). -/
def execLinkchg (link : ShLink) (seq : Nat) (f : LinkchgFrame) (s : State) : Host.Outcome State Fault Refusal :=
  done (whenDo (s.shHears link) (
    if s.shMine f.head && s.isMaster then
      let before := s.cablesDown.length
      acts [updSh fun h => { h with downs := h.downs.filter (fun d => d.1 != f.head.src)
              ++ (if f.up then [] else [(f.head.src, true)]) ++ (if f.dn then [] else [(f.head.src, false)]) },
        ringRefresh before (s.sh.positions.get 0 f.head.src)]
    else whenDo (!s.shOwn f.head) (shForward link seq f.head (.linkchg f)))) s

/-- `SHUTTLE_FRAME_DROP`: a frame with a bad CRC, TYPE or LENGTH; recorded once in a second (R363). One on the pair link, which
has no counter, shows in the health word (R395, R401). -/
def execShuttleFrameDrop (link : Option ShLink) (s : State) : Host.Outcome State Fault Refusal :=
  done (match link with
  | none => whenDo (s.mtOn && s.on MT_STATUS_LINK) (ail .link)
  | some link =>
  let k := linkNo link
  whenDo (s.shHears link) (acts [ail .link, count (match link with | .up => SH_CRC_UP | .dn => SH_CRC_DN) 1,
    whenDo (s.sh.dropNoted.get none k != some (s.now / 10 ^ 9)) (acts [
      updSh fun h => { h with dropNoted := h.dropNoted.set none k (some (s.now / 10 ^ 9)) },
      ledger 0x600E .shuttle warning k])])) s

/-! ## The number table (R366, R368) -/

/-- The serial number in entry `n` of the table. -/
def State.sticky (s : State) (n : Nat) : Nat := s.pair (SH_STICKY_LO n) (SH_STICKY_HI n)
/-- The numbers of members. -/
def memberNumbers : List Nat := (List.range 1023).map (· + 1)
/-- Put a serial number into the table; a change sets STICKY. -/
def setSticky (n serial : Nat) : Act := withS fun s => whenDo (s.sticky n != serial)
  (acts [wrPair (SH_STICKY_LO n) (SH_STICKY_HI n) serial, setEvent SH_EVENT_STICKY])

/-- Free the numbers of devices that are not present; the master's alone (R368). -/
def stickyClear : Act := withS fun s =>
  if s.isMaster then acts [result SH_STATUS_RESULT .ok,
    forEach (memberNumbers.filter fun n => !s.sh.present.contains n) fun n => setSticky n 0]
  else acts [result SH_STATUS_RESULT .state, stateRefused .shuttle SH_CTRL_STICKY_CLR.addr]

/-- A write of a word of the table: discarded on a running member, and while a survey's replies are processed (R368). -/
def stickyWrite (f : Fld) (v : Nat) : Act := withS fun s =>
  if s.rd SH_STATUS_ROLE == roleMember then acts [result SH_STATUS_RESULT .state, stateRefused .shuttle f.addr]
  else if s.sh.surveying then result SH_STATUS_RESULT .busy
  else acts [result SH_STATUS_RESULT .ok, whenDo (s.rd f != v) (acts [wr f v, setEvent SH_EVENT_STICKY])]

/-! ## Enumeration (R365 to R368) -/

/-- A member has left (R368). -/
def memberLeft (n : Nat) : Act := acts [
  updSh fun h => { h with present := h.present.filter (· != n), missed := h.missed.set 0 n 0 },
  withS fun s => wr SH_MEMBERS_COUNT (s.sh.present.length + 1),
  setEvent SH_EVENT_MEMBER, ledger 0x6003 .shuttle warning n,
  orphanHasps fun i => i.kind == kindRemote && i.index == n]

/-- Close the survey before: members not heard in three have left, and one with no unnumbered device is recorded (R367,
R368). -/
def surveyClose : Act := withS fun s => whenDo s.sh.surveyed (acts [
  forEach s.sh.present fun n =>
    if s.sh.heard.contains n then updSh fun h => { h with missed := h.missed.set 0 n 0 }
    else acts [updSh fun h => { h with missed := h.missed.set 0 n (h.missed.get 0 n + 1) },
      withS fun s => whenDo (decide (3 ≤ s.sh.missed.get 0 n)) (memberLeft n)],
  withS fun s => whenDo (!s.sh.unnumbered) (ledger 0x6001 .shuttle note s.sh.present.length)])

/-- Begin a survey: ENUM with POS 0 (R365). -/
def enumSurvey : Act := withS fun s => whenDo (s.shOn && s.isMaster) (acts [
  surveyClose,
  updSh fun h => { h with heard := [], unnumbered := false, surveyed := true, surveying := true,
                          surveyAt := s.now + 10 ^ 9 },
  shMasterSend everyDevice fun h => .enum { head := h, pos := 0 }])

/-- `ENUM_SURVEY`. -/
def execEnumSurvey (s : State) : Host.Outcome State Fault Refusal := done enumSurvey s

/-- Shuttle starts at boot step 10 (R360, R361, R365, R367). -/
def shStart : Act := withS fun s => whenDo (s.has .shuttle && !s.sh.started) (acts [
  updSh fun h => { h with started := true, fresh := true, measureAt := s.now + 10 ^ 6 },
  ringRefresh 0 0,
  if s.sh.conflicted then wr SH_STATUS_ROLE roleConflict
  else if s.sh.master then acts [wr SH_STATUS_ROLE roleMaster, wr SH_STATUS_NUMBERED 1, wr SH_STATUS_NUMBER 0,
    wr SH_MEMBERS_COUNT 1, wrPair SH_MASTER_LO SH_MASTER_HI (s.pair BT_SERIAL_LO BT_SERIAL_HI),
    updYs fun y => { y with aligned := true }, enumSurvey]
  else updSh fun h => { h with assignBy := some (s.now + 5 * 10 ^ 9) }])

/-- `ENUM`: a device takes its ring position, replies and forwards; the master's own comes round (R365). -/
def execEnumFrame (link : ShLink) (seq : Nat) (f : EnumFrame) (s : State) : Host.Outcome State Fault Refusal :=
  let pos := f.pos + 1
  done (whenDo (s.shHears link) (
    if s.isMaster then whenDo (s.shOwn f.head) (updSh fun h => { h with surveying := false })
    else acts [
      whenDo (!s.shRepeat seq f.head) (acts [shTaken seq f.head, wr SH_POS_POS pos,
        shSend .dn f.head.src fun h => .enumReply
          { head := h, serial := s.pair BT_SERIAL_LO BT_SERIAL_HI, pos := pos, number := h.src,
            cgen := s.rd SH_GEN_CGEN, tick := s.ys.tick }]),
      shForward link seq f.head (.enum { f with pos := pos })])) s

/-- The master numbers a device (R65, R366). -/
def assignNumber (f : EnumReplyFrame) : Act := withS fun s =>
  let known := memberNumbers.find? fun n => s.sticky n == f.serial
  let n := known.orElse fun _ => memberNumbers.find? fun n => s.sticky n == 0
  acts [updSh fun h => { h with unnumbered := true },
    match n with
    | none => ledger 0x600C .shuttle warning f.serial
    | some n => acts [
        whenDo (decide (s.ys.tick < f.tick)) (stepTick (roundUp (10 ^ 6) (f.tick + 10 ^ 6))),
        setSticky n f.serial,
        shMasterSend everyDevice fun h => .assign { head := h, serial := f.serial, number := n }]]

/-- A reply with a number: a member that is new, or that has joined again, is recorded (R367). -/
def memberHeard (f : EnumReplyFrame) : Act := withS fun s =>
  let n := f.number
  acts [
    whenDo (n != 0 && (!s.sh.present.contains n || s.sh.gens.get 0 n != f.cgen)) (acts [
      updSh fun h => { h with present := h.present.filter (· != n) ++ [n] },
      setEvent SH_EVENT_MEMBER, ledger 0x6002 .shuttle note n]),
    updSh fun h => { h with heard := n :: h.heard, gens := h.gens.set 0 n f.cgen,
                            positions := h.positions.set 0 n f.pos },
    withS fun s => wr SH_MEMBERS_COUNT (s.sh.present.length + 1)]

/-- `ENUM_REPLY`. -/
def execEnumReply (link : ShLink) (seq : Nat) (f : EnumReplyFrame) (s : State) : Host.Outcome State Fault Refusal :=
  done (whenDo (s.shHears link) (
    if s.shMine f.head && s.isMaster then
      if 1023 < f.pos then ledger 0x6011 .shuttle warning f.pos
      else if f.number = everyDevice then assignNumber f
      else memberHeard f
    else whenDo (!s.shOwn f.head) (shForward link seq f.head (.enumReply f)))) s

/-- `ASSIGN`: a device takes its number with the first beacon that follows (R65, R367); members keep a copy of the table
(R375). -/
def execAssign (link : ShLink) (seq : Nat) (f : AssignFrame) (s : State) : Host.Outcome State Fault Refusal :=
  let mine := f.serial == s.pair BT_SERIAL_LO BT_SERIAL_HI && s.rd SH_STATUS_ROLE == 0
  done (whenDo (s.shHears link && !s.isMaster) (acts [
    whenDo (!s.shRepeat seq f.head) (acts [shTaken seq f.head,
      whenDo mine (updSh fun h => { h with joining := some f.number, assignBy := none }),
      whenDo (s.rd SH_STATUS_ROLE == roleMember && f.number != 0) (setSticky f.number f.serial)]),
    shForward link seq f.head (.assign f)])) s

/-- The wait for ASSIGN has lasted its 5 s: boot goes on with the device standalone (R367). -/
def assignExpire : Act := withS fun s => whenDo (s.sh.assignBy.any fun t => decide (t ≤ s.now)) (updSh fun h => { h with assignBy := none })

/-- `ASSIGN_WAIT_EXPIRE`. -/
def execAssignWaitExpire (s : State) : Host.Outcome State Fault Refusal := done assignExpire s

/-! ## Link delays (R369) -/

/-- Both links' delays are measured. -/
def linkMeasure : Act := withS fun s => whenDo s.shOn (acts [updSh fun h => { h with measureAt := s.now + 10 ^ 6 },
  forEach [ShLink.up, .dn] fun l => whenDo (s.shLink l) (shSend l 0 fun _ => .delayReq)])

/-- `LINK_DELAY_MEASURE`. -/
def execLinkDelayMeasure (s : State) : Host.Outcome State Fault Refusal := done linkMeasure s

/-- `DELAY_REQ`: the turnaround, measured by the part, is a free value (log 2). -/
def execDelayReq (link : ShLink) (_seq : Nat) (s : State) : Host.Outcome State Fault Refusal :=
  done (whenDo (s.shHears link) (withFree fun v => shSend link 0 fun _ => .delayResp v)) s

/-- The mean of the last delays, in units of 1/8 ns. -/
def meanDelay (l : List Nat) : Nat := l.foldl (· + ·) 0 / l.length

/-- `DELAY_RESP`: half the round trip without the turnaround, corrected by the fused asymmetry. -/
def execDelayResp (link : ShLink) (_seq : Nat) (t : DelayTimes) (s : State) : Host.Outcome State Fault Refusal :=
  let asym := match link with | .up => s.boot.fuse.asymUp | .dn => s.boot.fuse.asymDn
  let d := ((((t.trip - t.turnaround) / 2 : Nat) : Int) + asym).toNat
  done (whenDo (s.shHears link) (match link with
    | .up => acts [updSh fun h => { h with upDelays := (d :: h.upDelays).take 64 },
        withS fun s => wr SH_UP_DLY (meanDelay s.sh.upDelays)]
    | .dn => acts [updSh fun h => { h with dnDelays := (d :: h.dnDelays).take 64 },
        withS fun s => wr SH_DN_DLY (meanDelay s.sh.dnDelays)])) s

/-! ## Beacons (R370, R374 to R378) -/

/-- The master or acting master sends a beacon (R370). -/
def sendBeacon : Act := withS fun s =>
  let acting := s.rd SH_STATUS_ROLE == roleActing
  shMasterSend everyDevice fun h => .beacon
    { head := h, tick := s.ys.tick, pos := s.ys.pos, num := s.rateNum, den := s.rateDen, acc := 0,
      rebaseTo := s.pair YS_REBASE_TO_LO YS_REBASE_TO_HI, pend := s.on YS_REBASE_PEND,
      deputyValid := s.on SH_DEPUTY_EN, acting := acting, deputy := s.rd SH_DEPUTY_DEVICE,
      serial := s.pair BT_SERIAL_LO BT_SERIAL_HI }

/-- The delay of a beacon up to this device, and the tick and position it asserts (R370). -/
def State.beaconDelay (s : State) (l : ShLink) (b : Beacon) : Nat :=
  b.acc + s.rd (match l with | .up => SH_UP_DLY | .dn => SH_DN_DLY)
def State.beaconTick (s : State) (l : ShLink) (b : Beacon) : Nat := b.tick + s.beaconDelay l b / 8
def State.beaconPos (s : State) (l : ShLink) (b : Beacon) : Nat :=
  (b.pos + s.beaconDelay l b * b.num * frameUnits / (8 * max 1 b.den * 10 ^ 9)) % posMod

/-- Become a member with a number (R367). -/
def becomeMember (n : Nat) : Act := acts [wr SH_STATUS_ROLE roleMember, wr SH_STATUS_NUMBERED 1, wr SH_STATUS_NUMBER n,
  wr YS_STATUS_MEMBER 1, updYs fun y => { y with aligned := true }, updSh fun h => { h with joining := none }, reselect]

/-- Take a re-base that the master announces: it falls at the next boundary (R59, R370). A beacon without one takes back what a beacon announced;
a re-base of the device's own stays (R57). -/
def beaconRebase (b : Beacon) : Act := withS fun s =>
  if b.pend then acts [
    updYs fun y => { y with rebase := some { w := 0, target := b.rebaseTo, wait := 1, fromMaster := true } },
    whenDo (!s.on YS_REBASE_PEND || s.pair YS_REBASE_TO_LO YS_REBASE_TO_HI != b.rebaseTo) (acts [
      wr YS_REBASE_PEND 1, wrPair YS_REBASE_TO_LO YS_REBASE_TO_HI b.rebaseTo, setEvent YS_EVENT_REBASE_PEND,
      ledger 0x1006 .yardstick note b.rebaseTo])]
  else whenDo (s.ys.rebase.any (·.fromMaster)) (acts [updYs fun y => { y with rebase := none }, wr YS_REBASE_PEND 0])

/-- A member takes a beacon as its reference (R65, R370, R375, R378). -/
def beaconTake (l : ShLink) (b : Beacon) : Act := withS fun s =>
  let tick := s.beaconTick l b
  acts [
    wr SH_ACC (s.beaconDelay l b), wrPair SH_MASTER_LO SH_MASTER_HI b.serial,
    if s.ys.tick + 1000 < tick then stepTick tick
    else updYs fun y => { y with tickDebt := (tick : Int) - y.tick },
    updSh fun h => { h with misses := 0, masterNo := b.head.src },
    referenceEvent (.beacon (BitVec.ofNat 64 (s.beaconPos l b))),
    whenDo (b.acting && s.sh.announced == some b.head.src) (qualify 6),
    withS fun s => whenDo (s.qualified 6) (acts [updSh fun h => { h with lostAt := none },
      whenDo (s.rd YS_STATUS_STATE == stMemberHold) (enterState stAcquiring 0)]),
    beaconRebase b,
    wr SH_DEPUTY_EN (b2n b.deputyValid), wr SH_DEPUTY_DEVICE b.deputy,
    updSh fun h => { h with announced := if b.deputyValid then some b.deputy else none }]

/-- The first beacon after ASSIGN: a device whose tick is still later keeps it and defers the number (R65, R367). -/
def beaconJoin (l : ShLink) (b : Beacon) (n : Nat) : Act := withS fun s =>
  let tick := s.beaconTick l b
  if tick < s.ys.tick then updSh fun h => { h with joining := none }
  else acts [stepTick tick, bump SH_GEN_CGEN 1, becomeMember n, beaconTake l b]

/-- A second master is met: the higher serial number gives way (R377). -/
def masterConflict (serial : Nat) : Act := withS fun s => acts [
  setEvent SH_EVENT_CONFLICT,
  whenDo (decide (serial < s.pair BT_SERIAL_LO BT_SERIAL_HI)) (acts [wr SH_STATUS_ROLE roleConflict,
    updSh fun h => { h with conflicted := true },
    ledger 0x600D .shuttle error serial, reselect, freewheel])]

/-- `BEACON` (R370, R373, R375 to R377). The residence of a forwarded beacon is a free value of at most 120 ns (log 2). -/
def execBeacon (link : ShLink) (seq : Nat) (b : Beacon) (s : State) : Host.Outcome State Fault Refusal :=
  let role := s.rd SH_STATUS_ROLE
  let pass := withFree fun v => shForward link seq b.head (.beacon { b with acc := s.beaconDelay link b + v % 961 })
  done (whenDo (s.shHears link) (
    if role == roleMaster then
      if b.serial == s.pair BT_SERIAL_LO BT_SERIAL_HI then skip
      else if b.acting then whenDo (s.sh.fresh && link == .up) (acts [
        pass, shTaken seq b.head, stepTick (s.beaconTick link b), becomeMember 0, wr SH_MEMBERS_COUNT 0,
        updSh fun h => { h with fresh := false }, beaconTake link b])
      else acts [masterConflict b.serial, withS fun s => whenDo (s.rd SH_STATUS_ROLE == roleConflict) pass]
    else if role == roleActing then skip
    else acts [pass, whenDo (role != roleConflict && !s.shRepeat seq b.head) (acts [shTaken seq b.head,
      if role == roleMember then beaconTake link b
      else match s.sh.joining with | some n => beaconJoin link b n | none => skip])])) s

/-- An expected beacon, or the active's, has not come; the third in a row loses it (R374, R394). -/
def beaconMissed : Act := withS fun s => whenDo ((s.rd SH_STATUS_ROLE == roleMember || s.followsPair) && s.sh.lostAt.isNone) (acts [
  count SH_MISS 1, updSh fun h => { h with misses := h.misses + 1 },
  whenDo (decide (3 ≤ s.sh.misses + 1)) (acts [
    updSh fun h => { h with lostAt := some s.now, regaining := !s.followsPair,
                            actingNext := !s.followsPair && s.sh.announced == some (s.rd SH_STATUS_NUMBER) },
    setEvent SH_EVENT_BEACON, ledger 0x6008 .shuttle warning s.frame, loseSource 6])])

/-- The freewheel limit in seconds (R378, R384). -/
def State.freewheelLimit (s : State) : Nat := min 600 (max 1 (s.rd SH_CTRL_FREEWHEEL))

/-- What SH_FW_REMAIN shows, in ms. -/
def State.freewheelLeft (s : State) : Nat :=
  match s.sh.lostAt with | some t => (t + s.freewheelLimit * 10 ^ 9 - s.now) / 10 ^ 6 | none => 0

/-- A member has gone its freewheel limit without the beacon (R378). -/
def freewheelExpire : Act := withS fun s =>
  whenDo (s.sh.lostAt.any (fun t => decide (t + s.freewheelLimit * 10 ^ 9 ≤ s.now)) && s.rd SH_STATUS_ROLE == roleMember && !s.sh.held) (acts [
    updSh fun h => { h with held := true }, enterState stMemberHold 0, setEvent SH_EVENT_HOLD,
    ledger 0x600A .shuttle warning s.freewheelLimit])

/-- `FREEWHEEL_EXPIRE`. -/
def execFreewheelExpire (s : State) : Host.Outcome State Fault Refusal := done freewheelExpire s

/-- Take the master role, as master or acting master: the device follows its own rank again (R52, R375, R376). -/
def takeRole (role : Nat) : Act := withS fun s => acts [
  wr SH_STATUS_ROLE role, wr YS_STATUS_MEMBER 0,
  updSh fun h => { h with lostAt := none, held := false, regaining := false, actingNext := false, reclaim := none,
                          surveyAt := s.now, present := [], missed := [], surveyed := false },
  wr SH_MEMBERS_COUNT 1,
  whenDo (s.rd YS_STATUS_STATE == stMemberHold) (enterState stAcquiring 0), reselect]

/-- Shuttle's part of a frame boundary (R370, R375, R376, R378). -/
def shBoundary : Act := withS fun s => whenDo s.shOn (acts [
  updSh fun h => { h with fresh := false, surveying := false },
  whenDo (s.sh.actingNext && s.rd SH_STATUS_ROLE == roleMember) (acts [takeRole roleActing,
    ledger 0x6009 .shuttle warning (s.rd SH_STATUS_NUMBER)]),
  whenDo (match s.sh.reclaim with | some p => decide (p ≤ s.ys.pos) | none => false) (acts [
    updSh fun h => { h with reclaim := none },
    if s.rd SH_STATUS_ROLE == roleActing then acts [wr SH_STATUS_ROLE roleMember, wr SH_MEMBERS_COUNT 0,
      wr YS_STATUS_MEMBER 1, reselect]
    else takeRole roleMaster]),
  whenDo (s.sh.regaining && s.qualified 6 && s.rd YS_STATUS_STATE == stLocked) (acts [
    updSh fun h => { h with held := false, regaining := false }, setEvent SH_EVENT_BEACON,
    ledger 0x600B .shuttle note s.frame]),
  withS fun s => whenDo s.isMaster sendBeacon])

/-- The position that RECLAIM names: the next frame boundary after 10 frames (R376). -/
def State.reclaimPos (s : State) : Nat := (s.frame + 11) * frameUnits % posMod

/-- Hand the master role back; the acting master's alone (R376). -/
def reclaim : Act := withS fun s =>
  if s.rd SH_STATUS_ROLE == roleActing then acts [result SH_STATUS_RESULT .ok,
    updSh fun h => { h with reclaim := some s.reclaimPos },
    shMasterSend 0 fun h => .reclaim { head := h, pos := s.reclaimPos }]
  else acts [result SH_STATUS_RESULT .state, stateRefused .shuttle SH_CTRL_RECLAIM.addr]

/-- `RECLAIM`: device 0 takes the position at which it becomes master (R376). -/
def execReclaim (link : ShLink) (seq : Nat) (f : ReclaimFrame) (s : State) : Host.Outcome State Fault Refusal :=
  done (whenDo (s.shHears link) (
    if s.shMine f.head then whenDo (s.sh.master && s.rd SH_STATUS_ROLE == roleMember)
      (updSh fun h => { h with reclaim := some f.pos })
    else whenDo (!s.shOwn f.head) (shForward link seq f.head (.reclaim f)))) s

/-! ## Register writes (R368, R376, R384) -/

/-- A write of SH_CTRL: with a RECLAIM or a STICKY_CLR that is refused it stores nothing (R15). -/
def shCtrlWrite (v : Nat) : Act := withS fun s =>
  let refused := bit v 31 && s.rd SH_STATUS_ROLE != roleActing || bit v 30 && !s.isMaster
  acts [
    whenDo (!refused) (acts [wr SH_CTRL_LGFWD (bits v 29 29), wr SH_CTRL_LGSEV (bits v 23 16), wr SH_CTRL_FREEWHEEL (bits v 9 0)]),
    whenDo (bit v 31) reclaim, whenDo (bit v 30) stickyClear]

/-- `SH_RECLAIM`: a write of SH_CTRL with RECLAIM set. A disabled Shuttle takes no write (R3). -/
def execShReclaim (_w : Requester) (v : Word) (s : State) : Host.Outcome State Fault Refusal :=
  done (whenDo (s.has .shuttle) (shCtrlWrite (v ||| 0x80000000#32).toNat)) s

/-- `SH_STICKY_CLR`: a write of SH_CTRL with STICKY_CLR set. -/
def execShStickyClr (_w : Requester) (v : Word) (s : State) : Host.Outcome State Fault Refusal :=
  done (whenDo (s.has .shuttle) (shCtrlWrite (v ||| 0x40000000#32).toNat)) s

/-- A write of SH_DEPUTY: a member reads the announced value and takes none. -/
def shDeputyWrite (v : Nat) : Act := withS fun s =>
  if s.rd SH_STATUS_ROLE == roleMember then
    acts [result SH_STATUS_RESULT .state, stateRefused .shuttle SH_DEPUTY_EN.addr]
  else acts [wr SH_DEPUTY_EN (bits v 31 31), wr SH_DEPUTY_DEVICE (bits v 9 0), result SH_STATUS_RESULT .ok]

/-! ## Remote messages (R379, R380) -/

/-- A device is present. A member cannot tell of the others, so that is a free value there (log 2). -/
def withPresence (d : Nat) (k : Bool → Act) : Act := withS fun s =>
  if d == s.rd SH_STATUS_NUMBER then k true
  else if s.isMaster then k (s.sh.present.contains d)
  else withFree fun v => k (v % 2 == 1)

/-- Send a message to a device and endpoint. -/
def shMail (dst srcEp dstEp : Nat) (m : DWord) : Act := withS fun s =>
  let f (h : ShHead) : ShFrame :=
    .mailbox { head := h, message := m, srcEp := srcEp, dstEp := dstEp, cgen := s.rd SH_GEN_CGEN }
  if s.isMaster && dst == everyDevice then shMasterSend dst f else shSend .dn dst f

/-- A message posted to endpoint 10 from endpoint `e` (R379). -/
def shPost (e : Nat) (m : DWord) : Act := withS fun s =>
  let drop := count SH_DROP 1
  if !s.shOn || !s.on SH_STATUS_NUMBERED || 9 < e then drop
  else if !s.on (SH_ROUTE_EN e) || decide (9 < s.rd (SH_ROUTE_ENDPOINT e)) then drop
  else withPresence (s.rd (SH_ROUTE_DEVICE e)) fun here =>
    if here then shMail (s.rd (SH_ROUTE_DEVICE e)) e (s.rd (SH_ROUTE_ENDPOINT e)) m else drop

/-- The entry at ring 15's head is carried out (R380). Its messages name endpoint 10 as their source. -/
def shRingEntry : Act := withS fun s =>
  let ring := RingId.engine 15
  let b := ringBase ring
  whenDo (s.ringHas ring) (
    let a := s.ringEntry b (s.rd (RING_HEAD b))
    withMem a 64 fun e _ =>
      let word := leAt e 8 4
      let finish (st : Status) := acts [ringCompletion .shuttle a true 0 (leAt e 0x18 4) 0 st, bump (RING_HEAD b) 1,
        fenceStep 5 0]
      let send (dst : Nat) := shMail dst 10 (bits word 13 10) (BitVec.ofNat 64 (leAt e 0 8))
      if word / 2 ^ 16 != 0 || bit word 14 || decide (9 < bits word 13 10) || leAt e 0x0C 12 != 0 || leAt e 0x1C 4 != 0 then
        finish .badarg
      else if !s.shOn || !s.on SH_STATUS_NUMBERED then finish .state
      else if bit word 15 then acts [send everyDevice, finish .ok]
      else withPresence (bits word 9 0) fun here =>
        if here then acts [send (bits word 9 0), finish .ok] else finish .absent)

/-- What Shuttle does in its own time: surveys every 1 s, link delays every 1 ms, the ends of its waits, and ring 15 (R365, R367, R369, R378,
R380). -/
def shuttleRun : Act := withS fun s => whenDo s.shOn (acts [
  whenDo (s.isMaster && decide (s.sh.surveyAt ≤ s.now)) enumSurvey,
  whenDo (decide (s.sh.measureAt ≤ s.now)) linkMeasure,
  assignExpire, freewheelExpire, shRingEntry])

/-- `SHUTTLE_RING_ENTRY`. -/
def execShuttleRingEntry (s : State) : Host.Outcome State Fault Refusal := done shRingEntry s

/-! ## Collection of Ledger records (R382) -/

/-- Where the collection ring stands. -/
def State.lgcBase (s : State) : Nat := s.pair SH_LGC_BASE_LO SH_LGC_BASE_HI
def State.lgcSize (s : State) : Nat := 2 ^ s.rd SH_LGC_CTRL_LOG2SIZE

/-- A write of SH_LGC_CTRL. -/
def lgcCtrlWrite (v : Nat) : Act := withS fun s =>
  let n := bits v 4 0
  let a := s.lgcBase
  if bit v 31 && (decide (n < 4 ∨ 16 < n) || a % 64 != 0 || !s.extOrScratch a (2 ^ n * 64)) then
    result SH_STATUS_RESULT .badarg
  else acts [wr SH_LGC_CTRL_EN (bits v 31 31), wr SH_LGC_CTRL_LOG2SIZE n, result SH_STATUS_RESULT .ok]

/-- A write of SH_LGC_TAIL: one beyond HEAD is discarded. -/
def lgcTailWrite (v : Nat) : Act := withS fun s =>
  let head := s.rd SH_LGC_HEAD
  whenDo (decide ((head + 2 ^ 32 - v) % 2 ^ 32 ≤ (head + 2 ^ 32 - s.rd SH_LGC_TAIL) % 2 ^ 32)) (wr SH_LGC_TAIL v)

/-- Put a device's record into the collection ring. -/
def lgcWrite (device : Nat) (r : List Byte) : Act := withS fun s =>
  let head := s.rd SH_LGC_HEAD
  whenDo (s.on SH_LGC_CTRL_EN) (
    if s.lgcSize ≤ (head + 2 ^ 32 - s.rd SH_LGC_TAIL) % 2 ^ 32 then
      acts [count SH_LGC_DROP 1, ledger 0x600F .shuttle warning device]
    else acts [withStamp fun t => memWriteFor .shuttle (s.lgcBase + head % s.lgcSize * 64)
        (r ++ leBytes 2 device ++ List.replicate 14 0 ++ leBytes 8 t.tick ++ leBytes 4 t.seq ++ leBytes 2 t.half
          ++ leBytes 2 0),
      bump SH_LGC_HEAD 1])

/-- `LEDGER_FRAME`. -/
def execLedgerFrame (link : ShLink) (seq : Nat) (f : LedgerFrame) (s : State) : Host.Outcome State Fault Refusal :=
  done (whenDo (s.shHears link) (
    if s.shMine f.head && s.isMaster then lgcWrite f.head.src f.record
    else whenDo (!s.shOwn f.head) (shForward link seq f.head (.ledger f)))) s

end Sys2Proof.Machine
end

