-- ==== Sys2Proof/Machine/Mantle.lean ====
section
/-!
DEFINITION. Mantle (its chapter): the claim on PAIR_OWN_N, pairing, the beacon and the state copy of the active, divergence and
switch-over, the loss of the peer, and DOUBLE.
-/

namespace Sys2Proof.Machine

/-! ## Claims (R389 to R391, R407) -/

/-- CLAIM_WAIT in nanoseconds (R390). -/
def State.claimWait (s : State) : Nat :=
  if s.rd MT_STATUS_ROLE == rolePairing then (if s.on MT_CFG_PRIMARY then 10 ^ 6 else 20 * 10 ^ 6) else 2000

/-- The device may claim: FAULTY and DOUBLE never do (R390). -/
def State.mayClaim (s : State) : Bool :=
  s.mtOn && (s.rd MT_STATUS_ROLE == rolePairing || s.rd MT_STATUS_ROLE == roleStandby) && !s.mt.pulls

/-- Begin a claim: CLAIM_WAIT runs while the line is high (R389). -/
def startClaim : Act := withS fun s => whenDo s.mayClaim (updMt fun m => { m with claim := .wait (s.now + s.claimWait) })

/-- Send HELLO, once for each time the link has come up and a role is held (R392). -/
def sendHello : Act := withS fun s =>
  whenDo (s.mtOn && s.on MT_STATUS_LINK && !s.mt.helloSent && decide (roleActive ≤ s.rd MT_STATUS_ROLE)) (acts [
    updMt fun m => { m with helloSent := true },
    pairSend (.hello { serial := s.pair BT_SERIAL_LO BT_SERIAL_HI, primary := s.on MT_CFG_PRIMARY, side := s.on MT_CFG_SIDE,
                       profile := s.rd SYS_PROFILE_ACTIVE, pgen := s.rd MT_PGEN_PGEN, health := s.healthWord })])

/-- Both devices hold a role and a HELLO has gone each way: the devices are paired, or the pairing is refused (R392). -/
def tryPair : Act := withS fun s =>
  match s.mt.hello with
  | none => skip
  | some h =>
    let refuse (why : Nat) := acts [ledger 0x7002 .mantle warning why, updMt fun m => { m with hello := none }]
    whenDo (s.mt.helloSent && !s.on MT_STATUS_PAIRED) (
      if h.profile != s.rd SYS_PROFILE_ACTIVE then refuse 1
      else if h.side == s.on MT_CFG_SIDE then refuse 2
      else if h.primary == s.on MT_CFG_PRIMARY then refuse 3
      else acts [bump MT_PGEN_PGEN 1, wr MT_STATUS_PAIRED 1, ledger 0x7001 .mantle note h.serial])

/-- Take a role (R391). -/
def takePairRole (r : Nat) : Act := acts [wr MT_STATUS_ROLE r,
  updMt fun m => { m with stepEnd := none, background := false }, reselect, sendHello, tryPair]

/-- Become STANDBY because the peer owns the line (R389, R391). -/
def standBy : Act := withS fun s => acts [updMt fun m => { m with claim := .none, conflicts := 0 },
  whenDo (s.rd MT_STATUS_ROLE == rolePairing) (takePairRole roleStandby)]

/-- Boot step 11 starts Mantle (R387, R391). -/
def mtStart : Act := withS fun s => whenDo (s.has .mantle && !s.mt.alive) (acts [
  updMt fun m => { m with alive := true, stepEnd := some (s.now + 2 * 10 ^ 9), healthAt := s.now + 10 ^ 6 },
  wr MT_STATUS_ROLE rolePairing, wr MT_STATUS_OWNED (b2n s.mt.low),
  if s.mt.low then standBy else startClaim])

/-- `PAIR_OWN_N_LOW`: the peer pulls the line; `owning` says that it reads as owning on PAIR_ALIVE_I as well (R387, R389,
R391). -/
def execPairOwnNLow (owning : Bool) (s : State) : Host.Outcome State Fault Refusal :=
  done (acts [
    updMt fun m => { m with low := true, peerOwns := m.peerOwns || owning },
    whenDo (s.has .mantle) (wr MT_STATUS_OWNED 1),
    match s.mt.claim with
    | .wait _ | .backoff _ => whenDo s.mtOn standBy
    | .none | .confirm _ => skip]) s

/-- `OWN_LINE_RELEASED` (R407, R411): the line goes high; an eligible standby claims. In a recovery the peer's release is a second
fault, unless the divergence that began it decided so. -/
def execOwnLineReleased (s : State) : Host.Outcome State Fault Refusal :=
  done (whenDo (!s.mt.pulls) (acts [
    updMt fun m => { m with low := false, peerOwns := false, kills := 0 },
    whenDo (s.has .mantle) (wr MT_STATUS_OWNED 0),
    whenDo (s.mt.low && !s.mt.yields) (secondFault 4),
    updMt fun m => { m with yields := false },
    withS fun s => match s.mt.claim with
      | .backoff _ => skip
      | _ => startClaim])) s

/-- CLAIM_WAIT has passed: the device pulls the line and opens the confirm window (R389). -/
def claimWaitEnd : Act := withS fun s =>
  match s.mt.claim with
  | .wait till => whenDo (s.mayClaim && !s.mt.low && decide (till ≤ s.now)) (acts [
      updMt fun m => { m with pulls := true, low := true, peerOwns := false, claim := .confirm (s.now + 5000) },
      wr MT_STATUS_OWNED 1, emit (.ownLine true)])
  | _ => skip

/-- `CLAIM_WAIT_EXPIRE`. -/
def execClaimWaitExpire (s : State) : Host.Outcome State Fault Refusal := done claimWaitEnd s

/-- The back-off of conflict `k` in nanoseconds (R389). -/
def claimBackoff (serial k : Nat) : Nat :=
  let j := k % 7
  let n := if j < 6 then bits serial (10 * j + 9) (10 * j) else bits serial 63 60
  (1 + k / 7) * 10 ^ 6 + n * 1000

/-- The age in frames of the committed copy; a free value where there is none (log 2). -/
def withCopyAge (f : Nat → Act) : Act := withS fun s =>
  if s.on MT_COPY_STAT_VALID then f (s.frame - s.pair MT_COPY_FRAME_LO MT_COPY_FRAME_HI) else withFree f

/-- The line count of the Treadle whose line boundary times PAIR_SEL (R410). -/
def State.selLines (s : State) : Nat := (s.td.runs.get {} (s.rd MT_CFG_SEL_TREADLE)).lines

/-- A claim succeeds: the device becomes ACTIVE, and drives PAIR_SEL at the next line boundary or 19 µs later (R389, R407,
R410). -/
def claimDone : Act := withS fun s =>
  let promoted := s.rd MT_STATUS_ROLE == roleStandby
  acts [
    updMt fun m => { m with claim := .none, conflicts := 0, selBy := some (s.now + 19000), selLine := s.selLines },
    takePairRole roleActive, setEvent MT_EVENT_PROMOTED,
    whenDo promoted (acts [bump MT_PGEN_SWITCHES 1,
      withCopyAge fun n => ledger 0x7003 .mantle warning n, beginRecovery])]

/-- The confirm window has passed: the claim succeeds, or the peer has claimed as well (R389). -/
def confirmEnd : Act := withS fun s =>
  match s.mt.claim with
  | .confirm till => whenDo (decide (till ≤ s.now)) (
      if s.mt.peerOwns then acts [
        updMt fun m => { m with
          pulls := false, peerOwns := false, conflicts := m.conflicts + 1
          claim := .backoff (s.now + claimBackoff (s.pair BT_SERIAL_LO BT_SERIAL_HI) m.conflicts) },
        emit (.ownLine false), ledger 0x700F .mantle note s.mt.conflicts]
      else claimDone)
  | _ => skip

/-- `CONFIRM_WINDOW_EXPIRE`. -/
def execConfirmWindowExpire (s : State) : Host.Outcome State Fault Refusal := done confirmEnd s

/-- The back-off has passed: the claim starts again; with the line still low the peer owns it (R389, R391). -/
def backoffEnd : Act := withS fun s =>
  match s.mt.claim with
  | .backoff till => whenDo (decide (till ≤ s.now)) (if s.mt.low then standBy else startClaim)
  | _ => skip

/-- `CLAIM_BACKOFF_EXPIRE`. -/
def execClaimBackoffExpire (s : State) : Host.Outcome State Fault Refusal := done backoffEnd s

/-- Drive PAIR_SEL to the device's own SIDE (R386). -/
def driveSel : Act := withS fun s =>
  whenDo (s.mt.selBy.isSome && s.mt.pulls && s.rd MT_STATUS_ROLE == roleActive) (acts [
    updMt fun m => { m with selBy := none }, wr MT_STATUS_SEL 1, emit (.sel true (s.rd MT_CFG_SIDE))])

/-- `PAIR_SEL_DRIVE` (R386, R410): the line boundary has come, or 19 µs have passed. -/
def execPairSelDrive (s : State) : Host.Outcome State Fault Refusal := done driveSel s

/-! ## The pair link (R392, R394, R396, R409) -/

/-- `PAIR_LINK_CHANGE` (R396, R409, R411). -/
def execPairLinkChange (up : Bool) (s : State) : Host.Outcome State Fault Refusal :=
  done (whenDo (s.mtOn && s.on MT_STATUS_LINK != up) (
    if up then acts [wr MT_STATUS_LINK 1, setEvent MT_EVENT_LINK, ledger 0x7008 .mantle note (s.rd MT_PGEN_PGEN), sendHello]
    else acts [
      wr MT_STATUS_LINK 0, wr MT_STATUS_PAIRED 0, setEvent MT_EVENT_LINK, ledger 0x7007 .mantle warning 0,
      updMt fun m => { m with helloSent := false, hello := none, copying := none, copyFresh := true, diverged := none,
                              sigs := [], peerSigs := [], streak := [] },
      clearInbound 11,
      whenDo (s.followsPair && s.qualified 6) (loseSource 6),
      secondFault 6])) s

/-- `HELLO` (R392). -/
def execHelloFrame (_seq : Nat) (f : HelloFrame) (s : State) : Host.Outcome State Fault Refusal :=
  done (whenDo (s.mtOn && s.on MT_STATUS_LINK) (acts [
    updMt fun m => { m with hello := some f }, wr MT_PEER_HEALTH f.health, tryPair])) s

/-- The active sends PBEACON at a frame boundary, unless it is a cascade member (R394). -/
def sendPBeacon : Act := withS fun s =>
  whenDo (s.rd MT_STATUS_ROLE == roleActive && s.rd SH_STATUS_ROLE != roleMember) (pairSend (.pbeacon
    { head := { upstream := false, turned := false, both := false, src := everyDevice, dst := everyDevice, hops := 0,
                cgen := s.rd MT_PGEN_PGEN },
      tick := s.ys.tick, pos := s.ys.pos, num := s.rateNum, den := s.rateDen, acc := 0,
      rebaseTo := s.pair YS_REBASE_TO_LO YS_REBASE_TO_HI, pend := s.on YS_REBASE_PEND,
      deputyValid := false, acting := false, deputy := 0, serial := s.pair BT_SERIAL_LO BT_SERIAL_HI }))

/-- `PBEACON`: the standby follows the active as R370 follows a master, with the pair link as the arrival link (R394). -/
def execPbeacon (_seq : Nat) (f : PBeacon) (s : State) : Host.Outcome State Fault Refusal :=
  let d := f.acc + Config.pairDelay
  let tick := f.tick + d / 8
  let pos := (f.pos + d * f.num * frameUnits / (8 * max 1 f.den * 10 ^ 9)) % posMod
  done (whenDo (s.mtOn && s.on MT_STATUS_LINK && s.followsPair) (acts [
    if s.ys.tick + 1000 < tick then stepTick tick else updYs fun y => { y with tickDebt := (tick : Int) - y.tick },
    updSh fun h => { h with misses := 0 },
    referenceEvent (.beacon (BitVec.ofNat 64 pos)),
    withS fun s => whenDo (s.qualified 6) (updSh fun h => { h with lostAt := none }),
    beaconRebase f])) s

/-! ## Divergence (R398 to R400) -/

/-- `SIG`: the standby compares what it holds and keeps the rest (R398). -/
def execSigFrame (_seq : Nat) (entries : List SigEntry) (s : State) : Host.Outcome State Fault Refusal :=
  done (whenDo (s.mtOn && s.on MT_STATUS_PAIRED && s.rd MT_STATUS_ROLE == roleStandby) (forEach entries fun e =>
    withS fun s => match s.mt.sigs.find? (sameSig e) with
      | some o => acts [updMt fun m => { m with sigs := m.sigs.filter fun x => !sameSig e x }, compareSig o e]
      | none => updMt fun m => { m with peerSigs := m.peerSigs ++ [e] })) s

/-- `DIVERGE`: the active takes a snapshot of its health word and sends it (R399, R411). -/
def execDiverge (_seq : Nat) (_key : Word) (_frame : BitVec 40) (s : State) : Host.Outcome State Fault Refusal :=
  done (whenDo (s.mtOn && s.on MT_STATUS_LINK && s.rd MT_STATUS_ROLE == roleActive) (
    if s.mt.recovery.isSome then secondFault 1
    else acts [beginRecovery, updMt fun m => { m with diverged := some s.healthWord }, sendHealth true])) s

/-- Let go of the outputs and the line (R400, R413). -/
def yieldTo (r : Nat) : Act := withS fun s => acts [
  whenDo (s.on MT_STATUS_SEL) (emit (.sel false 0)), wr MT_STATUS_SEL 0,
  whenDo s.mt.pulls (emit (.ownLine false)),
  updMt fun m => { m with pulls := false, low := false, claim := .none, selBy := none, copying := none },
  wr MT_STATUS_OWNED 0, wr MT_STATUS_ROLE r, setEvent MT_EVENT_YIELDED, ledger 0x7004 .mantle warning s.healthWord,
  beginRecovery, reselect]

/-- Decide a divergence by the two health words: the larger is worse (R399). -/
def decideDivergence (own peer : Nat) : Act := withS fun s =>
  let r := s.rd MT_STATUS_ROLE
  acts [updMt fun m => { m with diverged := none, yields := r == roleStandby && decide (own < peer) },
    if own = peer then acts [setEvent MT_EVENT_EQUAL, ledger 0x7006 .mantle warning own]
    else whenDo (decide (peer < own)) (
      if r == roleActive then yieldTo roleFaulty
      else whenDo (r == roleStandby) (acts [wr MT_STATUS_ROLE roleFaulty, updMt fun m => { m with claim := .none }]))]

/-- `HEALTH`: it shows the peer's health and role, decides a divergence, and carries DOUBLE (R399, R411). The cause that the record
of a DOUBLE taken from the peer carries is a free value (log 2). -/
def execHealth (_seq : Nat) (value : Word) (diverged : Bool) (role : Fin 8) (s : State) :
    Host.Outcome State Fault Refusal :=
  done (whenDo (s.mtOn && s.on MT_STATUS_LINK) (acts [
    wr MT_PEER_HEALTH value.toNat, updMt fun m => { m with peerRole := role },
    if role.val == roleDouble then whenDo (s.rd MT_STATUS_ROLE != roleDouble) (withFree enterDouble)
    else if diverged then (match s.mt.diverged with
      | some own => decideDivergence own value.toNat
      | none => skip)
    else whenDo (decide (s.rd MT_PEER_HEALTH < value.toNat)) (secondFault 5)])) s

/-- HEALTH as it goes out every 1 ms; a rise of the own word is a second fault (R395, R411). -/
def healthTick : Act := withS fun s => acts [updMt fun m => { m with healthAt := s.now + 10 ^ 6 },
  whenDo (decide (s.mt.wordSent < s.healthWord)) (secondFault 5),
  sendHealth false]

/-- `HEALTH_SEND`. -/
def execHealthSend (s : State) : Host.Outcome State Fault Refusal := done (whenDo s.mtOn healthTick) s

/-- MT_TIMING.RECOVER in use, in seconds (R411, R415). -/
def State.recoverTime (s : State) : Nat := min 600 (max 1 (s.rd MT_TIMING_RECOVER))

/-- A recovery ends (R411). -/
def endRecovery : Act := acts [updMt fun m => { m with recovery := none }, wr MT_STATUS_RECOVERING 0]

/-- A recovery has lasted MT_TIMING.RECOVER (R411). -/
def recoveryOver : Act := withS fun s =>
  whenDo (s.mt.recovery.any fun t => decide (t + s.recoverTime * 10 ^ 9 ≤ s.now)) endRecovery

/-- `RECOVERY_END`. -/
def execRecoveryEnd (s : State) : Host.Outcome State Fault Refusal := done recoveryOver s

/-! ## Loss of the peer (R387, R408) -/

/-- Drive PAIR_KILL_O low (R408). -/
def killPulse : Act := withS fun s => acts [
  updMt fun m => { m with kills := m.kills + 1, killing := true, killAt := s.now },
  emit (.kill true), setEvent MT_EVENT_KILL, ledger 0x700A .mantle warning (s.mt.kills + 1)]

/-- The standby may kill: the peer is lost and holds the line. -/
def State.mayKill (s : State) : Bool :=
  s.mtOn && s.rd MT_STATUS_ROLE == roleStandby && s.mt.low && !s.mt.pulls && !s.on MT_STATUS_PEER_ALIVE

/-- `PEER_LOSS` (R387, R408, R411). -/
def execPeerLoss (s : State) : Host.Outcome State Fault Refusal :=
  done (whenDo s.mtOn (acts [
    wr MT_STATUS_PEER_ALIVE 0, updMt fun m => { m with peerOwns := false },
    ledger 0x7009 .mantle warning (s.rd MT_STATUS_ROLE),
    secondFault 2, withS fun s => whenDo s.mayKill killPulse])) s

/-- The kill pulse ends after 20 µs (R408). -/
def killEnd : Act := withS fun s => whenDo (s.mt.killing && decide (s.mt.killAt + 20000 ≤ s.now))
  (acts [updMt fun m => { m with killing := false }, emit (.kill false)])

/-- `KILL_PULSE_END`. -/
def execKillPulseEnd (s : State) : Host.Outcome State Fault Refusal := done killEnd s

/-- The line is still low 1 ms after the first pulse began, or 100 ms after a later one (R408). -/
def State.killDue (s : State) : Bool :=
  s.mayKill && decide (0 < s.mt.kills ∧ s.mt.killAt + (if s.mt.kills = 1 then 10 ^ 6 else 10 ^ 8) ≤ s.now)

/-- The standby repeats the pulse; in a recovery that is a second fault (R408, R411). -/
def killAgain : Act := withS fun s => whenDo s.killDue (acts [secondFault 3, withS fun s => whenDo s.mayKill killPulse])

/-- `KILL_RETRY`. -/
def execKillRetry (s : State) : Host.Outcome State Fault Refusal := done killAgain s

/-- `PEER_ALIVE_REGAINED` (R387). -/
def execPeerAliveRegained (s : State) : Host.Outcome State Fault Refusal :=
  done (whenDo s.mtOn (wr MT_STATUS_PEER_ALIVE 1)) s

/-! ## State copy (R402 to R406) -/

/-- Bytes of the hardware section, and of a half's data (R402, R403). -/
def hardwareBytes : Nat := 4096
def halfData : Nat := 0x400000
def halfStep : Nat := 0x400040

/-- The hardware section: Purse's CORR, then of each Thimble engine q0 to q13, T0, the noise register and STATE; zero to its end
(R402). -/
def State.hardware (s : State) : List Byte :=
  ((List.range 256).flatMap fun z => leBytes 2 (s.rd (PU_Z_CORR z)))
  ++ ((List.range 32).flatMap fun e =>
    ((List.range 14).flatMap fun j => leBytes 4 (s.rd (TB_Q e j)))
    ++ leBytes 8 (s.pair (TB_T0_LO e) (TB_T0_HI e)) ++ leBytes 4 (s.rd (TB_SEED e)) ++ leBytes 4 (s.rd (TB_STAT_STATE e)))
  ++ List.replicate 1280 0

/-- Region `i` in effect: its address and length, when it is enabled. -/
def State.region (s : State) (i : Nat) : Option (Nat × Nat) :=
  if s.onA (MT_REG_LEN_EN i) then some (s.pairA (MT_REG_LO i) (MT_REG_HI i), s.rdA (MT_REG_LEN_LENGTH i)) else none

/-- The data of a copy. -/
def State.copyData (s : State) : List Byte :=
  s.hardware ++ (List.range 16).flatMap fun i => match s.region i with | some (a, n) => s.bytesAt a n | none => []

/-- Send the next COPY frame: the data as they stand (R402). -/
def copyNext : Act := withS fun s =>
  let d := (s.copyData.drop s.mt.sent).take 252
  acts [pairSend (.copy { offset := s.mt.sent, data := d }),
    updMt fun m => { m with sent := m.sent + d.length, copyCrc := d.foldl crcByte m.copyCrc, copyAt := s.now + 221 }]

/-- The copy of a frame ends: what is left of it goes, COMMIT closes it, and COPIED is set (R402). -/
def copyDone : Act := withS fun s =>
  match s.mt.copying with
  | none => skip
  | some f => acts [
      forN ((s.copyData.length - s.mt.sent + 251) / 252) fun _ => copyNext,
      withS fun t => pairSend (.commit { frame := f, length := s.copyData.length, crc := t.mt.copyCrc ^^^ 0xFFFFFFFF }),
      updMt fun m => { m with copying := none, copied := some f }, setEvent MT_EVENT_COPIED,
      whenDo (s.mt.peerRole == roleStandby) endRecovery]

/-- `STATE_COPY_DONE`. -/
def execStateCopyDone (s : State) : Host.Outcome State Fault Refusal := done copyDone s

/-- The copy in one cycle: a COPY frame of 252 data bytes takes 221 ns of the pair link (R402, R405). -/
def copyRun : Act := withS fun s => whenDo (s.mt.copying.isSome && decide (s.mt.copyAt ≤ s.now))
  (if s.mt.sent < s.copyData.length then copyNext else copyDone)

/-- The staging half that the next copy goes to, and its first address (R403). -/
def State.nextHalf (s : State) : Nat := if s.on MT_COPY_STAT_VALID then 1 - s.rd MT_COPY_STAT_HALF else 0
def State.halfAt (s : State) (h : Nat) : Nat := s.pair MT_STAGE_LO MT_STAGE_HI + h * halfStep

/-- `COPY` (R403). -/
def execCopyFrame (_seq : Nat) (f : CopyFrame) (s : State) : Host.Outcome State Fault Refusal :=
  let a := s.halfAt s.nextHalf
  done (whenDo (s.mtOn && s.on MT_STATUS_LINK && s.isStandby && decide (f.offset + f.data.length ≤ halfData)) (acts [
    whenDo s.mt.copyFresh (memWriteFor .mantle (a + halfData + 0x3F) [0]),
    updMt fun m => { m with copyFresh := false },
    memWriteFor .mantle (a + f.offset) f.data])) s

/-- The commit mark without its valid byte (R403). -/
def markBytes (length frame crc pgen : Nat) : List Byte :=
  leBytes 4 0x4D54434D ++ leBytes 4 length ++ leBytes 8 frame ++ leBytes 4 crc ++ leBytes 2 pgen ++ List.replicate 41 0

/-- `PAIR_COMMIT` (R403, R411). -/
def execPairCommit (_seq : Nat) (f : CommitFrame) (s : State) : Host.Outcome State Fault Refusal :=
  let h := s.nextHalf
  let a := s.halfAt h
  done (whenDo (s.mtOn && s.on MT_STATUS_LINK && s.isStandby) (acts [
    updMt fun m => { m with copyFresh := true },
    withMemFor .mantle a (min f.length halfData) fun data bad =>
      if !bad && decide (f.length ≤ halfData) && crc32 data == f.crc then acts [
        memWriteFor .mantle (a + halfData) (markBytes f.length f.frame f.crc (s.rd MT_PGEN_PGEN)),
        memWriteFor .mantle (a + halfData + 0x3F) [0xA5],
        wr MT_COPY_STAT_VALID 1, wr MT_COPY_STAT_HALF h, wr MT_COPY_STAT_LENGTH f.length,
        wrPair MT_COPY_FRAME_LO MT_COPY_FRAME_HI f.frame,
        updMt fun m => { m with adopt := true },
        whenDo (s.rd MT_STATUS_ROLE == roleStandby) endRecovery]
      else acts [count MT_COPY_BAD 1, setEvent MT_EVENT_COPY_FAIL, ledger 0x700E .mantle warning f.frame]])) s

/-- The standby adopts the hardware section of its committed half (R404). -/
def adoptHardware : Act := withS fun s =>
  withMemFor .mantle (s.halfAt (s.rd MT_COPY_STAT_HALF)) hardwareBytes fun d _ => acts [
    forN 256 fun z => wr (PU_Z_CORR z) (leAt d (2 * z) 2),
    forN 32 fun e =>
      let o := 512 + 72 * e
      acts [forN 14 fun j => wr (TB_Q e j) (leAt d (o + 4 * j) 4),
        wrPair (TB_T0_LO e) (TB_T0_HI e) (leAt d (o + 56) 8), wr (TB_SEED e) (leAt d (o + 64) 4),
        wr (TB_STAT_STATE e) (leAt d (o + 68) 4), wr (TB_STATUS_RUNNING e) (b2n (leAt d (o + 68) 4 % 4 == 1))]]

/-- The region `n` bytes at `a` may be copied (R406). -/
def State.regionLegal (s : State) (a n : Nat) : Bool :=
  a % 64 == 0 && n != 0 && n % 64 == 0
  && (decide (a + n ≤ 0x4C00000) || decide (0x5800000 ≤ a ∧ a + n ≤ 0x6000000) || s.extRange a n)

/-- The checks of R406 on the shadowed regions. -/
def State.regionsLegal (s : State) : Bool :=
  let on := (List.range 16).filter fun i => s.on (MT_REG_LEN_EN i)
  (on.all fun i => s.regionLegal (s.pair (MT_REG_LO i) (MT_REG_HI i)) (s.rd (MT_REG_LEN_LENGTH i)))
  && decide ((on.map fun i => roundUp 64 (s.rd (MT_REG_LEN_LENGTH i))).sum ≤ 4190208)

/-- A command or commit is refused (R406, R413). -/
def mtRefuse (st : Status) : Act := acts [result MT_STATUS_RESULT st, ledger 0x7010 .mantle note st.code]

/-- Mantle's part of a frame boundary (R394, R402, R404 to R406). -/
def mtBoundary : Act := withS fun s => whenDo (s.has .mantle) (acts [
  whenDo s.mt.commit (acts [updMt fun m => { m with commit := false },
    if s.regionsLegal then acts [result MT_STATUS_RESULT .ok, applyRange 0x10310100 0x10310200] else mtRefuse .badarg]),
  whenDo (s.mt.adopt && s.isStandby) adoptHardware,
  updMt fun m => { m with adopt := false, sigs := m.sigs.filter fun e => decide ((s.frame - e.frame) % 2 ^ 32 < 3),
                          peerSigs := m.peerSigs.filter fun e => decide ((s.frame - e.frame) % 2 ^ 32 < 3) },
  sendPBeacon,
  whenDo (s.rd MT_STATUS_ROLE == roleActive && s.on MT_STATUS_PAIRED) (acts [
    match s.mt.copying with
    | some f => acts [count MT_COPY_LATE 1, setEvent MT_EVENT_COPY_FAIL, ledger 0x700D .mantle warning f]
    | none => skip,
    updMt fun m => { m with copying := some s.frame, sent := 0, copyCrc := 0xFFFFFFFF, copyAt := s.now }])])

/-- A write of MT_COMMIT (R406). -/
def mtCommitWrite (v : Nat) : Act := whenDo (bit v 0) (updMt fun m => { m with commit := true })

/-- `MT_COMMIT`. A disabled Mantle takes no write (R3). -/
def execMtCommit (_w : Requester) (v : Word) (s : State) : Host.Outcome State Fault Refusal :=
  done (whenDo (s.has .mantle) (mtCommitWrite (v.toNat ||| 1))) s

/-! ## Commands (R400, R412, R413) -/

/-- CLEAR ends FAULTY or DOUBLE (R400, R412). -/
def mtClear : Act := withS fun s =>
  let r := s.rd MT_STATUS_ROLE
  let go (n : Nat) := acts [wr MT_STATUS_ROLE n, result MT_STATUS_RESULT .ok,
    ledger 0x700C .mantle note n, reselect, sendHello, tryPair]
  if r == roleFaulty then go roleStandby
  else if r == roleDouble then go (if s.mt.pulls then roleActive else roleStandby)
  else mtRefuse .state

/-- YIELD hands the outputs over (R413). -/
def mtYield : Act := withS fun s =>
  let fresh := match s.mt.copied with | some f => decide (s.frame ≤ f + 1) | none => false
  if s.rd MT_STATUS_ROLE == roleActive && s.on MT_STATUS_PAIRED && s.mt.peerRole == roleStandby && fresh then
    acts [result MT_STATUS_RESULT .ok, yieldTo roleStandby]
  else mtRefuse .state

/-- A write of MT_CTRL. -/
def mtCtrlWrite (v : Nat) : Act := acts [whenDo (bit v 31) mtClear, whenDo (bit v 30) mtYield]

/-- `MT_CLEAR`: a write of MT_CTRL with CLEAR set. -/
def execMtClear (_w : Requester) (v : Word) (s : State) : Host.Outcome State Fault Refusal :=
  done (whenDo (s.has .mantle) (mtCtrlWrite (v ||| 0x80000000#32).toNat)) s

/-- `MT_YIELD`: a write of MT_CTRL with YIELD set. -/
def execMtYield (_w : Requester) (v : Word) (s : State) : Host.Outcome State Fault Refusal :=
  done (whenDo (s.has .mantle) (mtCtrlWrite (v ||| 0x40000000#32).toNat)) s

/-! ## Time (R387, R389, R395, R402, R408, R410, R411) -/

/-- PAIR_ALIVE_O: its half-period is 500 ns while the device owns the line and 1,000 ns otherwise (R387). -/
def aliveEdge : Act := withS fun s => whenDo (decide (s.mt.aliveAt ≤ s.now))
  (updMt fun m => { m with aliveOut := !m.aliveOut, aliveAt := s.now + (if m.pulls then 500 else 1000) })

/-- PAIR_SEL is driven at the line boundary, or 19 µs after the confirm window (R410). -/
def selDue : Act := withS fun s =>
  whenDo ((s.mt.selBy.any fun t => decide (t ≤ s.now)) || s.selLines != s.mt.selLine) driveSel

/-- What Mantle does in its own time. -/
def mantleRun : Act := withS fun s => whenDo s.mtOn (acts [
  aliveEdge, claimWaitEnd, confirmEnd, backoffEnd, selDue,
  whenDo (decide (s.mt.healthAt ≤ s.now)) healthTick, recoveryOver, killEnd, killAgain, copyRun])

end Sys2Proof.Machine
end

