-- ==== Sys2Proof/Machine/Pixel.lean ====
section
/-!
DEFINITION. The exact pixel arithmetic that Draper, Tailor and Lamplighter share (R98 to R104, R124, R126), as pure
functions of numbers.
-/

namespace Sys2Proof.Machine

/-- Three 16-bit colour channels. -/
structure Rgb where
  r : Nat
  g : Nat
  b : Nat
  deriving DecidableEq, Repr

/-- Four 16-bit channels. -/
structure Rgba where
  r : Nat
  g : Nat
  b : Nat
  a : Nat
  deriving DecidableEq, Repr

def black : Rgb := ⟨0, 0, 0⟩
/-- Apply a function to each channel. -/
def Rgb.map (f : Nat → Nat) (p : Rgb) : Rgb := ⟨f p.r, f p.g, f p.b⟩
/-- The colour of a sample. -/
def Rgba.rgb (p : Rgba) : Rgb := ⟨p.r, p.g, p.b⟩
/-- A channel by number. -/
def Rgb.ch (p : Rgb) : Nat → Nat | 0 => p.r | 1 => p.g | _ => p.b

/-- Division by 65,535, rounded to the nearest (R100). -/
def dv (x : Nat) : Nat := (x + 32767) / 65535

/-- Bytes of a source pixel (R90). -/
def pixelBytes : Nat → Nat | 0 => 2 | 1 => 3 | _ => 4

/-- Bit replication to 16 bits (R98). -/
def rep5 (v : Nat) : Nat := v * 2048 + v * 64 + v * 2 + v / 16
def rep6 (v : Nat) : Nat := v * 1024 + v * 16 + v / 4
def rep8 (v : Nat) : Nat := v * 256 + v
def rep10 (v : Nat) : Nat := v * 64 + v / 16

/-- A source pixel expanded to four 16-bit channels (R98). -/
def expand (format v : Nat) : Rgba :=
  match format with
  | 0 => ⟨rep5 (bits v 15 11), rep6 (bits v 10 5), rep5 (bits v 4 0), 65535⟩
  | 1 => ⟨rep8 (bits v 23 16), rep8 (bits v 15 8), rep8 (bits v 7 0), 65535⟩
  | 2 => ⟨rep8 (bits v 23 16), rep8 (bits v 15 8), rep8 (bits v 7 0), rep8 (bits v 31 24)⟩
  | _ => ⟨rep10 (bits v 29 20), rep10 (bits v 19 10), rep10 (bits v 9 0), bits v 31 30 * 0x5555⟩

/-- Clamp a sample index to the `size` columns or rows from `org` on. -/
def clampIdx (org size : Nat) (i : Int) : Nat := (clampInt org ((org : Int) + size - 1) i).toNat

/-- The two sample indices and the phase along one axis (R101). -/
def axis (i step org size : Nat) : Nat × Nat × Nat :=
  let u : Int := (2 * i + 1) * step - 65536
  let x0 := org + u / 2 ^ 17
  (clampIdx org size x0, clampIdx org size (x0 + 1), (u / 32 % 4096).toNat)

/-- The same for supersample `k` along x (R102). -/
def axisSs (i k step org size : Nat) : Nat × Nat × Nat :=
  let u : Int := (4 * i + 1 + 2 * k) * step - 131072
  let x0 := org + u / 2 ^ 18
  (clampIdx org size x0, clampIdx org size (x0 + 1), (u / 64 % 4096).toNat)

/-- Bilinear interpolation of one channel (R101). -/
def bilinear (p00 p10 p01 p11 px py : Nat) : Nat :=
  let top := p00 * (4096 - px) + p10 * px
  let bot := p01 * (4096 - px) + p11 * px
  (top * (4096 - py) + bot * py + 8388608) / 2 ^ 24

/-- Bilinear interpolation of a pixel. -/
def bilinearPx (p00 p10 p01 p11 : Rgba) (px py : Nat) : Rgba :=
  ⟨bilinear p00.r p10.r p01.r p11.r px py, bilinear p00.g p10.g p01.g p11.g px py,
   bilinear p00.b p10.b p01.b p11.b px py, bilinear p00.a p10.a p01.a p11.a px py⟩

/-- The mean of two supersamples (R99). -/
def meanPx (p q : Rgba) : Rgba :=
  ⟨(p.r + q.r + 1) / 2, (p.g + q.g + 1) / 2, (p.b + q.b + 1) / 2, (p.a + q.a + 1) / 2⟩

/-- One row of a colour matrix with `frac` fraction bits, rounded half up and clamped (R103, R124). -/
def matrixRow (frac : Nat) (k : List Int) (off : Int) (p : Rgb) : Nat :=
  let t := k.getD 0 0 * p.r + k.getD 1 0 * p.g + k.getD 2 0 * p.b + off * 2 ^ frac
  (clampInt 0 65535 ((t + 2 ^ (frac - 1)) / 2 ^ frac)).toNat

/-- A colour matrix of nine coefficients in row order and three offsets. -/
def matrix (frac : Nat) (k offs : List Int) (p : Rgb) : Rgb :=
  ⟨matrixRow frac k (offs.getD 0 0) p, matrixRow frac (k.drop 3) (offs.getD 1 0) p,
   matrixRow frac (k.drop 6) (offs.getD 2 0) p⟩

/-- Blend one channel (R104). -/
def blend (mode acc c a : Nat) : Nat :=
  match mode with
  | 0 => dv (c * a + acc * (65535 - a))
  | 1 => min 65535 (acc + dv (c * a))
  | 2 => dv (dv (c * acc) * a + acc * (65535 - a))
  | _ => c

/-- Blend a pixel. -/
def blendPx (mode : Nat) (acc c : Rgb) (a : Nat) : Rgb :=
  ⟨blend mode acc.r c.r a, blend mode acc.g c.g a, blend mode acc.b c.b a⟩

/-- The ordered-dither table (R126). -/
def bayer (row col : Nat) : Nat :=
  ([0, 8, 2, 10, 12, 4, 14, 6, 3, 11, 1, 9, 15, 7, 13, 5].getD (row % 4 * 4 + col % 4)) 0

/-- Dither 16 bits to `depth` (R126). -/
def dither (on : Bool) (depth x y frame v : Nat) : Nat :=
  let s := 16 - depth
  if s = 0 then v
  else
    let t := if on then bayer (y + frame / 4 % 4) (x + frame % 4) * 2 ^ s / 16 else 2 ^ (s - 1)
    min (2 ^ depth - 1) ((v + t) / 2 ^ s)

end Sys2Proof.Machine
end

