-- ==== Sys2Proof/Machine/Draper.lean ====
section
/-!
DEFINITION. Draper (its chapter): canvases and their geometry commits, command lists, adoption, admission, the ends of
compositions, fences and releases, and the ingest streams' registers. The pixel work of a composition stands in
`Compose`.
-/

namespace Sys2Proof.Machine

/-! ## Canvases (R83 to R85) -/

/-- Canvas `c` is enabled under the geometry in effect (R83). -/
def State.canvasOn (s : State) (c : Nat) : Bool :=
  decide (0 < s.rdA (DR_CAN_SIZE_WIDTH c) ∧ 0 < s.rdA (DR_CAN_SIZE_HEIGHT c))
/-- Width and height in effect. -/
def State.canW (s : State) (c : Nat) : Nat := s.rdA (DR_CAN_SIZE_WIDTH c)
def State.canH (s : State) (c : Nat) : Nat := s.rdA (DR_CAN_SIZE_HEIGHT c)
/-- The front half of canvas `c` (R117). -/
def State.frontHalf (s : State) (c : Nat) : Nat := s.rd (TL_FRONT_HALF c)
/-- The address of canvas pixel (x, y) in a Bolt half (R83). -/
def State.boltAddr (s : State) (half c x y : Nat) : Nat :=
  half * 0x1800000 + s.rdA (DR_CAN_BASE c) + 6 * (y * s.canW c + x)

/-- The checks of a geometry commit, on the shadows (R84). DESIGN CHOICE (log 145): a canvas with both sizes zero extends beyond the half when its
BASE alone does. -/
def State.geometryLegal (s : State) : Bool :=
  let w c := s.rd (DR_CAN_SIZE_WIDTH c); let h c := s.rd (DR_CAN_SIZE_HEIGHT c); let b c := s.rd (DR_CAN_BASE c)
  let on c := decide (0 < w c ∧ 0 < h c)
  (List.range 4).all (fun c => decide ((w c = 0 ↔ h c = 0) ∧ w c ≤ 16384 ∧ h c ≤ 16384 ∧ b c % 64 = 0
      ∧ b c + 6 * (w c * h c) ≤ 0x1800000)
    && (List.range 4).all fun d => c == d || !on c || !on d
      || decide (b c + 6 * (w c * h c) ≤ b d ∨ b d + 6 * (w d * h d) ≤ b c))
  && decide (w 0 * h 0 + w 1 * h 1 + w 2 * h 2 + w 3 * h 3 ≤ 4194304)

/-- `DR_COMMIT` (R84): a commit waits for the next frame boundary. -/
def execDrCommit (_w : Requester) (v : Word) (s : State) : Host.Outcome State Fault Refusal :=
  done (whenDo (s.has .draper && bit v.toNat 0) (wr DR_STATUS_PENDING 1)) s

/-! ## Status registers -/

/-- The phase of canvas `c`'s composition, as DR_CANc_STAT shows it. -/
def State.compState (s : State) (c : Nat) : Nat :=
  match s.dr.order.find? fun k => k.canvas == c && k.phase != .draining with
  | some k => if k.phase == .running then 2 else 1
  | none => 0

/-- Bring DR_STATUS and the STATE fields up to date. -/
def drRefresh : Act := acts [
  forN 4 fun c => withS fun s => wr (DR_CAN_STAT_STATE c) (s.compState c),
  withS fun s =>
    let q c := b2n (s.compState c == 1)
    acts [wr DR_STATUS_QUEUED (q 0 + 2 * q 1 + 4 * q 2 + 8 * q 3),
      match s.dr.order.find? (·.phase == .running) with
      | some k => acts [wr DR_STATUS_RUNNING 1, wr DR_STATUS_ACTIVE k.canvas]
      | none => wr DR_STATUS_RUNNING 0]]

/-- The payload of Draper's records (R115). -/
def drPayload (c n : Nat) : Nat := c * 2 ^ 24 + n % 2 ^ 24

/-! ## COMPOSE (R94) -/

/-- A COMPOSE event for canvas `c` at position `p`. -/
def composeEvent (c p : Nat) : Act := withS fun s =>
  let f := (p / frameUnits + 1) % 2 ^ 40
  if !s.has .draper then skip
  else if s.compState c != 0 then acts [count DR_DUP 1, setEvent DR_EVENT_DUP,
    ledger 0x2007 .draper note (drPayload c f)]
  else if !s.canvasOn c || s.on DR_CTRL_PAUSE || s.held then skip
  else acts [updDr fun d => { d with order := d.order ++ [{ canvas := c, frame := f }] }, drRefresh]

/-! ## Command lists (R89, R90, R92) -/

/-- A signed 16-bit field. -/
def s16 (bs : List Byte) (off : Nat) : Int := signedOf 16 (leAt bs off 2)

/-- The descriptor that 64 bytes hold (R90). -/
def parseLayer (bs : List Byte) : Layer :=
  let w0 := leAt bs 0 8; let w8 := leAt bs 8 4
  { buf := bits w0 39 0, stride := bits w0 52 40, slot := bits w8 31 28, format := bits w8 27 24,
    blend := bits w8 23 20, ss := bit w8 19, matrixEn := bit w8 18, source := bits w8 17 16, stream := bits w8 15 14,
    opacity := leAt bs 0x0C 2, srcX := leAt bs 0x10 2, srcY := leAt bs 0x12 2, srcW := leAt bs 0x14 2,
    srcH := leAt bs 0x16 2, dstX := s16 bs 0x18, dstY := s16 bs 0x1A, dstW := leAt bs 0x1C 2, dstH := leAt bs 0x1E 2,
    stepX := leAt bs 0x20 3, stepY := leAt bs 0x24 3,
    coefs := (List.range 9).map fun i => s16 bs (0x28 + 2 * i),
    offs := (List.range 3).map fun i => s16 bs (0x3A + 2 * i) }

/-- The reserved fields of a descriptor are zero. -/
def layerReserved (bs : List Byte) : Bool :=
  decide (bits (leAt bs 0 8) 63 53 = 0 ∧ bits (leAt bs 8 4) 13 0 = 0 ∧ leAt bs 0x0E 2 = 0 ∧ leAt bs 0x23 1 = 0
    ∧ leAt bs 0x27 1 = 0)
/-- The reserved fields of a list header are zero. -/
def headerReserved (bs : List Byte) : Bool :=
  decide (leAt bs 4 4 / 2 = 0 ∧ leAt bs 0x0E 2 = 0
    ∧ leAt bs 0x10 4 = bits (leAt bs 0x10 4) 18 16 * 2 ^ 16 + bits (leAt bs 0x10 4) 13 8 * 2 ^ 8
        + bits (leAt bs 0x10 4) 3 0)
  && (bs.drop 0x18).all (· == 0)

/-- A layer's fields are in range (the BADARG row of R92). -/
def layerRange (l : Layer) : Bool :=
  decide (l.blend ≤ 3 ∧ l.source ≤ 1 ∧ 0x1000 ≤ l.stepX ∧ l.stepX ≤ 0x100000 ∧ 0x1000 ≤ l.stepY ∧ l.stepY ≤ 0x100000)
  && decide (l.srcX ≤ 16383 ∧ l.srcY ≤ 16383 ∧ 1 ≤ l.srcW ∧ l.srcW ≤ 16384 ∧ 1 ≤ l.srcH ∧ l.srcH ≤ 16384)
  && decide (1 ≤ l.dstW ∧ l.dstW ≤ 16384 ∧ 1 ≤ l.dstH ∧ l.dstH ≤ 16384)

/-- First byte of a memory layer's cropped rectangle and the address after its last byte (R90). -/
def Layer.span (l : Layer) : Nat × Nat :=
  let b := pixelBytes l.format
  (l.buf + l.srcY * (l.stride * 16) + l.srcX * b,
   l.buf + (l.srcY + l.srcH - 1) * (l.stride * 16) + (l.srcX + l.srcW) * b)

/-- A memory layer's source lies in its rows and in usable external memory (R92). DESIGN CHOICE (log 145): STRIDE16 and the alignment of BUF_ADDR,
which an ingest layer does not use, are checked of memory layers only. -/
def State.sourceLegal (s : State) (l : Layer) : Bool :=
  l.source != 0 || (decide (1 ≤ l.stride ∧ l.stride ≤ 4096 ∧ l.buf % 16 = 0
      ∧ (l.srcX + l.srcW) * pixelBytes l.format ≤ l.stride * 16)
    && decide (extBase ≤ l.span.1 ∧ l.span.2 ≤ extBase + s.extSize))

/-- The check of an ingest layer (R92). -/
def State.ingestCheck (s : State) (l : Layer) : Option Status :=
  if l.source = 0 then none
  else if !s.on (DR_ING_CFG_ENABLE l.stream) then some .absent
  else if s.rd (DR_ING_GEOM_WIDTH l.stream) < l.srcX + l.srcW ∨ s.rd (DR_ING_GEOM_HEIGHT l.stream) < l.srcY + l.srcH
    then some .badarg
  else none

/-- Insert a layer in slot order. -/
def insertLayer (l : Layer) : List Layer → List Layer
  | [] => [l]
  | m :: ms => if l.slot < m.slot then l :: m :: ms else m :: insertLayer l ms

/-- Validate the list whose header and descriptors are `bs`, poisoned or not; the first check that fails gives the
status (R92). -/
def State.validate (s : State) (bs : List Byte) (poison : Bool) : Status × Option DrList :=
  let hdr := leAt bs 0 4
  let n := bits hdr 7 0
  let descs := (List.range (min n 16)).map fun i => (bs.drop (64 + 64 * i)).take 64
  let ls := descs.map parseLayer
  let sig := leAt bs 0x10 4
  let notify := bit (leAt bs 4 4) 0
  if poison then (.corrupt, none)
  else if bits hdr 31 16 ≠ 0x4452 ∨ bits hdr 15 8 ≠ 1 then (.format, none)
  else if ls.any fun l => decide (3 < l.format) || (l.source == 1 && l.format != 3) then (.format, none)
  else if 16 < n ∨ !(ls.map (·.slot)).Nodup ∨ !ls.all layerRange ∨ !headerReserved (bs.take 64)
      ∨ !descs.all layerReserved then (.badarg, none)
  else if !ls.all s.sourceLegal then (.badarg, none)
  else match ls.findSome? s.ingestCheck with
    | some st => (st, none)
    | none =>
      if notify && !s.coreOn (bits sig 18 16) then (.absent, none)
      else (.ok, some { notify := notify, background := leAt bs 8 6, signal := sig, tag := leAt bs 0x14 4,
                        layers := ls.foldr insertLayer [] })

/-- Read a list: its header, then the descriptors that COUNT names. A list that is not 64-byte aligned in external
memory is refused with BADARG (log 12). -/
def withList (a : Nat) (f : Option (List Byte × Bool) → Act) : Act := withS fun s =>
  if a % 64 ≠ 0 ∨ !s.extRange a 64 then f none
  else withMem a 64 fun h hp =>
    let n := min 16 (bits (leAt h 0 4) 7 0)
    if !s.extRange a (64 + 64 * n) then f none
    else withMem (a + 64) (64 * n) fun d dp => f (some (h ++ d, hp || dp))

/-! ## Adoption (R91) -/

def flagSuperseded : Nat := 2 ^ 16
def flagLate : Nat := 2 ^ 17
def flagPoison : Nat := 2 ^ 18
def flagCut : Nat := 2 ^ 19

/-- Complete a ring entry with a stamp of its own. -/
def drCompleteNow (a f tag flags : Nat) (st : Status) : Act := ringCompletion .draper a true f tag flags st

/-- The TAG of the list at `a`; a list that cannot be read delivers a free value (log 2). -/
def withTag (a : Nat) (k : Nat → Act) : Act := withList a fun r =>
  match r with
  | some (bs, false) => k (leAt bs 0x14 4)
  | _ => withFree fun n => k (n % 2 ^ 32)

/-- Refuse a list: its completion at once, the event and the record (R92). -/
def refuseList (c a f tag : Nat) (st : Status) : Act := acts [
  drCompleteNow a f tag 0 st, setEvent DR_EVENT_REFUSED, ledger 0x2001 .draper warning (drPayload c st.code)]

/-- Examine the entries of canvas `c` from HEAD on, at most `fuel` of them; `last` is the last one taken that is not
poisoned, with its LIST. Each entry taken before it completes SUPERSEDED. -/
def adoptScan (c f : Nat) : Nat → Option (Nat × Nat) → (Option (Nat × Nat) → Act) → Act
  | 0, last, k => k last
  | fuel + 1, last, k => withS fun s =>
    let b := ringBase (.engine ⟨c % 4, by omega⟩)
    if s.ringCount b = 0 then k last
    else
      let a := s.ringEntry b (s.rd (RING_HEAD b))
      withMem a 32 fun bs poison =>
        if poison then acts [bump (RING_HEAD b) 1, count DR_POISON 1,
          withFree fun n => refuseList c a f (n % 2 ^ 32) .corrupt, adoptScan c f fuel last k]
        else if !bit (leAt bs 0x10 4) 0 ∧ f < bits (leAt bs 8 8) 39 0 then k last
        else acts [bump (RING_HEAD b) 1,
          match last with
          | some (a', l') => withTag l' fun t => drCompleteNow a' f t flagSuperseded .ok
          | none => skip,
          adoptScan c f fuel (some (a, bits (leAt bs 0 8) 39 0)) k]

/-- Adopt a list for the composition of frame `f`; the entry whose list was adopted is handed on. DESIGN CHOICE (log 145): a ring whose ENABLE is
0 has no entry examined. -/
def adopt (c f : Nat) (k : Option Nat → Act) : Act := withS fun s =>
  let b := ringBase (.engine ⟨c % 4, by omega⟩)
  if !s.on (RING_CTRL_ENABLE b) then k none
  else adoptScan c f (s.ringCount b) none fun last =>
    match last with
    | none => k none
    | some (a, l) => withList l fun r => withS fun s =>
      match r with
      | none => acts [wr (DR_CAN_STAT_LAST_RESULT c) Status.badarg.code,
          withFree fun n => refuseList c a f (n % 2 ^ 32) .badarg, k none]
      | some (bs, poison) => match s.validate bs poison with
        | (st, some d) => acts [wr (DR_CAN_STAT_LAST_RESULT c) st.code, wr (DR_CAN_STAT_ADOPTED c) 1,
            wr (DR_CAN_TAG c) d.tag, updDr fun x => { x with adopted := x.adopted.set none c (some d) }, k (some a)]
        | (st, none) => acts [wr (DR_CAN_STAT_LAST_RESULT c) st.code,
            if poison then withFree fun n => refuseList c a f (n % 2 ^ 32) st
            else refuseList c a f (leAt bs 0x14 4) st, k none]

/-! ## Beginning a composition (R94, R96, R111, R113) -/

/-- The value published for a target while it is driven (R183). -/
def State.target (s : State) (k : Nat) : Option Int :=
  if s.tb.leaving.contains k ∧ s.tb.latchAt < s.now then none else (s.tb.targets.get none k).map (signedOf 32)

/-- The row pitch of an ingest stream's buffers (R109). -/
def State.ingStride (s : State) (t : Nat) : Nat := roundUp 64 (s.rd (DR_ING_GEOM_WIDTH t) * 4)
/-- First byte of buffer `n` of stream `t` (R109). -/
def State.ingBuf (s : State) (t n : Nat) : Nat :=
  s.pair (DR_ING_BASE_LO t) (DR_ING_BASE_HI t) + n * s.ingStride t * s.rd (DR_ING_GEOM_HEIGHT t)

/-- A layer with its modulation and source as they stand when the composition begins (R111, R113). -/
def State.layerRun (s : State) (c : Nat) (l : Layer) : LayerRun :=
  let k := 16 * c + l.slot
  { layer := l,
    modOp := match s.target k with | some v => (clampInt 0 65535 v).toNat | none => 65535,
    dx := l.dstX + ((s.target (0x40 + k)).getD 0) / 2 ^ 16,
    dy := l.dstY + ((s.target (0x80 + k)).getD 0) / 2 ^ 16,
    from_ := if l.source = 0 then some (l.buf, l.stride * 16)
      else if s.on (DR_ING_STAT_NEWEST_VALID l.stream)
        then some (s.ingBuf l.stream (s.rd (DR_ING_STAT_NEWEST l.stream)), s.ingStride l.stream)
      else none }

/-- The destination area of a layer clipped to the canvas (R96, R99). -/
def clipped (org : Int) (n size : Nat) : Nat := (min (size : Int) (org + n) - max 0 org).toNat
def State.layerArea (s : State) (c : Nat) (l : LayerRun) : Nat :=
  clipped l.dx l.layer.dstW (s.canW c) * clipped l.dy l.layer.dstH (s.canH c)

/-- Supersampling is in effect (R102). -/
def State.ssOn (s : State) (l : Layer) : Bool := l.ss && s.rd SYS_PROFILE_ACTIVE == 2

/-- The time in ns of a composition with these layers: their clipped pixels times the samples of each, at 9.6 samples per ns (R95). -/
def State.compTime (s : State) (c : Nat) (layers : List LayerRun) : Nat :=
  ((layers.map fun l => s.layerArea c l * if s.ssOn l.layer then 2 else 1).sum * 5 + 47) / 48

/-- Admit layers in slot order within `room`: the admitted layers, their cost, and the first slot that does not fit
(R96). -/
def State.fitting (s : State) (c : Nat) : Nat → List LayerRun → List LayerRun × Nat × Option Nat
  | _, [] => ([], 0, none)
  | room, l :: ls =>
    let area := s.layerArea c l
    if area = 0 then s.fitting c room ls
    else
      let cost := max (l.layer.srcW * l.layer.srcH) area
      if room < cost then ([], 0, some l.layer.slot)
      else
        let (r, n, x) := s.fitting c (room - cost) ls
        (l :: r, cost + n, x)

/-- The budget left for canvas `c`: the limit less the admitted costs of the other canvases (R96). -/
def State.budgetRoom (s : State) (c : Nat) : Nat :=
  s.rd DR_BUDGET_LIMIT - ((List.range 4).filter (· ≠ c)).foldl (fun n d => n + s.rd (DR_CAN_COST d)) 0

/-- Bring DR_BUDGET_USED up to date. -/
def budgetUsed : Act := withS fun s =>
  wr DR_BUDGET_USED (s.rd (DR_CAN_COST 0) + s.rd (DR_CAN_COST 1) + s.rd (DR_CAN_COST 2) + s.rd (DR_CAN_COST 3))

/-- The ingest layers of a composition take the newest buffer of stream `t` and hold it (R111). A buffer that the canvas's previous composition
used is repeated, once for a composition; `used` is what this composition used of the stream. -/
def holdIngest (c t : Nat) (layers : List LayerRun) : Act := withS fun s =>
  let takes := layers.any fun l => l.layer.source == 1 && l.layer.stream == t && l.from_.isSome
  let picture := if takes then some (s.rd (DR_ING_STAT_PICTURES t)) else none
  acts [
    whenDo takes (acts [
      whenDo (s.dr.used.get none (c * 4 + t) == picture) (count (DR_ING_REPEAT t) 1),
      wr (DR_ING_STAT_HELD t) (s.rd (DR_ING_STAT_NEWEST t)), wr (DR_ING_STAT_HELD_VALID t) 1,
      updDr fun d => { d with taken := d.taken.set false t true }]),
    updDr fun d => { d with used := d.used.set none (c * 4 + t) picture }]

/-- Replace canvas `c`'s composition. -/
def updComp (c : Nat) (f : Comp → Comp) : Act :=
  updDr fun d => { d with order := d.order.map fun k => if k.canvas == c then f k else k }

/-- Begin the composition of canvas `c`: it is the first in line and nothing runs or still reads (R94, R97). -/
def compositionStart (c : Nat) : Act := withS fun s =>
  match s.dr.order with
  | [] => skip
  | k :: _ => whenDo (k.canvas == c && k.phase == .queued && s.has .draper) (acts [
      updDr fun d => { d with written := d.written.set none c none },
      updComp c fun x => { x with phase := .running },
      adopt c k.frame fun entry => withS fun s =>
        let list := s.dr.adopted.get none c
        let runs := ((list.map (·.layers)).getD []).map (s.layerRun c)
        let (layers, cost, skipped) := s.fitting c (s.budgetRoom c) runs
        acts [
          updComp c fun x => { x with
            entry := entry, list := list, layers := layers, cut := skipped.isSome, endsAt := s.now + s.compTime c layers },
          forN 4 fun t => holdIngest c t layers,
          updDr fun d => { d with watch := (layers.filter (·.layer.source == 0)).map (fun l =>
            (c, l.layer.span.1, l.layer.span.2)) },
          wr (DR_CAN_COST c) cost, budgetUsed, wr (DR_CAN_STAT_LAYERS c) layers.length,
          wr (DR_CAN_STAT_CUT c) (b2n skipped.isSome),
          match skipped with
          | some n => acts [setEvent DR_EVENT_CUT, ledger 0x2003 .draper warning (drPayload c n)]
          | none => skip],
      drRefresh])

/-- `COMPOSITION_START` (R94). -/
def execCompositionStart (canvas : Fin 4) (s : State) : Host.Outcome State Fault Refusal :=
  done (compositionStart canvas) s

/-! ## Fences and releases (R106, R107) -/

/-- An adopted list, or the list of a composition, names the buffer address (R107). -/
def listNames (a : Nat) (l : Option DrList) : Bool :=
  match l with | some d => d.layers.any fun x => x.source == 0 && x.buf == a | none => false
def State.bufNamed (s : State) (a : Nat) : Bool :=
  (List.range 4).any (fun c => listNames a (s.dr.adopted.get none c)) || s.dr.order.any fun k => listNames a k.list

/-- Bring REL_DONE and REL_HELD up to date; fence 8 wakes its waiters when it advances. -/
def releaseFence : Act := withS fun s =>
  let n := match s.dr.held with | [] => s.rd DR_REL_SEQ | (r, _) :: _ => (r + 2 ^ 32 - 1) % 2 ^ 32
  acts [wr DR_REL_HELD s.dr.held.length,
    whenDo (n != s.rd DR_REL_DONE) (acts [wr DR_REL_DONE n, fenceWake 0 8])]

/-- Complete the held releases whose buffers nothing names any more. -/
def checkReleases : Act := withS fun s =>
  acts [updDr fun d => { d with held := d.held.filter (fun x => s.bufNamed x.2) }, releaseFence]

/-- The answer to RELEASE of address `a` (R107). -/
def State.releaseStatus (s : State) (a : Nat) : Status :=
  if !s.has .draper then .absent
  else if a % 16 ≠ 0 then .badarg
  else if !s.bufNamed a then .ok
  else if 32 ≤ s.dr.held.length then .full
  else .fenced

/-- RELEASE of address `a`: what it leaves, beside the answer (R107). -/
def drRelease (a : Nat) : Act := withS fun s =>
  match s.releaseStatus a with
  | .ok => acts [bump DR_REL_SEQ 1, releaseFence]
  | .fenced => acts [bump DR_REL_SEQ 1, count DR_FENCED_REL 1,
      withS fun s => updDr fun d => { d with held := d.held ++ [(s.rd DR_REL_SEQ, a)] }, releaseFence]
  | _ => skip

/-- READ of canvas `c` reaches frame `f`: held ingest buffers are let go and releases decided (R106, R107, R111). -/
def readRetires (k : Comp) : Act := acts [
  wr (DR_CAN_READ k.canvas) k.frame, fenceWake 0 (4 + k.canvas),
  forEach (k.layers.filter (·.layer.source == 1)) fun l => wr (DR_ING_STAT_HELD_VALID l.layer.stream) 0,
  updDr fun d => { d with order := d.order.filter fun x => x.canvas != k.canvas || x.frame != k.frame },
  checkReleases]

/-- The completion of a composition: the entry's completion when it adopted one, the stamp registers (R106). -/
def compCompletion (k : Comp) (flags : Nat) (st : Status) : Act := withStamp fun t => acts [
  match k.entry, k.list with
  | some a, some d => completionAt .draper a (some t) k.frame d.tag (flags + b2n k.cut * flagCut) st
  | _, _ => skip,
  wrPair (DR_CAN_TICK_LO k.canvas) (DR_CAN_TICK_HI k.canvas) t.tick, wr (DR_CAN_SEQ k.canvas) t.seq]

/-- DONE reaches the frame, and then the signal of the adopted list is set when it asks for one (R106). -/
def compDone (k : Comp) : Act := acts [
  wr (DR_CAN_DONE k.canvas) k.frame, fenceWake 0 k.canvas,
  match k.list with
  | some d => whenDo d.notify
      (pushWake (bits d.signal 18 16) (.signal (bits d.signal 13 8) (2 ^ bits d.signal 3 0)) .source)
  | none => skip]

/-- Abandon canvas `c`'s composition (R85, R97). One that has begun still waits for its reads; READ and DONE advance
when they have returned, at once for one that never began. -/
def abandon (c flags : Nat) (st : Status) : Act := withS fun s =>
  match s.dr.order.find? fun k => k.canvas == c && k.phase != .draining with
  | none => skip
  | some k => acts [
      updDr fun d => { d with written := d.written.set none c none, watch := d.watch.filter fun w => w.1 != c },
      wr (DR_CAN_SLACK c) 0x80000000, compCompletion k flags st,
      if k.phase == .running then updComp c fun x => { x with phase := .draining, endsAt := s.now + 2000 }
      else acts [readRetires k, compDone k],
      drRefresh]

/-- The abandoned composition of the canvas has stopped (R97). -/
def readsBack (c : Nat) : Act := withS fun s =>
  match s.dr.order.find? fun k => k.canvas == c && k.phase == .draining with
  | some k => acts [readRetires k, compDone k, drRefresh]
  | none => skip

/-- `READS_RETURNED`. -/
def execReadsReturned (canvas : Fin 4) (s : State) : Host.Outcome State Fault Refusal := done (readsBack canvas) s

/-! ## Frame boundary: Draper's part (R84, R85, R97, R117) -/

/-- A geometry commit changes canvas `c`. -/
def State.geometryChanges (s : State) (c : Nat) : Bool :=
  s.rd (DR_CAN_SIZE_WIDTH c) != s.rdA (DR_CAN_SIZE_WIDTH c) || s.rd (DR_CAN_SIZE_HEIGHT c) != s.rdA (DR_CAN_SIZE_HEIGHT c)
    || s.rd (DR_CAN_BASE c) != s.rdA (DR_CAN_BASE c)

/-- A blanked canvas has zero sums (R135). -/
def clearSums (c : Nat) : Act := updTl fun t => { t with sums := t.sums.keep fun k => k / 1024 != c }

/-- Apply or refuse the pending geometry commit (R84, R85). -/
def geometryBoundary : Act := withS fun s =>
  whenDo (s.on DR_STATUS_PENDING) (acts [wr DR_STATUS_PENDING 0,
    if !s.geometryLegal then acts [result DR_STATUS_RESULT .badarg, ledger 0x2009 .draper note Status.badarg.code]
    else acts [result DR_STATUS_RESULT .ok, forN 4 fun c => whenDo (s.geometryChanges c) (acts [
      abandon c 0 .state, updDr fun d => { d with written := d.written.set none c none }, apply1 (DR_CAN_SIZE_WIDTH c), apply1 (DR_CAN_BASE c),
      wr (DR_CAN_STAT_BLANK c) 1, wr (TL_FRONT_BLANK c) 1, setEvent DR_EVENT_BLANK, clearSums c,
      ledger 0x2008 .draper note (drPayload c (s.rd (DR_CAN_SIZE_WIDTH c) % 2 ^ 14 * 2 ^ 10))])]])

/-- Abandon every composition that has not ended by its latch (R97; log 13 on re-bases). -/
def lateBoundary : Act := forN 4 fun c => withS fun s =>
  match s.dr.order.find? fun k => k.canvas == c && k.phase != .draining with
  | some k => acts [abandon c flagLate .late, count (DR_CAN_LATE c) 1, setEvent DR_EVENT_LATE,
      ledger 0x2002 .draper warning (drPayload c k.frame)]
  | none => skip

/-- The latch swap (R117): frame `due` follows the last one, and the boundary numbers it `f`, another number at a re-base alone (R59). -/
def latchSwap (due f : Nat) : Act := forN 4 fun c => withS fun s =>
  whenDo (!s.held && s.dr.written.get none c == some due) (acts [
    wr (TL_FRONT_HALF c) (1 - s.rd (TL_FRONT_HALF c)), wr (TL_FRONT_BLANK c) 0, wr (DR_CAN_STAT_BLANK c) 0,
    wrPair (TL_CAN_FRAME_LO c) (TL_CAN_FRAME_HI c) f,
    updDr fun d => { d with written := d.written.set none c none }])

/-! ## Ingest streams (R109) -/

/-- The check of an enable of stream `t` with the settings of CFG `v` (R109). -/
def State.ingestEnableCheck (s : State) (t v : Nat) : Status :=
  let w := s.rd (DR_ING_GEOM_WIDTH t); let h := s.rd (DR_ING_GEOM_HEIGHT t)
  let a := s.pair (DR_ING_BASE_LO t) (DR_ING_BASE_HI t)
  if bits v 27 26 = 3 ∨ 3840 < w ∨ 2160 < h ∨ (bits v 27 26 = 0 ∧ w % 2 = 1) then .format
  else if !s.extRange a (3 * s.ingStride t * h) ∨ a % 64 ≠ 0 then .badarg
  else .ok

/-- A write of DR_INGs_CFG (R109). A refused ENABLE changes nothing but RESULT. DESIGN CHOICE (log 145): a write that leaves the other fields of an
enabled stream as they are is no write to them, and gives no BUSY. -/
def ingestCfgWrite (t v : Nat) : Act := withS fun s =>
  let st := s.ingestEnableCheck t v
  if s.on (DR_ING_CFG_ENABLE t) then acts [
    whenDo (bits v 27 24 != bits (regOf s.regs (DR_ING_CFG_ENABLE t)).toNat 27 24) (result DR_STATUS_RESULT .busy),
    whenDo (!bit v 31) (wr (DR_ING_CFG_ENABLE t) 0)]
  else if bit v 31 && st != .ok then result DR_STATUS_RESULT st
  else acts [
    wr (DR_ING_CFG_SAMPLING t) (bits v 27 26), wr (DR_ING_CFG_COLOUR t) (bits v 25 25),
    wr (DR_ING_CFG_RANGE t) (bits v 24 24),
    whenDo (bit v 31) (acts [result DR_STATUS_RESULT .ok, wr (DR_ING_CFG_ENABLE t) 1])]

/-- A write of a stream's geometry or buffer address (R109). -/
def ingestFieldWrite (t : Nat) (a : Act) : Act := withS fun s =>
  if s.on (DR_ING_CFG_ENABLE t) then result DR_STATUS_RESULT .busy else a

end Sys2Proof.Machine
end

