-- ==== Sys2Proof/Machine/Tailor.lean ====
section
/-!
DEFINITION. Tailor and Purse (their chapter): the lamp map, the correction chain, commits in two steps, derating,
probes, the zone sums, the gains and the slow loop.
-/

namespace Sys2Proof.Machine

/-! ## The lamp map (R119 to R122) -/

/-- Entries of the lamp map. -/
def mapSize : Nat := 4194304
/-- The address of lamp-map entry `k`. -/
def mapAddr (k : Nat) : Nat := 0x3000000 + 4 * k
/-- Lamp-map entry `k` as it is stored. -/
def State.mapEntry (s : State) (k : Nat) : Nat := ofLe (s.bytesAt (mapAddr k) 4)
def entrySwatch (e : Nat) : Nat := bits e 31 20
def entryTrim (e : Nat) : Int := signedOf 8 (bits e 19 12)
def entryZone (e : Nat) : Nat := bits e 11 4
def entryStatus (e : Nat) : Nat := bits e 3 0

def lampOk : Nat := 0
def lampOpen : Nat := 1
def lampShort : Nat := 2
def lampUntested : Nat := 3
def lampProbeDue : Nat := 4

/-- Change the STATUS of entry `k` by compare-and-swap: dropped when the entry is not `old` any more, or is poisoned
(R121, R122). -/
def setLamp (k old status : Nat) : Act := withS fun s =>
  whenDo (decide (k < mapSize) && !s.poisonedAt (mapAddr k) && s.mapEntry k == old)
    (memWriteFor .tailor (mapAddr k) (leBytes 4 (old / 16 * 16 + status)))

/-! ## Stages 1 to 4 (R123, R124) -/

/-- The settings stages 1 to 4 read: those in effect for scan-out, or for prediction (R127). -/
structure ChainSettings where
  coef : Nat → Nat → Int
  off : Nat → Nat → Int
  shortOff : Bool

/-- The settings in a register map. -/
def chainSettings (rd : Fld → Nat) : ChainSettings :=
  { coef := fun k i => signedOf 18 (rd (SW_M k i)), off := fun k j => signedOf 16 (rd (SW_OFF k j)),
    shortOff := rd TL_CTRL_SHORT_OFF == 1 }

/-- The status forces the lamp to zero (R120; the whole chain gives zero, log 14). -/
def forcedOff (shortOff : Bool) (status : Nat) : Bool := decide (5 ≤ status) || (status == lampShort && shortOff)

/-- Stages 2 to 4 of the correction chain on a front-half pixel with lamp-map entry `e`. -/
def stages (c : ChainSettings) (e : Nat) (v : Rgb) : Rgb :=
  if forcedOff c.shortOff (entryStatus e) then black
  else
    let k := entrySwatch e
    let w := matrix 15 ((List.range 9).map (c.coef k)) ((List.range 3).map (c.off k)) v
    w.map fun x => min 65535 ((x * (256 + entryTrim e).toNat + 128) / 256)

/-- A pixel of a Bolt half as it is stored. -/
def State.boltPixel (s : State) (half c x y : Nat) : Rgb :=
  let bs := s.bytesAt (s.boltAddr half c x y) 6
  ⟨leAt bs 0 2, leAt bs 2 2, leAt bs 4 2⟩

/-- A Bolt pixel lies in a poisoned word. -/
def State.boltPoison (s : State) (half c x y : Nat) : Bool :=
  (wordsOf (s.boltAddr half c x y) 6).any s.poisonedAt

/-! ## Purse (R135 to R139) -/

/-- The index of a zone sum. -/
def sumKey (c z ch : Nat) : Nat := (c * 256 + z) * 4 + ch
/-- The sum over the canvases. -/
def State.zoneSum (s : State) (z ch : Nat) : Nat :=
  (List.range 4).foldl (fun n c => n + s.tl.sums.get 0 (sumKey c z ch)) 0

/-- Division rounded up. -/
def ceilDiv (a b : Nat) : Nat := (a + b - 1) / b

/-- The predicted current of zone `z` in mA (R136). -/
def State.zoneP (s : State) (z : Nat) : Nat :=
  let t := (List.range 3).foldl (fun n ch => n + s.zoneSum z ch * s.rdP (PU_Z_COEF z ch)) 0
  ceilDiv (t * s.rd (PU_Z_CORR z)) (65535 * 1000 * 16384)

/-- A gain that holds `p` within `budget`; no limit gives one (R136). -/
def gain (budget p : Nat) : Nat := if budget = 0 ∨ p ≤ budget then 32768 else budget * 32768 / p

/-- One recomputation (R136). When Purse is disabled every gain is 32,768 (R137). -/
def State.purseCalc (s : State) : PurseCalc :=
  let on := s.on PU_CTRL_ENABLE
  let zs := (List.range 256).map fun z =>
    let p := s.zoneP z
    (z, p, if on then gain (s.rdP (PU_Z_BUDGET z)) p else 32768)
  let pt := zs.foldl (fun n (_, p, g) => n + ceilDiv (p * g) 32768) 0
  let gt := if on then gain (s.rdP PU_TOTAL_BUDGET) pt else 32768
  { p := zs.foldl (fun m (z, p, _) => m.set 0 z p) [], g := zs.foldl (fun m (z, _, g) => m.set 32768 z g) [],
    f := zs.foldl (fun m (z, p, g) => m.set 0 z (ceilDiv (p * g * gt) (2 ^ 30))) [], pt := pt, gt := gt }

/-- Begin a recomputation; it ends 400 CK_PIX cycles later (R137). -/
def recompute : Act := withS fun s => updTl fun t => { t with newest := s.purseCalc, running := true, calcEnds := s.now + 334 }

/-- The gain of a zone and of the total in effect (R137). -/
def State.zoneGain (s : State) (z : Nat) : Nat := if s.on PU_CTRL_ENABLE then s.rd (PU_Z_GAIN_GAIN z) else 32768
def State.totalGain (s : State) : Nat := if s.on PU_CTRL_ENABLE then s.rd PU_TOTAL_GAIN_GT else 32768

/-- The circuits a zone maps to with their shares in 1/256 (R138). -/
def State.zoneCircuits (s : State) (z : Nat) : List (Nat × Nat) :=
  let a := s.rd (PU_Z_CIRC_A z); let b := s.rd (PU_Z_CIRC_B z); let sh := s.rd (PU_Z_CIRC_SHARE_A z)
  if !s.on (PU_Z_CIRC_A_EN z) ∨ 24 ≤ a then []
  else if !s.on (PU_Z_CIRC_B_EN z) ∨ 24 ≤ b then [(a, 256)]
  else [(a, sh), (b, 256 - sh)]

/-- What a recomputation gives while Purse is disabled: every gain 32,768, every current as predicted (R136, R137). -/
def PurseCalc.unlimited (k : PurseCalc) : PurseCalc :=
  { k with g := [], f := k.p, pt := k.p.foldl (fun n x => n + x.2) 0, gt := 32768 }

/-- Tailor adopts the gains of a recomputation for the frame now shown (R137, R138, R140). -/
def adoptGains (found : PurseCalc) : Act := withS fun s =>
  let k := if s.on PU_CTRL_ENABLE then found else found.unlimited
  let limited := decide (k.gt < 32768)
  acts [
    forN 256 fun z => withS fun s =>
      let g := k.g.get 32768 z
      let lim := decide (g < 32768)
      acts [
        whenDo (lim && !s.on (PU_Z_GAIN_LIMITED z)) (acts [setEvent PU_EVENT_ZONE_LIMIT, ledger 0xC103 .tailor note z]),
        wr (PU_Z_PRED z) (satNat 32 (k.p.get 0 z)), wr (PU_Z_GAIN_GAIN z) g, wr (PU_Z_GAIN_LIMITED z) (b2n lim),
        whenDo (lim || limited) (updTl fun t => { t with winLimited := t.winLimited.set false z true }),
        forEach (s.zoneCircuits z) fun (c, sh) =>
          updTl fun t => { t with winX := t.winX.set 0 c (t.winX.get 0 c + k.f.get 0 z * sh) }],
    whenDo (limited && !s.on PU_TOTAL_GAIN_LIMITED)
      (acts [setEvent PU_EVENT_TOTAL_LIMIT, ledger 0xC104 .tailor warning k.gt]),
    wr PU_TOTAL_PRED (satNat 32 k.pt), wr PU_TOTAL_GAIN_GT k.gt, wr PU_TOTAL_GAIN_LIMITED (b2n limited),
    whenDo (limited || k.g.any fun x => decide (x.2 < 32768)) (count PU_LIMITED 1),
    updTl fun t => { t with frames := t.frames + 1 }]

/-- At each latch Tailor adopts the last recomputation that began before it, or waits for its end (R137). -/
def purseLatch : Act := withS fun s =>
  if s.tl.running then updTl fun t => { t with toAdopt := some t.newest } else adoptGains s.tl.newest

/-- A recomputation ends; a latch that waited adopts it (R137). -/
def recomputeDone : Act := withS fun s => whenDo (s.tl.running && decide (s.tl.calcEnds ≤ s.now)) (acts [
  updTl fun t => { t with running := false, toAdopt := none },
  match s.tl.toAdopt with | some k => adoptGains k | none => skip])

/-- `PURSE_RECOMPUTE_DONE` (R137). -/
def execPurseRecomputeDone (s : State) : Host.Outcome State Fault Refusal := done recomputeDone s

/-- A write of PU_CTRL: with ENABLE clear every gain is 32,768 at once (R137). -/
def puCtrlWrite (store : Act) : Act := acts [store, withS fun s => whenDo (!s.on PU_CTRL_ENABLE) (acts [
  forN 256 fun z => acts [wr (PU_Z_GAIN_GAIN z) 32768, wr (PU_Z_GAIN_LIMITED z) 0],
  wr PU_TOTAL_GAIN_GT 32768, wr PU_TOTAL_GAIN_LIMITED 0])]

/-- TAU in effect (R138). -/
def State.tau (s : State) : Int := (clampInt 1 60 (s.rdP PU_CTRL_TAU : Nat))

/-- The target of a zone's correction factor: floor(corr × r / 256) for r of R138, where every X is above zero. -/
def corrTarget (corr : Nat) : List (Nat × Int × Nat) → Int
  | [(_, m, x)] => corr * m / x
  | [(sa, ma, xa), (sb, mb, xb)] => corr * (sa * ma * xb + sb * mb * xa) / (256 * xa * xb)
  | _ => corr

/-- The loop's update of zone `z` with the window's measurements `m`, expected currents `x` and limited zones (R138, R139). A zone
without circuits is not updated. An X of zero, which only a PU_MIN of zero lets through, makes r a free value (log 2). -/
def zoneLoop (m : List (Option Nat)) (x : Nat → Nat) (limited : Nat → Bool) (z : Nat) : Act := withS fun s =>
  let cs := s.zoneCircuits z
  let frozen := cs.isEmpty || limited z || cs.any fun (k, _) =>
    decide (x k < s.rd PU_MIN) || (m.getD k none).isNone
  let corr := s.rd (PU_Z_CORR z)
  let update (target : Int) := withS fun s =>
    let c' := (clampInt 13107 20480 ((corr : Int) + Int.tdiv (target - corr) s.tau)).toNat
    acts [wr (PU_Z_CORR z) c', whenDo (c' != corr && (c' == 13107 || c' == 20480))
      (acts [setEvent PU_EVENT_BOUND, ledger 0xC105 .tailor warning z])]
  whenDo (!frozen) (if cs.any fun (k, _) => x k == 0 then withFree fun n => update (signedOf 32 n)
    else update (corrTarget corr (cs.map fun (k, sh) =>
      (sh, ((m.getD k none).getD 0 : Int) - s.rd (PU_K_BASE k), x k))))

/-- The measurements of a window that ends the loop's figures at this boundary: those Tally published since the last one, or none of any circuit
when a second has passed in which Tally, off, published no window (R138, R139, R458). -/
def State.windowDue (s : State) : Option (List (Option Nat)) :=
  if s.tl.window.isSome then s.tl.window
  else if !(s.has .tally && s.on TY_STATUS_RUNNING) && decide (s.tl.windowAt + 10 ^ 9 ≤ s.now) then some [] else none

/-- The loop's figures start anew for the frames latched from this boundary on (R138). -/
def windowReset : Act := withS fun s => whenDo s.windowDue.isSome
  (updTl fun t => { t with window := none, winX := [], winLimited := [], frames := 0, windowAt := s.now })

/-- The first frame boundary after a Tally window (R138, R139): the loop runs on the figures that `old` holds, those of the frames latched in the
window; a changed CORR makes Purse recompute (R137). -/
def purseLoop (old : State) : Act :=
  match old.windowDue with
  | none => skip
  | some m =>
    let x k := old.tl.winX.get 0 k / 256 / max 1 old.tl.frames
    withS fun before => acts [
      whenDo old.tl.window.isSome (forN 24 fun k => acts [wr (PU_K_EXP k) (satNat 32 (x k)),
        match m.getD k none with | some v => wr (PU_K_MEAS k) (satNat 32 v) | none => skip]),
      whenDo (before.on PU_CTRL_LOOP) (acts [
        forN 24 fun k => whenDo ((m.getD k none).isNone
            && (List.range 256).any fun z => (before.zoneCircuits z).any fun c => c.1 == k)
          (acts [setEvent PU_EVENT_NO_TALLY, ledger 0xC106 .tailor note k]),
        forN 256 (zoneLoop m x (old.tl.winLimited.get false)),
        withS fun s => whenDo ((List.range 256).any fun z => s.rd (PU_Z_CORR z) != before.rd (PU_Z_CORR z)) recompute])]

/-! ## Prediction by Draper's tile writer (R135) -/

/-- Add the predicted value of canvas pixel (x, y), whose composed colour is `v`, to the zone sums `m`. -/
def State.predictPixel (s : State) (c x y : Nat) (v : Rgb) (m : SMap Nat) : SMap Nat :=
  let k := s.rdP (TL_CAN_MAP_MAPBASE c) + y * s.canW c + x
  if mapSize ≤ k ∨ s.poisonedAt (mapAddr k) then m
  else
    let e := s.mapEntry k
    let p := stages (chainSettings s.rdP) e v
    let add (ch : Nat) (m : SMap Nat) := m.set 0 (sumKey c (entryZone e) ch) (m.get 0 (sumKey c (entryZone e) ch) + p.ch ch)
    add 2 (add 1 (add 0 m))

/-! ## Commits (R127, R128) -/

/-- The checks of a Tailor commit on the shadows (R127). -/
def State.tlLegal (s : State) : Bool :=
  decide (64 ≤ s.rd TL_PROBE_PERIOD) && (List.range 16).all fun g =>
    decide (8 ≤ s.rd (TL_GRP_OUT_DEPTH g) ∧ s.rd (TL_GRP_OUT_DEPTH g) ≤ 16 ∧ s.rd (TL_DRT_B_SLOPE g) ≤ 1000
      ∧ s.rd (TL_DRT_B_FLOOR g) ≤ 0x8000)

/-- `TL_COMMIT` (R127). -/
def execTlCommit (_w : Requester) (v : Word) (s : State) : Host.Outcome State Fault Refusal :=
  done (whenDo (bit v.toNat 0) (wr TL_STATUS_PEND_PRED 1)) s

/-- First address and the address after the last of Tailor's, Swatch's and Purse's registers. -/
def tlLo : Nat := 0x10140000
def tlHi : Nat := 0x10180000

/-- The scan-out step of a commit (R127). A group whose source it changes is no longer stale (R129). -/
def scanBoundary : Act := withS fun s =>
  whenDo (s.on TL_STATUS_PEND_SCAN) (acts [wr TL_STATUS_PEND_SCAN 0, scanRange tlLo tlHi,
    forN 16 fun g => withS fun t => whenDo (s.rdA (TL_DRT_A_SRC g) != t.rdA (TL_DRT_A_SRC g)) (acts [
      wr (TL_DRT_STAT_STALE g) 0, updTl fun x => { x with sourceAt := x.sourceAt.set 0 g s.now }])])

/-- The prediction step of a commit (R127, R128, R137). -/
def predictBoundary : Act := withS fun s =>
  whenDo (s.on TL_STATUS_PEND_PRED) (acts [wr TL_STATUS_PEND_PRED 0,
    if s.tlLegal then acts [result TL_STATUS_RESULT .ok, predictRange tlLo tlHi, wr TL_STATUS_PEND_SCAN 1,
      wr SW_STATUS_COPYING 1, updTl fun t => { t with copyEnds := s.now + 10240 }, recompute]
    else acts [result TL_STATUS_RESULT .badarg, setEvent TL_EVENT_REFUSED,
      ledger 0x3105 .tailor note Status.badarg.code]])

/-- The copy ends after 10.24 µs: the fresh shadow bank holds what the prediction bank holds (R128). -/
def swatchCopied : Act := withS fun s => whenDo (decide (s.tl.copyEnds ≤ s.now)) (wr SW_STATUS_COPYING 0)

/-- `SWATCH_COPY_DONE`. -/
def execSwatchCopyDone (s : State) : Host.Outcome State Fault Refusal := done swatchCopied s

/-- A write of PU_zCORR: values are clamped (R138). -/
def corrWrite (z v : Nat) : Act := wr (PU_Z_CORR z) (clampInt 0x3333 0x5000 (v % 2 ^ 16 : Nat)).toNat

/-! ## Derating (R129, R130) -/

/-- Temperatures are signed quarter degrees of 12 bits. -/
def temp12 (n : Nat) : Int := signedOf 12 n

/-- The hottest temperature that Treadle `g`'s chains gave within the last second (R164). -/
def State.retTemp (s : State) (g : Nat) : Option Int :=
  (((List.range 4).map (4 * g + ·)).filterMap fun p =>
    match s.tl.tempAt.get none p with
    | some t => if s.now ≤ t + 10 ^ 9 ∧ s.on (CH_TEMP_VALID p) then some (temp12 (s.rd (CH_TEMP_TEMP p))) else none
    | none => none).max?

/-- The temperature of derating group `g` (R129), with `weft` the hottest fresh one of the group's Weft receivers. Until
a chosen source has given a reading the on-die sensor stands in (log 15). -/
def State.groupTemp (s : State) (g : Nat) (weft : Option Int) : Option Int :=
  let die := some (temp12 (s.rd SYS_TEMP_TEMP))
  match s.rdA (TL_DRT_A_SRC g) with
  | 0 => if s.on (TL_DRT_STAT_STALE g) then die else (s.retTemp g).orElse fun _ => die
  | 1 => if s.on (TL_DRT_STAT_STALE g) then die else weft.orElse fun _ => die
  | 2 => die
  | _ => none

/-- The derating of a temperature (R130). -/
def derating (t knee : Int) (slope floor : Nat) : Nat :=
  let e := (t - knee).toNat
  max floor (32768 - slope * e * 32768 / 40000)

/-- The derating and the intensity of group `g` taken at a latch (R130). -/
def deratingUpdate (g : Nat) (weft : Option Int) : Act := withS fun s =>
  let t := s.groupTemp g weft
  let d := match t with
    | some t => if t ≤ temp12 (s.rdA (TL_DRT_A_KNEE g)) then 32768
        else derating t (temp12 (s.rdA (TL_DRT_A_KNEE g))) (s.rdA (TL_DRT_B_SLOPE g)) (s.rdA (TL_DRT_B_FLOOR g))
    | none => 32768
  acts [
    whenDo (s.rd (TL_DRT_STAT_D g) == 32768 && decide (d < 32768))
      (acts [setEvent TL_EVENT_DERATE, ledger 0xC101 .tailor note g]),
    wr (TL_DRT_STAT_D g) d,
    match t with | some t => wr (TL_DRT_STAT_TEMP g) (ofSigned 12 t) | none => skip,
    updTl fun x => { x with intensity := x.intensity.set 65535 g (match s.target (0xC0 + g) with
      | some v => (clampInt 0 65535 v).toNat | none => s.rd (TL_INT g)) }]

/-- A fresh reading for group `g` from source `src` ends the fallback (R129). -/
def freshTemp (g src : Nat) : Act := withS fun s =>
  whenDo (s.rdA (TL_DRT_A_SRC g) == src) (wr (TL_DRT_STAT_STALE g) 0)

/-! ## Scan-out (R119 to R134) -/

/-- Treadle `t` follows its even neighbour (R156). -/
def State.follows (s : State) (t : Nat) : Bool :=
  (t == 1 || t == 3) && s.onA (TD_CTRL_SEAM (t - 1)) && s.onA (TD_CTRL_ENABLE (t - 1))
/-- The Treadle whose settings Treadle `t` runs with (R156). -/
def State.leader (s : State) (t : Nat) : Nat := if s.follows t then t - 1 else t

/-- The rectangle of chain port `p` on its canvas: x, y, width, height (R143, R157). -/
def State.portRect (s : State) (p : Nat) : Nat × Nat × Nat × Nat :=
  let t := p / 4
  let rect q := (s.rdA (CH_ORIGIN_X q), s.rdA (CH_ORIGIN_Y q), s.rdA (CH_SIZE_W q), s.rdA (CH_SIZE_H q))
  if s.follows t then
    let (x, y, w, h) := rect (p - 4)
    let n := s.rdA (TD_SPLIT (t - 1))
    (x + n, y, w - n, h)
  else
    let (x, y, w, h) := rect p
    if (t == 0 || t == 2) && s.onA (TD_CTRL_SEAM t) then (x, y, min w (s.rdA (TD_SPLIT t)), h) else (x, y, w, h)

/-- The number of a lamp of a chain port, by its place in the port's rectangle. -/
def lampKey (p n : Nat) : Nat := p * 16384 + n

/-- The frame number the front half of a canvas is shown for (R126, R132): the timeline's frame. -/
def State.probeFrame (s : State) (p : Nat) : Bool :=
  s.onA TL_PROBE_ENABLE && s.frame % s.rdA TL_PROBE_PERIOD == p

/-- A visible probe on port `p` (R133). -/
def probeVisible (p : Nat) : Act := acts [count TL_PROBE_VIS 1, setEvent TL_EVENT_PROBE_VIS,
  ledger 0x3101 .tailor warning p]

/-- The sub-frame values of a probed channel (R133): the first holds W, the others share what is left. -/
def probeSubframes (m w v : Nat) : List Nat :=
  let q := m * v - w
  w :: (List.range (m - 1)).map fun i => q / (m - 1) + b2n (decide (i < q % (m - 1)))

/-- The lamp-map entry of a canvas pixel under the settings in effect for scan-out (R119). -/
def State.mapIndex (s : State) (c x y : Nat) : Nat := s.rdA (TL_CAN_MAP_MAPBASE c) + y * s.canW c + x

/-- The words that Tailor reads for a pixel: its Bolt words, but on a BLANK canvas, whose front half it takes as black (R85, R118), and its
lamp-map entry's. -/
def State.scanWords (s : State) (c x y : Nat) : List Nat :=
  let k := s.mapIndex c x y
  if mapSize ≤ k then []
  else (if s.on (TL_FRONT_BLANK c) then [] else wordsOf (s.boltAddr (s.frontHalf c) c x y) 6) ++ [mapAddr k / 32 * 32]

/-- Stage 1 and the entry of a pixel: nothing when it is out of range or poisoned (R122, R123). -/
def State.scanSource (s : State) (c x y : Nat) : Option (Rgb × Nat × Nat) :=
  let k := s.mapIndex c x y
  if mapSize ≤ k ∨ (s.scanWords c x y).any s.poisonedAt then none
  else some (if s.on (TL_FRONT_BLANK c) then black else s.boltPixel (s.frontHalf c) c x y, k, s.mapEntry k)

/-- A damaged word is delivered to scan-out: reported as every read is (R420, R421), and a poisoned one by Tailor too (R122, R140). DESIGN CHOICE
(log 146): a word counts as delivered once in a frame, whatever pixels and outputs need it. -/
def scanWord (w : Nat) : Act := withS fun s =>
  whenDo ((s.poisonedAt w || decide (0 < s.ts.symbols.get 0 (w / 32))) && !s.tl.seen.contains w) (acts [
    updTl fun t => { t with seen := t.seen ++ [w] }, touchWord w,
    whenDo (s.poisonedAt w) (acts [count TL_POISON 1, setEvent TL_EVENT_POISON, ledger 0x3104 .tailor warning (bits w 31 8)])])

/-- What reading a pixel of canvas `c` reports: an index out of range, or the damaged words among its own (R122). -/
def scanReads (c x y : Nat) : Act := withS fun s =>
  if mapSize ≤ s.mapIndex c x y then acts [count TL_MAPRANGE 1, setEvent TL_EVENT_MAPRANGE, ledger 0x3103 .tailor warning c]
  else forEach (s.scanWords c x y) scanWord

/-- The chain port `p` carries canvas pixel (x, y) (R143). -/
def State.carries (s : State) (p c x y : Nat) : Bool :=
  let (px, py, w, h) := s.portRect p
  s.onA (CH_CTRL_ENABLE p) && s.rdA (TD_CTRL_CANVAS (s.leader (p / 4))) == c && decide (px ≤ x ∧ x < px + w ∧ py ≤ y ∧ y < py + h)

/-- The derating group of a pixel of a Weft stream: the Treadle whose chain carries it, else the canvas's own group, if it has one (R123). -/
def State.weftGroup (s : State) (c x y : Nat) : Option Nat :=
  match (List.range 64).find? fun p => s.carries p c x y with
  | some p => some (p / 4)
  | none => if s.onA (TL_CAN_MAP_DG_EN c) then some (s.rdA (TL_CAN_MAP_DGRP c)) else none

/-- Stages 2 to 7 on a pixel, with the derating group or none (R123). -/
def State.corrected (s : State) (group : Option Nat) (e : Nat) (v : Rgb) : Rgb :=
  let a := stages (chainSettings s.rdA) e v
  let b := match group with
    | some g => a.map fun x => dv (x * s.tl.intensity.get 65535 g) * s.rd (TL_DRT_STAT_D g) / 2 ^ 15
    | none => a
  b.map fun x => x * s.zoneGain (entryZone e) / 2 ^ 15 * s.totalGain / 2 ^ 15

/-- A pixel for a Weft stream at `depth` (R123, R126); black where it is out of range or poisoned. -/
def State.weftPixel (s : State) (c x y depth : Nat) : Rgb :=
  match s.scanSource c x y with
  | none => black
  | some (v, _, e) => (s.corrected (s.weftGroup c x y) e v).map (dither (s.onA TL_CTRL_WEFT_DITHER) depth x y s.frame)

/-- Deliver a lamp's values to its port. -/
def deliver (p n k : Nat) (lit : List Nat) (vals : List (List Nat)) : Act :=
  updTl fun t => { t with shown := t.shown.set none (lampKey p n) (some ⟨k, lit, vals⟩) }

/-- Note what a probe still takes away from a channel of the next frame (R133). -/
def setCarry (p n ch v : Nat) : Act :=
  updTl fun t => { t with carry := t.carry.set 0 (lampKey p n * 4 + ch) v }

/-- A pixel of chain port `p`, lamp `n` of its rectangle (R123, R126, R131 to R133, R151, R152). Each channel's probe is visible by itself. -/
def chainPixel (c x y p n : Nat) : Act := withS fun s =>
  let t := p / 4
  let l := s.leader t
  let planes := s.onA (TD_CTRL_MODE l)
  let m := if planes then max 1 (s.rdA (TD_CTRL_MULT l)) else 1
  let depth := if planes then 16 else s.rdA (TL_GRP_OUT_DEPTH t)
  let out (v : Nat) := dither (s.onA (TL_GRP_OUT_DITHER t)) depth x y s.frame v
  let owed (i : Nat) := s.tl.carry.get 0 (lampKey p n * 4 + i)
  let dark (k : Nat) := acts [deliver p n k [0, 0, 0] [List.replicate m 0, List.replicate m 0, List.replicate m 0],
    forN 3 fun i => whenDo (owed i != 0) (acts [probeVisible p, setCarry p n i 0])]
  acts [scanReads c x y, match s.scanSource c x y with
    | none => dark mapSize
    | some (v, k, e) =>
      let u := s.corrected (some t) e v
      let w := s.rdA (TL_GRP_OUT_WIN t)
      let st := entryStatus e
      let ch := [u.r, u.g, u.b]
      let dim := decide (0 < w) && ch.any fun x => decide (0 < x ∧ x < w) || (x == 0 && s.onA TL_PROBE_PROBE_ZERO)
      let probe := s.probeFrame p && decide (0 < w) && (st == lampUntested || st == lampOpen)
      let base (i : Nat) := ch.getD i 0 - owed i
      let short (i : Nat) := decide (ch.getD i 0 < owed i)
      let probed (i : Nat) := probe && decide (base i < w)
      let lit (i : Nat) := if probed i then w else base i
      let vals (i : Nat) : List Nat :=
        if !probed i then List.replicate m (out (base i))
        else if 2 ≤ m then probeSubframes m w (base i)
        else [out w]
      let loud (i : Nat) := probed i && decide (2 ≤ m ∧ m * base i < w)
      acts [
        deliver p n k ((List.range 3).map lit) [vals 0, vals 1, vals 2],
        forN 3 fun i => setCarry p n i (if probed i ∧ m < 2 then w - base i else 0),
        forN 3 fun i => acts [whenDo (short i) (probeVisible p), whenDo (loud i) (probeVisible p)],
        whenDo (st == lampOk && dim) (setLamp k e lampUntested),
        whenDo probe (acts [count TL_PROBES 1, setLamp k e lampProbeDue,
          updTl fun x => { x with due := x.due.set none k (some (2, p)) }])]]

/-- `SCANOUT_PIXEL` (R123): Tailor corrects one pixel of the front frame. A pixel outside the canvas or outside the
port's rectangle reaches no lamp. Scan-out begins when a recomputation that the latch waits for has ended (R137). -/
def execScanoutPixel (canvas : Fin 4) (x y : Nat) (dest : PixelDest) (s : State) : Host.Outcome State Fault Refusal :=
  let inside := decide (x < s.canW canvas ∧ y < s.canH canvas)
  let begins := whenDo s.tl.toAdopt.isSome recomputeDone
  done (match dest with
    | .chain port =>
      let (px, py, w, _) := s.portRect port
      let n := (y - py) * w + (x - px)
      whenDo (s.carries port canvas x y && decide (n < 16384)) (acts [begins,
        if inside then chainPixel canvas x y port n else deliver port n mapSize [0, 0, 0] [[0], [0], [0]]])
    | .weft _ => whenDo inside (acts [begins, scanReads canvas x y])) s

/-- At a boundary, lamps whose probe read-back has not resolved by the end of the frame after its probe frame return to UNTESTED (R134). -/
def probeBoundary : Act := withS fun s => acts [
  forEach s.tl.due fun (k, d) => withS fun s =>
    match d with
    | some (n, p) => if 2 ≤ n then updTl fun t => { t with due := t.due.set none k (some (n - 1, p)) } else acts [
        whenDo (entryStatus (s.mapEntry k) == lampProbeDue && !s.poisonedAt (mapAddr k)) (acts [
          setLamp k (s.mapEntry k) lampUntested, count TL_PROBE_MISS 1, setEvent TL_EVENT_PROBE_MISS,
          ledger 0x3102 .tailor warning p]),
        updTl fun t => { t with due := t.due.set none k none }]
    | none => skip,
  updTl fun t => { t with prevShown := t.shown, shown := [], seen := [] }]

end Sys2Proof.Machine
end

