-- ==== Sys2Proof/Machine/Treadle.lean ====
section
/-!
DEFINITION. The Treadles and chain ports (their chapter): wave programs, commits at the apply line, HOLD, status
read-back and chain discovery.
-/

namespace Sys2Proof.Machine

def State.tdRun (s : State) (t : Nat) : TdRun := s.td.runs.get {} t
def State.port (s : State) (p : Nat) : Port := s.td.ports.get {} p
def updRun (t : Nat) (f : TdRun → TdRun) : Act := updTd fun d => { d with runs := d.runs.set {} t (f (d.runs.get {} t)) }
def updPort (p : Nat) (f : Port → Port) : Act := updTd fun d => { d with ports := d.ports.set {} p (f (d.ports.get {} p)) }

def tdIdle : Nat := 0
def tdRunning : Nat := 1
def tdHold : Nat := 2
def tdFollow : Nat := 3

/-- The Treadle runs its program. -/
def State.tdRuns (s : State) (t : Nat) : Bool := s.rd (TD_STATUS_STATE t) == tdRunning

/-- Treadle `t` leads a seamed pair (R156). -/
def State.seams (s : State) (t : Nat) : Bool := (t == 0 || t == 2) && s.onA (TD_CTRL_SEAM t)

/-- The ports that Treadle `t`'s program drives: its own four, and its neighbour's in a seamed pair (R142, R156). -/
def State.tdPorts (s : State) (t : Nat) : List Nat :=
  let n := if s.seams t then 8 else 4
  ((List.range n).map (4 * t + ·)).filter fun p => s.onA (CH_CTRL_ENABLE p)

/-! ## Pins (R142, R149, R156, R159, R165, R167, R168) -/

/-- The program drives the port: it is not in discovery, and its chain is not absent (R165, R167). -/
def State.drives (s : State) (p : Nat) : Bool := !(s.port p).out && !(s.port p).absent

/-- The pins of chain port `p` between shifts, outside its windows. A port that is not in use drives logic 0 on all of them (R168); in
discovery its CK runs, and an absent one holds CK low, both with the lanes low and CTL de-asserted (R165, R167). A Treadle that does not
run holds its ports at rest. -/
def State.chainPins (s : State) (p : Nat) : ChainPins :=
  let r := s.tdRun (s.leader (p / 4))
  let inv := s.onA (CH_CTRL_CTL_INV p)
  if !s.has .treadle || !s.onA (CH_CTRL_ENABLE p) then {}
  else if s.drives p then ⟨r.ck, r.lanes, r.ctl != inv⟩
  else ⟨(s.port p).runs.isSome, false, inv⟩

/-- The row pins carry a line; those of the second Treadle of a pair repeat the first's (R142, R156). -/
def setRow (t line : Nat) : Act := withS fun s => acts [
  wr (TD_LINE_ROWSEL t) line, whenDo (s.seams t) (wr (TD_LINE_ROWSEL (t + 1)) line)]

/-- The row pins of a Treadle none of whose ports is in use drive 0 (R168). -/
def rowsAtRest (t : Nat) : Act := withS fun s =>
  whenDo ((s.tdPorts t).isEmpty) (acts [updRun t fun r => { r with line := 0 }, setRow t 0])

/-! ## Lamp words and timing (R143 to R145, R148) -/

/-- Bit-plane mode. -/
def State.planes (s : State) (t : Nat) : Bool := s.onA (TD_CTRL_MODE t)
/-- The multiplier M; it has no effect in memory-driver mode (R151). -/
def State.mult (s : State) (t : Nat) : Nat := if s.planes t then max 1 (s.rdA (TD_CTRL_MULT t)) else 1
/-- Scan lines. -/
def State.scanLines (s : State) (t : Nat) : Nat := max 1 (s.rdA (TD_CTRL_SCAN t))
/-- LAMP_BITS of a port (R144); its channels have the depth of its own Treadle's group. -/
def State.lampBits (s : State) (p : Nat) : Nat :=
  (if s.planes (s.leader (p / 4)) then 3 else 3 * s.rdA (TL_GRP_OUT_DEPTH (p / 4))) + s.rdA (CH_CTRL_PAD p)
def State.lanes (s : State) (p : Nat) : Nat := 1 + s.rdA (CH_CTRL_LANES2 p)
/-- Lamps of a scan line of the port: W × G (R143). -/
def State.lineLamps (s : State) (p : Nat) : Nat :=
  let (_, _, w, h) := s.portRect p
  w * (h / s.scanLines (s.leader (p / 4)))
/-- The largest over the Treadle's enabled ports (R145). -/
def State.maxLamps (s : State) (t : Nat) : Nat := (s.tdPorts t).foldl (fun n p => max n (s.lineLamps p)) 0
/-- Steps as chain clocks, rounded up (R144, R148). -/
def State.stepClocks (s : State) (t n : Nat) : Nat := ceilDiv n (1 + s.rdA (TD_CTRL_EDGE t))
/-- The duration of a SHIFT of `n` lamps (R148). -/
def State.shiftClocks (s : State) (t n : Nat) : Nat :=
  (s.tdPorts t).foldl (fun m p => max m (s.stepClocks t (ceilDiv (n * s.lampBits p) (s.lanes p)))) 0
/-- Chain clocks in a frame. -/
def State.frameClocks (s : State) (t : Nat) : Nat :=
  s.framePeriod * 3 / (max 1 s.rateNum * 10 * (s.rdA (TD_CTRL_DIV t) + 1))

/-- The lamp of the port's rectangle at chain position `q` on line `ln` (R143). -/
def State.lampAt (s : State) (p ln q : Nat) : Nat :=
  let (_, _, w, _) := s.portRect p
  let g := q / max 1 w; let c := q % max 1 w
  let c1 := if s.onA (CH_CTRL_SERPENT p) ∧ g % 2 = 1 then w - 1 - c else c
  let c2 := if s.onA (CH_CTRL_MIRROR p) then w - 1 - c1 else c1
  (ln + g * s.scanLines (s.leader (p / 4))) * w + c2

/-- The channels of a lamp word in the order they are sent (R144, CH_CTRL.ORDER). -/
def channelOrder : Nat → List Nat
  | 0 => [0, 1, 2] | 1 => [0, 2, 1] | 2 => [1, 0, 2] | 3 => [1, 2, 0] | 4 => [2, 0, 1] | _ => [2, 1, 0]

/-- The bits of a number, most significant first. -/
def msbBits (n v : Nat) : List Bool := ((List.range n).map fun i => bit v i).reverse

/-- Reverse the order of four bits (R152). -/
def rev4 (i : Nat) : Nat := i % 2 * 8 + i / 2 % 2 * 4 + i / 4 % 2 * 2 + i / 8 % 2

/-- P' of sub-frame `k` of frame `f` with `m` sub-frames (R152). -/
def planeValue (f m k v : Nat) : Nat := min 4095 (v / 16 + b2n (decide (rev4 ((f * m + k) % 16) < v % 16)))

/-- The bits of one lamp word of pixel data (R144, R151, R152): `k` is the sub-frame and `plane` the plane. -/
def State.lampWord (s : State) (p n k plane : Nat) : List Bool :=
  let t := s.leader (p / 4)
  let vals ch := match s.tl.shown.get none (lampKey p n) with
    | some o => (o.vals.getD ch []).getD k 0 | none => 0
  (channelOrder (s.rdA (CH_CTRL_ORDER p))).flatMap (fun ch =>
    if s.planes t then [bit (planeValue s.frame (s.mult t) k (vals ch)) plane]
    else msbBits (s.rdA (TL_GRP_OUT_DEPTH (p / 4))) (vals ch))
  ++ List.replicate (s.rdA (CH_CTRL_PAD p)) false

/-- A lamp word of zeros or of ones. -/
def State.flatWord (s : State) (p : Nat) (one : Bool) : List Bool :=
  List.replicate (s.lampBits p - s.rdA (CH_CTRL_PAD p)) one ++ List.replicate (s.rdA (CH_CTRL_PAD p)) false

/-- The bits that a SHIFT of `n` lamps sends on a port (R145, R148): from position `n - 1` down to 0, zero words beyond
the end of the line and on a line that the port does not have. -/
def State.shiftBits (s : State) (p data n k plane : Nat) : List Bool :=
  let t := s.leader (p / 4)
  let ln := (s.tdRun t).line
  ((List.range n).reverse.flatMap fun q =>
    if data = 0 then
      if q < s.lineLamps p ∧ ln < s.scanLines t then s.lampWord p (s.lampAt p ln q) k plane else s.flatWord p false
    else s.flatWord p (data == 2))

/-- Every second element of a list, from the first on. -/
def everyOther : List Bool → List Bool
  | [] => []
  | [b] => [b]
  | b :: _ :: bs => b :: everyOther bs

/-- The bits of the two lanes: even ones on DA, odd ones on DB, which carries 0 in the last step of an odd number; one
lane carries all of them on DA (R144). -/
def laneBits (lanes : Nat) (bs : List Bool) : List Bool × List Bool :=
  if lanes = 1 then (bs, [])
  else (everyOther bs, everyOther (bs.drop 1) ++ List.replicate (bs.length % 2) false)

/-! ## Commits (R147, R155, R158 to R160) -/

/-- A wave word holds no reserved opcode and no non-zero reserved field, at word `i` of a program for the mode (R147). -/
def waveWordLegal (planes : Bool) (i w : Nat) : Bool :=
  match bits w 31 28 with
  | 0 => bits w 26 0 == 0
  | 1 => decide (bits w 25 24 ≤ 1 ∧ bits w 22 14 = 0)
  | 2 => decide (bits w 26 26 = 0 ∧ bits w 25 24 ≠ 3 ∧ bits w 21 14 = 0) && (!bit w 27 || bits w 13 0 == 0)
  | 3 => bits w 26 4 == 0
  | 4 => decide (bits w 26 26 = 0 ∧ bits w 23 22 = 0 ∧ bits w 13 5 = 0)
  | 5 => bits w 24 24 == 0 && (!bit w 26 || (planes && bits w 23 0 == 0))
  | 6 => decide (bits w 23 23 = 0 ∧ bits w 22 14 ≤ i) && (bits w 25 24 == 0 || bits w 13 0 == 0)
  | 7 | 8 => bits w 27 0 == 0
  | _ => false

/-- The read-back settings of a port pass R160, for LAMP_BITS `n`. -/
def State.readbackLegal (s : State) (p n : Nat) : Bool :=
  let lanes := 1 + s.rd (CH_CTRL_LANES2 p)
  !s.on (CH_CTRL_RB_EN p) || (decide (lanes = 1 ∨ n % 2 = 0)
    && decide ((if s.on (CH_CTRL_RB16 p) then 16 else 8) * lanes ≤ n))

/-- The BADARG checks of R160 on the shadows of Treadle `t` and its ports. -/
def State.tdLegal (s : State) (t : Nat) : Bool :=
  let planes := s.on (TD_CTRL_MODE t)
  let scan := s.rd (TD_CTRL_SCAN t)
  let seam := s.on (TD_CTRL_SEAM t)
  let all := (List.range (if seam then 8 else 4)).map (4 * t + ·)
  let lampBits p := (if planes then 3 else 3 * s.rdA (TL_GRP_OUT_DEPTH (p / 4))) + s.rd (CH_CTRL_PAD p)
  decide (1 ≤ scan ∧ scan ≤ 32 ∧ 1 ≤ s.rd (TD_CTRL_MULT t) ∧ s.rd (TD_CTRL_MULT t) ≤ 16 ∧ 1 ≤ s.rd (TD_UNIT t))
  && all.all (fun p => decide (s.rd (CH_CTRL_ORDER p) < 6 ∧ s.rd (CH_CTRL_PAD p) ≤ 16 ∧ s.rd (CH_PHASE_ROTATE p) ≤ 11)
    && s.readbackLegal p (lampBits p))
  && (List.range 4).all (fun j =>
    let p := 4 * t + j
    let w := s.rd (CH_SIZE_W p); let h := s.rd (CH_SIZE_H p)
    !s.on (CH_CTRL_ENABLE p) || decide (0 < w ∧ 0 < h ∧ h % scan = 0 ∧ w * h ≤ 16384
      ∧ (seam = true → 1 ≤ s.rd (TD_SPLIT t) ∧ s.rd (TD_SPLIT t) + 1 ≤ w)))
  && (!seam || t == 0 || t == 2)
  && (List.range 512).all fun i => waveWordLegal planes i (s.rd (TD_WAVE t i))

/-- The least refresh multiplier limit of the profile in effect or pending (R155, R559). -/
def State.multLimit (s : State) : Nat :=
  let a := profileMaxMult (s.rd SYS_PROFILE_ACTIVE)
  let p := s.rd SYS_PROFILE_PROFILE
  if s.on SYS_STATUS_PENDING ∧ p < 3 then min a (profileMaxMult p) else a

/-- The status of a commit at its apply line (R160). -/
def State.tdCheck (s : State) (t : Nat) : Status :=
  if !s.tdLegal t then .badarg
  else if s.multLimit < s.rd (TD_CTRL_MULT t) ∨ s.rd (TD_STATUS_STATE t) == tdHold ∨ s.follows t then .state
  else .ok

/-- First address of Treadle `t`'s registers; its ports' registers begin at `chLo`. -/
def tdLo (t : Nat) : Nat := 0x10180000 + 0x1000 * t
def chLo (t : Nat) : Nat := 0x101C0000 + 0x1000 * t

/-- A commit changes a structural field (R159). -/
def State.tdStructural (s : State) (t : Nat) : Bool :=
  [TD_CTRL_MODE t, TD_CTRL_SCAN t, TD_CTRL_EDGE t, TD_CTRL_DIV t, TD_CTRL_SEAM t, TD_CTRL_CANVAS t, TD_CTRL_ENABLE t,
    TD_SPLIT t].any (fun f => s.rd f != s.rdA f) || (List.range 512).any fun i => s.rd (TD_WAVE t i) != s.rdA (TD_WAVE t i)

/-- The replay of the last complete sub-frame from chain clock `from` of the frame on, as often as it fits (R159). DESIGN CHOICE (log 147):
at most M times in a frame, which is how many sub-frames a frame has. -/
def replay (t start : Nat) : Act := withS fun s =>
  let r := s.tdRun t
  forN (min (s.mult t) ((s.frameClocks t - start) / max 1 r.lastLen)) fun i =>
    let c := start + i * r.lastLen
    forEach r.last fun
      | .shift p da db => whenDo (s.drives p) (emit (.chain p da db))
      | .ctl p a z level => whenDo (s.drives p) (emit (.ctl p (c + a) (c + z) level))
      | .row a line => acts [emit (.row t (c + a) line), setRow t line]

/-- Enter HOLD until the second boundary from now, at chain clock `c` of the frame: the program stops, memory-driver ports run CK with the
lanes low and CTL de-asserted, and bit-plane ports begin their replay (R159). -/
def enterHold (t c : Nat) : Act := withS fun s => acts [
  wr (TD_STATUS_STATE t) tdHold,
  updRun t fun r => { r with hold := 2, ended := true, ck := !s.planes t, lanes := false, ctl := false, windowEnd := 0 },
  forEach (s.tdPorts t) fun p => updPort p fun x => { x with windows := [] },
  setEvent (TD_EVENT_HOLD t), ledger 0x3202 .treadle note t,
  whenDo (s.planes t && decide (0 < c)) (replay t c)]

/-- Ask for a discovery of a port (R165): nothing while one waits or runs. -/
def askDiscovery (p : Nat) (why : DiscWhy) : Act := withS fun s =>
  whenDo (!s.on (CH_DISC_BUSY p)) (acts [wr (CH_DISC_BUSY p) 1,
    updPort p fun x => { x with asked := some why, out := x.out || why == .enable }])

/-- A port's ENABLE takes effect, with the taps of its delay lines, or ends (R165, R168, R515). -/
def portEnableChange (p : Nat) (was : Bool) : Act := withS fun s =>
  let now := s.onA (CH_CTRL_ENABLE p)
  if now && !was then acts [apply1 (TM_TAP_TAP p 0), askDiscovery p .enable]
  else whenDo (was && !now) (acts [updPort p fun _ => {}, wr (CH_DISC_BUSY p) 0, rowsAtRest (s.leader (p / 4))])

/-- Decide a pending commit at its apply line, which lies at chain clock `c` of the frame (R158 to R160). Fields that are not structural take
effect now, structural ones at the end of the HOLD; both are those of this moment. -/
def tdApply (t c : Nat) : Act := withS fun s =>
  let st := s.tdCheck t
  let n := if s.on (TD_CTRL_SEAM t) then 8 else 4
  let was := (List.range n).map fun j => s.onA (CH_CTRL_ENABLE (4 * t + j))
  whenDo (s.on (TD_STATUS_PENDING t)) (acts [wr (TD_STATUS_PENDING t) 0, result (TD_STATUS_RESULT t) st,
    if st != .ok then acts [setEvent (TD_EVENT_REFUSED t), ledger 0x3204 .treadle note (t * 2 ^ 24 + st.code)]
    else acts [
      predictRange (tdLo t) (tdLo t + 0x1000),
      wrA (TD_CTRL_MULT t) (s.rd (TD_CTRL_MULT t)), apply1 (TD_UNIT t),
      applyRange (chLo t) (chLo t + 0x400 * n),
      forN n fun j => portEnableChange (4 * t + j) (was.getD j false),
      whenDo (s.tdStructural t) (enterHold t c)]])

/-- `TD_COMMIT` (R158). -/
def execTdCommit (_w : Requester) (t : Fin 16) (v : Word) (s : State) : Host.Outcome State Fault Refusal :=
  done (whenDo (s.has .treadle && bit v.toNat 0) (wr (TD_STATUS_PENDING t) 1)) s

/-- `TD_APPLY_LINE` (R158): the line count of the frame has reached the apply line; at any other count nothing applies. -/
def execTdApplyLine (t : Fin 16) (s : State) : Host.Outcome State Fault Refusal :=
  done (whenDo (s.has .treadle && ((s.tdRun t).lines == s.rd (TD_APPLY t))) (tdApply t (s.tdRun t).clock)) s

/-! ## The wave program (R146 to R154) -/

/-- What is left of intervals outside a window. -/
def outside (w : Nat × Nat) (spans : List (Nat × Nat)) : List (Nat × Nat) :=
  (spans.flatMap fun (a, z) => [(a, min z w.1), (max a w.2, z)]).filter fun x => x.1 < x.2

/-- Put something out for the frame's program; in bit-plane mode the replay buffer keeps it (R159). -/
def tdOut (t : Nat) (m : OutMsg) (x : Shown) : Act := withS fun s => acts [emit m,
  whenDo (s.planes t) (updRun t fun r => { r with part := r.part ++ [x] })]

/-- A port's CTL is asserted, or not, between two chain clocks; the pin adds CTL_INV (R149). A port that is in discovery or absent is not
driven. -/
def ctlPulse (t p start stop : Nat) (asserted : Bool) : Act := withS fun s =>
  let level := asserted != s.onA (CH_CTRL_CTL_INV p)
  let c := (s.tdRun t).partAt
  whenDo (s.drives p && decide (start < stop)) (tdOut t (.ctl p start stop level) (.ctl p (start - c) (stop - c) level))

/-- A level that an instruction gives CTL reaches a port outside its open windows, which hold it asserted, and up to the frame's end, where the
Treadle stops (R149, R150). -/
def ctlSpan (t p start stop : Nat) (asserted : Bool) : Act := withS fun s =>
  forEach ((s.port p).windows.foldl (fun l w => outside w l) [(start, min stop (s.frameClocks t))]) fun (a, z) => ctlPulse t p a z asserted

/-- The Treadle stops at END (R148); a commit that waits applies at that end when the line count has not come to the apply line (R158). -/
def tdStop (t : Nat) (ckr : Bool) : Act := withS fun s => acts [
  updRun t fun r => { r with ended := true, closing := true, ck := ckr, lanes := false },
  whenDo (decide ((s.tdRun t).lines < s.rd (TD_APPLY t))) (tdApply t (s.tdRun t).clock)]

/-- Go on at word `pc`; execution past word 511 acts as END with CKR 0 (R147). -/
def tdGoTo (t pc : Nat) : Act := if 511 < pc then tdStop t false else wr (TD_STATUS_PC t) pc

/-- Execute one wave instruction of a Treadle that runs; `f` gets its run. -/
def tdInsn (t : Nat) (f : State → TdRun → Act) : Act := withS fun s =>
  whenDo (s.has .treadle && s.tdRuns t && !(s.tdRun t).ended) (f s (s.tdRun t))

/-- Advance the program to the next word, `n` clocks on from clock `c`. -/
def tdNext (t c : Nat) : Act := withS fun s =>
  acts [updRun t fun r => { r with clock := c }, tdGoTo t (s.rd (TD_STATUS_PC t) + 1)]

/-- `END` (R148). -/
def tdEnd (t : Nat) (ckr : Bool) : Act := tdInsn t fun _ _ => tdStop t ckr

/-- `EMIT` of `len` clocks (R148): a PHASED one inverts each port's CTL for the one clock at its offset. -/
def tdEmit (t : Nat) (ckr ctl lv phased : Bool) (len : Nat) : Act := tdInsn t fun s r =>
  acts [updRun t fun r => { r with ck := ckr, lanes := lv, ctl := ctl },
    forEach (s.tdPorts t) fun p =>
      let o := s.rdA (CH_PHASE_PHASE p) % len
      if phased then acts [ctlSpan t p r.clock (r.clock + o) ctl, ctlSpan t p (r.clock + o) (r.clock + o + 1) !ctl,
        ctlSpan t p (r.clock + o + 1) (r.clock + len) ctl]
      else ctlSpan t p r.clock (r.clock + len) ctl,
    tdNext t (r.clock + len)]

/-- `SHIFT` of `n` lamps, or of the longest line (R145, R148, R151 to R153): what the frame's end leaves of it (R150). -/
def tdShift (t : Nat) (auto : Bool) (data cnt n : Nat) : Act := tdInsn t fun s r =>
  let len := if auto then s.maxLamps t else n
  let k := if s.planes t then min r.marks (s.mult t - 1) else 0
  let left := (s.frameClocks t - r.clock) * (1 + s.rdA (TD_CTRL_EDGE t))
  acts [updRun t fun r => { r with ck := true, ctl := false },
    forEach (s.tdPorts t) fun p =>
      let plane := (r.counters.getD cnt 0 + s.rdA (CH_PHASE_ROTATE p)) % 12
      let (da, db) := laneBits (s.lanes p) (s.shiftBits p data len k plane)
      acts [updPort p fun x => { x with shifted := if s.planes t then some plane else none },
        sign 0 p r.lines s.frame (crcBits (interleave da db)),
        whenDo (s.drives p) (tdOut t (.chain p (da.take left) (db.take left)) (.shift p (da.take left) (db.take left)))],
    tdNext t (r.clock + s.shiftClocks t len)]

/-- `LATCH` of `width` clocks (R148). -/
def tdLatch (t : Nat) (ckr : Bool) (width : Nat) : Act := tdInsn t fun s r =>
  let a := max r.clock r.windowEnd
  acts [updRun t fun r => { r with ck := ckr, lanes := false, ctl := false },
    forEach (s.tdPorts t) fun p => acts [ctlSpan t p a (a + width) true,
      whenDo (s.planes t) (updPort p fun x => { x with latched := x.shifted })],
    tdNext t (a + width)]

/-- `ROW` (R148): every ROW adds 1 to the line count, and a commit applies when it reaches the apply line (R158). -/
def tdRow (t : Nat) (src : Bool) (cnt guard line : Nat) : Act := tdInsn t fun _ r =>
  let new := if src then r.counters.getD cnt 0 else line
  let a := max r.clock r.windowEnd
  let c := if new = r.line then r.clock else a + 1 + guard
  acts [updRun t fun r => { r with line := new, lines := r.lines + 1, ctl := r.ctl && new == r.line },
    whenDo (new != r.line) (tdOut t (.row t a new) (.row (a - r.partAt) new)),
    setRow t new, tdNext t c,
    withS fun s => whenDo ((s.tdRun t).lines == s.rd (TD_APPLY t)) (tdApply t c)]

/-- `WAIT` of `n` clocks; with PLANE it opens a window for each port that holds a latched plane and does not block (R148, R154). -/
def tdWait (t : Nat) (ckr plane oe : Bool) (n : Nat) : Act := tdInsn t fun s r =>
  if plane then acts [
    forEach (s.tdPorts t) fun p => match (s.port p).latched with
      | some b =>
        let a := r.clock + s.rdA (CH_PHASE_OE_OFF p)
        let z := a + 2 ^ b * s.rdA (TD_UNIT t)
        acts [ctlPulse t p a (min z (s.frameClocks t)) true,
          updPort p fun x => { x with windows := x.windows ++ [(a, z)] },
          updRun t fun r => { r with windowEnd := max r.windowEnd z }]
      | none => skip,
    tdNext t r.clock]
  else acts [updRun t fun r => { r with ck := ckr, lanes := false, ctl := oe },
    forEach (s.tdPorts t) fun p => ctlSpan t p r.clock (r.clock + n) oe,
    tdNext t (r.clock + n)]

/-- `LOOP` (R148). -/
def tdLoop (t c nsrc target n : Nat) : Act := tdInsn t fun s r =>
  let i := r.counters.getD c 0
  let len := match nsrc with | 0 => n | 1 => s.scanLines t | 2 => s.mult t | _ => 12
  if i + 1 < len then acts [updRun t fun r => { r with counters := r.counters.set c (i + 1) }, tdGoTo t target]
  else acts [updRun t fun r => { r with counters := r.counters.set c 0 }, tdNext t r.clock]

/-- `SUBF` (R148, R153): the replay buffer holds the sub-frame that ends here (R159). -/
def tdSubf (t : Nat) : Act := tdInsn t fun _ r => acts [
  updRun t fun r => { r with marks := r.marks + 1, last := r.part, lastLen := r.clock - r.partAt, part := [], partAt := r.clock },
  tdNext t r.clock]

/-- `TD_END`. -/
def execTdEnd (t : Fin 16) (ckr : Bool) (s : State) : Host.Outcome State Fault Refusal := done (tdEnd t ckr) s

/-- `TD_EMIT`. -/
def execTdEmit (t : Fin 16) (ckr ctl lv phased : Bool) (n : Fin 16384) (s : State) : Host.Outcome State Fault Refusal :=
  done (tdEmit t ckr ctl lv phased (n.val + 1)) s

/-- `TD_SHIFT`. -/
def execTdShift (t : Fin 16) (auto : Bool) (data cnt : Fin 4) (n : Fin 16384) (s : State) :
    Host.Outcome State Fault Refusal := done (tdShift t auto data cnt (n.val + 1)) s

/-- `TD_LATCH`. -/
def execTdLatch (t : Fin 16) (ckr : Bool) (width : Fin 16) (s : State) : Host.Outcome State Fault Refusal :=
  done (tdLatch t ckr (width.val + 1)) s

/-- `TD_ROW`. -/
def execTdRow (t : Fin 16) (src : Bool) (cnt : Fin 4) (guard : Fin 256) (line : Fin 32) (s : State) :
    Host.Outcome State Fault Refusal := done (tdRow t src cnt guard line) s

/-- `TD_WAIT`. -/
def execTdWait (t : Fin 16) (ckr plane oe : Bool) (n : Fin 16777216) (s : State) : Host.Outcome State Fault Refusal :=
  done (tdWait t ckr plane oe (n.val + 1)) s

/-- `TD_LOOP`. -/
def execTdLoop (t : Fin 16) (c nsrc : Fin 4) (target : Fin 512) (n : Fin 16384) (s : State) :
    Host.Outcome State Fault Refusal := done (tdLoop t c nsrc target (n.val + 1)) s

/-- `TD_SUBF`. -/
def execTdSubf (t : Fin 16) (s : State) : Host.Outcome State Fault Refusal := done (tdSubf t) s

/-! ## Status read-back (R161 to R164) -/

/-- Odd parity over a word of `n` bits. -/
def oddParity (n v : Nat) : Bool := ((List.range n).filter (bit v)).length % 2 == 1

/-- The status of a lamp after a good read of word `w` in which the channels `ev` were evaluated (R163). -/
def newStatus (old w : Nat) (ev : List Nat) : Nat :=
  if ev.any fun ch => bit w (2 * ch + 1) then lampShort
  else if ev.any fun ch => bit w (2 * ch) then lampOpen
  else if ev.length = 3 then lampOk else old

/-- Update the lamp at chain position `q` from its read-back word (R163): the values of the frame before decide which
channels are evaluated. -/
def readLamp (p ln q w : Nat) : Act := withS fun s =>
  match s.tl.prevShown.get none (lampKey p (s.lampAt p ln q)) with
  | none => skip
  | some o =>
    let win := s.rdA (TL_GRP_OUT_WIN (p / 4))
    let e := s.mapEntry o.entry
    let st := entryStatus e
    let ev := (List.range 3).filter fun ch => decide (0 < win ∧ win ≤ o.lit.getD ch 0)
    whenDo (decide (o.entry < mapSize) && (st == lampOk || st == lampOpen || st == lampUntested || st == lampProbeDue)
      && newStatus st w ev != st) (setLamp o.entry e (newStatus st w ev))

/-- A read of port `p` ends with the words `ws`, the first of chain position Lℓ − 1 (R161 to R164). -/
def portRead (t p : Nat) (ws : List Nat) : Act := withS fun s =>
  let n := if s.onA (CH_CTRL_RB16 p) then 16 else 8
  let l := s.lineLamps p
  let ln := (s.tdRun t).line
  let good := ws.length == l && ws.all (oddParity n)
  let temps := if n = 16 then (ws.filter (bit · 6)).map fun w => ((bits w 15 8 : Nat) : Int) * 4 - 160 else []
  let faults odd := ws.foldl (fun m w => m + ((List.range 3).filter fun ch => bit w (2 * ch + odd)).length) 0
  if !good then acts [count (CH_RB_FAIL p) 1, setEvent (TD_EVENT_RB_FAIL (p / 4)),
    whenDo ((s.port p).fails == 0) (ledger 0x3304 .treadle warning p),
    updPort p fun x => { x with fails := x.fails + 1 },
    whenDo (decide (1 ≤ (s.port p).fails)) (askDiscovery p .readback)]
  else acts [updPort p fun x => { x with fails := 0 },
    wr (CH_FAULTS_OPEN p) (min 65535 (faults 0)), wr (CH_FAULTS_SHORT p) (min 65535 (faults 1)),
    match temps.max? with
    | some c => acts [wr (CH_TEMP_VALID p) 1, wr (CH_TEMP_TEMP p) (ofSigned 12 c),
        updTl fun x => { x with tempAt := x.tempAt.set none p (some s.now) }, freshTemp (p / 4) 0]
    | none => wr (CH_TEMP_VALID p) 0,
    whenDo (decide (ln < s.scanLines t)) (forN l fun i => readLamp p ln (l - 1 - i) (ws.getD i 0))]

/-- The steps of RET that a read of a port skips, and the steps that a lamp takes (R161). -/
def State.readSkip (s : State) (p : Nat) : Nat := s.rdA (CH_RET_DLY p) + s.rdA (CH_RET_RET_ADJ p)
def State.readSteps (s : State) (p : Nat) : Nat := s.lampBits p / s.lanes p

/-- The number that bits spell, the first the most significant. -/
def ofBits (bs : List Bool) : Nat := bs.foldl (fun n b => 2 * n + b2n b) 0

/-- The words that a read of port `p` takes from the levels of RET, one for each step: the first 8 or 16 bits of each lamp (R161), the first the
most significant (DEDUCED, log 147: as every channel is sent). RET is low where no level is given. -/
def State.retWords (s : State) (p : Nat) (ret : List Bool) : List Nat :=
  let n := if s.onA (CH_CTRL_RB16 p) then 16 else 8
  (List.range (s.lineLamps p)).map fun i =>
    ofBits ((List.range n).map fun j => ret.getD (s.readSkip p + i * s.readSteps p + j) false)

/-- `DETECT` (R148, R161), with the levels of RET on each port. -/
def tdDetect (t : Nat) (ret : Nat → List Bool) : Act := tdInsn t fun s r =>
  let rb := (s.tdPorts t).filter fun p => s.onA (CH_CTRL_RB_EN p)
  let len := rb.foldl (fun n p => max n (s.stepClocks t
    (s.readSkip p + ceilDiv (s.lineLamps p * s.lampBits p) (s.lanes p)))) 0
  acts [updRun t fun r => { r with ck := true, lanes := false, ctl := false },
    forEach (rb.filter s.drives) fun p => portRead t p (s.retWords p (ret p)),
    tdNext t (r.clock + len)]

/-- `TD_DETECT`: a port that is not listed shows a RET that stays low. -/
def execTdDetect (t : Fin 16) (rets : List (Fin 64 × List Bool)) (s : State) : Host.Outcome State Fault Refusal :=
  done (tdDetect t fun p => match rets.find? fun x => x.1.val == p with | some (_, bs) => bs | none => []) s

/-! ## Discovery (R165 to R167) -/

/-- `CH_DISC_REQ`: a write of CH_DISC with REQ set (R165). A port whose ENABLE is not in effect has none (log 16). -/
def execChDiscReq (_w : Requester) (port : Fin 64) (_v : Word) (s : State) : Host.Outcome State Fault Refusal :=
  done (whenDo (s.has .treadle && s.onA (CH_CTRL_ENABLE port.val)) (askDiscovery port .request)) s

/-- An ABSENT port runs discovery again every 1 s (R165). -/
def rediscover (p : Nat) : Act := withS fun s =>
  whenDo (s.has .treadle && (s.port p).absent && decide ((s.port p).absentAt + 10 ^ 9 ≤ s.now)) (askDiscovery p .absent)

/-- `ABSENT_PORT_REDISCOVER`. -/
def execAbsentPortRediscover (port : Fin 64) (s : State) : Host.Outcome State Fault Refusal := done (rediscover port) s

/-- The zero steps K that flush a chain before the marker (R166). -/
def State.discFlush (s : State) (p : Nat) : Nat := s.readSkip p + ceilDiv (16384 * s.lampBits p) (s.lanes p)

/-- Discoveries that wait begin with the flush and the 16 steps of the marker, and ports whose discovery has ended rejoin the program (R165, R166). -/
def discoveryBoundary (p : Nat) : Act := withS fun s =>
  let t := s.leader (p / 4)
  whenDo (s.rd (TD_STATUS_STATE t) != tdHold) (acts [
    whenDo ((s.port p).rejoin) (updPort p fun x => { x with rejoin := false, out := false }),
    match (s.port p).asked with
    | some why => acts [updPort p fun x => { x with asked := none, runs := some why, out := true },
        emit (.flat p (s.discFlush p) false), emit (.flat p 16 true)]
    | none => skip])

/-- The outcome of a discovery: its RESULT code and the length (R166). -/
def State.discOutcome (s : State) (p : Nat) (ret : DiscRet) : Nat × Nat :=
  let fixed := s.readSkip p
  match ret with
  | none => (2, 0)
  | some (n, clean) =>
    if s.discFlush p + 16 < n then (2, 0)
    else if !clean then (4, 0)
    else if n < fixed ∨ (n - fixed) * s.lanes p % max 1 (s.lampBits p) ≠ 0 then (3, 0)
    else (1, (n - fixed) * s.lanes p / max 1 (s.lampBits p))

/-- `DISCOVERY_END` (R166, R167). -/
def execDiscoveryEnd (port : Fin 64) (ret : DiscRet) (s : State) : Host.Outcome State Fault Refusal :=
  done (match (s.port port).runs with
    | none => skip
    | some why =>
      let t := port.val / 4
      let (res, l) := s.discOutcome port ret
      let pay n := port.val * 2 ^ 24 + n
      acts [wr (CH_DISC_RESULT port) res, wr (CH_DISC_BUSY port) 0,
        updPort port fun x => { x with runs := none, rejoin := true, absent := res == 2, absentAt := s.now },
        match res with
        | 1 => acts [wr (CH_DISC_LENGTH port) l,
            if (s.port port).absent then acts [setEvent (TD_EVENT_ARRIVAL t), ledger 0x3305 .treadle note (pay l)]
            else if l ≠ s.lineLamps port then
              acts [setEvent (TD_EVENT_LENGTH t), ledger 0x3302 .treadle warning (pay l)]
            else whenDo (why == .enable || why == .request) (ledger 0x3301 .treadle note (pay l))]
        | 2 => acts [setEvent (TD_EVENT_ABSENT t), ledger 0x3303 .treadle warning port]
        | _ => acts [setEvent (TD_EVENT_LENGTH t), ledger 0x3306 .treadle warning (pay res)]]) s

/-! ## Frame boundary: the Treadles' part (R146, R150, R153, R158, R159) -/

/-- A window goes on into the next frame from its clocks in this one of `n` clocks (R148). -/
def carryWindow (n : Nat) (w : Nat × Nat) : Nat × Nat := (w.1 - n, w.2 - n)

/-- A frame of Treadle `t` ends: overrun or slack, the line count and the sub-frame marks (R150, R153). Windows still open after END run on,
and an overrun closes them; after END CTL has kept its level (R148). -/
def tdFinish (t : Nat) : Act := withS fun s =>
  let r := s.tdRun t
  let n := s.frameClocks t
  let ends := r.ended && decide (r.clock ≤ n)
  whenDo (s.tdRuns t || r.closing) (acts [
    if ends then acts [wr (TD_SLACK t) (n - r.clock),
      whenDo r.ctl (forEach (s.tdPorts t) fun p => ctlSpan t p r.clock n true)]
    else acts [count (TD_OVERRUN t) 1, wr (TD_SLACK t) 0, setEvent (TD_EVENT_OVERRUN t), ledger 0x3201 .treadle warning t],
    forEach (s.tdPorts t) fun p => updPort p fun x => { x with
      windows := if ends then (x.windows.filter fun w => decide (n < w.2)).map (carryWindow n) else [] },
    updRun t fun r => { r with ended := ends, closing := false, windowEnd := if ends then r.windowEnd - n else 0 },
    wr (TD_LINE_LINES t) r.lines,
    whenDo (s.planes t && decide (r.marks < s.mult t)) (acts [count (TD_SUBF_SHORT t) 1, setEvent (TD_EVENT_SUBF t),
      ledger 0x3205 .treadle warning (t * 2 ^ 24 + r.marks % 2 ^ 16)]),
    whenDo (s.planes t && decide (s.mult t < r.marks)) (acts [count (TD_SUBF_EXTRA t) 1, setEvent (TD_EVENT_SUBF t)])])

/-- The state of a Treadle that is not in HOLD; one that does not run holds its ports and row pins at rest. -/
def tdState (t : Nat) : Act := withS fun s =>
  if s.follows t then wr (TD_STATUS_STATE t) tdFollow
  else if s.onA (TD_CTRL_ENABLE t) then wr (TD_STATUS_STATE t) tdRunning
  else acts [wr (TD_STATUS_STATE t) tdIdle, updRun t fun _ => {}, setRow t 0]

/-- A HOLD counts down, and ends at the second boundary: the structural fields take effect (R159). -/
def tdHoldBoundary (t : Nat) : Act := withS fun s =>
  let r := s.tdRun t
  if r.hold = 0 then skip
  else if 1 < r.hold then updRun t fun r => { r with hold := r.hold - 1 }
  else acts [updRun t fun r => { r with hold := 0 }, scanRange (tdLo t) (tdLo t + 0x1000), tdState t,
    setEvent (TD_EVENT_HOLD_END t), ledger 0x3203 .treadle note t]

/-- The program starts at word 0 (R146), with the windows that the frame before left open. -/
def tdRestart (t : Nat) : Act := withS fun s => whenDo (s.tdRuns t) (acts [wr (TD_STATUS_PC t) 0,
  updRun t fun r => { r with ended := false, clock := 0, counters := [0, 0, 0, 0], marks := 0, lines := 0, part := [], partAt := 0 },
  forEach (s.tdPorts t) fun p => forEach (s.port p).windows fun w => ctlPulse t p w.1 (min w.2 (s.frameClocks t)) true])

/-- The frame of every Treadle ends. -/
def treadleFinish : Act := withS fun s => whenDo (s.has .treadle) (forN 16 tdFinish)

/-- A pending commit applies at the boundary: with APPLY_LINE 0, at an overrun that comes before the apply line, and for a Treadle that runs no
program (R158, R160). -/
def State.appliesNow (s : State) (t : Nat) : Bool :=
  let r := s.tdRun t
  s.rd (TD_STATUS_STATE t) != tdRunning || s.rd (TD_APPLY t) == 0 || (!r.ended && decide (r.lines < s.rd (TD_APPLY t)))

/-- The Treadles at a frame boundary, after `treadleFinish`. A commit to a Treadle in HOLD is decided before the HOLD
ends (R528); a HOLD that begins here counts from the next boundary. `depthChanged` names those whose DEPTH takes effect now: on
either Treadle of a pair the HOLD is the leader's (R156, R159). -/
def treadleBoundary (depthChanged : Nat → Bool) : Act := withS fun s0 => whenDo (s0.has .treadle) (acts [
  forN 16 fun t => withS fun s => acts [
    whenDo (s.appliesNow t) (tdApply t 0),
    whenDo ((depthChanged t || (s.seams t && depthChanged (t + 1))) && s.tdRuns t && !s.planes t) (enterHold t 0)],
  forN 16 fun t => whenDo (s0.rd (TD_STATUS_STATE t) == tdHold) (tdHoldBoundary t),
  forN 16 fun t => withS fun s => whenDo (s.rd (TD_STATUS_STATE t) != tdHold) (tdState t),
  forN 64 discoveryBoundary,
  forN 16 tdRestart,
  forN 16 fun t => withS fun s => acts [
    whenDo (s.follows t) (wr (TD_LINE_ROWSEL t) (s.rd (TD_LINE_ROWSEL (t - 1)))),
    -- bit-plane ports in HOLD repeat the last complete sub-frame
    whenDo (s.rd (TD_STATUS_STATE t) == tdHold && s.planes t) (replay t 0)]])

/-! ## The program that a Treadle runs by itself (R146, R147) -/

/-- What a wave word of Treadle `t` does (R147): its opcode, and the fields that each instruction reads. A DETECT reads RET at levels that come
from outside the part (free values, log 147). A reserved opcode, which no commit lets through, does nothing. -/
def waveAct (t w : Nat) : Act := match bits w 31 28 with
  | 0 => tdEnd t (bit w 27)
  | 1 => tdEmit t (bit w 27) (bit w 26) (bits w 25 24 == 1) (bit w 23) (bits w 13 0 + 1)
  | 2 => tdShift t (bit w 27) (bits w 25 24) (bits w 23 22) (bits w 13 0 + 1)
  | 3 => tdLatch t (bit w 27) (bits w 3 0 + 1)
  | 4 => tdRow t (bit w 27) (bits w 25 24) (bits w 21 14) (bits w 4 0)
  | 5 => tdWait t (bit w 27) (bit w 26) (bit w 25) (bits w 23 0 + 1)
  | 6 => tdLoop t (bits w 27 26) (bits w 25 24) (bits w 22 14) (bits w 13 0 + 1)
  | 7 => withFree fun v => withS fun s =>
      tdDetect t fun p => (List.range (s.readSkip p + s.lineLamps p * s.readSteps p)).map fun i => bit v (64 * i + p)
  | 8 => tdSubf t
  | _ => skip

/-- The chain clocks of the frame that have passed for Treadle `t`. -/
def State.clocksPassed (s : State) (t : Nat) : Nat := s.ys.pos % frameUnits * s.frameClocks t / frameUnits

/-- The word a running Treadle executes next, once the clock at which it begins has come. -/
def State.waveWord (s : State) (t : Nat) : Option Nat :=
  if s.has .treadle && s.tdRuns t && !(s.tdRun t).ended && decide ((s.tdRun t).clock ≤ s.clocksPassed t) then
    some (s.rdA (TD_WAVE t (s.rd (TD_STATUS_PC t)))) else none

/-- Treadle `t` executes the word at its PC when that word's clock has come. -/
def treadleStep (t : Nat) : Act := withS fun s => match s.waveWord t with
  | some w => waveAct t w
  | none => skip

/-- The Treadles in one CK_TL cycle. DESIGN CHOICE (log 147): at most 16 instructions of each, which take no time of their own. -/
def treadlesRun : Act := withS fun s => whenDo (s.has .treadle) (forN 16 fun t => forN 16 fun _ => treadleStep t)

end Sys2Proof.Machine
end

