-- ==== Sys2Proof/Machine/Sys.lean ====
section
/-!
DEFINITION. The SYS block: the profile request and its decision (R34, R397, R559), the configuration word of the next start (R36 to R39), and
the die temperature (R557).
-/

namespace Sys2Proof.Machine

/-! ## The profile (R33 to R35, R397, R559) -/

/-- A SYS request is refused (R34, R558). -/
def sysRefuse (st : Status) : Act := acts [wr SYS_STATUS_PENDING 0, result SYS_STATUS_RESULT st, count SYS_REFUSALS 1,
  refusedWrite .sys SYS_COMMIT_COMMIT.addr st, updMt fun m => { m with own := none, peer := none, decideAt := none }]

/-- The joint decision fails (R397): STATE, but for a reserved encoding, whose check comes first (R34). -/
def jointRefuse : Act := withS fun s =>
  let st : Status := if s.rd SYS_PROFILE_PROFILE = 3 then .badarg else .state
  acts [sysRefuse st, ledger 0x7010 .mantle note st.code]

/-- Every frame rate and refresh multiplier in effect or pending suits the profile (R34, R559). -/
def State.profileSuits (s : State) (prof : Nat) : Bool :=
  rateWithin prof s.rateNum s.rateDen
  && (!(s.on YS_STATUS_PENDING && ysCommitLegal s) || rateWithin prof (s.rd YS_RATE_NUM) (s.rd YS_RATE_DEN))
  && (List.range 16).all fun t => decide (s.rdA (TD_CTRL_MULT t) ≤ profileMaxMult prof)
    && (!(s.on (TD_STATUS_PENDING t) && s.tdLegal t) || decide (s.rd (TD_CTRL_MULT t) ≤ profileMaxMult prof))

/-- The request is decided at its frame boundary (R34). -/
def sysDecide : Act := withS fun s =>
  let prof := s.rd SYS_PROFILE_PROFILE
  if prof = 3 then sysRefuse .badarg
  else if s.profileSuits prof then acts [wr SYS_STATUS_PENDING 0, result SYS_STATUS_RESULT .ok,
    apply1 SYS_PROFILE_PROFILE, wr SYS_PROFILE_ACTIVE prof, wr DR_BUDGET_LIMIT (profileBudget prof * 4194304),
    updMt fun m => { m with own := none, peer := none, decideAt := none }]
  else sysRefuse .state

/-- Both requests of a pair are here: the same profile fixes the decision frame, different ones refuse the request (R397). -/
def jointDecide : Act := withS fun s =>
  match s.mt.own, s.mt.peer with
  | some (f, p, _), some (g, q, at_) =>
    if s.now ≤ at_ + 10 ^ 9 then
      if p = q then updMt fun m => { m with decideAt := some (max f g + 8) } else jointRefuse
    else updMt fun m => { m with peer := none }
  | _, _ => skip

/-- Send this device's PROFILE frame. -/
def sendProfile : Act := withS fun s =>
  match s.mt.own with
  | some (f, p, _) => pairSend (.profile f p)
  | none => skip

/-- A write of SYS_COMMIT (R34, R397); a second one before the decision has no further effect. -/
def sysCommitWrite (v : Nat) : Act := withS fun s => whenDo (bit v 0 && !s.on SYS_STATUS_PENDING) (acts [
  wr SYS_STATUS_PENDING 1,
  whenDo (s.on MT_STATUS_PAIRED) (acts [
    updMt fun m => { m with own := some (s.frame, s.rd SYS_PROFILE_PROFILE, s.now), profileAt := s.now + 10 ^ 6 }, sendProfile, jointDecide])])

/-- `SYS_COMMIT`. -/
def execSysCommit (_w : Requester) (v : Word) (s : State) : Host.Outcome State Fault Refusal :=
  done (sysCommitWrite (v.toNat ||| 1)) s

/-- `PROFILE` (R397). -/
def execProfileFrame (_seq : Nat) (frame : BitVec 40) (prof : Fin 4) (s : State) : Host.Outcome State Fault Refusal :=
  done (whenDo (s.mtOn && s.on MT_STATUS_LINK && s.mt.decideAt.isNone) (acts [
    updMt fun m => { m with peer := some (frame.toNat, prof.val, s.now) }, jointDecide])) s

/-- `PROFILE_FRAME_REPEAT`. -/
def execProfileFrameRepeat (s : State) : Host.Outcome State Fault Refusal := done sendProfile s

/-- No PROFILE has come within 1 s of the device's own write (R397). -/
def jointTimeout : Act := withS fun s =>
  whenDo ((s.mt.own.any fun x => decide (x.2.2 + 10 ^ 9 ≤ s.now)) && s.mt.decideAt.isNone) jointRefuse

/-- `PROFILE_JOINT_TIMEOUT`. -/
def execProfileJointTimeout (s : State) : Host.Outcome State Fault Refusal := done jointTimeout s

/-- A joint request in its own time: PROFILE goes again every 1 ms until it is decided, or fails (R397). -/
def profileRun : Act := withS fun s => acts [
  whenDo (s.mt.own.isSome && decide (s.mt.profileAt ≤ s.now)) (acts [sendProfile, updMt fun m => { m with profileAt := s.now + 10 ^ 6 }]),
  jointTimeout]

/-- The SYS block's part of a frame boundary: `f` is the frame that the boundary opens. -/
def sysBoundary (f : Nat) : Act := withS fun s => whenDo (s.on SYS_STATUS_PENDING) (
  if s.mt.own.isNone then sysDecide
  else whenDo (match s.mt.decideAt with | some d => decide (d ≤ f) | none => false) sysDecide)

/-! ## The configuration word (R36 to R39) -/

/-- A configuration word is legal (R38). -/
def legalConfig (w : Nat) : Bool :=
  bit w 0 && (!bit w 30 || (bits w 7 4 == 0 && !bit w 15 && !bit w 16)) && (!bit w 12 || bit w 11)

/-- A write of SYS_NEXTCFG (R38, R39). -/
def nextcfgWrite (w : Requester) (v : Nat) : Act := withS fun s =>
  if !s.holds0 w then acts [result SYS_STATUS_RESULT .state, count SYS_REFUSALS 1,
    refusedWrite .sys SYS_NEXTCFG_VALID.addr .state]
  else if bit v 31 && !legalConfig (bits v 30 0) then acts [result SYS_STATUS_RESULT .badarg, count SYS_REFUSALS 1]
  else acts [wr SYS_NEXTCFG_VALID (bits v 31 31), wr SYS_NEXTCFG_WORD (bits v 30 0), result SYS_STATUS_RESULT .ok]

/-- `SYS_NEXTCFG_WRITE`. -/
def execSysNextcfgWrite (w : Requester) (v : Word) (s : State) : Host.Outcome State Fault Refusal :=
  done (nextcfgWrite w v.toNat) s

/-! ## Die temperature (R557) -/

/-- The grade limit in quarter degrees (R557). -/
def State.tempLimit (s : State) : Int := if s.rd SYS_ID_GRADE == 0 then 400 else 420

/-- `TEMP_SENSOR_UPDATE`. -/
def execTempSensorUpdate (q : BitVec 12) (s : State) : Host.Outcome State Fault Refusal :=
  let t := q.toInt
  let l := s.tempLimit
  done (acts [
    wr SYS_TEMP_TEMP q.toNat,
    whenDo (decide (l - 20 ≤ t) && !s.on SYS_TEMP_NEAR) (acts [wr SYS_TEMP_NEAR 1, ledger 0xC201 .sys warning (ofSigned 32 t)]),
    whenDo (decide (t ≤ l - 32)) (wr SYS_TEMP_NEAR 0),
    whenDo (decide (l ≤ t) && !s.on SYS_TEMP_ABOVE) (acts [wr SYS_TEMP_ABOVE 1, ail .env,
      ledger 0xC202 .sys error (ofSigned 32 t)]),
    whenDo (decide (t ≤ l - 12)) (wr SYS_TEMP_ABOVE 0)]) s

end Sys2Proof.Machine
end

