-- ==== Sys2Proof/Machine/Tally.lean ====
section
/-!
DEFINITION. Tally (its chapter): samples, circuits and their energies, the one-second window, zero crossings, pulse outputs,
exports, and saving and restoring.
-/

namespace Sys2Proof.Machine

def State.tyChan (s : State) (n : Nat) : TyChan := s.ty.chans.get {} n
def updTyChan (n : Nat) (f : TyChan → TyChan) : Act := updTy fun t => { t with chans := t.chans.set {} n (f (t.chans.get {} n)) }
def State.tyCirc (s : State) (c : Nat) : TyCirc := s.ty.circs.get {} c
def updTyCirc (c : Nat) (f : TyCirc → TyCirc) : Act := updTy fun t => { t with circs := t.circs.set {} c (f (t.circs.get {} c)) }
def State.tyPulse (s : State) (p : Nat) : TyPulse := s.ty.pulses.get {} p
def updTyPulse (p : Nat) (f : TyPulse → TyPulse) : Act :=
  updTy fun t => { t with pulses := t.pulses.set {} p (f (t.pulses.get {} p)) }

/-- Tally samples (R458). -/
def State.tyOn (s : State) : Bool := s.has .tally && s.on TY_STATUS_RUNNING

/-! ## Samples (R440, R441) -/

/-- The greatest sample. -/
def tyTop : Int := 8388607

/-- PHASE of a current channel. -/
def State.tyPhase (s : State) (n : Nat) : Int := if n < 8 then 0 else signedOf 9 (s.rdA (TY_PHASE n))

/-- A sample corrected, before the clamp. -/
def State.tyCorrect (s : State) (n : Nat) (x : Int) : Int :=
  ((x - signedOf 24 (s.rdA (TY_OFFSET n))) * (s.rdA (TY_GAIN n) : Nat) + 2097152) / 4194304

/-- A value between two, at `k` of 256 from the first, rounded half up. -/
def between (a b k : Int) : Int := (a * 256 + (b - a) * k + 128) / 256

/-- The corrected sample that a channel delivers when `x` follows `now` and `prev`: delayed by PHASE; with a negative PHASE it is
the one before `x` brought forward (log 25). -/
def tyDelayed (phase prev now x : Int) : Int :=
  if phase < 0 then between now x (-phase) else let _ := prev; between x now phase

/-- A corrected sample scaled to 1/16 mV or 1/16 mA. -/
def State.tyScale (s : State) (n : Nat) (x : Int) : Int := (x * (s.rdA (TY_FS n) : Nat) + 262144) / 524288

/-! ## Zero crossings and mains (R450, R451) -/

/-- TIMEOUT of a voltage channel in ns, as R451 limits it. -/
def State.zxTimeout (s : State) (v : Nat) : Nat := min 100 (max 2 (s.rd (TY_ZX_CFG_TIMEOUT v))) * 10 ^ 6

/-- The group delay of a channel in ns (R440). -/
def groupDelay : Nat := 187350

/-- The instant between a sample below 0 and one at or above it (R450). -/
def crossAt (xa xb : Int) (ta : Nat) : Nat :=
  ta + ((125000 * (-xa) + (xb - xa) / 2) / (xb - xa)).toNat - groupDelay

/-- A rising crossing completes on voltage channel `v`: it is valid 12.5 ms to 28.6 ms after the one before; `k` tells. -/
def crossing (v t : Nat) (k : Bool → Act) : Act := withS fun s =>
  match (s.tyChan v).last with
  | none => acts [updTyChan v fun c => { c with last := some t }, k false]
  | some l =>
    let d := t - l
    if 12500000 ≤ d ∧ d ≤ 28600000 then acts [
      updTyChan v fun c => { c with last := some t, gap := d, run := c.run + 1, count := c.count + 1,
                                    first := some (c.first.getD l) },
      withStamp fun _ => wrPair (TY_ZX_TICK_LO v) (TY_ZX_TICK_HI v) t,
      withS fun s => whenDo (!s.on (TY_ZX_PRESENT v) && decide (3 ≤ (s.tyChan v).run))
        (acts [wr (TY_ZX_PRESENT v) 1, ledger 0x9006 .tally note v]),
      whenDo (s.rd YS_MAINS_CFG_VCH == v) (referenceAt (s.ys.tick - t) .mains), k true]
    else acts [updTyChan v fun c => { c with run := 0, last := if 28600000 < d then some t else c.last }, k false]

/-- The crossing detector of voltage channel `v` takes a corrected sample (R450). -/
def detect (v : Nat) (x : Int) (k : Bool → Act) : Act := withS fun s =>
  let c := s.tyChan v
  let hyst : Int := (s.rd (TY_ZX_CFG_HYST v) : Nat)
  let cross := if x < 0 then none else match c.cross, c.below with
    | some t, _ => some t | none, some (xa, ta) => some (crossAt xa x ta) | none, none => none
  let fires := c.armed && decide (hyst ≤ x)
  acts [
    updTyChan v fun c => { c with
      cross := if fires then none else cross, armed := (c.armed && !fires) || decide (x ≤ -hyst)
      below := if x < 0 then some (x, s.ys.tick) else if fires then none else c.below },
    match fires, cross with
    | true, some t => crossing v t k
    | _, _ => k false]

/-- `MAINS_LOSS` (R451). -/
def mainsLoss (v : Nat) : Act := withS fun s => whenDo (s.on (TY_ZX_PRESENT v)) (acts [
  wr (TY_ZX_PRESENT v) 0, updTyChan v fun c => { c with run := 0, last := none },
  setEvent TY_EVENT_MAINS, ledger 0x9005 .tally warning v,
  whenDo (s.rd YS_MAINS_CFG_VCH == v) (loseSource 5)])
def execMainsLoss (v : Fin 8) (s : State) : Host.Outcome State Fault Refusal := done (mainsLoss v) s

/-! ## Energies (R445, R446, R452) -/

/-- One energy LSB. -/
def energyLsb : Nat := 73728000000

/-- An energy register with its WRAP counter: 56 bits. -/
def State.energy (s : State) (c q : Nat) : Nat :=
  s.rd (TY_ENERGY_LO c q) + s.rd (TY_ENERGY_HI_ENERGY c q) * 2 ^ 32 + s.rd (TY_ENERGY_HI_WRAP c q) * 2 ^ 48

/-- Set an energy register with its WRAP counter. -/
def setEnergy (c q n : Nat) : Act := acts [wr (TY_ENERGY_LO c q) n, wr (TY_ENERGY_HI_ENERGY c q) (n / 2 ^ 32),
  wr (TY_ENERGY_HI_WRAP c q) (n / 2 ^ 48)]

/-- CONST and WIDTH in ns of a pulse output, as R452 limits them. -/
def State.pulseConst (s : State) (p : Nat) : Nat := max 1 (s.rd (TY_PULSE_CONST p))
def State.pulseWidth (s : State) (p : Nat) : Nat := min 250 (max 10 (s.rd (TY_PULSE_WIDTH p))) * 10 ^ 6

/-- Pulse output `p` counts `n` more LSB (R452). -/
def pulseAdd (p n : Nat) : Act := withS fun s =>
  let a := (s.tyPulse p).acc + n
  let back := s.rd (TY_PULSE_BACK_BACKLOG p) + a / s.pulseConst p
  let minute := s.now / (60 * 10 ^ 9)
  acts [
    updTyPulse p fun x => { x with acc := a % s.pulseConst p },
    wr (TY_PULSE_BACK_BACKLOG p) (min 65535 back),
    whenDo (decide (65535 < back)) (acts [count (TY_PULSE_BACK_DROPPED p) (back - 65535), setEvent TY_EVENT_PULSE_FULL,
      whenDo ((s.tyPulse p).noted != some minute) (acts [updTyPulse p fun x => { x with noted := some minute },
        ledger 0x9008 .tally warning p])])]

/-- Add to an energy register in units below an LSB, and to the pulse outputs that count it (R445, R446). -/
def energyAdd (c q units : Nat) : Act := withS fun s =>
  let total := s.ty.res.get 0 (c * 4 + q) + units
  let add := total / energyLsb
  let old := s.energy c q
  let wraps := (old % 2 ^ 48 + add) / 2 ^ 48
  acts [
    updTy fun t => { t with res := t.res.set 0 (c * 4 + q) (total % energyLsb) },
    setEnergy c q ((old + add) % 2 ^ 56),
    forN wraps fun _ => acts [setEvent TY_EVENT_WRAP, ledger 0x9009 .tally note (c * 2 ^ 24 + q)],
    forN 8 fun p => whenDo (s.on (TY_PULSE_EN p) && s.rd (TY_PULSE_CIRC p) == c && s.rd (TY_PULSE_QTY p) == q) (pulseAdd p add)]

/-- A circuit's period ends (R445). -/
def periodEnd (c : Nat) : Act := withS fun s =>
  let x := s.tyCirc c
  let apparent := isqrt (x.sv * x.si)
  whenDo (decide (0 < x.n)) (acts [
    updTyCirc c fun x => { x with n := 0, p := 0, sv := 0, si := 0 },
    energyAdd c 0 x.p.toNat, energyAdd c 1 (-x.p).toNat,
    energyAdd c 2 (isqrt (apparent * apparent - x.p.natAbs * x.p.natAbs)), energyAdd c 3 apparent])

/-- `TALLY_PERIOD_END`. -/
def execTallyPeriodEnd (c : Fin 24) (s : State) : Host.Outcome State Fault Refusal := done (whenDo s.tyOn (periodEnd c)) s

/-- The channels of a circuit in effect, and whether one of them is in FAULT. -/
def State.tyV (s : State) (c : Nat) : Nat := s.rdA (TY_CIRC_VCH c)
def State.tyI (s : State) (c : Nat) : Nat := 8 + s.rdA (TY_CIRC_ICH c)
def State.circFault (s : State) (c : Nat) : Bool := s.on (TY_CH_FAULT (s.tyV c)) || s.on (TY_CH_FAULT (s.tyI c))

/-- Circuit `c` takes the samples its channels have delivered; a fault adds nothing and its time is counted (R442, R445, R448). -/
def circSample (c : Nat) : Act := withS fun s => whenDo (s.onA (TY_CIRC_EN c)) (
  let v := s.tyChan (s.tyV c)
  let uv := if s.tyPhase (s.tyI c) < 0 then v.uPrev else v.u
  let ui := (s.tyChan (s.tyI c)).u
  let bad := s.circFault c
  let part := (s.tyCirc c).faultPart + 1
  acts [
    updTyCirc c fun x =>
      if bad then { x with n := x.n + 1, fault := true, faultPart := part % 8 }
      else { x with
        n := x.n + 1, p := x.p + uv * ui, sv := x.sv + (uv * uv).toNat, si := x.si + (ui * ui).toNat
        wp := x.wp + uv * ui, wv := x.wv + (uv * uv).toNat, wi := x.wi + (ui * ui).toNat, wm := x.wm + ui },
    whenDo (bad && part % 8 == 0) (count (TY_CSTAT_FAULT_MS c) 1),
    withS fun s => whenDo ((s.onA (TY_CIRC_DC c) || !s.on (TY_ZX_PRESENT (s.tyV c))) && decide (160 ≤ (s.tyCirc c).n))
      (periodEnd c)])

/-! ## The window (R448, R457) -/

/-- Division rounded to the nearest. -/
def roundDiv (a b : Nat) : Nat := if b = 0 then 0 else (a + b / 2) / b

/-- Publish a circuit's window (R448): the measured current M, or none. -/
def tallyPublish (c : Nat) : Act := withS fun s =>
  let x := s.tyCirc c
  whenDo (s.onA (TY_CIRC_EN c)) (
    if x.fault then wr (TY_CSTAT_PUBLISHED c) 0
    else
      let irms := (isqrt (x.wi / 8000) + 8) / 16
      let imean := x.wm.tdiv 128000
      let p := x.wp.tdiv 2048000000
      let ap := isqrt (x.wv * x.wi) / 2048000000
      let pf : Int := if ap = 0 then 0 else clampInt (-32767) 32767 ((p * 32768).tdiv ap)
      acts [wr (TY_CSTAT_PUBLISHED c) 1, wr (TY_VRMS c) ((isqrt (x.wv / 8000) + 8) / 16), wr (TY_IRMS c) irms,
        wr (TY_IMEAN c) (ofSigned 32 imean), wr (TY_P c) (ofSigned 32 p), wr (TY_S c) ap, wr (TY_PF c) (ofSigned 16 pf),
        wr (TY_M c) (if s.onA (TY_CIRC_PURSE_Q c) then imean.toNat else irms)])

/-- The checks of R457 on the shadowed fields. -/
def State.tyLegal (s : State) : Bool :=
  ((List.range 24).all fun c => !s.on (TY_CIRC_EN c) || (decide (s.rd (TY_CIRC_ICH c) < 24)
    && s.rd (TY_FS (s.rd (TY_CIRC_VCH c))) != 0 && s.rd (TY_FS (8 + s.rd (TY_CIRC_ICH c))) != 0))
  && (List.range 32).all fun n => decide (-128 ≤ signedOf 9 (s.rd (TY_PHASE n)) ∧ signedOf 9 (s.rd (TY_PHASE n)) ≤ 128)

/-- The commit changes a channel's fields, or a circuit's (R457). -/
def State.tyChanged (s : State) (n : Nat) : Bool :=
  [TY_GAIN n, TY_OFFSET n, TY_FS n, TY_PHASE n].any fun f => regOf s.regs f != regOf s.active f
def State.circChanged (s : State) (c : Nat) : Bool :=
  regOf s.regs (TY_CIRC_EN c) != regOf s.active (TY_CIRC_EN c) || s.tyChanged (s.tyV c) || s.tyChanged (s.tyI c)

/-- The end of a window (R448, R449, R457): a commit ends the periods of the circuits it changes, the window is published, and the
commit is applied. -/
def windowClose : Act := withS fun s =>
  let commit := s.on TY_STATUS_PENDING
  let legal := s.tyLegal
  whenDo (decide (0 < s.ty.window)) (acts [
    whenDo (commit && legal) (forN 24 fun c => whenDo (s.circChanged c) (periodEnd c)),
    forN 24 tallyPublish, bump TY_WIN_SEQ 1,
    withStamp fun t => wrPair TY_WIN_TICK_LO TY_WIN_TICK_HI t.tick,
    forN 8 fun v => withS fun s =>
      let x := s.tyChan v
      wr (TY_ZX_FREQ v) (match x.first, x.last with
        | some a, some b => if x.count = 0 then 0 else roundDiv (x.count * 10 ^ 12) (b - a)
        | _, _ => 0),
    setEvent TY_EVENT_WINDOW,
    withS fun s => updTl fun t => { t with window := some ((List.range 24).map fun c =>
      if s.onA (TY_CIRC_EN c) && s.on (TY_CSTAT_PUBLISHED c) then some (s.rd (TY_M c)) else none) },
    updTy fun t => { t with
      window := 0
      chans := t.chans.map (fun (k, c) => (k, { c with first := none, count := 0, satNoted := false }))
      circs := t.circs.map (fun (k, c) => (k, { c with wv := 0, wi := 0, wp := 0, wm := 0, fault := false })) },
    whenDo commit (acts [wr TY_STATUS_PENDING 0,
      if legal then acts [result TY_STATUS_RESULT .ok, applyRange 0x10340100 0x10340500,
        forN 24 fun c => apply1 (TY_CIRC_EN c)]
      else acts [result TY_STATUS_RESULT .badarg, setEvent TY_EVENT_REFUSED,
        ledger 0x900B .tally note Status.badarg.code]])])

/-- `TALLY_WINDOW_END`. -/
def execTallyWindowEnd (s : State) : Host.Outcome State Fault Refusal := done (whenDo s.tyOn windowClose) s

/-! ## Snapshot and save (R447, R454) -/

/-- Take the snapshot that waits (R447). -/
def takeSnap : Act := withS fun s => whenDo s.ty.snap (acts [
  updTy fun t => { t with snap := false },
  forN 24 fun c => forN 4 fun q => acts [wr (TY_ESNAP_LO c q) (s.rd (TY_ENERGY_LO c q)),
    wr (TY_ESNAP_HI c q) (s.energy c q / 2 ^ 32)],
  bump TY_SNAP_SEQ 1, withStamp fun t => wrPair TY_SNAP_TICK_LO TY_SNAP_TICK_HI t.tick])

/-- SAVE_PERIOD in seconds, as R459's register limits it. -/
def State.savePeriod (s : State) : Nat := min 3600 (max 1 (s.rd TY_SAVE_PERIOD))

/-- A save record without its CRC and valid mark (R454). -/
def State.saveBody (s : State) : List Byte :=
  leBytes 4 0x54595356 ++ leBytes 4 (s.ty.seq + 1) ++ leBytes 4 (s.rd LG_PCYCLE) ++ leBytes 4 (s.rd LG_OPSEC)
    ++ leBytes 2 s.savePeriod ++ List.replicate 14 0
    ++ ((List.range 24).flatMap fun c => (List.range 4).flatMap fun q =>
        leBytes 7 (s.energy c q) ++ [0] ++ leBytes 8 (s.ty.res.get 0 (c * 4 + q)))
    ++ List.replicate 472 0

/-- A save record. -/
def State.saveRecord (s : State) : List Byte := s.saveBody ++ leBytes 4 (crc32 s.saveBody) ++ [0, 0, 0, 0xA5]

/-- Capture the save that waits, once the one before is written (R454). -/
def takeSave : Act := withS fun s => whenDo (s.ty.saveNow && s.ty.save.isNone)
  (updTy fun t => { t with saveNow := false, save := some s.saveRecord })

/-- First flash address of the save ring, its slots and the slots of a block (R454, R491). -/
def saveBase : Nat := 0x11000000
def saveSlots : Nat := 2048
def saveBlock : Nat := 32

/-- `TY_SAVE_WRITE_DONE`: the record is written, its block's successor erased on entry; a failure skips the slot, and the record goes
to the next one (R454). -/
def execTySaveWriteDone (ok : Bool) (s : State) : Host.Outcome State Fault Refusal :=
  done (match s.ty.save with
    | none => skip
    | some r =>
      let n := s.ty.slot
      let a := saveBase + n * 2048
      let e := saveBase + (n / saveBlock + 1) % 64 * 65536
      let next := updTy fun t => { t with slot := (n + 1) % saveSlots }
      if ok then acts [
        whenDo (n % saveBlock == 0) fun _ => [.clearFlash e (e + 65536)],
        fun _ => (List.range 2048).map fun k => .flash (a + k) (r.getD k 0),
        wr TY_SAVE_SEQ (s.ty.seq + 1), next,
        updTy fun t => { t with save := none, seq := t.seq + 1 }]
      else acts [count TY_SAVE_FAIL_FAIL 1, setEvent TY_EVENT_SAVE_FAIL,
        ledger 0x9007 .tally warning (s.ty.seq + 1), next]) s

/-- A periodic save is due; a new SAVE_PERIOD counts from here (R454). -/
def savePeriodic : Act := withS fun s => updTy fun t => { t with saveNow := true, saveAt := s.now + s.savePeriod * 10 ^ 9 }

/-- `TY_SAVE_PERIOD`. -/
def execTySavePeriod (s : State) : Host.Outcome State Fault Refusal := done (whenDo s.tyOn savePeriodic) s

/-- A write of TY_CTRL (R447, R454). -/
def tyCtrlWrite (v : Nat) : Act := acts [whenDo (bit v 0) (updTy fun t => { t with snap := true }),
  whenDo (bit v 1) (updTy fun t => { t with saveNow := true })]

/-- `TY_SNAP`: a write of TY_CTRL with SNAP set. A disabled Tally takes no write (R3). -/
def execTySnap (_w : Requester) (v : Word) (s : State) : Host.Outcome State Fault Refusal :=
  done (whenDo (s.has .tally) (tyCtrlWrite (v.toNat ||| 1))) s

/-- `TY_SAVE_NOW`. -/
def execTySaveNow (_w : Requester) (v : Word) (s : State) : Host.Outcome State Fault Refusal :=
  done (whenDo (s.has .tally) (tyCtrlWrite (v.toNat ||| 2))) s

/-- A write of TY_COMMIT (R457). -/
def tyCommitWrite (v : Nat) : Act := whenDo (bit v 0) (wr TY_STATUS_PENDING 1)

/-- `TY_COMMIT`. -/
def execTyCommit (_w : Requester) (v : Word) (s : State) : Host.Outcome State Fault Refusal :=
  done (whenDo (s.has .tally) (tyCommitWrite (v.toNat ||| 1))) s

/-! ## Pulse outputs (R452) -/

/-- Pulse output `p` is asserted while its backlog lasts, once it has been inactive for WIDTH (R452). -/
def pulseAssert (p : Nat) : Act := withS fun s =>
  whenDo (s.tyOn && s.on (TY_PULSE_EN p) && (s.tyPulse p).till.isNone
      && decide (0 < s.rd (TY_PULSE_BACK_BACKLOG p) ∧ (s.tyPulse p).idleAt + s.pulseWidth p ≤ s.now)) (acts [
    updTyPulse p fun x => { x with till := some (s.now + s.pulseWidth p) },
    wr (TY_PULSE_BACK_BACKLOG p) (s.rd (TY_PULSE_BACK_BACKLOG p) - 1), bump (TY_PULSE_COUNT p) 1])

/-- `PULSE_ASSERT`. -/
def execPulseAssert (p : Fin 8) (s : State) : Host.Outcome State Fault Refusal := done (pulseAssert p) s

/-- The end of a pulse. -/
def pulseStop (p : Nat) : Act := withS fun s => whenDo (s.tyPulse p).till.isSome
  (updTyPulse p fun x => { x with till := none, idleAt := s.now })

/-- A pulse has lasted WIDTH. -/
def pulseOut (p : Nat) : Act := withS fun s => whenDo ((s.tyPulse p).till.any fun t => decide (t ≤ s.now)) (pulseStop p)

/-- `PULSE_END`. -/
def execPulseEnd (p : Fin 8) (s : State) : Host.Outcome State Fault Refusal := done (pulseOut p) s

/-- The level of pulse output `p`: inactive while its EN is 0 and while Tally does not sample (R452, R458). -/
def State.pulsePin (s : State) (p : Nat) : Bool :=
  (s.tyOn && s.on (TY_PULSE_EN p) && (s.tyPulse p).till.isSome) != s.on (TY_PULSE_INVERT p)

/-- A write of TY_PULSEp or its CONST: a change of EN, CIRC, QTY or CONST takes effect at the next sample (R452). -/
def pulseWrite (p : Nat) (f : Fld) (v : Nat) : Act := withS fun s =>
  let sel (s : State) := (s.rd (TY_PULSE_EN p), s.rd (TY_PULSE_CIRC p), s.rd (TY_PULSE_QTY p), s.rd (TY_PULSE_CONST p))
  let before := sel s
  acts [wr ⟨f.addr, f.reset, 0, 32⟩ v, withS fun s => whenDo (sel s != before) (updTyPulse p fun x => { x with changed := true })]

/-- A change of pulse output `p` takes effect: A and the backlog are cleared, and an output without EN falls silent (R452). -/
def pulseChange (p : Nat) : Act := withS fun s => whenDo (s.tyPulse p).changed (acts [
  updTyPulse p fun x => { x with acc := 0, changed := false }, wr (TY_PULSE_BACK_BACKLOG p) 0,
  whenDo (!s.on (TY_PULSE_EN p)) (pulseStop p)])

/-! ## A sample instant (R440 to R450, R453) -/

/-- A channel takes its sample: correction, delay, scaling and the saturation flag (R441, R442). -/
def chanSample (n : Nat) (raw : Int) : Act := withS fun s =>
  let c := s.tyChan n
  let y := s.tyCorrect n (clampInt (-tyTop) tyTop raw)
  let x := clampInt (-tyTop) tyTop y
  let d := tyDelayed (s.tyPhase n) c.prev c.now x
  let sat := decide (tyTop ≤ raw ∨ raw ≤ -tyTop) || y != x
  acts [
    updTyChan n fun c => { c with prev := c.now, now := x, uPrev := c.u, u := s.tyScale n d },
    wr (TY_CH_SAMPLE n) (ofSigned 24 d),
    whenDo sat (acts [wr (TY_CH_SAT n) 1, setEvent TY_EVENT_SAT,
      whenDo (!c.satNoted) (acts [updTyChan n fun c => { c with satNoted := true }, ledger 0x9004 .tally warning n])])]

/-- Export `e` sends every 2^DIV-th sample of its channel (R453). -/
def exportSample (e : Nat) : Act := withS fun s => whenDo (s.on (TY_EXPORT_EN e)) (
  let n := s.ty.exports.get 0 e
  acts [
    updTy fun t => { t with exports := t.exports.set 0 e (n + 1) },
    whenDo (n % 2 ^ s.rd (TY_EXPORT_DIV e) == 0)
      (forEach (leBytes 3 (s.rd (TY_CH_SAMPLE (s.rd (TY_EXPORT_CH e))))) fun b => bobbinByte (39 + e) b false)])

/-- `TALLY_SAMPLE`: the decimators deliver a sample of every channel; the first three are discarded (R440, R449). -/
def tallySample (xs : List (BitVec 24)) : Act := withS fun s => whenDo s.tyOn (
  if s.ty.samples < 3 then updTy fun t => { t with samples := t.samples + 1 }
  else acts [
    updTy fun t => { t with samples := t.samples + 1, window := t.window + 1 },
    takeSnap, takeSave, forN 8 pulseChange,
    forN 32 fun n => chanSample n ((xs.getD n 0).toInt),
    forN 8 fun v => withS fun s => detect v (s.tyChan v).now fun valid =>
      whenDo valid (forN 24 fun c => withS fun s =>
        whenDo (s.onA (TY_CIRC_EN c) && s.tyV c == v && !s.onA (TY_CIRC_DC c) && s.on (TY_ZX_PRESENT v)) (periodEnd c)),
    forN 24 circSample,
    forN 8 exportSample,
    withS fun s => whenDo (decide (8000 ≤ s.ty.window)) windowClose])
def execTallySample (xs : List (BitVec 24)) (s : State) : Host.Outcome State Fault Refusal := done (tallySample xs) s

/-- `TALLY_CHANNEL_FAULT`: a bitstream has held its level for 1,000 clocks (R442). -/
def execTallyChannelFault (n : Fin 32) (s : State) : Host.Outcome State Fault Refusal :=
  done (whenDo (s.tyOn && !s.on (TY_CH_FAULT n)) (acts [wr (TY_CH_FAULT n) 1, setEvent TY_EVENT_FAULT,
    ledger 0x9003 .tally warning n])) s

/-- `TALLY_CHANNEL_FAULT_END`. -/
def execTallyChannelFaultEnd (n : Fin 32) (s : State) : Host.Outcome State Fault Refusal :=
  done (whenDo s.tyOn (wr (TY_CH_FAULT n) 0)) s

/-! ## Time (R451, R452, R454) -/

/-- No valid crossing has come by the last one plus the last valid interval plus TIMEOUT (R451). -/
def State.mainsLate (s : State) (v : Nat) : Bool :=
  s.on (TY_ZX_PRESENT v) && (s.tyChan v).last.any fun t => decide (t + (s.tyChan v).gap + s.zxTimeout v ≤ s.ys.tick)

/-- What Tally does in its own time between samples. -/
def tallyRun : Act := withS fun s => whenDo s.tyOn (acts [
  forN 8 fun v => whenDo (s.mainsLate v) (mainsLoss v),
  whenDo (decide (s.ty.saveAt ≤ s.now)) savePeriodic,
  forN 8 fun p => acts [pulseOut p, pulseAssert p]])

/-! ## Start (R455, R456) -/

/-- A slot of the save ring. -/
def State.saveSlot (s : State) (n : Nat) : List Byte := (List.range 2048).map fun k => s.flash.get 0xFF (saveBase + n * 2048 + k)

/-- A slot holds a valid record (R455). -/
def saveValid (r : List Byte) : Bool :=
  r.getD 0x7FF 0 == 0xA5#8 && leAt r 0 4 == 0x54595356 && leAt r 0x7F8 4 == crc32 (r.take 0x7F8)

/-- The valid record with the highest sequence number, leaving one out. -/
def State.newestSave (s : State) (but : Option Nat) : Option Nat :=
  (List.range saveSlots).foldl (fun best n =>
    if but == some n || !saveValid (s.saveSlot n) then best
    else match best with
      | some b => if leAt (s.saveSlot b) 4 4 < leAt (s.saveSlot n) 4 4 then some n else some b
      | none => some n) none

/-- Load a record. -/
def loadSave (r : List Byte) : Act := forN 24 fun c => forN 4 fun q =>
  let o := 0x20 + 64 * c + 16 * q
  acts [setEnergy c q (leAt r o 7), updTy fun t => { t with res := t.res.set 0 (c * 4 + q) (leAt r (o + 8) 8) }]

/-- Boot step 12 starts Tally, answering whether it restored (R455, R456); its fallback form leaves the newest record out (R487). -/
def tyStart (cold readable fallback : Bool) (k : Bool → Act) : Act := withS fun s =>
  if !s.has .tally || s.on TY_STATUS_RUNNING then k true
  else
    let start := acts [wr TY_STATUS_RUNNING 1, updTy fun t => { t with samples := 0, window := 0, stopped := none },
      withS fun s => updTy fun t => { t with saveAt := s.now + s.savePeriod * 10 ^ 9 }]
    let zero (why : Nat) := acts [wr TY_STATUS_ZEROED 1, ledger 0x9002 .tally error why, start, k false]
    if !cold then acts [whenDo s.ty.stopped.isSome
      (ledger 0x900A .tally warning ((s.now - s.ty.stopped.getD 0) / 10 ^ 6)), start, k true]
    else if !readable then zero 2
    else match s.newestSave (if fallback then s.newestSave none else none) with
      | none => zero 1
      | some n =>
        let r := s.saveSlot n
        acts [loadSave r, wr TY_SAVE_SEQ (leAt r 4 4),
          updTy fun t => { t with slot := (n + 1) % saveSlots, seq := leAt r 4 4 },
          wr TY_STATUS_RESTORED 1, ledger 0x9001 .tally note (leAt r 0x10 2), start, k true]

end Sys2Proof.Machine
end

