-- ==== Sys2Proof/Machine/Ptp.lean ====
section
/-!
DEFINITION. The PTP instance and wall time (R68, R343 to R345).
-/

namespace Sys2Proof.Machine

def ptpDisabled : Nat := 0
def ptpListening : Nat := 1
def ptpUncalibrated : Nat := 2
def ptpSlave : Nat := 3

def updPtp (f : Ptp → Ptp) : Act := updNet fun t => { t with ptp := f t.ptp }

/-- Clock identity: the EUI-64 of MAC 0's address under the 1588 rules (R343). -/
def State.clockId (s : State) : Nat :=
  let a := s.macAddr 0
  a / 2 ^ 24 * 2 ^ 40 + 0xFFFE * 2 ^ 24 + a % 2 ^ 24

/-- The port number of the instance on MAC `n` (R343). -/
def State.ptpPortNumber (s : State) : Nat := s.rd YS_PTP_CFG_PORT + 1

/-- Enter a state of the instance (R345). Leaving the slave state loses PTP as a reference (R46). -/
def ptpState (n : Nat) : Act := withS fun s => whenDo (s.rd PTP_STATUS_STATE != n)
  (acts [wr PTP_STATUS_STATE n, setEvent PTP_EVENT_STATE, ledger 0x5005 .network note n,
    whenDo (s.rd PTP_STATUS_STATE == ptpSlave && s.on (YS_SRC_PRESENT 0)) (loseSource 1)])

/-- Restart the instance (R345): LISTENING while it is enabled, DISABLED otherwise. -/
def ptpRestart : Act := withS fun s => acts [
  updPtp fun _ => {}, wr PTP_MPD 0, wr PTP_OFFSET 0,
  ptpState (if s.on PTP_CTRL_ENABLE then ptpListening else ptpDisabled), syncAllGroups]

/-- A write of PTP_CTRL (R345, R359). -/
def ptpCtrlWrite (v : Nat) : Act := withS fun s =>
  let again := bit v 31 != s.on PTP_CTRL_ENABLE || bits v 22 16 != s.rd PTP_CTRL_DOMAIN
  acts [wr PTP_CTRL_ENABLE (bits v 31 31), wr PTP_CTRL_DOMAIN (bits v 22 16), wr PTP_CTRL_STEP_US (bits v 15 0),
    whenDo again ptpRestart]

/-- A write of YS_PTP_CFG: a change of PORT restarts the instance (R345). -/
def ptpCfgWrite (v : Nat) : Act := withS fun s =>
  let again := bits v 2 0 != s.rd YS_PTP_CFG_PORT
  acts [wr YS_PTP_CFG_PORT (bits v 2 0), whenDo (again && s.on PTP_CTRL_ENABLE) ptpRestart, unmapSources]

/-! ## Best master (R343) -/

/-- The order of the dataset comparison: priority 1, class, accuracy, variance, priority 2, grandmaster, steps removed,
sender. -/
def masterKey (m : PtpMsg) : List Nat :=
  [m.prio1, m.clockClass, m.accuracy, m.variance, m.prio2, m.gm, m.steps, m.clock, m.port]

/-- Lexicographic order. -/
def lexLt : List Nat → List Nat → Bool
  | [], _ => false
  | _ :: _, [] => false
  | a :: as, b :: bs => decide (a < b) || (a == b && lexLt as bs)

/-- The best of the masters heard. -/
def bestMaster (l : List (PtpMsg × Nat)) : Option PtpMsg :=
  l.foldl (fun b x => match b with
    | none => some x.1
    | some m => if lexLt (masterKey x.1) (masterKey m) then some x.1 else b) none

/-- Follow the best master; a change of parent begins calibration anew (R345). -/
def followBest : Act := withS fun s =>
  match bestMaster s.net.ptp.masters with
  | none => acts [updPtp fun p => { p with parent := none, good := 0, sync := none }, ptpState ptpListening]
  | some m => acts [
      wr PTP_STATUS_STEPS m.steps,
      whenDo (s.pair PTP_GM_LO PTP_GM_HI != m.gm) (acts [wrPair PTP_GM_LO PTP_GM_HI m.gm,
        setEvent PTP_EVENT_GM_CHANGE, ledger 0x5006 .network note m.gm]),
      whenDo (s.net.ptp.parent != some (m.clock, m.port)) (acts [
        updPtp fun p => { p with parent := some (m.clock, m.port), good := 0, sync := none, paths := [],
                                 lastMs := none, delay := none, answered := false, logDelay := -3 },
        ptpState ptpUncalibrated])]

/-- The nanoseconds of a message interval of 2^`l` s. -/
def intervalNs (l : Int) : Nat := if 0 ≤ l then 10 ^ 9 * 2 ^ (min l 32).toNat else 10 ^ 9 / 2 ^ (min (-l) 32).toNat

/-- An Announce has gone three of its intervals without a successor (R343). -/
def State.announceOld (s : State) (x : PtpMsg × Nat) : Bool := decide (x.2 + 3 * intervalNs x.1.logInterval ≤ s.now)

/-- The parent has been silent for three announce intervals (R343). -/
def State.parentLate (s : State) : Bool :=
  s.on PTP_CTRL_ENABLE && s.net.ptp.parent.isSome
    && s.net.ptp.masters.all fun x => some (x.1.clock, x.1.port) != s.net.ptp.parent || s.announceOld x

/-- An Announce (R343). -/
def ptpAnnounce (m : PtpMsg) : Act := withS fun s => acts [
  updPtp fun p => { p with masters := (p.masters.filter fun x => (x.1.clock, x.1.port) ≠ (m.clock, m.port)) ++
    [(m, s.now)] },
  followBest]

/-- A silent parent is dropped (R343). -/
def announceTimeout : Act := withS fun s => whenDo s.parentLate (acts [
  updPtp fun p => { p with masters := p.masters.filter fun x => some (x.1.clock, x.1.port) ≠ p.parent }, followBest])

/-- `ANNOUNCE_RECEIPT_TIMEOUT`. -/
def execAnnounceReceiptTimeout (s : State) : Host.Outcome State Fault Refusal := done announceTimeout s

/-! ## Offset and wall time (R68, R345) -/

/-- Mean path delay: the mean of the last 16 measurements. -/
def Ptp.mpd (p : Ptp) : Int := if p.paths.isEmpty then 0 else p.paths.foldl (· + ·) 0 / p.paths.length

/-- Wall time steps by `-o`: a backward step increments the epoch (R68). -/
def wallStep (o : Int) : Act := acts [
  withS fun s => updNet fun t => { t with wall := some (s.wallNow - o) },
  setEvent PTP_EVENT_STEP,
  whenDo (decide (0 < o)) (acts [updNet fun t => { t with epoch := (t.epoch + 1) % 2 ^ 16 },
    withS fun s => acts [wr YS_WALL_SEC_HI_EPOCH s.net.epoch, setEvent YS_EVENT_EPOCH,
      ledger 0x1008 .yardstick warning s.net.epoch]])]

/-- The corrections of a message in whole ns, rounded down. -/
def corrNs (m : PtpMsg) : Int := m.correction / 2 ^ 16

/-- A Sync with its origin time is complete: the offset and what follows from it (R345). The slewing loop's rate within
its bound of 500 ppm is a free value (log 2). -/
def ptpOffset (t1 t2 corr : Int) : Act := withS fun s =>
  let ms := t2 - t1 - corr
  let o := ms - s.net.ptp.mpd
  let step := max 1 (s.rd PTP_CTRL_STEP_US) * 1000
  acts [
    updPtp fun p => { p with lastMs := some ms },
    wr PTP_OFFSET (satSigned 32 o),
    if s.net.wall.isNone ∨ step < o.natAbs then acts [
      if s.net.wall.isNone then acts [updNet fun t => { t with wall := some (s.wallNow - o) }, setEvent PTP_EVENT_STEP]
      else wallStep o,
      updPtp fun p => { p with good := 0, paths := [], lastMs := none }]
    else acts [
      withFree fun f => updPtp fun p => { p with slew := clampInt (-500000) 500000 (signedOf 32 f) },
      updPtp fun p => { p with good := if o.natAbs ≤ 1000 then p.good + 1 else 0 },
      withS fun s => whenDo (decide (16 ≤ s.net.ptp.good) && s.rd PTP_STATUS_STATE == ptpUncalibrated)
        (ptpState ptpSlave)]]

/-- A Sync of an interval that is accepted (R343, R345): a two-step one waits for its Follow_Up. -/
def ptpSync (m : PtpMsg) (t2 : Int) : Act := withS fun s =>
  whenDo (s.net.ptp.parent == some (m.clock, m.port) && decide (-7 ≤ m.logInterval ∧ m.logInterval ≤ 0)) (acts [
    wr PTP_STATUS_LOG_SYNC (ofSigned 8 m.logInterval),
    if m.twoStep then updPtp fun p => { p with sync := some (m, t2.toNat) }
    else acts [updPtp fun p => { p with sync := none }, ptpOffset m.time t2 (corrNs m)]])

/-- A Follow_Up (R343). -/
def ptpFollowUp (m : PtpMsg) : Act := withS fun s =>
  match s.net.ptp.sync with
  | some (y, t2) => whenDo (y.seq == m.seq && s.net.ptp.parent == some (m.clock, m.port))
      (acts [updPtp fun p => { p with sync := none }, ptpOffset m.time t2 (corrNs y + corrNs m)])
  | none => skip

/-- A Delay_Resp to this instance completes a measurement of the mean path delay (R345). -/
def ptpDelayResp (m : PtpMsg) : Act := withS fun s =>
  match s.net.ptp.delay, s.net.ptp.lastMs with
  | some (seq, t3), some ms =>
    whenDo (seq == m.seq && m.reqClock == s.clockId && m.reqPort == s.ptpPortNumber
        && s.net.ptp.parent == some (m.clock, m.port)) (acts [
      updPtp fun p => { p with delay := none, answered := true, logDelay := m.logInterval,
                               paths := ((ms + (m.time - (t3 : Int) - corrNs m)) / 2 :: p.paths).take 16 },
      withS fun s => wr PTP_MPD (satSigned 32 s.net.ptp.mpd)])
  | _, _ => skip

/-- A PTP message for the instance reaches its port (R343); `t2` is the wall time of its ingress. -/
def ptpReceive (n : Nat) (m : PtpMsg) (t2 : Int) : Act := withS fun s =>
  whenDo (s.on PTP_CTRL_ENABLE && s.rd YS_PTP_CFG_PORT == n && m.domain == s.rd PTP_CTRL_DOMAIN) (
    match m.kind with
    | .announce => ptpAnnounce m
    | .sync => ptpSync m t2
    | .followUp => ptpFollowUp m
    | .delayResp => ptpDelayResp m
    | _ => skip)

/-- `PTP_DELAY_REQ`: the instance sends a Delay_Req, which takes its transmit time as it leaves (R343, R344). -/
def ptpDelayReq : Act := withS fun s =>
  let n := s.rd YS_PTP_CFG_PORT
  let p := s.net.ptp
  let m : PtpMsg :=
    { kind := .delayReq, domain := s.rd PTP_CTRL_DOMAIN, seq := p.delaySeq, correction := 0,
      clock := s.clockId, port := s.ptpPortNumber, twoStep := false, logInterval := 127, time := 0, reqClock := 0,
      reqPort := 0, prio1 := 0, clockClass := 0, accuracy := 0, variance := 0, prio2 := 0, gm := 0, steps := 0 }
  whenDo (s.on PTP_CTRL_ENABLE && decide (n < 6) && p.parent.isSome) (acts [
    updPtp fun p => { p with delaySeq := (p.delaySeq + 1) % 2 ^ 16, delayAt := s.now },
    sendUdp n 7 ptpGroup 319 319 (.ptp m) kindDelayReq p.delaySeq, macBegin n])

/-- What the instance does in its own time (R343): the masters that fell silent are forgotten, and Delay_Req is sent at its interval. -/
def ptpRun : Act := withS fun s => whenDo (s.on PTP_CTRL_ENABLE) (acts [
  updPtp fun p => { p with masters := p.masters.filter fun x => some (x.1.clock, x.1.port) == p.parent || !s.announceOld x },
  announceTimeout,
  withS fun s => whenDo (decide (s.net.ptp.delayAt + intervalNs s.net.ptp.logDelay ≤ s.now)) ptpDelayReq])

/-- `PTP_DELAY_REQ`. -/
def execPtpDelayReq (s : State) : Host.Outcome State Fault Refusal := done ptpDelayReq s

end Sys2Proof.Machine
end

