-- ==== Sys2Proof/Machine/Trim.lean ====
section
/-!
DEFINITION. Trim (its chapter): skew, Tally and clock runs, their records and corrections.
-/

namespace Sys2Proof.Machine

def trimSkew : Nat := 0
def trimTally : Nat := 1
def trimClock : Nat := 2
def trimRows : Nat := 3

/-- TM_PORTS as one number. -/
def State.trimPorts (s : State) : Nat := s.rd (TM_PORTS 0) + s.rd (TM_PORTS 1) * 2 ^ 32

/-- A unit that a domain needs is disabled (R511). -/
def State.trimAbsent (s : State) (d target : Nat) : Bool :=
  if d = trimSkew then !s.has .treadle else if d = trimTally then !s.has .tally
  else target % 2 == 0 && !s.has .trunk && !s.has .fixports

/-- A domain's own STATE cases (R514, R516, R517). -/
def State.trimState (s : State) (d target : Nat) : Bool :=
  if d = trimSkew then (List.range 64).any fun p => bit s.trimPorts p && s.onA (CH_CTRL_ENABLE p)
  else if d = trimTally then !(decide (target < 24) && s.onA (TY_CIRC_EN target) && s.on (TY_ZX_PRESENT (s.tyV target)))
  else target % 2 == 0 && s.rd PTP_STATUS_STATE != ptpSlave

/-- The checks of START on the word written, in the order of R511. -/
def State.trimCheck (s : State) (v : Nat) : Status :=
  let d := bits v 25 24; let win := bits v 23 16; let target := bits v 7 0
  if s.trim.isSome then .busy
  else if d = 3 ∨ bits v 28 26 ≠ 0 ∨ bits v 15 8 ≠ 0 ∨ win = 0 ∨ 16 < win then .badarg
  else if s.trimAbsent d target then .absent
  else if s.trimState d target then .state
  else .ok

/-- Store the fields of a write of TM_CTRL. -/
def trimFields (v : Nat) : Act := acts [
  wr TM_CTRL_APPLY (bits v 29 29), wr TM_CTRL_DOMAIN (bits v 25 24), wr TM_CTRL_WIN (bits v 23 16), wr TM_CTRL_TARGET (bits v 7 0)]

/-- Begin a run, or refuse it (R511): a refused START leaves TM_CTRL as it was (R15). -/
def trimStart (v : Nat) : Act := withS fun s =>
  let st := s.trimCheck v
  acts [result TM_STATUS_RESULT st,
    whenDo (st == .state) (stateRefused .trim TM_CTRL_START.addr),
    whenDo (st == .ok) (acts [trimFields v, wr TM_STATUS_BUSY 1, setTrim (some
      { domain := bits v 25 24, apply := bit v 29, target := bits v 7 0, win := bits v 23 16, ports := s.trimPorts,
        since := s.now })])]

/-- Ledger's code of a domain. -/
def trimCode (d : Nat) : Nat := if d = trimSkew then 0x3401 else if d = trimTally then 0x9101 else 0x1101

/-- Stamp a domain's record (R512, R513). -/
def trimStamp (d : Nat) (st : Status) : Act := withS fun s => acts [bump (TM_D_COUNT d) 1,
  wr (TM_D_SEC d) (s.rd LG_OPSEC), wr (TM_D_PCYC d) (s.rd LG_PCYCLE), wr (TM_D_LAST d) st.code]

/-- The end of a run: only an OK run with APPLY applies its corrections and stamps its record (R512). -/
def trimFinish (r : TrimRun) (st : Status) (payload : Nat) (apply : Act) : Act := acts [
  setTrim none, wr TM_STATUS_BUSY 0, result TM_STATUS_RESULT st, setEvent TM_EVENT_DONE,
  whenDo (st == .ok && r.apply) (acts [apply, trimStamp r.domain .ok]),
  ledger (trimCode r.domain) .trim note (st.code * 2 ^ 24 + payload % 2 ^ 24)]

/-! ## Skew (R514, R515) -/

/-- Signed BOARD of a lane. -/
def State.board (s : State) (p k : Nat) : Int := signedOf 8 (s.rd (TM_BOARD_BOARD p k))

/-- A lane's tap before the clamp: FLIP - m + BOARD. -/
def State.skewTap (s : State) (p k m : Nat) (flip : Option (Fin 64)) : Int :=
  match flip with | some f => (f.val : Int) - m + s.board p k | none => 0

/-- The smallest FLIP of a port. -/
def leastFlip (fs : List (Option (Fin 64))) : Nat :=
  fs.foldl (fun n f => match f with | some f => min n f.val | none => n) 64

/-- The flips of a port: its four lanes, CTL first. -/
def flipsOf (flips : List (Fin 64 × List (Option (Fin 64)))) (p : Nat) : List (Option (Fin 64)) :=
  let l := match flips.find? fun f => f.1.val == p with | some f => f.2 | none => []
  (List.range 4).map fun k => (l.getD k none)

/-- A lane's tap lies outside its range (R515). -/
def State.skewSat (s : State) (fs : List (Option (Fin 64))) (p k : Nat) : Bool :=
  let t := s.skewTap p k (leastFlip fs) (fs.getD k none)
  decide (t < 0 ∨ 63 < t)

/-- A skew run ends. -/
def skewEnd (r : TrimRun) (flips : List (Fin 64 × List (Option (Fin 64)))) : Act := withS fun s =>
  let ports := (List.range 64).filter (bit r.ports)
  let noEdge (p : Nat) := (flipsOf flips p).any (·.isNone)
  let sat (p : Nat) := (List.range 4).any (s.skewSat (flipsOf flips p) p)
  let st := if ports.any noEdge then Status.timeout else if ports.any sat then .badarg else .ok
  acts [
    forEach ports fun p =>
      let fs := flipsOf flips p
      forN 4 fun k => acts [
        wr (TM_FLIP_FLIP p k) (match fs.getD k none with | some f => f.val | none => 64),
        wr (TM_EDGE_NOEDGE p k) (b2n (fs.getD k none).isNone), wr (TM_EDGE_SAT p k) (b2n (s.skewSat fs p k))],
    trimFinish r st (ports.filter fun p => noEdge p || sat p).length (forEach ports fun p => forN 4 fun k =>
      let fs := flipsOf flips p
      wr (TM_TAP_TAP p k) (s.skewTap p k (leastFlip fs) (fs.getD k none)).toNat)]

/-! ## Tally (R516) -/

/-- The mean of samples, rounded to the nearest. -/
def meanOf (xs : List Int) : Int := (2 * xs.sum + xs.length) / (2 * xs.length)

/-- GAIN for a reference, a full scale and samples about their offset: the nearest integer to
2^22 × ref × 2^23 / (fs × rms). -/
def trimGain (ref fs : Nat) (xs : List Int) : Nat :=
  let o := meanOf xs
  let sq := (xs.map fun x => ((x - o) * (x - o)).toNat).sum
  if fs * sq = 0 then 2 ^ 24 else (isqrt (4 * (2 ^ 90 * ref * ref * xs.length) / (fs * fs * sq)) + 1) / 2

/-- A division rounded to the nearest. -/
def roundInt (a b : Int) : Int := (2 * a + b) / (2 * b)

/-- A Tally run ends. -/
def tallyEnd (r : TrimRun) (vs is : List Int) (lag : Int) : Act := withS fun s =>
  let v := s.tyV r.target; let i := s.tyI r.target
  let freq := s.rd (TY_ZX_FREQ v)
  if vs.isEmpty || is.isEmpty || freq == 0 then trimFinish r .timeout r.target skip
  else
    let gv := trimGain (s.rd TM_VREF) (s.rdA (TY_FS v)) vs
    let gi := trimGain (s.rd TM_IREF) (s.rdA (TY_FS i)) is
    let ph := roundInt (256 * (signedOf 16 (s.rd TM_PHI) - lag) * 8000 * 1000) (36000 * freq)
    let st := if 2 ^ 24 ≤ gv ∨ 2 ^ 24 ≤ gi ∨ ph < -128 ∨ 128 < ph then Status.badarg else .ok
    trimFinish r st r.target (acts [
      wr (TY_GAIN v) gv, wr (TY_OFFSET v) (ofSigned 24 (meanOf vs)),
      wr (TY_GAIN i) gi, wr (TY_OFFSET i) (ofSigned 24 (meanOf is)), wr (TY_PHASE i) (ofSigned 9 ph),
      tyCommitWrite 1])

/-! ## Clock (R517) -/

/-- A clock run ends with an error in 0.001 ppm. -/
def clockEnd (r : TrimRun) (err : Int) : Act := acts [
  wr TM_CLK_MEAS (satSigned 32 err),
  trimFinish r (if 200000 < err.natAbs then .badarg else .ok) (satSigned 24 err) (wr TM_CLK_CORR (ofSigned 32 err))]

/-- The run ends without a result of its own: its payload, where it tells of a measurement, is a free value (log 2). -/
def trimBreak (r : TrimRun) (st : Status) : Act :=
  if r.domain = trimTally then trimFinish r st r.target skip else withFree fun v => trimFinish r st v skip

/-- The least time of a run in ns: a skew run takes 256 edges at each of 64 taps, at most one every 200 ns (R514), the others as many seconds
or windows of a second as WIN gives (R516, R517). DEDUCED (log 156). -/
def TrimRun.span (r : TrimRun) : Nat := if r.domain = trimSkew then 64 * 256 * 200 else r.win * 10 ^ 9

/-- The run has lasted its time. -/
def TrimRun.due (r : TrimRun) (now : Nat) : Bool := decide (r.since + r.span ≤ now)

/-- `TRIM_RUN_END`: a run that has lasted its time ends with what it measured; a missing reference, or a result of another domain, ends it
at once. -/
def execTrimRunEnd (r : TrimResult) (s : State) : Host.Outcome State Fault Refusal :=
  done (match s.trim with
    | none => skip
    | some t => match r with
      | .skew flips => if t.domain = trimSkew then whenDo (t.due s.now) (skewEnd t flips) else trimBreak t .timeout
      | .tally vs is lag => if t.domain = trimTally then whenDo (t.due s.now) (tallyEnd t vs is lag) else trimBreak t .timeout
      | .clock err => if t.domain = trimClock then whenDo (t.due s.now) (clockEnd t err) else trimBreak t .timeout
      | .lost => trimBreak t .timeout) s

/-- A Tally run whose mains are gone and a clock run whose PTP lock is lost end TIMEOUT (R512, R517). CAL_REF is outside the part. -/
def trimRun : Act := withS fun s => match s.trim with
  | some r => whenDo ((r.domain == trimTally && !s.on (TY_ZX_PRESENT (s.tyV r.target)))
      || (r.domain == trimClock && r.target % 2 == 0 && s.rd PTP_STATUS_STATE != ptpSlave)) (trimBreak r .timeout)
  | none => skip

/-! ## Register writes -/

/-- A write of TM_CTRL, which R511 and R512 call TM_CMD. -/
def tmCtrlWrite (v : Nat) : Act := acts [
  if bit v 31 then trimStart v else trimFields v,
  whenDo (bit v 30) (withS fun s => match s.trim with | some r => trimBreak r .state | none => skip)]

/-- `TM_START`: a write of TM_CTRL with START set. -/
def execTmStart (_w : Requester) (v : Word) (s : State) : Host.Outcome State Fault Refusal :=
  done (tmCtrlWrite (v ||| 0x80000000#32).toNat) s

/-- `TM_ABORT`. -/
def execTmAbort (_w : Requester) (v : Word) (s : State) : Host.Outcome State Fault Refusal :=
  done (tmCtrlWrite (v ||| 0x40000000#32).toNat) s

/-- A write of a port's taps or BOARD values: discarded while the port is in a run (R515). RESULT tells of this write either way. -/
def tapWrite (p : Nat) (f : Fld) (v : Nat) : Act := withS fun s =>
  if s.trim.any fun r => r.domain == trimSkew && bit r.ports p then result TM_STATUS_RESULT .busy
  else acts [wr f v, result TM_STATUS_RESULT .ok]

/-- Trim's part of a frame boundary: the clock correction takes effect (R517). -/
def trimBoundary : Act := withS fun s => updYs fun y => { y with clock := signedOf 32 (s.rd TM_CLK_CORR) }

end Sys2Proof.Machine
end

