-- ==== Sys2Proof/Machine/Boot.lean ====
section
/-!
DEFINITION. The boot steps of the boot ROM (R484 to R490, R497 to R499), the steps that firmware reports (R483, R486, R487, R496), and
the loading of microcode.
-/

namespace Sys2Proof.Machine

/-! ## Step 7, as the ROM begins it (R37, R38, R284, R306) -/

/-- The device waits at a step. -/
def waitAt (n : Option Nat) : Act := updBoot fun b => { b with waits := n }

/-- The configuration word that step 7 takes for an image header (R32 to R36). -/
def State.stepWord (s : State) (h : List Byte) : Nat :=
  let header := bits (leAt h 0xC 4) 30 0
  if s.on SYS_NEXTCFG_VALID then s.rd SYS_NEXTCFG_WORD else if legalConfig header then header else 0x3FFFF

/-- The configuration word takes effect, and thread 0 of Chandler 0 starts at the image's entry. -/
def romStep7 (h : List Byte) : Act := withS fun s =>
  let header := bits (leAt h 0xC 4) 30 0
  let word := s.stepWord h
  acts [
    waitAt none,
    whenDo (!s.on SYS_NEXTCFG_VALID && !legalConfig header) (ledger 0x0007 .boot warning header),
    wr BT_STATUS_STEP 7, wr SYS_UNITS_WORD (word &&& 0x4003FFFF), wr MB_FABRIC_COMPACT (bits word 30 30),
    withS fun s => wr MB_FABRIC_PRESENT ((List.range 12).foldl (fun n e => n + b2n (s.endpointOn e) * 2 ^ e) 0),
    windowStart,
    updThread 0 0 fun x => { fresh := true, pri := 63, sys := true, pc := BitVec.ofNat 64 (imgEntry h),
                             gen := (x.gen + 1) % 2 ^ 16 },
    enlist 0 0 false]

/-! ## Steps 5 and 6 (R494, R495, R497 to R499) -/

/-- Step 6: a failed tag counts as a failed candidate of step 5. -/
def romStep6 (source : Nat) (h ct : List Byte) (no : Act) : Act := acts [
  beginStep 6,
  withS fun s => match s.imgDecrypt h ct with
    | (.ok, pt) => acts [imgLoad h pt, markStep 6 stepDone, romStep7 h]
    | (st, _) => acts [zeroRange s.staging (s.staging + stagingSize), markStep 6 stepFailed, imgRefuse source st,
        wr BT_STATUS_STEP 5, markStep 5 stepStarted, no]]

/-- A candidate of step 5 from somewhere other than flash: the step waits for another one after a refusal. -/
def romTake (source : Nat) (h ct : List Byte) : Act := withS fun s =>
  match s.imgCheck h ct with
  | .ok => acts [result BT_STATUS_RESULT .ok, updBoot fun b => { b with fromFlash := false }, markStep 5 stepDone,
      romStep6 source h ct skip]
  | st => imgRefuse source st

/-- A candidate of step 5 from flash slot `k` (R497). -/
def romSlot (k : Nat) (no : Act) : Act := withS fun s =>
  let h := if s.boot.env.any (·.flash) then s.flashAt (slotBase k) imgHeader else List.replicate imgHeader 0xFF#8
  let ct := s.flashAt (slotBase k + imgHeader) (min (imgBodyLen h) (slotBytes - imgHeader))
  match s.imgCheck h ct with
  | .ok =>
    let v := s.rd BT_SLOTS_SLOTS
    acts [result BT_STATUS_RESULT .ok,
      wr BT_SLOTS_SLOTS (slotsWord (slotActive v) (slotTry v) (slotTryUsed v || slotTry v == some k) k),
      wr BT_STATUS_SLOT k, updBoot fun b => { b with fromFlash := true }, markStep 5 stepDone,
      ledger 0x0004 .boot note (imgVersion h % 2 ^ 24 * 2 ^ 8 + k),
      romStep6 k h ct (acts [wr BT_STATUS_SLOT 0, updBoot fun b => { b with fromFlash := false }, no])]
  | st => acts [imgRefuse k st, no]

/-- The slot that step 5 tries first (R497). -/
def State.firstSlot (s : State) : Nat :=
  let v := s.rd BT_SLOTS_SLOTS
  if s.prevFailed 5 || s.prevFailed 6 || s.prevFailed 7 then 1 - slotLast v
  else (if slotTryUsed v then none else slotTry v).getD (slotActive v)

/-- Step 5 from flash: the preferred slot, and then the other; the device waits when both have failed (R497). -/
def romFlash : Act := acts [
  withS fun s =>
    let v := s.rd BT_SLOTS_SLOTS
    match slotTry v with
    | some k => whenDo (slotTryUsed v) (acts [wr BT_SLOTS_SLOTS (slotsWord (slotActive v) none true (slotLast v)), journalWrite,
        ledger 0xA00A .boot warning k])
    | none => skip,
  withS fun s =>
    let first := s.firstSlot
    romSlot first (romSlot (1 - first) (acts [markStep 5 stepFailed, waitAt (some 5)]))]

/-- Step 5 begins. -/
def romStep5 : Act := acts [
  beginStep 5, updBoot fun b => { b with collected := [] },
  withS fun s => if s.rd BT_STATUS_SOURCE = 0 then romFlash else waitAt (some 5)]

/-! ## Steps 0 to 4 (R423, R424, R426, R487) -/

/-- The device halts: only what the step leaves running still answers. -/
def romHalt : Act := updBoot fun b => { b with halted := true }

/-- External memory has trained: its size and its protection; a changed choice leaves its contents undefined, as if never written
(R424, R426). The channel mask of code 0x8007 is a free value (log 2). -/
def extTrained (installed : Nat) : Act := withS fun s =>
  let p := if s.on TS_EXT_NEXT_VALID then s.on TS_EXT_NEXT_PROTECT else true
  let slow := s.on (BT_FALLBACK_STEP 4)
  acts [
    wr TS_EXT_STATUS_TRAINED 1, wr TS_EXT_STATUS_PROTECT (b2n p), wr TS_EXT_STATUS_FALLBACK (b2n slow),
    wr TS_EXT_STATUS_INSTALLED installed, wr TS_EXT_STATUS_USABLE (if p then installed * 7 / 8 else installed),
    whenDo slow (withFree fun v => ledger 0x8007 .external warning (v % 16)),
    whenDo (match s.ts.protectWas with | some q => q != p | none => false) (zeroRange extBase (extBase + 2 ^ 32)),
    updTs fun t => { t with protectWas := some p }]

/-- Step 4. -/
def romStep4 : Act := acts [
  beginStep 4,
  withS fun s => match s.boot.env with
    | none => skip
    | some e =>
      if s.on (BT_FALLBACK_STEP 4) then
        if e.trainsSlow then acts [extTrained e.installed, markStep 4 stepDone, romStep5]
        else acts [markStep 4 stepFailed, waitAt (some 4)]
      else if e.trains then acts [extTrained e.installed, markStep 4 stepDone, romStep5]
      else acts [markStep 4 stepFailed, warmReset (warmCode .selfReset)]]

/-- Step 3 waits while REFCLK_25M is absent, with the step marked as failed (R27). -/
def romStep3 : Act := acts [
  beginStep 3,
  withS fun s => match s.boot.env with
    | some e => if e.refclk then acts [markStep 3 stepDone, romStep4] else acts [markStep 3 stepFailed, waitAt (some 3)]
    | none => skip]

/-- A row is excluded; `r` counts rows over all groups (R423). -/
def excludeRow (r : Nat) : Act := acts [
  updTs fun t => { t with excluded := t.excluded.set false r true }, count (TS_SPARES_EXCLUDED (r / 6144)) 1,
  ledger 0x8006 .stockroom error (r / 6144 * 2 ^ 24 + r % 6144), ledgerDrain]

/-- A row fails the march test: it takes a spare row, or is excluded when its group has none left (R423). -/
def failRow (r : Nat) : Act := withS fun s =>
  if s.rd (TS_SPARES_SPARES (r / 6144)) < 64 then acts [
    updTs fun t => { t with repaired := t.repaired.set false r true }, bump (TS_SPARES_SPARES (r / 6144)) 1,
    ledger 0x8005 .stockroom note (r / 6144 * 2 ^ 24 + r % 6144), ledgerDrain]
  else excludeRow r

/-- Step 2 (R423, R490): after power-on, rows of the exclusion list stay excluded in the fallback form, every other row is tested, and
Stockroom is written as zero. -/
def romStep2 : Act := acts [
  beginStep 2,
  withS fun s => if !s.boot.cold then markStep 2 stepDone else
    let listed := if s.on (BT_FALLBACK_STEP 2) then s.boot.excl else []
    let bad := match s.boot.env with | some e => e.badRows.map fun (x : Fin 16 × Nat) => x.1.val * 6144 + x.2 % 6144 | none => []
    let rows := (List.range (16 * 6144)).filter fun r => bad.contains r && !listed.contains r
    acts [
      forEach listed excludeRow, forEach rows failRow,
      fun _ => [.clearMem 0 0x6000000], updTs fun t => { t with symbols := t.symbols.keep fun w => decide (0x6000000 ≤ w * 32) },
      withS fun s =>
        let new := rows.filter fun r => s.ts.excluded.get false r
        acts [updBoot fun b => { b with excl := (listed ++ new).take 8 },
          markStep 2 (if new.isEmpty then stepDone else stepFailed)]]]

/-- Steps 0 and 1. -/
def romStep0 : Act := acts [
  beginStep 0,
  withS fun s => match s.boot.env with
    | none => skip
    | some e =>
      if !e.romOk then acts [markStep 0 stepFailed, romHalt]
      else acts [markStep 0 stepDone, beginStep 1,
        if !e.ladderOk then acts [markStep 1 stepFailed, romHalt]
        else acts [markStep 1 stepDone, updBoot fun b => { b with agent := true }, romStep2, romStep3]]]

/-- What the ROM takes over from the newest journal record in flash (R484, R489). -/
def readJournal : Act := withS fun s =>
  match s.newestJournal with
  | none => skip
  | some n =>
    let r := s.journalAt n
    let excl := ((List.range 8).map fun k => leAt r (0x14 + 4 * k) 4).filter fun e => bit e 31
    acts [
      wr BT_SLOTS_SLOTS (leAt r 0x11 1),
      updBoot fun b => { b with jseq := (leAt r 4 4 + 1) % 2 ^ 32, jnext := (n + 1) % (2 * journalBlock), jcount := leAt r 8 4,
                                excl := excl.map fun e => bits e 27 24 * 6144 + bits e 15 0 },
      whenDo s.boot.cold (forN 15 fun k => wr (BT_JOURNAL_STEP k) (bits (leAt r 0xC 4) (2 * k + 1) (2 * k)))]

/-- Shuttle is enabled by the word that this start will take, as far as it is known when the start begins (R65). DEDUCED (log 152). -/
def State.expectsShuttle (s : State) (env : BootEnv) : Bool :=
  bit (s.stepWord (if env.flash && s.rd BT_STATUS_SOURCE == 0 then s.flashAt (slotBase s.firstSlot) imgHeader else [])) 15

/-- The start: the previous start's journal moves to BT_PREVJ, the fallback forms follow from it (R484, R485, R488, R508). -/
def romBegin (env : BootEnv) : Act := acts [
  updBoot fun b => { b with atStart := false, env := some env, waits := none },
  updLg fun l => { l with taking := true },
  whenDo env.flash readJournal,
  withS fun s => forN 15 fun k => acts [wr (BT_PREVJ_STEP k) (s.rd (BT_JOURNAL_STEP k)), wr (BT_JOURNAL_STEP k) 0],
  withS fun s => forN 15 fun k => wr (BT_FALLBACK_STEP k) (b2n (s.prevFailed k)),
  withS fun s => updBoot fun b => { b with willShuttle := s.expectsShuttle env },
  withS fun s => acts [
    ledger 0x0001 .boot note (s.rd BT_RSTCAUSE_CAUSE
      + (List.range 11).foldl (fun n k => n + b2n (s.on (BT_FALLBACK_STEP (k + 4))) * 2 ^ (k + 4)) 0),
    match s.boot.pendTamper with
    | some k => acts [setEvent BT_EVENT_TAMPER, ledger 0xA008 .boot error k, updBoot fun b => { b with pendTamper := none }]
    | none => skip],
  ledgerDrain]

/-- The device is held in reset by a tamper sensor or the TAP (R508). -/
def State.heldInReset (s : State) : Bool := s.boot.tamperHeld != 0 || s.boot.tapHeld

/-- `BOOT_ROM_START`: steps 0 to 6 and the start of step 7. -/
def execBootRomStart (env : BootEnv) (s : State) : Host.Outcome State Fault Refusal :=
  done (whenDo (s.boot.atStart && !s.boot.halted && !s.heldInReset) (acts [romBegin env, romStep0])) s

/-- `REFCLK_25M_ARRIVAL`: step 3 ends (R27). -/
def execRefclk25mArrival (s : State) : Host.Outcome State Fault Refusal :=
  done (whenDo (s.boot.waits == some 3) (acts [waitAt none, markStep 3 stepDone, romStep4])) s

/-- An image of `BODY_LEN` bytes in memory, read by the boot block for a candidate of step 5. DESIGN CHOICE (log 155): one with a poisoned word
is refused with CORRUPT. -/
def takeImage (source a : Nat) : Act := withMemFor .boot a imgHeader fun h bad =>
  if bad then imgRefuse source .corrupt
  else withMemFor .boot (a + imgHeader) (min (imgBodyLen h) stagingSize) fun ct bad =>
    if bad then imgRefuse source .corrupt else romTake source h ct

/-- A write of BT_HOSTBOOT_HI (R498): a GO counts only from the port that BOOT_SRC selects, while step 5 waits. -/
def hostbootWrite (w : Requester) (v : Nat) : Act := acts [
  wr BT_HOSTBOOT_HI_ADDR v,
  withS fun s =>
    let src := s.rd BT_STATUS_SOURCE
    whenDo (bit v 31 && s.boot.waits == some 5 && ((src == 1 && w == .hostA) || (src == 2 && w == .hostB)))
      (takeImage (src + 1) (s.pair BT_HOSTBOOT_LO BT_HOSTBOOT_HI_ADDR))]

/-- `BT_HOSTBOOT_GO`. -/
def execBtHostbootGo (w : Requester) (v : Word) (s : State) : Host.Outcome State Fault Refusal :=
  done (hostbootWrite w (v ||| 0x80000000#32).toNat) s

/-- Collect an image's bytes, and check it once it is complete (R499). -/
def imageCollect (off : Nat) (data : List Byte) : Act := withS fun s =>
  whenDo (s.bootsShuttle && decide (off + data.length ≤ stagingSize)) (acts [
    memWrite (s.collectBase + off) data,
    updBoot fun b => { b with collected := spanAdd off (off + data.length) b.collected },
    withS fun s => whenDo (spanTo imgHeader s.boot.collected) (withMem s.collectBase imgHeader fun h _ =>
      whenDo (spanTo (imgHeader + imgBodyLen h) s.boot.collected) (acts [
        updBoot fun b => { b with collected := [] }, takeImage 4 s.collectBase]))])

/-- `IMAGE`: a device that waits for its image collects it; every member forwards it (R362, R499). -/
def execImageFrame (link : ShLink) (seq : Nat) (f : ImageFrame) (s : State) : Host.Outcome State Fault Refusal :=
  done (whenDo (s.shHears link || (s.bootsShuttle && s.shLink link)) (acts [
    imageCollect f.offset f.data,
    whenDo (!s.shMine f.head && !s.shOwn f.head) (shForward link seq f.head (.image f))])) s

/-- `IMAGE_FRAME_SEND`: a master with SERVE set sends the next 252 bytes of its booted slot (R499). -/
def execImageFrameSend (s : State) : Host.Outcome State Fault Refusal :=
  done (whenDo (s.shOn && s.isMaster && s.on BT_CFG_SERVE && s.boot.fromFlash) (
    let base := slotBase (s.rd BT_STATUS_SLOT)
    let size := imgHeader + imgBodyLen (s.flashAt base imgHeader)
    let off := if s.boot.serveAt < size then s.boot.serveAt else 0
    let n := min 252 (size - off)
    acts [shMasterSend everyDevice fun h => .image { head := h, offset := off, data := s.flashAt (base + off) n },
      updBoot fun b => { b with serveAt := if off + n < size then off + n else 0 }])) s

/-! ## The steps of firmware (R483, R486, R487, R496) -/

/-- A BT_ write refused with STATE. -/
def btRefuse (f : Fld) (st : Status) : Act := acts [result BT_STATUS_RESULT st,
  whenDo (st == .state) (stateRefused .boot f.addr)]

/-- Flash can be read in this start. -/
def State.flashReadable (s : State) : Bool := match s.boot.env with | some e => e.flash | none => false

/-- The settings header, read when step 8 begins (R504). DESIGN CHOICE (log 155): flash that cannot be read gives CORRUPT, and nothing is
erased. -/
def readSettings : Act := withS fun s =>
  let h := s.flashAt 0x8000000 64
  let len := leAt h 8 4
  let bad := !s.flashReadable || leAt h 0 4 != 0x47545453 || 16645056 < len || leAt h 0x10 0x30 != 0
    || leAt h 0xC 4 != crc32 (s.flashAt 0x8000040 (min len 16645056))
  let st := if bad then 3 else if leAt h 4 4 < s.boot.setfmt then 1 else if s.boot.setfmt < leAt h 4 4 then 2 else 0
  acts [wr BT_SETTINGS st, whenDo (s.flashReadable && (st == 1 || st == 3)) fun _ => [.clearFlash 0x8000000 (0x8000000 + flashBlock)],
    whenDo (decide (0 < st)) (ledger 0x0005 .boot warning st)]

/-- Step 13: Ledger is restored, then the records held for this moment are made, and Trim stamps the march test (R286, R473, R474, R486,
R518). -/
def step13 : Act := withS fun s => whenDo (!s.lg.restored) (acts [
  ledgerDrain,
  if s.boot.cold then ledgerRestoreCold s.boot.jcount s.flashReadable else ledgerRestoreWarm,
  whenDo s.boot.pendBite (ledger 0xB303 .foreman error (s.rd FM_LASTRESET_BITE_MS)),
  match s.boot.pendStep with | some n => ledger 0x0006 .boot error n | none => skip,
  updBoot fun b => { b with pendBite := false, pendStep := none },
  whenDo s.boot.cold (
    let st : Status := if (List.range 16).any fun g => s.rd (TS_SPARES_EXCLUDED g) != 0 then .badarg else .ok
    let rows := (List.range 16).foldl (fun n g => n + s.rd (TS_SPARES_SPARES g)) 0
    acts [trimStamp trimRows st, ledger 0x8101 .trim note (st.code * 2 ^ 24 + rows)])])

/-- What a step does as it begins. -/
def stepWork (n : Nat) : Act := withS fun s =>
  let fallback := s.on (BT_FALLBACK_STEP n)
  match n with
  | 8 => whenDo (!fallback) readSettings
  | 10 => acts [shStart, whenDo fallback (updSh fun h => { h with assignBy := none })]
  | 11 => whenDo (!fallback) mtStart
  | 12 => tyStart s.boot.cold s.flashReadable fallback fun ok => whenDo (!ok) (markStep 12 stepFailed)
  | 13 => acts [step13, whenDo (s.boot.cold && !s.flashReadable) (markStep 13 stepFailed)]
  | 14 => wdogStart
  | _ => skip

/-- An enabled unit lacks its microcode (R496). -/
def State.lacksUcode (s : State) : Bool :=
  [UnitBit.treadle, .thimble, .draper].any fun u => s.unit u.bit && !s.has u

/-- A write of BT_STEP (R483). -/
def btStep (op n : Nat) : Act := withS fun s =>
  let st (k : Nat) := s.rd (BT_JOURNAL_STEP k)
  if op = 0 then skip
  else if n < 7 then btRefuse BT_STEP_OP .state
  else if 14 < n then btRefuse BT_STEP_OP .badarg
  else if op = stepStarted then
    if st (n - 1) == stepDone || st (n - 1) == stepFailed then acts [result BT_STATUS_RESULT .ok, beginStep n, stepWork n]
    else btRefuse BT_STEP_OP .state
  else if st n != stepStarted || (op == stepDone && n == 7 && s.lacksUcode) then btRefuse BT_STEP_OP .state
  else acts [
    result BT_STATUS_RESULT .ok,
    whenDo (op == stepDone && n == 7) (zeroRange s.staging (s.staging + stagingSize)),
    markStep n op,
    whenDo (op == stepFailed && n == 7) (warmReset (warmCode .selfReset))]

/-- `BT_STEP_STARTED`. -/
def execBtStepStarted (_w : Requester) (step : Fin 16) (s : State) : Host.Outcome State Fault Refusal :=
  done (btStep stepStarted step.val) s
/-- `BT_STEP_DONE`. -/
def execBtStepDone (_w : Requester) (step : Fin 16) (s : State) : Host.Outcome State Fault Refusal :=
  done (btStep stepDone step.val) s
/-- `BT_STEP_FAILED`. -/
def execBtStepFailed (_w : Requester) (step : Fin 16) (s : State) : Host.Outcome State Fault Refusal :=
  done (btStep stepFailed step.val) s

/-- A step from 7 to 13 has stayed STARTED for 60 s (R486). -/
def stepTimeout (n : Nat) : Act := withS fun s =>
  whenDo (decide (7 ≤ n ∧ n ≤ 13 ∧ s.boot.stepAt + 60 * 10 ^ 9 ≤ s.now) && s.rd (BT_JOURNAL_STEP n) == stepStarted) (acts [
    markStep n stepFailed, updBoot fun b => { b with pendStep := some n }, warmReset (warmCode .stepTimeout)])

/-- `STEP_TIMEOUT`. -/
def execStepTimeout (step : Fin 15) (s : State) : Host.Outcome State Fault Refusal := done (stepTimeout step.val) s

/-- Step 11 has run for 2 s with ROLE PAIRING: it has failed, and pairing goes on (R391). -/
def pairingTimeout : Act := withS fun s =>
  whenDo ((s.mt.stepEnd.any fun t => decide (t ≤ s.now)) && s.rd MT_STATUS_ROLE == rolePairing) (acts [
    updMt fun m => { m with stepEnd := none, background := true },
    if s.rd (BT_JOURNAL_STEP 11) == stepStarted then markStep 11 stepFailed
    else acts [setEvent BT_EVENT_STEP_FAIL, ledger 0x0002 .boot warning 11]])

/-- `PAIRING_STEP_TIMEOUT`. -/
def execPairingStepTimeout (s : State) : Host.Outcome State Fault Refusal := done pairingTimeout s

/-- The limits of the start in their own time. -/
def bootRun : Act := acts [pairingTimeout, withS fun s => stepTimeout (s.rd BT_STATUS_STEP)]

/-- Boot has ended: step 14 is DONE. -/
def State.booted (s : State) : Bool := s.rd (BT_JOURNAL_STEP 14) == stepDone

/-- A write of BT_RERUN (R487): steps 10 and 11 are run in their normal form; step 9 is firmware's work alone. -/
def rerunWrite (v : Nat) : Act := withS fun s => whenDo s.booted (acts [
  whenDo (bit v 10) shStart, whenDo (bit v 11) mtStart])

/-- `BT_RERUN`. -/
def execBtRerun (_w : Requester) (v : Word) (s : State) : Host.Outcome State Fault Refusal := done (rerunWrite v.toNat) s

/-! ## Microcode (R496) -/

/-- A write of BT_UCODE (R496, R510): a refused GO changes nothing but the status (R15), and the load keeps the unit and the range it was
started with. -/
def ucodeWrite (v : Nat) : Act := withS fun s =>
  let unit := bits v 29 28
  let a := s.pair BT_UCODE_ADDR_LO BT_UCODE_ADDR_HI
  let n := s.rd BT_UCODE_LEN
  if !bit v 31 then wr BT_UCODE_UNIT unit
  else whenDo (!s.on BT_UCODE_BUSY) (
    if unit = 0 || a < s.staging || s.staging + stagingSize < a + n then
      acts [result BT_UCODE_RESULT .badarg, result BT_STATUS_RESULT .badarg]
    else acts [wr BT_UCODE_UNIT unit, wr BT_UCODE_BUSY 1, updBoot fun b => { b with ucode := some (unit, a, n) }])

/-- `BT_UCODE_GO`. -/
def execBtUcodeGo (_w : Requester) (v : Word) (s : State) : Host.Outcome State Fault Refusal :=
  done (ucodeWrite (v ||| 0x80000000#32).toNat) s

/-- A microcode load ends (R496). -/
def ucodeLoaded : Act := withS fun s => match s.boot.ucode with
  | none => skip
  | some (unit, a, n) => withMem a n fun _ bad =>
    let st : Status := if bad then .corrupt else .ok
    acts [wr BT_UCODE_BUSY 0, updBoot fun b => { b with ucode := none }, result BT_UCODE_RESULT st, result BT_STATUS_RESULT st,
      whenDo (!bad) (wr (BT_UCODE_LOADED (unit - 1)) 1)]

/-- `UCODE_LOAD_DONE`. -/
def execUcodeLoadDone (s : State) : Host.Outcome State Fault Refusal := done ucodeLoaded s

end Sys2Proof.Machine
end

