-- ==== Sys2Proof/Machine/Media.lean ====
section
/-!
DEFINITION. What the network carries beside its own control (R109 to R112, R346 to R357): ingest streams, the preview,
Weft streams, and Muster.
-/

namespace Sys2Proof.Machine

/-! ## Ingest pictures (R110, R112) -/

def State.ingest (s : State) (t : Nat) : Ingest := s.net.ingests.get {} t
def updIngest (t : Nat) (f : Ingest → Ingest) : Act :=
  updNet fun x => { x with ingests := x.ingests.set {} t (f (x.ingests.get {} t)) }

/-- A picture is lost (R110). -/
def pictureLost (t : Nat) : Act := acts [count (DR_ING_LOSS t) 1, setEvent DR_EVENT_ING_LOSS,
  withS fun s => ledger 0x2006 .draper warning (t * 2 ^ 24 + min (2 ^ 24 - 1) (s.rd (DR_ING_LOSS t)))]

/-- A buffer that is neither the newest nor held (R110). -/
def State.freeBuf (s : State) (t : Nat) : Nat :=
  ((List.range 3).find? fun b => !(s.on (DR_ING_STAT_NEWEST_VALID t) && s.rd (DR_ING_STAT_NEWEST t) == b)
    && !(s.on (DR_ING_STAT_HELD_VALID t) && s.rd (DR_ING_STAT_HELD t) == b)).getD 0

/-- An RGB10A2 pixel with alpha 0b11 (R112). -/
def rgb10 (r g b : Nat) : Nat := 3 * 2 ^ 30 + r * 2 ^ 20 + g * 2 ^ 10 + b

/-- YCbCr 4:2:2 to RGB (R112). -/
def ycc (wide : Bool) (y cb cr : Nat) : Nat :=
  let y' : Int := (y : Int) - 64; let b : Int := (cb : Int) - 512; let r : Int := (cr : Int) - 512
  let (krcr, kgcb, kgcr, kbcb) : Int × Int × Int × Int :=
    if wide then (6896, -770, -2672, 8799) else (7365, -876, -2189, 8678)
  let f (i : Int) : Nat := (clampInt 0 1023 ((i + 2048) / 4096)).toNat
  rgb10 (f (4783 * y' + krcr * r)) (f (4783 * y' + kgcb * b + kgcr * r)) (f (4783 * y' + kbcb * b))

/-- An RGB sample as stored: 12-bit samples are reduced, narrow range is expanded (R112). -/
def rgbSample (sampling : Nat) (full : Bool) (v : Nat) : Nat :=
  let v := if sampling = 2 then min 1023 ((v + 2) / 4) else v
  if full then v else (clampInt 0 1023 ((4783 * ((v : Int) - 64) + 2048) / 4096)).toNat

/-- Samples are kept by pixel as three fields of 12 bits: red, green, blue, or Y, Cb, Cr (on even columns). -/
def sample3 (a b c : Nat) : Nat := a * 2 ^ 24 + b * 2 ^ 12 + c

/-- Pixel (x, y) of the picture that stream `t` has assembled, converted (R112, R353). -/
def State.ingestPixel (s : State) (t x y : Nat) : Nat :=
  let w := s.rd (DR_ING_GEOM_WIDTH t)
  let d := (s.ingest t).data
  let at_ x := d.get 0 (y * 16384 + x)
  let v := at_ x
  let a := bits v 35 24; let b := bits v 23 12; let c := bits v 11 0
  if s.rd (ING_NET_SRC t) = 2 then rgb10 a b c
  else match s.rd (DR_ING_CFG_SAMPLING t) with
    | 0 =>
      let l := at_ (x - 1); let r := at_ (x + 1)
      let (cb, cr) := if x % 2 = 0 then (b, c) else if x + 1 < w then
          ((bits l 23 12 + bits r 23 12 + 1) / 2, (bits l 11 0 + bits r 11 0 + 1) / 2)
        else (bits l 23 12, bits l 11 0)
      ycc (s.on (DR_ING_CFG_COLOUR t)) a cb cr
    | k =>
      let f := rgbSample k (s.on (DR_ING_CFG_RANGE t))
      rgb10 (f a) (f b) (f c)

/-- A picture completes: the buffer that FILLING names becomes the newest (R110). The model writes the whole buffer here (log 20). -/
def pictureComplete (t : Nat) : Act := withS fun s =>
  let w := s.rd (DR_ING_GEOM_WIDTH t); let h := s.rd (DR_ING_GEOM_HEIGHT t)
  let b := s.rd (DR_ING_STAT_FILLING t)
  acts [
    forN h fun y => memWriteFor .draper (s.ingBuf t b + y * s.ingStride t)
      ((List.range w).flatMap fun x => leBytes 4 (s.ingestPixel t x y)),
    whenDo (s.on (DR_ING_STAT_NEWEST_VALID t) && !s.dr.taken.get false t) (count (DR_ING_DROP t) 1),
    wr (DR_ING_STAT_NEWEST t) b, wr (DR_ING_STAT_NEWEST_VALID t) 1, bump (DR_ING_STAT_PICTURES t) 1,
    updDr fun d => { d with taken := d.taken.set false t false },
    withS fun s => wr (DR_ING_STAT_FILLING t) (s.freeBuf t)]

/-- Begin a new picture. -/
def pictureReset (t : Nat) : Act := updIngest t fun p => { p with lines := [], data := [], bad := false }

/-- Every line of the picture has all its pixels. -/
def State.pictureWhole (s : State) (t : Nat) : Bool :=
  (List.range (s.rd (DR_ING_GEOM_HEIGHT t))).all fun y =>
    decide (s.rd (DR_ING_GEOM_WIDTH t) ≤ (s.ingest t).lines.get 0 y)

/-- The picture ends: it completes, or is lost. -/
def pictureEnd (t : Nat) : Act := withS fun s => acts [
  if !(s.ingest t).bad && s.pictureWhole t then pictureComplete t else pictureLost t, pictureReset t]

/-! ## ST 2110-20 (R347) -/

/-- The `n` fields of `w` bits that bytes hold, highest bit first. -/
def bitFields (w n : Nat) (bs : List Byte) : List Nat :=
  let v := ofBe bs
  (List.range n).map fun i => v / 2 ^ (bs.length * 8 - w * (i + 1)) % 2 ^ w

/-- The pixels of a pgroup of ST 2110-20: octets in it, and its samples by pixel. -/
def pgroup (sampling : Nat) : Nat × Nat × (List Byte → List Nat) :=
  match sampling with
  | 0 => (5, 2, fun bs => let f := bitFields 10 4 bs
      [sample3 (f.getD 1 0) (f.getD 0 0) (f.getD 2 0), sample3 (f.getD 3 0) 0 0])
  | 1 => (15, 4, fun bs => let f := bitFields 10 12 bs
      (List.range 4).map fun i => sample3 (f.getD (3 * i) 0) (f.getD (3 * i + 1) 0) (f.getD (3 * i + 2) 0))
  | _ => (9, 2, fun bs => let f := bitFields 12 6 bs
      (List.range 2).map fun i => sample3 (f.getD (3 * i) 0) (f.getD (3 * i + 1) 0) (f.getD (3 * i + 2) 0))

/-- Store the samples of a row segment; a line's pixels count while they come in order. -/
def storeSamples (t line off : Nat) (px : List Nat) : Act := updIngest t fun p =>
  { p with
    data := (px.zip (List.range px.length)).foldl (fun d (v, i) => d.set 0 (line * 16384 + off + i) v) p.data,
    lines := if p.lines.get 0 line = off then p.lines.set 0 line (off + px.length) else p.lines }

/-- A row segment of an RTP packet. -/
def rtpRow (t : Nat) (row : Nat × Nat × List Byte) : Act := withS fun s =>
  let (line, off, bs) := row
  let (oct, _, f) := pgroup (s.rd (DR_ING_CFG_SAMPLING t))
  storeSamples t line off ((List.range (bs.length / oct)).flatMap fun i => f ((bs.drop (oct * i)).take oct))

/-- An RTP packet of stream `t` (R347): out of sequence or of a wrong type it is dropped, a gap loses the picture, the
marker ends it. -/
def rtpReceive (n t : Nat) (r : Rtp) : Act := withS fun s =>
  let p := s.ingest t
  let ahead := (r.seq + 2 ^ 32 - p.next.getD r.seq) % 2 ^ 32
  if r.version ≠ 2 ∨ r.pt ≠ s.rd (ING_NET_PT t) ∨ 3 < r.rows.length ∨ 2 ^ 31 ≤ ahead then macCount n cRxNotus 1
  else acts [
    updIngest t fun p => { p with next := some ((r.seq + 1) % 2 ^ 32), bad := p.bad || ahead != 0 },
    forEach r.rows (rtpRow t), whenDo r.marker (pictureEnd t)]

/-! ## Weft reception (R350, R351, R353) -/

/-- Big-endian field of a list of bytes. -/
def beAt (bs : List Byte) (off n : Nat) : Nat := ofBe ((bs.drop off).take n)

/-- A channel of a Weft pixel as 10 bits (R353). -/
def weftTo10 (format v : Nat) : Nat :=
  match format with | 8 => v * 4 + v / 64 | 10 => v | _ => v / 64

/-- Octets of a pixel (R351). -/
def weftPixelOctets (format : Nat) : Nat := match format with | 8 => 3 | 10 => 4 | _ => 6

/-- The pixel that the octets of a Weft payload hold, as 10-bit samples (R351, R353). -/
def weftSample (format : Nat) (bs : List Byte) : Nat :=
  match format with
  | 8 => sample3 (weftTo10 8 (beAt bs 0 1)) (weftTo10 8 (beAt bs 1 1)) (weftTo10 8 (beAt bs 2 1))
  | 10 => let w := beAt bs 0 4; sample3 (bits w 29 20) (bits w 19 10) (bits w 9 0)
  | _ => sample3 (weftTo10 16 (beAt bs 0 2)) (weftTo10 16 (beAt bs 2 2)) (weftTo10 16 (beAt bs 4 2))

/-- A Weft packet of ingest stream `t` (R353). Pixels outside the stream's picture are discarded. -/
def weftReceive (t : Nat) (bs : List Byte) : Act := withS fun s =>
  let frame := beAt bs 5 5
  let format := beAt bs 0x10 1
  let line := beAt bs 0xA 2; let off := beAt bs 0xC 2; let n := beAt bs 0xE 2
  let w := s.rd (DR_ING_GEOM_WIDTH t); let h := s.rd (DR_ING_GEOM_HEIGHT t)
  let p := s.ingest t
  if beAt bs 0 2 ≠ 0x5746 ∨ beAt bs 2 1 ≠ 1 ∨ beAt bs 4 1 ≠ s.rd (ING_NET_CANVAS t) ∨ format ∉ [8, 10, 16] then skip
  else acts [
    whenDo (p.frame.isSome && p.frame != some frame) (acts [pictureLost t, pictureReset t]),
    if beAt bs 3 1 = 1 then acts [
      updIngest t fun p => { p with frame := some frame },
      whenDo (decide (line < h)) (updIngest t fun p =>
        { p with bad := p.bad || (decide (off < w) && p.lines.get 0 line != off) }),
      whenDo (decide (line < h)) (storeSamples t line off
        (((List.range n).map fun i => weftSample format ((bs.drop (0x20 + weftPixelOctets format * i)).take 6)).take
          (w - off)))]
    else whenDo (beAt bs 3 1 == 2) (acts [pictureEnd t, updIngest t fun p => { p with frame := none }])]

/-! ## Weft streams (R349 to R352) -/

/-- The most pixels of a payload (R351). -/
def weftLimit (format : Nat) : Nat := match format with | 0 => 2986 | 1 => 2240 | _ => 1493
/-- Bits per channel of a FORMAT code (R350). -/
def weftDepth (format : Nat) : Nat := match format with | 0 => 8 | 1 => 10 | _ => 16

/-- Stream `t` of the shadow passes the checks of R349. -/
def State.weftLegal (s : State) (t : Nat) : Bool :=
  let c := s.rd (WF_CFG_CANVAS t); let n := s.rd (WF_CFG_PORT t); let f := s.rd (WF_CFG_FORMAT t)
  let seg := s.rd (WF_CFG_SEG t); let w := s.rd (WF_SIZE_W t); let h := s.rd (WF_SIZE_H t)
  !s.on (WF_CFG_EN t) || decide (1 ≤ w ∧ 1 ≤ h ∧ s.rd (WF_ORIGIN_X t) + w ≤ s.canW c ∧ s.rd (WF_ORIGIN_Y t) + h ≤ s.canH c
    ∧ n < 6 ∧ f < 3 ∧ 1 ≤ seg ∧ seg ≤ weftLimit f
    ∧ 78 + 4 * b2n (s.on (MAC_VLAN_EN n)) + seg * weftPixelOctets (weftDepth f) ≤ s.maxFrame n)

/-- The registers of the network are there: some MAC is enabled (R3, R36). -/
def State.netOn (s : State) : Bool := s.has .trunk || s.has .fixports

/-- `WF_COMMIT`: a write of PTP_WF_COMMIT (R349). -/
def execWfCommit (_w : Requester) (v : Word) (s : State) : Host.Outcome State Fault Refusal :=
  done (whenDo (s.netOn && bit v.toNat 0) (updNet fun t => { t with wfPending := true })) s

/-- The frame boundary decides a Weft commit (R349). -/
def weftBoundary : Act := withS fun s => whenDo s.net.wfPending (acts [
  updNet fun t => { t with wfPending := false },
  if (List.range 256).all s.weftLegal then acts [result NET_STATUS_RESULT .ok, applyRange 0x102C0800 0x102C0804,
    applyRange 0x102C1000 0x102C2000]
  else acts [result NET_STATUS_RESULT .badarg, ledger 0x500E .network note Status.badarg.code]])

/-- Wall time is valid while the instance follows a master (R345, R350). -/
def State.wallValid (s : State) : Bool := s.net.wall.isSome && s.rd PTP_STATUS_STATE == ptpSlave

/-- The header of a Weft packet (R350). -/
def State.weftHeader (s : State) (t type line off n : Nat) (last : Bool) (st : Stamp) : List Byte :=
  let c := s.rdA (WF_CFG_CANVAS t)
  beBytes 2 0x5746 ++ [1, BitVec.ofNat 8 type, BitVec.ofNat 8 c]
  ++ beBytes 5 (s.pair (TL_CAN_FRAME_LO c) (TL_CAN_FRAME_HI c)) ++ beBytes 2 line ++ beBytes 2 off ++ beBytes 2 n
  ++ [BitVec.ofNat 8 (weftDepth (s.rdA (WF_CFG_FORMAT t))),
      BitVec.ofNat 8 (b2n s.isOwner * 128 + b2n last * 64 + b2n (!s.wallValid) * 32)]
  ++ beBytes 8 st.tick ++ beBytes 4 st.seq ++ beBytes 2 st.half

/-- The octets of a pixel in a payload (R351). -/
def weftOctets (format : Nat) (v : Rgb) : List Byte :=
  match format with
  | 0 => beBytes 1 v.r ++ beBytes 1 v.g ++ beBytes 1 v.b
  | 1 => beBytes 4 (v.r * 2 ^ 20 + v.g * 2 ^ 10 + v.b)
  | _ => beBytes 2 v.r ++ beBytes 2 v.g ++ beBytes 2 v.b

def weftPort : Nat := 48100

/-- Ticks until a position, at the present rate. -/
def State.ticksUntil (s : State) (p : Nat) : Int := s.unitsToTicks ((p : Int) - s.ys.pos) 1

/-- Weft stream `t` is there to be sent. -/
def State.weftOn (s : State) (t : Nat) : Bool :=
  s.onA (WF_CFG_EN t) && decide (s.rdA (WF_CFG_PORT t) < 6) && s.macOn (s.rdA (WF_CFG_PORT t))

/-- A standby sends a Weft packet only with WEFT_BOTH (R393). -/
def weftSend (a : Act) : Act := withS fun s => whenDo (!s.isStandby || s.on MT_CFG_WEFT_BOTH) a

/-- The DATA packets of line `y` of Weft stream `t` (R349 to R351). -/
def weftLine (t y : Nat) : Act := withS fun s =>
  let c := s.rdA (WF_CFG_CANVAS t); let n := s.rdA (WF_CFG_PORT t); let f := s.rdA (WF_CFG_FORMAT t)
  let seg := max 1 (s.rdA (WF_CFG_SEG t)); let w := s.rdA (WF_SIZE_W t); let h := s.rdA (WF_SIZE_H t)
  let x0 := s.rdA (WF_ORIGIN_X t); let y0 := s.rdA (WF_ORIGIN_Y t)
  let parts := (w + seg - 1) / seg
  let px (off m : Nat) : List Byte :=
    (List.range m).flatMap fun i => weftOctets f (s.weftPixel c (x0 + off + i) (y0 + y) (weftDepth f))
  acts [
    forN parts fun k => weftSend (withStamp fun st => withS fun s =>
      let off := k * seg
      let m := min seg (w - off)
      sendUdp n 5 (s.rdA (WF_DEST t)) weftPort weftPort
        (.bytes (s.weftHeader t 1 y off m (y + 1 == h && k + 1 == parts) st ++ px off m)) 0 0),
    sign 2 t y (s.pair (TL_CAN_FRAME_LO c) (TL_CAN_FRAME_HI c)) (crc32 (px 0 w))]

/-- The LATCH of Weft stream `t` (R351, R352). -/
def weftLatch (t : Nat) : Act := withS fun s =>
  let show_ := (s.frame + 1) * frameUnits + s.rdA WF_SHOW
  weftSend (withStamp fun st => withS fun s =>
    let wall := (s.wallNow + s.ticksUntil show_).toNat
    sendUdp (s.rdA (WF_CFG_PORT t)) 6 (s.rdA (WF_DEST t)) weftPort weftPort (.bytes (s.weftHeader t 2 0 0 0 false st ++ beBytes 8 show_
      ++ beBytes 2 s.net.epoch ++ beBytes 6 (wall / 10 ^ 9) ++ beBytes 4 (wall % 10 ^ 9))) 1 t)

/-- Weft stream `t` has sent `y` lines of this frame. -/
def setWeftLine (t y : Nat) : Act := updNet fun x => { x with wfLine := x.wfLine.set 0 t y }

/-- The frame of Weft stream `t`: its DATA packets in order, then its LATCH (R352). -/
def weftFrame (t : Nat) : Act := withS fun s => whenDo (s.weftOn t) (acts [
  forN (s.rdA (WF_SIZE_H t)) (weftLine t), weftLatch t, setWeftLine t (s.rdA (WF_SIZE_H t))])

/-- The next line of Weft stream `t`, with the LATCH after the last (R352). -/
def weftNext (t : Nat) : Act := withS fun s => whenDo (s.weftOn t) (
  let y := s.net.wfLine.get 0 t
  acts [weftLine t y, setWeftLine t (y + 1), whenDo (y + 1 == s.rdA (WF_SIZE_H t)) (weftLatch t)])

/-- `WEFT_FRAME_SEND`. -/
def execWeftFrameSend (stream : Fin 256) (s : State) : Host.Outcome State Fault Refusal := done (weftFrame stream) s

/-! ## Preview (R348) -/

/-- The size of the preview picture of canvas `c` with its decimation. -/
def State.pvPicture (s : State) (c dx dy : Nat) : Nat × Nat := (s.canW c / max 1 dx / 4 * 4, s.canH c / max 1 dy)
/-- The size of the preview picture. -/
def State.pvSize (s : State) : Nat × Nat := s.pvPicture (s.rd PV_CFG_CANVAS) (s.rd PV_CFG_DX) (s.rd PV_CFG_DY)

/-- A write of PTP_PV_CFG: a refused enable changes nothing else (R15, R348). -/
def pvCfgWrite (v : Nat) : Act := withS fun s =>
  let (w, h) := s.pvPicture (bits v 30 29) (bits v 23 20) (bits v 19 16)
  if bit v 31 && decide (bits v 23 20 = 0 ∨ bits v 19 16 = 0 ∨ 3840 < w ∨ 2160 < h ∨ 60 * max 1 (bits v 7 0) * s.rateDen < s.rateNum)
    then result NET_STATUS_RESULT .badarg
  else acts [
    wr PV_CFG_CANVAS (bits v 30 29), wr PV_CFG_PORT (bits v 28 26), wr PV_CFG_DX (bits v 23 20), wr PV_CFG_DY (bits v 19 16),
    wr PV_CFG_PT (bits v 15 8), wr PV_CFG_FDIV (bits v 7 0), wr PV_CFG_EN (bits v 31 31), whenDo (bit v 31) (result NET_STATUS_RESULT .ok)]

/-- The octets of four preview pixels: twelve samples of 10 bits, highest first. -/
def pvGroup (px : List Rgb) : List Byte :=
  beBytes 15 (px.foldl (fun n v => ((n * 1024 + v.r / 64) * 1024 + v.g / 64) * 1024 + v.b / 64) 0)

/-- The preview is there to be sent. A standby sends none (R393). -/
def State.pvOn (s : State) : Bool := s.on PV_CFG_EN && decide (s.rd PV_CFG_PORT < 6) && s.macOn (s.rd PV_CFG_PORT) && !s.isStandby

/-- Line `y` of a preview frame (R348): at most 320 pixels in a packet. -/
def previewLine (y : Nat) : Act := withS fun s =>
  let c := s.rd PV_CFG_CANVAS; let n := s.rd PV_CFG_PORT
  let (w, h) := s.pvSize
  let parts := (w + 319) / 320
  let px x y := if s.on (TL_FRONT_BLANK c) ∨ s.boltPoison (s.frontHalf c) c x y then black
    else s.boltPixel (s.frontHalf c) c x y
  whenDo s.pvOn (forN parts fun k => withS fun s =>
    let m := min 320 (w - k * 320)
    let data := (List.range (m / 4)).flatMap fun g => pvGroup ((List.range 4).map fun i =>
      px (s.rd PV_CFG_DX * (k * 320 + 4 * g + i)) (s.rd PV_CFG_DY * y))
    let r : Rtp := ⟨2, s.rd PV_CFG_PT % 128, s.net.pvSeq, s.net.pvTime, y + 1 == h && k + 1 == parts, s.rd BT_SERIAL_LO,
      [(y, k * 320, data)]⟩
    acts [
      sendUdp n 2 (s.rd PV_DEST) 5004 5004 (.rtp r) (if y = 0 ∧ k = 0 then 3 else 0) 0,
      updNet fun t => { t with pvSeq := (t.pvSeq + 1) % 2 ^ 32 }])

/-- A preview frame (R348). -/
def previewFrame : Act := withS fun s => whenDo s.pvOn (acts [forN s.pvSize.2 previewLine, updNet fun t => { t with pvLine := none }])

/-- A frame boundary begins the frames of the Weft streams, and every FDIV-th one a preview frame, whose timestamp is the 90 kHz count of wall time
then (R348, R352). -/
def mediaBoundary : Act := withS fun s =>
  let n := if s.on PV_CFG_EN then s.net.pvFrames % max 1 (s.rd PV_CFG_FDIV) else 0
  updNet fun t => { t with wfLine := [], pvTime := (s.wallNow * 90000 / 10 ^ 9 % 2 ^ 32).toNat, pvFrames := n + 1,
                           pvLine := if s.on PV_CFG_EN && n == 0 then some 0 else if s.on PV_CFG_EN then t.pvLine else none }

/-- `PREVIEW_FRAME_SEND`. -/
def execPreviewFrameSend (s : State) : Host.Outcome State Fault Refusal := done previewFrame s

/-! ## Muster (R354 to R357) -/

def musterPort : Nat := 48101

/-- A Muster message of MAC `n` (R354). -/
def State.musterMsg (s : State) (n type : Nat) : List Byte :=
  beBytes 2 0x4D53 ++ [1, BitVec.ofNat 8 type] ++ beBytes 2 48 ++ beBytes 2 s.net.musterSeq
  ++ beBytes 8 (s.pair BT_SERIAL_LO BT_SERIAL_HI)
  ++ [1, BitVec.ofNat 8 (b2n s.isOwner * 128 + b2n s.isMaster * 64 + 1)]
  ++ beBytes 2 (s.rd SH_STATUS_NUMBER) ++ beBytes 2 (ofSigned 16 (signedOf 12 (s.rd SYS_TEMP_TEMP))) ++ beBytes 2 0
  ++ beBytes 4 (s.macIp n) ++ beBytes 2 1000 ++ beBytes 2 0x4810
  ++ (List.range 4).flatMap fun j => leBytes 4 (s.rd (MU_NAME j))

/-- Send a Muster message (R346, R355). -/
def musterSend (n type : Nat) : Act := withS fun s => acts [
  sendUdp n 3 musterGroup musterPort musterPort (.bytes (s.musterMsg n type)) (if type = 1 then 4 else 0) 0,
  updNet fun t => { t with musterSeq := (t.musterSeq + 1) % 2 ^ 16, musterAt := t.musterAt.set 0 n s.now }]

/-- `MUSTER_ANNOUNCE` (R355). -/
def musterAnnounce (n : Nat) : Act := withS fun s => whenDo (s.on (MAC_CTRL_MUSTER n) && s.linkUp n) (musterSend n 1)
/-- `MUSTER_ANNOUNCE`. -/
def execMusterAnnounce (n : Fin 6) (s : State) : Host.Outcome State Fault Refusal := done (musterAnnounce n) s
/-- A MAC withdraws (R355). -/
def musterWithdraw (n : Nat) : Act := withS fun s => whenDo (s.linkUp n) (musterSend n 2)
/-- `MUSTER_WITHDRAW`. -/
def execMusterWithdraw (n : Fin 6) (s : State) : Host.Outcome State Fault Refusal := done (musterWithdraw n) s

def State.partner (s : State) (i : Nat) : Option Partner := s.net.partners.get none i
/-- Replace a partner entry and the count (R356, R359). -/
def setPartner (i : Nat) (p : Option Partner) : Act := acts [
  updNet fun t => { t with partners := t.partners.set none i p },
  withS fun s => wr MU_COUNT s.net.partners.length]

/-- The temperature of a partner counts for derating group `g` (R357). -/
def State.countsFor (s : State) (p : Partner) (g : Nat) : Bool :=
  p.kind == 2 && bit p.flags 0 && (List.range 256).any fun t =>
    let c := s.rdA (WF_CFG_CANVAS t)
    s.onA (WF_CFG_EN t) && s.rdA (WF_DEST t) == p.ip && s.onA (TL_CAN_MAP_DG_EN c) && s.rdA (TL_CAN_MAP_DGRP c) == g

/-- The hottest fresh temperature of group `g`'s Weft receivers (R129, R357). -/
def State.weftTemp (s : State) (g : Nat) : Option Int :=
  (s.net.partners.filterMap fun (_, p) => p.bind fun p =>
    if s.now ≤ p.heard + 10 ^ 9 ∧ s.countsFor p g then some (signedOf 16 p.temp) else none).max?

/-- The source that group `g` has chosen, a Treadle's chains or Weft receivers, has given no reading for 1 s (R129). -/
def State.sourceSilent (s : State) (g : Nat) : Bool :=
  decide (s.tl.sourceAt.get 0 g + 10 ^ 9 ≤ s.now) && (match s.rdA (TL_DRT_A_SRC g) with
    | 0 => (s.retTemp g).isNone
    | 1 => (s.weftTemp g).isNone
    | _ => false)

/-- The group falls back to the on-die sensor (R129). -/
def tempStale (g : Nat) : Act := withS fun s => whenDo (s.sourceSilent g && !s.on (TL_DRT_STAT_STALE g)) (acts [
  wr (TL_DRT_STAT_STALE g) 1, setEvent TL_EVENT_TEMP_STALE, ledger 0xC102 .tailor warning g])

/-- `TEMP_SOURCE_STALE`. -/
def execTempSourceStale (g : Fin 16) (s : State) : Host.Outcome State Fault Refusal := done (tempStale g) s

/-- Tailor's own times in a cycle: a recomputation, the Swatch copy and silent temperature sources (R128, R129, R137). -/
def tailorRun : Act := withS fun s => acts [recomputeDone, whenDo (s.on SW_STATUS_COPYING) swatchCopied, forN 16 tempStale]

/-- What an entry shows (R359). -/
def State.partnerBytes (s : State) (i : Nat) : List Byte :=
  match s.partner i with
  | none => List.replicate 32 0
  | some p => leBytes 8 p.identity ++ leBytes 4 p.ip ++ leBytes 6 p.mac ++ leBytes 1 p.kind ++ leBytes 1 p.flags
      ++ leBytes 2 p.device ++ leBytes 2 p.temp ++ leBytes 1 p.port ++ [0] ++ leBytes 2 p.model
      ++ leBytes 4 (satNat 32 ((s.now - p.heard) / 10 ^ 6))

/-- An ANNOUNCE (R356). -/
def musterHeard (n src : Nat) (bs : List Byte) : Act := withS fun s =>
  let p : Partner :=
    { identity := beAt bs 8 8, ip := beAt bs 0x18 4, mac := src, kind := beAt bs 0x10 1,
      flags := beAt bs 0x11 1, device := beAt bs 0x12 2, temp := beAt bs 0x14 2, port := n, model := beAt bs 0x1E 2,
      heard := s.now }
  let fresh := forN 16 fun g => withS fun s => whenDo (s.countsFor p g) (freshTemp g 1)
  match s.net.partners.find? fun x => x.2.map (·.identity) == some p.identity with
  | some (i, some o) => acts [setPartner i (some p),
      whenDo (o.ip != p.ip || o.mac != p.mac || o.kind != p.kind || o.port != p.port)
        (acts [setEvent PTP_EVENT_PARTNER, ledger 0x5009 .network note (n * 2 ^ 24 + i)]), fresh]
  | _ => match (List.range 256).find? fun i => (s.partner i).isNone with
    | some i => acts [setPartner i (some p), setEvent PTP_EVENT_PARTNER,
        ledger 0x5008 .network note (n * 2 ^ 24 + i), fresh]
    | none => acts [count MU_FULL 1, setEvent PTP_EVENT_MU_FULL, ledger 0x500C .network warning n]

/-- A Muster datagram (R354, R356). -/
def musterReceive (n src : Nat) (bs : List Byte) : Act := withS fun s =>
  if beAt bs 0 2 ≠ 0x4D53 ∨ beAt bs 2 1 ≠ 1 ∨ beAt bs 4 2 ≠ 48 ∨ ¬(beAt bs 3 1 = 1 ∨ beAt bs 3 1 = 2)
    then macCount n cRxNotus 1
  else if beAt bs 3 1 = 1 then musterHeard n src bs
  else match s.net.partners.find? fun x => x.2.map (·.identity) == some (beAt bs 8 8) with
    | some (i, _) => acts [setPartner i none, setEvent PTP_EVENT_PARTNER,
        ledger 0x500B .network note (n * 2 ^ 24 + i)]
    | none => skip

/-- The silence check removes an entry unheard for 3,000 ms (R356). -/
def partnerSilent (i : Nat) : Act := withS fun s => match s.partner i with
  | some p => whenDo (decide (p.heard + 3 * 10 ^ 9 ≤ s.now)) (acts [setPartner i none, setEvent PTP_EVENT_PARTNER,
      ledger 0x500A .network warning (p.port * 2 ^ 24 + i)])
  | none => skip

/-- `MUSTER_PARTNER_TIMEOUT`. -/
def execMusterPartnerTimeout (i : Fin 256) (s : State) : Host.Outcome State Fault Refusal := done (partnerSilent i) s

end Sys2Proof.Machine
end

