-- ==== Sys2Proof/Machine/Thimble.lean ====
section
/-!
DEFINITION. The Thimble engines (their chapter): steps and publication, the instructions, commits and loads.
-/

namespace Sys2Proof.Machine

/-! ## Engine state -/

def State.engine (s : State) (e : Nat) : TbEngine := s.tb.engines.get {} e
def updEngine (e : Nat) (f : TbEngine → TbEngine) : Act :=
  updTb fun t => { t with engines := t.engines.set {} e (f (t.engines.get {} e)) }
def engStopped : Nat := 0
def engRunning : Nat := 1
def engFault : Nat := 2

/-- Register qj of engine `e` (R172): q14 and q15 are set by the step. -/
def State.q (s : State) (e j : Nat) : Int :=
  signedOf 32 (if j < 14 then s.rd (TB_Q e j) else s.rd (TB_QRO e (j - 14)))

/-- Write a register of an engine; q14 and q15 discard it (R172). -/
def setQ (e j : Nat) (v : Int) : Act := whenDo (decide (j < 14)) (wr (TB_Q e j) (ofSigned 32 v))

/-- Load the noise register; 0 loads 1 (R180). -/
def setSeed (e v : Nat) : Act := wr (TB_SEED e) (if v % 2 ^ 32 = 0 then 1 else v)

/-- The registers a step may write: q0 to q13 and the noise register. -/
def State.engineRegs (s : State) (e : Nat) : List Nat :=
  (List.range 14).map (fun j => s.rd (TB_Q e j)) ++ [s.rd (TB_SEED e)]

/-- Put them back. -/
def restoreRegs (e : Nat) (l : List Nat) : Act :=
  acts [forN 14 fun j => wr (TB_Q e j) (l.getD j 0), wr (TB_SEED e) (l.getD 14 1)]

/-- The targets that the enabled descriptors in effect of engine `e` cover. -/
def State.covers (s : State) (e k : Nat) : Bool :=
  (List.range 8).any fun i => s.onA (TB_OUT_EN e i)
    && decide (s.rdA (TB_OUT_BASE e i) ≤ k ∧ k < s.rdA (TB_OUT_BASE e i) + s.rdA (TB_OUT_COUNT e i))

/-- An enabled descriptor of an engine in RUNNING or FAULT covers the target (R183). -/
def State.driven (s : State) (k : Nat) : Bool :=
  (List.range 32).any fun e => decide (1 ≤ s.rd (TB_STAT_STATE e)) && s.covers e k

/-- The targets of an engine that hold a published value. -/
def State.heldTargets (s : State) (e : Nat) : List Nat := (s.tb.targets.map (·.1)).filter (s.covers e)

/-- The targets of the set of an engine that waits for its tick. -/
def State.waitingTargets (s : State) (e : Nat) : List Nat := match (s.engine e).set with
  | some (_, outs) => outs.map (·.1)
  | none => []

/-- Set an engine's state. -/
def setEngine (e n : Nat) : Act := acts [wr (TB_STAT_STATE e) n, wr (TB_STATUS_RUNNING e) (b2n (n == engRunning))]

/-! ## Commits (R185) -/

/-- First address of the descriptors and the address after the last word of the program of engine `e`. -/
def tbLo (e : Nat) : Nat := 0x10201040 + 0x1000 * e
def tbHi (e : Nat) : Nat := 0x10201800 + 0x1000 * e

/-- A program word holds no reserved encoding and no non-zero reserved field (R177). -/
def tbWordLegal (w : Nat) : Bool :=
  let d := bits w 11 8; let lo := bits w 7 0
  match bits w 15 12 with
  | 0 => decide (d ≤ 1 ∧ lo = 0)
  | 3 => bits w 3 0 == 0
  | 9 => decide (bits w 3 0 < 6)
  | 10 => lo == 0
  | 11 => decide (d < 8 ∧ lo = 0)
  | 12 => decide (d < 8 ∧ bits w 3 0 = 0)
  | 15 => false
  | _ => true

/-- A branch at word `i` stays within the program. -/
def branchLegal (i w : Nat) : Bool :=
  let op := bits w 15 12
  let t := (i : Int) + 1 + signedOf 8 (bits w 7 0)
  !(op == 13 || op == 14) || decide (0 ≤ t ∧ t ≤ 255)

/-- Scanning the words in order, EACH and NEXT alternate, beginning with EACH. -/
def alternates : Bool → List Nat → Bool
  | _, [] => true
  | isOpen, w :: ws =>
    if bits w 15 12 = 11 then !isOpen && alternates true ws
    else if w = 0x0100 then isOpen && alternates false ws
    else alternates isOpen ws

/-- A descriptor passes the checks of R185. -/
def descLegal (en : Bool) (base n : Nat) : Bool :=
  !en || (decide (1 ≤ n ∧ n ≤ 1024 ∧ base + n ≤ 0x500) && decide (base + n ≤ 0xD0 ∨ 0x100 ≤ base))

/-- The shadow of engine `e` passes the checks of R185. -/
def State.tbLegal (s : State) (e : Nat) : Bool :=
  let ws := (List.range 256).map fun i => s.rd (TB_PROG e i)
  ws.all tbWordLegal && (List.range 256).all (fun i => branchLegal i (ws.getD i 0)) && alternates false ws
  && ws.all (fun w => bits w 15 12 != 11 || s.on (TB_OUT_EN e (bits w 10 8)))
  && (List.range 8).all fun k => descLegal (s.on (TB_OUT_EN e k)) (s.rd (TB_OUT_BASE e k)) (s.rd (TB_OUT_COUNT e k))

/-- Copy the checked commit to the run store (R185). Targets that no descriptor covers any more hold their values until
after the next latch (R183). -/
def tbCopy (e : Nat) : Act := withS fun s =>
  let before := s.heldTargets e
  acts [wr (TB_STAT_PENDING e) 0, scanRange (tbLo e) (tbHi e),
    withS fun s => updEngine e fun x => { x with fading := x.fading ++ before.filter fun k => !s.covers e k }]

/-- A checked commit that still waits is copied when the engine leaves RUNNING (R185). -/
def tbCopyWaiting (e : Nat) : Act := withS fun s => whenDo (s.on (TB_STAT_PENDING e)) (tbCopy e)

/-- Refuse a commit or a load (R185, R186, R190). -/
def tbRefuse (e : Nat) (st : Status) : Act := acts [
  result (TB_STAT_RESULT e) st, setEvent TB_EVENT_REFUSED, ledger 0x2103 .thimble note (e * 2 ^ 24 + st.code)]

/-- COMMIT (R185): what is checked is what is copied. -/
def tbCommitDo (e : Nat) : Act := withS fun s =>
  if s.on (TB_STAT_BUSY e) then tbRefuse e .busy
  else if !s.tbLegal e then tbRefuse e .badarg
  else acts [result (TB_STAT_RESULT e) .ok, predictRange (tbLo e) (tbHi e), wr (TB_STAT_PENDING e) 1,
    whenDo (s.rd (TB_STAT_STATE e) != engRunning) (tbCopy e)]

/-! ## Start and stop (R188) -/

/-- STOP: a step already executing is discarded, a set that waits for its tick is still published, and the engine's targets hold until after
the next latch (R174, R183). -/
def tbStopDo (e : Nat) : Act := withS fun s => acts [
  match (s.engine e).step with | some x => restoreRegs e x.saved | none => skip,
  match (s.engine e).step with
  | some x => forEach x.writes fun (j, v) => if j < 14 then wr (TB_Q e j) v else setSeed e v
  | none => skip,
  updEngine e fun x => { x with starting := false, step := none,
                                fading := x.fading ++ s.heldTargets e ++ s.waitingTargets e },
  wr (TB_QRO e 0) 0, setEngine e engStopped, tbCopyWaiting e]

/-- START (R188): the engine runs from the next step delivered to it. -/
def tbStartDo (e : Nat) : Act := withS fun s =>
  if s.rd (TB_STAT_STATE e) == engRunning then acts [result (TB_STAT_RESULT e) .state,
    stateRefused .thimble (TB_CTRL_START e).addr]
  else acts [result (TB_STAT_RESULT e) .ok, wr (TB_QRO e 1) 0, updEngine e fun x => { x with starting := true }]

/-- LOAD (R186). -/
def tbLoadDo (e : Nat) : Act := withS fun s =>
  let a := s.pair (TB_LOAD_LO e) (TB_LOAD_HI e)
  if s.on (TB_STAT_BUSY e) then tbRefuse e .busy
  else if a % 64 ≠ 0 ∨ !s.extOrScratch a 512 then tbRefuse e .badarg
  else acts [wr (TB_STAT_BUSY e) 1, updEngine e fun x => { x with image := a }]

/-- The last word of a LOAD returns: the image at the address that LOAD checked fills the shadow unless any of it is poisoned (R186). -/
def tbLoaded (e : Nat) : Act := withS fun s =>
  whenDo (s.on (TB_STAT_BUSY e)) (acts [wr (TB_STAT_BUSY e) 0,
    withMem (s.engine e).image 512 fun bs poison =>
      if poison then tbRefuse e .corrupt
      else acts [forN 256 fun i => wr (TB_PROG e i) (leAt bs (2 * i) 2), result (TB_STAT_RESULT e) .ok]])

/-- A write of TB_e_CTRL: KEEP_T0 is stored, then STOP, COMMIT, LOAD and START in that order (R188). -/
def tbCtrlWrite (e : Nat) (v : Nat) : Act := acts [wr (TB_CTRL_KEEP_T0 e) (bits v 27 27),
  whenDo (bit v 30) (tbStopDo e), whenDo (bit v 29) (tbCommitDo e), whenDo (bit v 28) (tbLoadDo e),
  whenDo (bit v 31) (tbStartDo e)]

/-- A command on a register of a disabled unit has no effect (R3). -/
def tbOn (a : Act) : Act := withS fun s => whenDo (s.has .thimble) a

/-- `TB_START`: a write of TB_e_CTRL with START set. -/
def execTbStart (_w : Requester) (e : Fin 32) (v : Word) (s : State) : Host.Outcome State Fault Refusal :=
  done (tbOn (tbCtrlWrite e (v ||| 0x80000000#32).toNat)) s
/-- `TB_STOP`: a write of TB_e_CTRL with STOP set. -/
def execTbStop (_w : Requester) (e : Fin 32) (v : Word) (s : State) : Host.Outcome State Fault Refusal :=
  done (tbOn (tbCtrlWrite e (v ||| 0x40000000#32).toNat)) s
/-- `TB_COMMIT`: a write of TB_e_CTRL with COMMIT set. -/
def execTbCommit (_w : Requester) (e : Fin 32) (v : Word) (s : State) : Host.Outcome State Fault Refusal :=
  done (tbOn (tbCtrlWrite e (v ||| 0x20000000#32).toNat)) s
/-- `TB_LOAD`: a write of TB_e_CTRL with LOAD set. -/
def execTbLoad (_w : Requester) (e : Fin 32) (v : Word) (s : State) : Host.Outcome State Fault Refusal :=
  done (tbOn (tbCtrlWrite e (v ||| 0x10000000#32).toNat)) s
/-- `TB_LOAD_DONE` (R186). -/
def execTbLoadDone (e : Fin 32) (s : State) : Host.Outcome State Fault Refusal := done (tbOn (tbLoaded e)) s

/-- A write that waits for the end of the step being executed, or takes effect at once (R187). -/
def tbRegWrite (e j v : Nat) : Act := withS fun s =>
  if (s.engine e).step.isSome then
    updEngine e fun x => { x with step := x.step.map fun t => { t with writes := t.writes ++ [(j, v)] } }
  else if j < 14 then wr (TB_Q e j) v else setSeed e v

/-- `TB_SEED_WRITE` (R180, R187). -/
def execTbSeedWrite (_w : Requester) (e : Fin 32) (v : Word) (s : State) : Host.Outcome State Fault Refusal :=
  done (tbOn (tbRegWrite e 14 v.toNat)) s

/-! ## Steps and publication (R172 to R175, R181, R183, R184) -/

/-- t of a step at position `p` (R172). -/
def stepT (p t0 : Nat) : Nat := (p + 2 ^ 64 - t0) % 2 ^ 64 / 2 ^ 8 % 2 ^ 32

/-- The events that come in one CK_TL cycle give an engine one step (R173). -/
def State.stepped (s : State) (e : Nat) : Bool := (s.engine e).steppedAt == some s.now

/-- A THIMBLE_STEP event for engine `e` at position `p`. -/
def thimbleStep (e p : Nat) : Act := withS fun s => acts [
  updEngine e fun x => { x with steppedAt := some s.now },
  whenDo (s.has .thimble && (s.engine e).starting) (acts [
    setEngine e engRunning, updEngine e fun x => { x with starting := false },
    whenDo (!s.on (TB_CTRL_KEEP_T0 e)) (wrPair (TB_T0_LO e) (TB_T0_HI e) p)]),
  withS fun s =>
    let x := s.engine e
    if !s.has .thimble || s.rd (TB_STAT_STATE e) != engRunning then skip
    else if x.step.isSome || x.set.isSome then
      acts [count (TB_SKIP e) 1, setEvent TB_EVENT_SKIP, ledger 0x2101 .thimble note e]
    else acts [tbCopyWaiting e, wr (TB_QRO e 0) 0, wr (TB_QRO e 1) (stepT p (s.pair (TB_T0_LO e) (TB_T0_HI e))),
      updEngine e fun x => { x with step := some { pos := p, since := s.ys.tick, saved := s.engineRegs e } }]]

/-- Make the register writes that waited for the step's end (R187). -/
def stepWrites (e : Nat) (t : TbStep) : Act := acts [
  forEach t.writes fun (j, v) => if j < 14 then wr (TB_Q e j) v else setSeed e v, wr (TB_QRO e 0) 0]

/-- A step ends: its set waits for its tick (R173, R174). -/
def stepEnd (e : Nat) : Act := withS fun s =>
  match (s.engine e).step with
  | none => skip
  | some t => acts [updEngine e fun x => { x with step := none, set := some (t.since + 4096, t.outs) }, stepWrites e t]

/-- A step faults: nothing is published, the engine stops in FAULT (R181). -/
def stepFault (e cause : Nat) : Act := withS fun s =>
  match (s.engine e).step with
  | none => skip
  | some t => acts [updEngine e fun x => { x with step := none }, stepWrites e t,
      setEngine e engFault, wr (TB_STAT_CAUSE e) cause, wr (TB_STAT_PC e) t.pc, wr (TB_FAULT_FAULT e) 1,
      setEvent TB_EVENT_FAULT, ledger 0x2102 .thimble warning (e * 2 ^ 24 + cause * 2 ^ 8 + t.pc), tbCopyWaiting e]

/-- Give target `k` the value that engine `e` publishes at tick `due`. Of two sets of one tick the higher-numbered engine's prevails (R184). A
target that no descriptor drives and no stop still holds takes none (R183). -/
def publishTo (e due k : Nat) (v : Option Nat) : Act := withS fun s =>
  let held := (List.range 32).any fun i => (s.engine i).fading.contains k
  whenDo ((s.driven k || held) && !((s.tb.source.get none k).any fun x => x.1 == due && decide (e < x.2)))
    (updTb fun t => { t with targets := t.targets.set none k v, source := t.source.set none k (some (due, e)),
                             leaving := if s.driven k then t.leaving.filter (· ≠ k) else t.leaving })

/-- Publish an engine's set, at its tick and not before (R174). -/
def publish (e : Nat) : Act := withS fun s =>
  match (s.engine e).set with
  | none => skip
  | some (due, outs) => whenDo (decide (due ≤ s.ys.tick)) (acts [updEngine e fun x => { x with set := none },
      forEach outs fun (k, v) => publishTo e due k v])

/-- `THIMBLE_PUBLISH` (R174): before its tick a set is not published. -/
def execThimblePublish (e : Fin 32) (s : State) : Host.Outcome State Fault Refusal := done (publish e) s

/-- At a latch the targets that were only held are held for the last time; those of the latch before are gone (R183). -/
def thimbleLatch : Act := acts [
  withS fun s => forEach s.tb.leaving fun k => updTb fun t => { t with targets := t.targets.set none k none },
  withS fun s =>
    let held := (List.range 32).flatMap fun e => (s.engine e).fading
    updTb fun t => { t with leaving := held.filter fun k => !s.driven k
                            latchAt := s.now },
  forN 32 fun e => updEngine e fun x => { x with fading := [] }]

/-! ## Instructions (R177 to R181) -/

/-- Replace the step of engine `e`. -/
def updStep (e : Nat) (f : TbStep → TbStep) : Act :=
  updEngine e fun x => { x with step := x.step.map f }

/-- Go on at word `pc`; past word 255 the step ends (R178). -/
def goTo (e pc : Nat) : Act := if 255 < pc then stepEnd e else updStep e fun t => { t with pc := pc }

/-- Execute one instruction in the step of engine `e`; the 4,097th faults (R181). -/
def tbInsn (e : Nat) (f : State → TbStep → Act) : Act := withS fun s =>
  match (s.engine e).step with
  | none => skip
  | some t => if 4096 ≤ t.done then stepFault e 1
      else acts [updStep e fun t => { t with done := t.done + 1 }, f s t]

/-- An instruction that writes register `d` and goes on. -/
def tbAlu (e d : Nat) (v : State → Int) : Act := tbInsn e fun s t => acts [setQ e d (v s), goTo e (t.pc + 1)]

/-- Saturation to 32 bits (R178). -/
def sat32 (i : Int) : Int := clampInt (-(2 ^ 31)) (2 ^ 31 - 1) i

/-- The first quarter of the SIN table of R179: s[n] for n = 0 to 256; the rest follows by symmetry. -/
def sinQuarter : List Nat :=
  [0, 1, 2, 6, 10, 15, 22, 30, 39, 50, 62, 75, 89, 104, 121, 139, 158, 178, 200, 222, 246, 272, 298, 326, 355,
    385, 416, 449, 482, 517, 554, 591]
  ++ [630, 669, 710, 753, 796, 841, 887, 934, 982, 1031, 1082, 1134, 1187, 1241, 1297, 1353, 1411, 1470, 1530,
    1591, 1654, 1718, 1782, 1848, 1915, 1984, 2053, 2124, 2196, 2269, 2343, 2418]
  ++ [2494, 2572, 2650, 2730, 2811, 2893, 2976, 3061, 3146, 3233, 3320, 3409, 3499, 3590, 3682, 3775, 3869, 3965,
    4061, 4158, 4257, 4357, 4457, 4559, 4662, 4766, 4871, 4977, 5084, 5192, 5301, 5411]
  ++ [5522, 5635, 5748, 5862, 5977, 6094, 6211, 6329, 6448, 6569, 6690, 6812, 6935, 7060, 7185, 7311, 7438, 7566,
    7695, 7825, 7956, 8088, 8220, 8354, 8489, 8624, 8760, 8898, 9036, 9175, 9315, 9456]
  ++ [9598, 9740, 9884, 10028, 10173, 10319, 10466, 10614, 10762, 10912, 11062, 11213, 11365, 11517, 11671,
    11825, 11980, 12136, 12293, 12450, 12608, 12767, 12927, 13087, 13248, 13410, 13573, 13736, 13900, 14065,
    14230, 14396]
  ++ [14563, 14731, 14899, 15068, 15237, 15407, 15578, 15750, 15922, 16095, 16268, 16442, 16617, 16792, 16968,
    17144, 17321, 17499, 17677, 17856, 18035, 18215, 18395, 18576, 18758, 18940, 19122, 19305, 19489, 19673,
    19858, 20043]
  ++ [20228, 20414, 20601, 20788, 20975, 21163, 21351, 21540, 21729, 21918, 22108, 22299, 22489, 22680, 22872,
    23064, 23256, 23449, 23641, 23835, 24028, 24222, 24417, 24611, 24806, 25001, 25197, 25392, 25588, 25785,
    25981, 26178]
  ++ [26375, 26573, 26770, 26968, 27166, 27364, 27563, 27761, 27960, 28159, 28358, 28557, 28757, 28956, 29156,
    29356, 29556, 29756, 29957, 30157, 30357, 30558, 30759, 30959, 31160, 31361, 31562, 31763, 31964, 32165,
    32366, 32567]
  ++ [32768]

/-- s[n] of R179. -/
def sinTable (n : Nat) : Nat :=
  let m := if n ≤ 512 then n else 1024 - n
  if m ≤ 256 then sinQuarter.getD m 0 else 65536 - sinQuarter.getD (512 - m) 0

/-- WAVE (R179). -/
def waveValue (kind : Nat) (a : Int) : Int :=
  let f := a % 65536
  let x := clampInt 0 65536 a
  match kind with
  | 0 => f
  | 1 => if f < 32768 then 2 * f else 2 * (65536 - f)
  | 2 =>
    let n := (f / 64).toNat
    (sinTable n : Int) + (((sinTable (n + 1) : Int) - sinTable n) * (f % 64) + 32) / 64
  | 3 => x * x / 65536 * (196608 - 2 * x) / 65536
  | 4 => x * x / 65536
  | _ => 65536 - (65536 - x) * (65536 - x) / 65536

/-- One shift of the noise register (R180). -/
def noiseShift (n : Nat) : Nat := if n % 2 = 1 then (n / 2) ^^^ 0x80200003 else n / 2

/-- `END`. -/
def tbEnd (e : Nat) : Act := tbInsn e fun _ _ => stepEnd e

/-- `NEXT`. -/
def tbNext (e : Nat) : Act := tbInsn e fun s t => match t.block with
  | none => stepFault e 3
  | some (k, i, w) =>
    if i + 1 < s.rdA (TB_OUT_COUNT e k) then acts [updStep e fun t => { t with block := some (k, i + 1, w) },
      wr (TB_QRO e 0) ((i + 1) * 65536), goTo e w]
    else acts [updStep e fun t => { t with block := none }, wr (TB_QRO e 0) 0, goTo e (t.pc + 1)]

/-- `LDI` and `SHL8` with the immediate byte `imm`. -/
def tbLdi (e d imm : Nat) : Act := tbAlu e d fun _ => signedOf 8 imm * 65536
def tbShl8 (e d imm : Nat) : Act := tbAlu e d fun s => s.q e d * 256 + imm

/-- An instruction that combines registers `a` and `b`. -/
def tbTwo (e d a b : Nat) (f : Int → Int → Int) : Act := tbAlu e d fun s => f (s.q e a) (s.q e b)

def addSat (x y : Int) : Int := sat32 (x + y)
def subSat (x y : Int) : Int := sat32 (x - y)
def mulSat (x y : Int) : Int := sat32 (x * y / 65536)
def minOf (x y : Int) : Int := min x y
def maxOf (x y : Int) : Int := max x y

/-- `MOV`. -/
def tbMov (e d a : Nat) : Act := tbAlu e d fun s => s.q e a

/-- `WAVE`. Kinds 6 to 15 are reserved and never pass a commit: such a command changes nothing. -/
def tbWave (e d a kind : Nat) : Act := whenDo (decide (kind < 6)) (tbAlu e d fun s => waveValue kind (s.q e a))

/-- `NOISE`. -/
def tbNoise (e d : Nat) : Act := tbInsn e fun s t =>
  let n := noiseShift (s.rd (TB_SEED e))
  acts [wr (TB_SEED e) n, setQ e d (n % 65536 : Nat), goTo e (t.pc + 1)]

/-- `EACH`. -/
def tbEach (e k : Nat) : Act := tbInsn e fun _ t => if t.block.isSome then stepFault e 2
  else acts [updStep e fun t => { t with block := some (k % 8, 0, t.pc + 1) }, wr (TB_QRO e 0) 0, goTo e (t.pc + 1)]

/-- `OUT`. -/
def tbOut (e k a : Nat) : Act := tbInsn e fun s t =>
  let d := k % 8
  let j := match t.block with | some (_, i, _) => i | none => 0
  acts [
    if s.onA (TB_OUT_EN e d) && decide (j < s.rdA (TB_OUT_COUNT e d)) then
      updStep e fun t => { t with outs := t.outs.set none (s.rdA (TB_OUT_BASE e d) + j) (some (ofSigned 32 (s.q e a))) }
    else count (TB_DISCARD e) 1,
    goTo e (t.pc + 1)]

/-- A branch by `disp` from word `pc`. -/
def branchTo (pc disp : Nat) : Nat := ((pc : Int) + 1 + signedOf 8 disp).toNat

/-- `BNZ` and `BNEG`. -/
def tbBnz (e a disp : Nat) : Act := tbInsn e fun s t => goTo e (if s.q e a ≠ 0 then branchTo t.pc disp else t.pc + 1)
def tbBneg (e a disp : Nat) : Act := tbInsn e fun s t => goTo e (if s.q e a < 0 then branchTo t.pc disp else t.pc + 1)

/-- `TB_END`. -/
def execTbEnd (e : Fin 32) (s : State) : Host.Outcome State Fault Refusal := done (tbEnd e) s
/-- `TB_NEXT`. -/
def execTbNext (e : Fin 32) (s : State) : Host.Outcome State Fault Refusal := done (tbNext e) s
/-- `TB_LDI`. -/
def execTbLdi (e : Fin 32) (d : Fin 16) (imm : BitVec 8) (s : State) : Host.Outcome State Fault Refusal :=
  done (tbLdi e d imm.toNat) s
/-- `TB_SHL8`. -/
def execTbShl8 (e : Fin 32) (d : Fin 16) (imm : BitVec 8) (s : State) : Host.Outcome State Fault Refusal :=
  done (tbShl8 e d imm.toNat) s
/-- `TB_MOV`. -/
def execTbMov (e : Fin 32) (d a : Fin 16) (s : State) : Host.Outcome State Fault Refusal := done (tbMov e d a) s
/-- `TB_ADD`. -/
def execTbAdd (e : Fin 32) (d a b : Fin 16) (s : State) : Host.Outcome State Fault Refusal := done (tbTwo e d a b addSat) s
/-- `TB_SUB`. -/
def execTbSub (e : Fin 32) (d a b : Fin 16) (s : State) : Host.Outcome State Fault Refusal := done (tbTwo e d a b subSat) s
/-- `TB_MUL`. -/
def execTbMul (e : Fin 32) (d a b : Fin 16) (s : State) : Host.Outcome State Fault Refusal := done (tbTwo e d a b mulSat) s
/-- `TB_MIN`. -/
def execTbMin (e : Fin 32) (d a b : Fin 16) (s : State) : Host.Outcome State Fault Refusal := done (tbTwo e d a b minOf) s
/-- `TB_MAX`. -/
def execTbMax (e : Fin 32) (d a b : Fin 16) (s : State) : Host.Outcome State Fault Refusal := done (tbTwo e d a b maxOf) s
/-- `TB_WAVE`. -/
def execTbWave (e : Fin 32) (d a : Fin 16) (kind : Fin 16) (s : State) : Host.Outcome State Fault Refusal :=
  done (tbWave e d a kind) s
/-- `TB_NOISE`. -/
def execTbNoise (e : Fin 32) (d : Fin 16) (s : State) : Host.Outcome State Fault Refusal := done (tbNoise e d) s
/-- `TB_EACH`. -/
def execTbEach (e : Fin 32) (k : Fin 16) (s : State) : Host.Outcome State Fault Refusal := done (tbEach e k) s
/-- `TB_OUT`. -/
def execTbOut (e : Fin 32) (k a : Fin 16) (s : State) : Host.Outcome State Fault Refusal := done (tbOut e k a) s
/-- `TB_BNZ`. -/
def execTbBnz (e : Fin 32) (a : Fin 16) (disp : BitVec 8) (s : State) : Host.Outcome State Fault Refusal :=
  done (tbBnz e a disp.toNat) s
/-- `TB_BNEG`. -/
def execTbBneg (e : Fin 32) (a : Fin 16) (disp : BitVec 8) (s : State) : Host.Outcome State Fault Refusal :=
  done (tbBneg e a disp.toNat) s

/-! ## The program that an engine runs by itself (R173, R177) -/

/-- What a program word does on engine `e` (R177). A reserved encoding, which no commit lets through, does nothing. -/
def thimbleAct (e w : Nat) : Act :=
  let d := bits w 11 8; let a := bits w 7 4; let b := bits w 3 0
  match bits w 15 12 with
  | 0 => if d = 0 then tbEnd e else whenDo (d == 1) (tbNext e)
  | 1 => tbLdi e d (bits w 7 0)
  | 2 => tbShl8 e d (bits w 7 0)
  | 3 => tbMov e d a
  | 4 => tbTwo e d a b addSat
  | 5 => tbTwo e d a b subSat
  | 6 => tbTwo e d a b mulSat
  | 7 => tbTwo e d a b minOf
  | 8 => tbTwo e d a b maxOf
  | 9 => tbWave e d a b
  | 10 => tbNoise e d
  | 11 => tbEach e d
  | 12 => tbOut e d a
  | 13 => tbBnz e d (bits w 7 0)
  | 14 => tbBneg e d (bits w 7 0)
  | _ => skip

/-- The word that engine `e` executes next: one each CK_PIX cycle, of 5/6 ns, from its step's tick on. -/
def State.thimbleWord (s : State) (e : Nat) : Option Nat := match (s.engine e).step with
  | some t => if t.done * 5 < (s.ys.tick - t.since) * 6 then some (s.rdA (TB_PROG e t.pc)) else none
  | none => none

/-- Engine `e` executes the word at its step's pc when that word's cycle has come. -/
def engineStep (e : Nat) : Act := withS fun s => match s.thimbleWord e with
  | some w => thimbleAct e w
  | none => skip

/-- The engines in one CK_TL cycle: they publish in ascending number the sets whose tick has come, and execute their steps; a LOAD ends (log 5). -/
def enginesRun : Act := withS fun s => whenDo (s.has .thimble) (acts [
  forN 32 publish, forN 32 fun e => acts [engineStep e, engineStep e], forN 32 tbLoaded])

end Sys2Proof.Machine
end

