-- ==== Sys2Proof/Machine/Lamplighter.lean ====
section
/-!
DEFINITION. Lamplighter's fixtures and universes (their chapter): the internal tables, commits, the cycle, console input
and merge, and E1.31 output.
-/

namespace Sys2Proof.Machine

/-- A command on a register of a disabled Lamplighter has no effect (R3). -/
def llOn (a : Act) : Act := withS fun s => whenDo (s.has .lamplighter) a

/-! ## Tables (R198 to R200, R206, R210, R219) -/

/-- A word of the shadow tables. -/
def State.tabS (s : State) (a : Nat) : Nat := (s.ll.tabS.get 0 (a / 4)).toNat

/-- A parameter descriptor (R200). -/
structure Param where
  default : Nat
  low : Nat
  high : Nat
  curve : Nat
  wide : Bool
  slot : Nat
  fine : Nat
  source : Nat
  index : Nat
  mod : Nat
  moff : Nat
  reserved : Bool
  deriving DecidableEq, Repr

/-- Descriptor `d` of the pool. -/
def paramOf (tab : Nat → Nat) (d : Nat) : Param :=
  let a := 0x10000 + 16 * d
  let w0 := tab a; let w1 := tab (a + 4); let w2 := tab (a + 8); let w3 := tab (a + 12)
  { default := bits w0 15 0, low := bits w0 31 16, high := bits w1 15 0, curve := bits w1 31 29, wide := bit w1 28,
    slot := bits w1 24 16, fine := bits w2 8 0, source := bits w2 31 28, index := bits w2 27 22, mod := bits w3 15 14,
    moff := bits w3 13 11,
    reserved := bits w1 27 25 == 0 && bits w2 15 9 == 0 && bits w2 21 16 == 0 && bits w3 10 0 == 0
      && bits w3 31 16 == 0 }

/-- A personality header (R199): NPARAM, FOOTPRINT and FIRST. -/
def persOf (tab : Nat → Nat) (p : Nat) : Nat × Nat × Nat :=
  (bits (tab (8 * p)) 31 24, bits (tab (8 * p)) 9 0, bits (tab (8 * p + 4)) 12 0)

/-- An output universe row (R210). -/
structure RowCfg where
  ports : Nat
  slots : Nat
  number : Nat
  sync : Nat
  prio : Nat
  keep : Bool
  unicast : Bool
  ucast : Nat
  deriving DecidableEq, Repr

/-- Row `r` of a table. -/
def rowOfTable (tab : Nat → Nat) (r : Nat) : RowCfg :=
  let a := 0x40000 + 16 * r
  let w0 := tab a; let w1 := tab (a + 4); let w2 := tab (a + 8)
  { ports := bits w0 31 26, slots := bits w0 25 16, number := bits w0 15 0, sync := bits w1 31 16, prio := bits w1 7 0,
    keep := bit w2 5, unicast := bit w2 4, ucast := bits w2 3 0 }

/-- A row that the XN window supplies is sent as universe r + 1 with 512 slots (R321). -/
def xnRow (on : Bool) (r : Nat) (c : RowCfg) : RowCfg :=
  if on ∧ r < 256 then { c with number := r + 1, slots := 512 } else c

/-- Output row `r` as it is sent. -/
def State.outRow (s : State) (r : Nat) : RowCfg := xnRow s.hst.xn.rows r (rowOfTable s.tabA r)
/-- The ports of a row. -/
def RowCfg.macs (c : RowCfg) : List Nat := (List.range 6).filter (bit c.ports)

/-- A personality of the shadow passes the checks of R226. -/
def persLegal (tab : Nat → Nat) (p : Nat) : Bool :=
  let (n, fp, first) := persOf tab p
  n == 0 || (decide (1 ≤ fp ∧ fp ≤ 512 ∧ n ≤ 64 ∧ first + n ≤ 8192) && (List.range n).all fun i =>
    let d := paramOf tab (first + i)
    decide (d.slot < fp) && (!d.wide || decide (d.fine < fp)))

/-- A descriptor of the pool holds no reserved CURVE, SOURCE or MOD and no non-zero reserved field, whether or not a personality names it
(R226). -/
def paramLegal (tab : Nat → Nat) (i : Nat) : Bool :=
  let d := paramOf tab i
  d.reserved && decide (d.curve ≤ 3 ∧ d.source ≤ 4 ∧ d.mod ≤ 2)

/-- A base address of R226: aligned, and wholly in usable external memory or scratch. -/
def State.baseLegal (s : State) (lo hi : Fld) (n : Nat) : Bool :=
  s.pair lo hi % 64 == 0 && s.extOrScratch (s.pair lo hi) n

/-- No number stands twice in the list. -/
def distinct : List Nat → Bool
  | [] => true
  | n :: ns => !ns.contains n && distinct ns

/-- The shadow passes the checks of R226. -/
def State.llLegal (s : State) : Bool :=
  let rows := (List.range 4096).map fun r => xnRow (s.on HASP_XN_CTRL_ENABLE) r (rowOfTable s.tabS r)
  let on := rows.filter (·.number ≠ 0)
  let ins := (List.range 512).map fun r => bits (s.tabS (0x50000 + 8 * r)) 15 0
  (List.range 1024).all (persLegal s.tabS) && (List.range 8192).all (paramLegal s.tabS) && rows.all (fun c => decide (c.number ≤ 63999))
  && ins.all (fun n => decide (n ≤ 63999)) && distinct (on.map (·.number))
  && distinct (ins.filter (· ≠ 0))
  && on.all (fun c => decide (1 ≤ c.slots ∧ c.slots ≤ 512 ∧ c.prio ≤ 200 ∧ c.ports ≠ 0))
  && s.baseLegal LL_PARAM_LO LL_PARAM_HI 0x1000000 && s.baseLegal LL_UBUF_LO LL_UBUF_HI 0x400000
  && s.baseLegal LL_INBUF_LO LL_INBUF_HI 0x100000 && decide (s.rd LL_FIXCOUNT ≤ 131072)

/-- `LL_COMMIT`: a write of LL_COMMIT (R226). -/
def execLlCommit (_w : Requester) (v : Word) (s : State) : Host.Outcome State Fault Refusal :=
  done (llOn (whenDo (bit v.toNat 0) (wr LL_STATUS_PENDING 1))) s

/-- The copy of the shadow tables ends 5.44 µs after the cycle began (R198). -/
def copyEnd : Act := withS fun s => whenDo (decide (s.ll.copyAt ≤ s.now)) (wr LL_STATUS_COPYING 0)

/-- `LL_COPY_DONE`: the fresh shadow is complete (R198). -/
def execLlCopyDone (s : State) : Host.Outcome State Fault Refusal := done (llOn copyEnd) s

/-! ## Console input (R206 to R208) -/

/-- The live sources of an input row. -/
def State.sourcesOf (s : State) (row : Nat) : List (Nat × InSource) :=
  (List.range 4).filterMap fun k => (s.ll.sources.get none (row * 4 + k)).map fun x => (k, x)

/-- The winning priority of an input row and its value at each slot (R208). -/
def State.winning (s : State) (row : Nat) : Option (Nat × (Nat → Nat)) :=
  let l := (s.sourcesOf row).map (·.2)
  match (l.map (·.prio)).max? with
  | none => none
  | some p => some (p, fun slot => (l.filter (·.prio == p)).foldl (fun m x =>
      max m (if slot = 0 then 0 else (x.slots.getD (slot - 1) 0).toNat)) 0)

/-- The status word of an input row (R206). -/
def State.inStatus (s : State) (row : Nat) : Nat :=
  match s.winning row with
  | some (p, _) => p * 2 ^ 24 + (s.sourcesOf row).length * 2 ^ 20 + 2 ^ 16
  | none => 0

def setSource (key : Nat) (x : Option InSource) : Act :=
  updLl fun l => { l with sources := l.sources.set none key x }

/-- Drop a source: it is lost (R207). -/
def dropSource (row k : Nat) : Act := withS fun s =>
  match s.ll.sources.get none (row * 4 + k) with
  | none => skip
  | some x => acts [setSource (row * 4 + k) none, setEvent LL_EVENT_INPUT,
      match x.id with
      | .cid _ => ledger 0x4006 .lamplighter warning row
      | .dmx p => acts [wr (DMX_STAT_LIVE p) 0, ledger 0x400D .lamplighter warning p]]

/-- The time without a packet after which a source is lost, in ns (R207). -/
def InSource.silence (x : InSource) : Nat := match x.id with | .cid _ => 2500000000 | .dmx _ => 1250000000

/-- Drop a source that has been silent for its time (R207). -/
def sourceSilent (row k : Nat) : Act := withS fun s =>
  whenDo ((s.ll.sources.get none (row * 4 + k)).any fun x => decide (x.heard + x.silence ≤ s.now)) (dropSource row k)

/-- `INPUT_SOURCE_TIMEOUT` (R207). -/
def execInputSourceTimeout (row : Fin 512) (src : Fin 4) (s : State) : Host.Outcome State Fault Refusal :=
  done (llOn (sourceSilent row src)) s

/-- Store a packet for source `k` of a row, or for a new source in the first free place; a fifth is ignored (R207). -/
def storeSource (row : Nat) (x : InSource) : Act := withS fun s =>
  match (s.sourcesOf row).find? fun y => y.2.id == x.id with
  | some (k, _) => setSource (row * 4 + k) (some x)
  | none => match (List.range 4).find? fun k => (s.ll.sources.get none (row * 4 + k)).isNone with
    | some k => acts [setSource (row * 4 + k) (some x), setEvent LL_EVENT_INPUT, ledger 0x4005 .lamplighter note row]
    | none => acts [count LL_INIGN 1, ledger 0x4007 .lamplighter warning row]

/-- An E1.31 data packet reaches input row `row` (R207). -/
def e131Row (row : Nat) (cid : List Byte) (prio seq : Nat) (preview ended : Bool) (start : Nat) (slots : List Byte) :
    Act := withS fun s =>
  let old := (s.sourcesOf row).find? fun y => y.2.id == .cid cid
  let stale := match old with
    | some (_, y) => decide (-19 ≤ signedOf 8 (seq + 256 - y.seq % 256) ∧ signedOf 8 (seq + 256 - y.seq % 256) ≤ 0)
    | none => false
  if start != 0 || preview || stale then count LL_INIGN 1
  else match old with
    | none => if (s.sourcesOf row).length = 4 ∨ !ended then
        storeSource row ⟨.cid cid, prio, seq, slots.take 512, s.now⟩ else skip
    | some (k, _) => if ended then dropSource row k
        else setSource (row * 4 + k) (some ⟨.cid cid, prio, seq, slots.take 512, s.now⟩)

/-- A received E1.31 packet (R206, R207). Data for a number that no row holds is not stored (log 18). -/
def e131Input (d : UdpData) : Act := llOn (withS fun s =>
  match d with
  | .e131 cid _ prio _ seq preview ended number start slots =>
    match (List.range 512).find? fun r => s.inRow r == number && number != 0 with
    | some r => e131Row r cid prio seq preview ended start slots
    | none => skip
  | _ => count LL_INIGN 1)

/-! ## Indirect access (R198) -/

/-- An indirect address lies in a shadowed area. -/
def inShadow (a : Nat) : Bool :=
  decide (a < 0x2000 ∨ (0x10000 ≤ a ∧ a < 0x30000) ∨ (0x40000 ≤ a ∧ a < 0x51000))
/-- It holds a status word. -/
def isStatusWord (a : Nat) : Bool :=
  decide ((0x40000 ≤ a ∧ a < 0x50000 ∧ a % 16 = 12) ∨ (0x50000 ≤ a ∧ a < 0x51000 ∧ a % 8 = 4))

/-- A responder's table entry as 16 bytes (R219). -/
def responderBytes (x : Option Responder) : Nat :=
  match x with
  | some r => r.uid % 2 ^ 48 + (2 ^ 15 + r.misses * 2 ^ 12) * 2 ^ 48 + r.tick * 2 ^ 64
  | none => 0

/-- The word at an indirect address. -/
def State.indirect (s : State) (a : Nat) : Nat :=
  if 0x40000 ≤ a ∧ a < 0x50000 ∧ a % 16 = 12 then (s.ll.rows.get {} ((a - 0x40000) / 16)).seq
  else if 0x50000 ≤ a ∧ a < 0x51000 ∧ a % 8 = 4 then s.inStatus ((a - 0x50000) / 8)
  else if inShadow a then s.tabS a
  else if 0x60000 ≤ a ∧ a < 0x80000 then
    bits (responderBytes (s.ll.responders.get none ((a - 0x60000) / 16))) (a % 16 * 8 + 31) (a % 16 * 8)
  else 0

/-- An access to LL_IDATA. Address bits [1:0] are taken as zero (log 18). -/
def llIdata (isWrite : Bool) (v : Word) : Act := withS fun s =>
  let a := s.rd LL_IADDR_ADDR / 4 * 4
  acts [
    if isWrite then whenDo (inShadow a && !isStatusWord a) (updLl fun l => { l with tabS := l.tabS.set 0 (a / 4) v })
    else reply (leBytes 4 (s.indirect a)),
    whenDo (s.on LL_IADDR_INC) (wr LL_IADDR_ADDR (a + 4))]

/-- `LL_IDATA_ACCESS`. A disabled unit reads zero (R3). -/
def execLlIdataAccess (_w : Requester) (isWrite : Bool) (v : Word) (s : State) : Host.Outcome State Fault Refusal :=
  done (if s.has .lamplighter then llIdata isWrite v else whenDo (!isWrite) (reply (leBytes 4 0))) s

/-! ## E1.31 output (R210 to R213, R223) -/

def State.llRow (s : State) (r : Nat) : OutRow := s.ll.rows.get {} r
def updRow (r : Nat) (f : OutRow → OutRow) : Act := updLl fun l => { l with rows := l.rows.set {} r (f (l.rows.get {} r)) }

/-- The bytes that a family of word registers holds, in ascending order from bit 0. -/
def regBytes (n : Nat) (f : Nat → Nat) : List Byte := (List.range n).flatMap fun j => leBytes 4 (f j)
/-- The CID in effect. -/
def State.cid (s : State) : List Byte := regBytes 4 fun j => s.rdA (LL_CID j)
/-- The source name in effect. -/
def State.sourceName (s : State) : List Byte := regBytes 16 fun j => s.rdA (LL_NAME j)

/-- Slots 1 to `n` of a row in a bank. -/
def bankSlots (bank : SMap Byte) (r n : Nat) : List Byte := (List.range n).map fun i => bank.get 0 (r * 512 + i)

/-- The data packet of a row (R211). -/
def State.dataPacket (s : State) (c : RowCfg) (seq : Nat) (ended : Bool) (slots : List Byte) : UdpData :=
  .e131 s.cid s.sourceName c.prio c.sync seq false ended c.number 0 slots
/-- Where a row's packets go (R211). -/
def State.rowDest (s : State) (c : RowCfg) : Nat := if c.unicast then s.rdA (LL_UCAST c.ucast) else universeIp c.number

def e131Port : Nat := 5568

/-- Send a data packet on a MAC, but on a standby: it only counts as sent (R393). -/
def sendData (n : Nat) (dest : Nat) (d : UdpData) : Act := withS fun s =>
  whenDo (!s.isStandby) (sendUdp n 4 dest e131Port e131Port d 0 0)

/-- Three packets with Stream_Terminated end a row that is disabled or changes its number (R212). -/
def terminateRow (r : Nat) (old : RowCfg) : Act := forN 3 fun _ => withS fun s =>
  let seq := ((s.llRow r).seq + 1) % 256
  let d := s.dataPacket old seq true (((s.llRow r).last.getD []) ++ List.replicate old.slots 0 |>.take old.slots)
  acts [updRow r fun x => { x with seq := seq },
    forEach old.macs fun n =>
      let t : TxFrame := ⟨s.txFrame n 4 (groupMac (s.rowDest old)) (.udp (s.macIp n) (s.rowDest old) e131Port e131Port d), 0, 0⟩
      updLl fun l => { l with held := l.held ++ [(r, n, t)] }]

/-- Hand over a held packet: a destination is resolved as it goes. -/
def sendHeld (n : Nat) (t : TxFrame) : Act :=
  match t.frame.body with
  | .udp _ dst _ _ d => sendData n dst d
  | _ => skip

/-- A row below `r` still has a packet for MAC `n`: rows are handed over in ascending order (R212). -/
def State.rowWaits (s : State) (r n : Nat) : Bool :=
  (s.ll.held.any fun h => decide (h.1 < r) && h.2.1 == n) || s.ll.rows.any fun x => decide (x.1 < r) && x.2.owed.contains n

/-- Lamplighter hands row `r`'s packet to MAC `n`'s Q4 when it has room for all of it and no lower row waits there (R211, R212). -/
def e131Handoff (r n : Nat) : Act := withS fun s => whenDo (!s.rowWaits r n) (
  let x := s.llRow r
  match s.ll.held.find? fun h => h.1 == r && h.2.1 == n with
  | some h => whenDo (s.queueRoom n 4 h.2.2.frame.len) (acts [
      updLl fun l => { l with held := l.held.erase h }, sendHeld n h.2.2])
  | none =>
    let c := s.outRow r
    let seq := x.handSeq.getD ((x.seq + 1) % 256)
    let d := s.dataPacket c seq false x.hand
    whenDo (x.owed.contains n && s.queueRoom n 4 (s.udpFrameLen n d)) (acts [
      updRow r fun x => { x with
        owed := x.owed.erase n, handSeq := some seq, seq := seq, sentAt := some s.now,
        same := if x.handSeq.isSome then x.same else if x.last = some x.hand then x.same + 1 else 1,
        last := some x.hand },
      sendData n (s.rowDest c) d]))

/-- `E131_DATA_HANDOFF`. -/
def execE131DataHandoff (row : Fin 4096) (mac : Fin 6) (s : State) : Host.Outcome State Fault Refusal :=
  done (llOn (e131Handoff row mac)) s

/-- KEEPALIVE in ns. -/
def State.keepalive (s : State) : Nat := max 800 (min 1000 (s.rd LL_KEEPALIVE_MS)) * 10 ^ 6

/-- A keep-alive repeat of a row's last adopted data, KEEPALIVE ms after its last packet (R212, R223). -/
def e131Keepalive (r : Nat) : Act := withS fun s =>
  let c := s.outRow r
  whenDo (s.ll.adopted && c.number != 0 && (s.llRow r).owed.isEmpty && (s.llRow r).sentAt.any fun t => decide (t + s.keepalive ≤ s.now))
    (updRow r fun x => { x with hand := bankSlots s.ll.send r c.slots, handSeq := none, owed := c.macs })

/-- `E131_KEEPALIVE`. -/
def execE131Keepalive (row : Fin 4096) (s : State) : Host.Outcome State Fault Refusal :=
  done (llOn (e131Keepalive row)) s

/-- Parts of at most 512 of a list. -/
def pages (l : List Nat) : List (List Nat) :=
  (List.range ((l.length + 511) / 512)).map fun i => (l.drop (512 * i)).take 512

/-- The E1.31 universe discovery address, 239.255.250.214 (PRESUMED from E1.31, log 19). -/
def discoveryIp : Nat := 0xEFFFFAD6

/-- Universe discovery packets that list every enabled row, every 10 s (R213), on the ports of the enabled rows (log 19). -/
def e131Discovery : Act := withS fun s =>
  let rows := ((List.range 4096).map s.outRow).filter (·.number ≠ 0)
  whenDo (s.on LL_CTRL_DISCOVERY && !s.isStandby && decide (s.ll.discoveryAt + 10 ^ 10 ≤ s.now)) (acts [
    updLl fun l => { l with discoveryAt := s.now },
    forN 6 fun n => whenDo (rows.any fun c => bit c.ports n) (forEach (pages ((rows.map (·.number)).mergeSort (· ≤ ·))) fun us =>
      sendUdp n 3 discoveryIp e131Port e131Port (.e131Discovery s.cid s.sourceName us) 0 0)])

/-- `E131_DISCOVERY_SEND`. -/
def execE131DiscoverySend (s : State) : Host.Outcome State Fault Refusal := done (llOn e131Discovery) s

/-- Assembly is complete (R193, R212): packets of the old cycle that no MAC took are given up, and each enabled row has a
packet, but for a kept row that has not changed. -/
def assemblyComplete : Act := withS fun s => whenDo (s.on LL_STATUS_BUSY && !s.ll.assembled && decide (s.ll.due ≤ s.now)) (acts [
  wr LL_CYCLE_TIME (satNat 32 (s.now - s.ll.started)),
  forN 4096 fun r => withS fun s => forEach (s.llRow r).owed fun n => macCount n cTxQfull 1,
  updLl fun l => { l with assembled := true, inCycle := [] },
  forN 4096 fun r => withS fun s =>
    let c := s.outRow r
    let x := s.llRow r
    let data := bankSlots s.ll.asm r c.slots
    let elapsed := match x.sentAt with | some t => decide (t + s.keepalive ≤ s.now) | none => true
    let send := c.number != 0 && !(c.keep && decide (3 ≤ x.same) && x.last == some data && !elapsed)
    acts [updRow r fun x => if send then { x with hand := data, handSeq := none, owed := c.macs }
        else { x with owed := [] },
      whenDo send (updLl fun l => { l with inCycle := l.inCycle ++ [r] })]])

/-- `LL_ASSEMBLY_COMPLETE`. -/
def execLlAssemblyComplete (s : State) : Host.Outcome State Fault Refusal := done (llOn assemblyComplete) s

/-- The synchronization packets of the rows that sent in the cycle (R213). -/
def sendSyncs : Act := withS fun s =>
  let rows := (s.ll.inCycle.map s.outRow).filter (·.sync ≠ 0)
  forEach (rows.map (·.sync)).eraseDups fun u => withS fun s =>
    let seq := (s.ll.syncSeq.get 0 u + 1) % 256
    acts [updLl fun l => { l with syncSeq := l.syncSeq.set 0 u seq },
      whenDo (!s.isStandby) (forN 6 fun n => whenDo (rows.any fun c => c.sync == u && bit c.ports n)
        (sendUdp n 6 (universeIp u) e131Port e131Port (.e131Sync s.cid u seq) 2 u))]

/-- Universes are adopted at the first latch after assembly (R194): the banks swap, synchronization is released and the
DMX ports take up the new data. `f` is the frame that starts. -/
def universeAdopt (f : Nat) : Act := withS fun s => whenDo (s.on LL_STATUS_BUSY) (
  if !s.ll.assembled then updLl fun l => { l with late := true }
  else acts [
    whenDo s.ll.late (acts [count LL_LATE 1, setEvent LL_EVENT_LATE, ledger 0x4003 .lamplighter warning f]),
    updLl fun l => { l with send := l.asm, asm := l.send, adopted := true },
    whenDo (s.on MT_STATUS_PAIRED) (forN 4096 fun r => withS fun s => whenDo ((s.outRow r).number != 0)
      (sign 1 r 0 f (crc32 (bankSlots s.ll.send r (s.outRow r).slots)))),
    sendSyncs,
    forN 32 fun n => withS fun s => whenDo (s.has .dmx && s.rdA (DMX_CFG_MODE n) == 1) (wr (DMX_STAT_DATA n) 1),
    wr LL_STATUS_BUSY 0])

/-! ## The cycle (R191 to R197, R201 to R205, R209, R220) -/

/-- Apply a pending commit at the start of a cycle (R192, R198, R226), and let the XN window take or give back its rows
(R205, R321, R322). Rows that end are terminated, and a packet of theirs that no MAC has taken counts as R212 says. -/
def llCommitApply : Act := withS fun s =>
  let before := (List.range 4096).map s.outRow
  acts [
    whenDo (s.on LL_STATUS_PENDING) (acts [wr LL_STATUS_PENDING 0,
      if s.llLegal then acts [result LL_STATUS_RESULT .ok, applyRange 0x10240014 0x10240030,
        applyRange 0x10240060 0x102400F0, updLl fun l => { l with tabA := l.tabS }, wr LL_STATUS_COPYING 1]
      else acts [result LL_STATUS_RESULT .badarg, setEvent LL_EVENT_REFUSED,
        ledger 0x4001 .lamplighter note Status.badarg.code]]),
    updHst fun h => { h with xn := { h.xn with rows := s.on HASP_XN_CTRL_ENABLE } },
    forN 4096 fun r => withS fun s =>
      let old := before.getD r (rowOfTable (fun _ => 0) r)
      whenDo (old.number != 0 && (s.outRow r).number != old.number)
        (acts [terminateRow r old, forEach (s.llRow r).owed fun n => macCount n cTxQfull 1,
          updRow r fun x => { x with last := none, same := 0, owed := [] }]),
    syncAllGroups]

/-- The half of canvas `c` that a cycle samples (R20): the back half once the next frame's composition is complete. -/
def State.sampleHalf (s : State) (c : Nat) : Nat :=
  if s.dr.written.get none c = some ((s.frame + 1) % 2 ^ 40) then 1 - s.frontHalf c else s.frontHalf c

/-- Poisoned data in a cycle (R197, R201, R202). -/
def llPoison (a : Nat) : Act :=
  acts [count LL_POISON 1, setEvent LL_EVENT_BADFIX, ledger 0x400E .lamplighter warning (bits a 31 8)]

/-- The canvas pixel (x, y) under a fixture has a value (R202): it is sampled, and lies on a canvas that is enabled and
not blank (log 18). -/
def State.sampled (s : State) (en : Bool) (c x y : Nat) : Bool :=
  en && s.canvasOn c && !s.on (TL_FRONT_BLANK c) && decide (x < s.canW c ∧ y < s.canH c)

/-- One descriptor's slot value (R202, R203): `cue` is the cue block when it is in use. -/
def paramOut (d : Param) (cue : Option (List Byte)) (sample : Nat → Nat) (mod : Option Int) : Nat :=
  let x : Int :=
    match d.source with
    | 0 => match cue with | some bs => leAt bs (2 * d.index) 2 | none => d.default
    | 4 => d.default
    | k => sample (k - 1)
  let x := match d.mod with
    | 1 => clampInt 0 65535 (x * mod.getD 65536 / 65536)
    | 2 => clampInt 0 65535 (x + mod.getD 0 * 65535 / 65536)
    | _ => x
  let x := x.toNat
  let y := match d.curve with
    | 1 => dv (x * x)
    | 2 => isqrt (x * 65535)
    | 3 => if x < 32768 then 0 else 65535
    | _ => x
  if d.low ≤ d.high then d.low + dv ((d.high - d.low) * y) else d.low - dv ((d.low - d.high) * y)

/-- The slots a descriptor writes from START on, with their values (R204). -/
def paramSlots (start : Nat) (d : Param) (out : Nat) : List (Nat × Nat) :=
  if d.wide then [(start + d.slot, out / 256), (start + d.fine, out % 256)]
  else [(start + d.slot, min 255 ((out + 128) / 256))]

/-- A slot value merged with console input (R209). -/
def mergeSlot (win : Option (Nat × (Nat → Nat))) (prio slot v : Nat) : Nat :=
  match win with
  | none => v
  | some (p, f) => if prio < p then f slot else if p = prio then max v (f slot) else v

/-- Write a slot of the assembly bank; rows of the XN window discard it (R204, R205). -/
def writeSlot (row f slot v : Nat) : Act := withS fun s =>
  if 512 < slot then acts [count LL_SPILL 1,
    whenDo (!s.ll.spillNoted) (acts [updLl fun l => { l with spillNoted := true },
      ledger 0x400F .lamplighter warning f])]
  else whenDo (!(s.hst.xn.rows && decide (row < 256)))
    (updLl fun l => { l with asm := l.asm.set 0 (row * 512 + slot - 1) (BitVec.ofNat 8 v) })

/-- The port on which a valid responder has a UID: the lowest, when several have it (R220). -/
def State.uidPort (s : State) (uid : Nat) : Option Nat :=
  (s.ll.responders.findSome? fun (k, x) => x.bind fun x => if x.uid = uid then some (k / 256) else none)

/-- PRESENT and PORT of fixture `f` (R220). -/
def presence (f : Nat) (e : List Byte) : Act := withS fun s =>
  let old := leAt e 0x1C 4
  let new := match s.uidPort (leAt e 0x10 6) with | some p => 2 ^ 31 + p | none => bits old 4 0
  acts [
    whenDo (old != new) (memWriteFor .lamplighter (0x4000000 + 32 * f + 0x1C) (leBytes 4 new)),
    whenDo (bit old 31 != bit new 31) (acts [setEvent LL_EVENT_PRESENCE,
      if bit new 31 then ledger 0x400B .lamplighter note f else ledger 0x400C .lamplighter warning f])]

/-- A fixture entry passes the checks of R197. -/
def fixtureLegal (e : List Byte) (nparam : Nat) : Bool :=
  bits (leAt e 0 4) 14 12 == 0 && bits (leAt e 4 4) 31 27 == 0 && bits (leAt e 8 4) 31 30 == 0
  && bits (leAt e 8 4) 15 14 == 0 && bits (leAt e 0xC 4) 31 10 == 0 && leAt e 0x16 2 == 0
  && bits (leAt e 0x1C 4) 30 5 == 0
  && decide (1 ≤ bits (leAt e 4 4) 9 0 ∧ bits (leAt e 4 4) 9 0 ≤ 512 ∧ bits (leAt e 4 4) 17 10 ≤ 200 ∧ nparam ≠ 0)

/-- The parameters of a fixture (R201 to R204, R209), once its entry has passed. -/
def fixtureParams (f : Nat) (e : List Byte) (ds : List Param) : Act := withS fun s =>
  let w0 := leAt e 0 4; let w4 := leAt e 4 4
  let c := bits w0 27 26
  let x := bits (leAt e 8 4) 29 16; let y := bits (leAt e 8 4) 13 0
  let start := bits w4 9 0; let prio := bits w4 17 10
  let win := if bit w0 29 then s.winning (bits w4 26 18) else none
  let cueAt := s.pairA LL_PARAM_LO LL_PARAM_HI + 128 * f
  let wantsCue := bit w0 30 && ds.any (·.source == 0)
  let wantsSample := ds.any fun d => decide (1 ≤ d.source ∧ d.source ≤ 3)
  let a := s.boltAddr (s.sampleHalf c) c x y
  let emitAll (cue : Option (List Byte)) (px : List Byte) : Act := forEach ds fun d => withS fun s =>
    let m := s.target (0x100 + (leAt e 0xC 4 % 1024 + d.moff) % 1024)
    forEach (paramSlots start d (paramOut d cue (fun k => leAt px (2 * k) 2) m)) fun (slot, v) =>
      writeSlot (bits w0 11 0) f slot (mergeSlot win prio slot v)
  let sampleThen (cue : Option (List Byte)) : Act :=
    if wantsSample && s.sampled (bit w0 28) c x y then withMem a 6 fun px bad =>
      if bad then acts [llPoison a, emitAll cue (List.replicate 6 0)] else emitAll cue px
    else emitAll cue (List.replicate 6 0)
  if wantsCue then withMemFor .lamplighter cueAt 128 fun bs bad =>
    if bad then acts [llPoison cueAt, sampleThen none] else sampleThen (some bs)
  else sampleThen none

/-- Process fixture entry `f` (R193, R197). -/
def fixture (f : Nat) : Act := withMem (0x4000000 + 32 * f) 32 fun e bad => withS fun s =>
  let (n, _, first) := persOf s.tabA (bits (leAt e 0 4) 25 16)
  if bad then llPoison (0x4000000 + 32 * f)
  else if !bit (leAt e 0 4) 31 then skip
  else if !fixtureLegal e n then acts [count LL_BADFIX 1, setEvent LL_EVENT_BADFIX,
    whenDo (!s.ll.badNoted) (acts [updLl fun l => { l with badNoted := true },
      ledger 0x4002 .lamplighter warning f])]
  else acts [
    updLl fun l => { l with due := l.due + (max 1 ((n + 1) / 2) - 1) },
    fixtureParams f e ((List.range n).map fun i => paramOf s.tabA (first + i)),
    whenDo (bit (leAt e 0 4) 15) (presence f e)]

/-- An LL_CYCLE event at position `p` (R191, R192). The whole cycle is evaluated from the snapshots of its start;
`LL_ASSEMBLY_COMPLETE` ends it. `due` counts the cycles of R193. -/
def llCycle (p : Nat) : Act := withS fun s =>
  if !s.has .lamplighter || s.held then skip
  else if s.on LL_STATUS_BUSY then acts [count LL_SKIP 1, setEvent LL_EVENT_SKIP,
    ledger 0x4004 .lamplighter note (p / frameUnits)]
  else if !s.on LL_CTRL_RUN then setEvent LL_EVENT_SKIP
  else acts [
    wr LL_STATUS_BUSY 1,
    updLl fun l => { l with started := s.now, due := 0, late := false, assembled := false,
                            badNoted := false, spillNoted := false },
    llCommitApply,
    updLl fun l => { l with asm := [] },
    withS fun s => whenDo s.hst.xn.rows (updLl fun l => { l with asm := s.hst.xn.levels }),
    withS fun s => forN (s.rdA LL_FIXCOUNT) fixture,
    withS fun s => updLl fun l => { l with due := s.now + ((l.due + s.rdA LL_FIXCOUNT) * 5 + 5) / 6, copyAt := s.now + 5440 }]

/-- The lowest row that a packet for MAC `n` waits on (R212). -/
def State.nextRow (s : State) (n : Nat) : Option Nat :=
  ((s.ll.rows.filter fun x => x.2.owed.contains n).map (·.1) ++ (s.ll.held.filter fun h => h.2.1 == n).map (·.1)).min?

/-- Lamplighter's own times in a CK_TL cycle: assembly ends after the cycles of R193, the copy of the tables after 5.44 µs (R198), silent
sources are lost (R207), and E1.31 packets go to the MACs as they have room, with keep-alives and discovery in their time (R212, R213). -/
def lamplighterRun : Act := withS fun s => whenDo (s.has .lamplighter) (acts [
  assemblyComplete, whenDo (s.on LL_STATUS_COPYING) copyEnd,
  forEach s.ll.sources fun (x : Nat × Option InSource) => sourceSilent (x.1 / 4) (x.1 % 4),
  forEach s.ll.rows fun (x : Nat × OutRow) => e131Keepalive x.1, e131Discovery,
  forN 6 fun n => withS fun s => match s.nextRow n with | some r => e131Handoff r n | none => skip])

end Sys2Proof.Machine
end

