-- ==== Sys2Proof/Machine/Xn.lean ====
section
/-!
DEFINITION. The XN window (R320 to R322).
-/

namespace Sys2Proof.Machine

def updXn (f : Xn → Xn) : Act := updHst fun h => { h with xn := f h.xn }

/-- First address of the window and its size. -/
def xnBase : Nat := 0x10400000
def xnSize : Nat := 256 * 512

/-- The address lies in the window while it is decoded. -/
def State.xnAt (s : State) (a : Nat) : Bool := s.on HASP_XN_CTRL_ENABLE && decide (xnBase ≤ a ∧ a < xnBase + xnSize)

/-- The next frame boundary lies no more than 50,000 ticks ahead at the rate in effect (R321). -/
def State.xnDefers (s : State) : Bool :=
  decide ((2 ^ 24 - s.ys.pos % 2 ^ 24) * s.framePeriod ≤ 50000 * s.rateNum * 2 ^ 24)

/-- Write one level, at once or deferred to the boundary. -/
def xnPut (i : Nat) (v : Byte) : Act := withS fun s => acts [
  updXn fun x => { x with written := x.written.set 0 i v },
  if s.xnDefers then acts [updXn fun x => { x with deferred := x.deferred ++ [(i, v)] }, count HASP_XN_STAT_DEFERRED 1]
  else updXn fun x => { x with levels := x.levels.set 0 i v }]

/-- The value last written. -/
def State.xnGet (s : State) (i : Nat) : Byte := s.hst.xn.written.get 0 (i % xnSize)

/-- A write in the window: a byte, or two of which the first takes the high half (R320). -/
def xnWrite (a size v : Nat) : Act :=
  let i := a - xnBase
  if size = 1 then xnPut i (BitVec.ofNat 8 v)
  else if size = 2 then acts [xnPut i (BitVec.ofNat 8 (v / 256)), whenDo (decide (i + 1 < xnSize)) (xnPut (i + 1) (BitVec.ofNat 8 v))]
  else count HASP_XN_STAT_BADSIZE 1

/-- A read in the window. -/
def xnRead (a size : Nat) : Act := withS fun s =>
  let i := a - xnBase
  if size = 1 then reply [s.xnGet i]
  else if size = 2 then reply [s.xnGet (i + 1), s.xnGet i]
  else acts [count HASP_XN_STAT_BADSIZE 1, reply (List.replicate size 0)]

/-- The frame boundary applies the deferred writes in order (R321). -/
def xnBoundary : Act := updXn fun x =>
  { x with levels := x.deferred.foldl (fun l e => l.set 0 e.1 e.2) x.levels, deferred := [] }

/-- `XN_ACCESS`: an access to the window's addresses; while it does not decode, R31 applies (R32). -/
def execXnAccess (w : Requester) (addr : BitVec 40) (size : Nat) (isWrite : Bool) (v : DWord) (s : State) :
    Host.Outcome State Fault Refusal :=
  let a := addr.toNat
  done (if s.xnAt a then (if isWrite then xnWrite a size v.toNat else xnRead a size)
    else acts [unmapped w a, whenDo (!isWrite) (reply (List.replicate size 0))]) s

/-- A refused write of HASP_XN_CTRL (R322, R558). -/
def xnRefuse (st : Status) : Act := acts [result HASP_XN_CTRL_RESULT st, ledger 0xB702 .xnWindow note st.code]

/-- An output row that the window does not supply uses one of its numbers. -/
def State.xnTaken (s : State) : Bool :=
  (List.range 4096).any fun r =>
    let n := (rowOfTable s.tabA r).number
    decide (256 ≤ r ∧ 1 ≤ n ∧ n ≤ 256)

/-- A write of HASP_XN_CTRL (R300, R322). -/
def xnCtrlWrite (w : Requester) (v : Nat) : Act := withS fun s =>
  if !s.holds0 w then acts [xnRefuse .state, refusedWrite .xnWindow HASP_XN_CTRL_ENABLE.addr .state]
  else if bit v 31 then
    if s.unit UnitBit.mantle.bit || s.xnTaken then xnRefuse .state
    else if !s.has .lamplighter then xnRefuse .absent
    else acts [updXn fun x => { rows := x.rows }, wr HASP_XN_CTRL_ENABLE 1, result HASP_XN_CTRL_RESULT .ok,
      ledger 0xB701 .xnWindow note 1]
  else acts [wr HASP_XN_CTRL_ENABLE 0, result HASP_XN_CTRL_RESULT .ok,
    whenDo (s.on HASP_XN_CTRL_ENABLE) (ledger 0xB701 .xnWindow note 0)]

/-- `XN_ENABLE`: a write of HASP_XN_CTRL with ENABLE set. -/
def execXnEnable (w : Requester) (v : Word) (s : State) : Host.Outcome State Fault Refusal :=
  done (xnCtrlWrite w (v ||| 0x80000000#32).toNat) s

/-- `XN_DISABLE`: a write of HASP_XN_CTRL with ENABLE clear. -/
def execXnDisable (w : Requester) (v : Word) (s : State) : Host.Outcome State Fault Refusal :=
  done (xnCtrlWrite w (v &&& 0x7FFFFFFF#32).toNat) s

end Sys2Proof.Machine
end

