-- ==== Sys2Proof/Machine/Boundary.lean ====
section
/-!
DEFINITION. The events of the timeline that reach other units: slots that fire, the frame boundary, references that fail to come
and captures (R21, R43, R46, R69 to R79).
-/

namespace Sys2Proof.Machine

/-! ## Slots (R69, R72, R75) -/

/-- What a slot's action does, at the position as it stands. Steps that several slots give an engine in one tick are one (R173). -/
def slotAction (k : Nat) : Act := withS fun s =>
  let t := s.rd (YS_SLOT_TARGET k)
  match s.rd (YS_SLOT_CTRL_ACTION k) with
  | 1 => composeEvent (bits t 1 0) s.ys.pos
  | 2 => llCycle s.ys.pos
  | 3 => forN 32 fun e => whenDo (bit t e && !s.stepped e) (thimbleStep e s.ys.pos)
  | 4 | 5 | 6 => trigFire k
  | 7 | 8 => slotWake k
  | _ => skip

/-- An ARMED slot fires; a ONCE slot disarms itself (R69). -/
def fireSlot (k : Nat) (skipped : Bool) : Act := withS fun s => whenDo (s.on (YS_SLOT_CTRL_ARMED k)) (acts [
  whenDo (s.rd (YS_SLOT_CTRL_MODE k) == 0) (wr (YS_SLOT_CTRL_ARMED k) 0),
  setBit (YS_SLOT_CTRL_FIRED k), whenDo skipped (setBit (YS_SLOT_CTRL_SKIPPED k)), slotAction k])

/-- `SLOT_FIRE`. -/
def execSlotFire (slot : Fin 256) (s : State) : Host.Outcome State Fault Refusal := done (fireSlot slot false) s

/-- The place of an action in the order of R21. -/
def actionRank : Nat → Nat | 2 => 0 | 3 => 1 | 1 => 2 | 7 => 3 | 8 => 3 | _ => 4

/-- Fire the slots that come in one tick in the order of R21 and R72. Those that `skipped` names fire with SKIPPED set (R74). -/
def fireSlots (ks : List Nat) (skipped : Nat → Bool) : Act := withS fun s =>
  forN 4 fun r => forEach (ks.filter fun k => actionRank (s.rd (YS_SLOT_CTRL_ACTION k)) == r) fun k => fireSlot k (skipped k)

/-- The trigger slots that fire and the actions taken up whose tick has come change their outputs in ascending slot number (R72, R77). -/
def fireTriggers (ks : List Nat) (skipped : Nat → Bool) : Act := withS fun s =>
  let due (k : Nat) := s.ys.trig.find? fun x => x.slot == k && !x.made && decide (x.due ≤ s.now)
  forN 256 fun k => acts [
    match due k with | some x => whenDo (!ks.contains k) (makeChange x) | none => skip,
    whenDo (ks.contains k && actionRank (s.rd (YS_SLOT_CTRL_ACTION k)) == 4) (fireSlot k (skipped k))]

/-! ## The frame boundary (R43, R59, R74) -/

/-- The boundary that led here from `before` applied a forward re-base (R74). -/
def State.skipsAhead (before s : State) : Bool :=
  before.ys.rebase.isSome && s.ys.rebase.isNone && decide (before.frame + 1 < s.frame)

/-- The ARMED ONCE slots whose position lies before the frame that a forward re-base opens (R74). -/
def State.passed (s : State) : List Nat :=
  (List.range 256).filter fun k => s.on (YS_SLOT_CTRL_ARMED k) && s.rd (YS_SLOT_CTRL_MODE k) == 0
    && decide (s.slotPos k < s.frame * frameUnits)

/-- The thread waits that a forward re-base has passed (R74). -/
def passWaits : Act := forN 8 fun c => forN 64 fun t => comparator c t true

/-- Tailor's and the Treadles' part: the prediction step of a commit, its scan-out step, derating and Purse's loop. -/
def tailorBoundary : Act := withS fun s =>
  let depth (x : State) (t : Nat) := x.rdA (TL_GRP_OUT_DEPTH t)
  acts [
    windowReset, purseLatch, scanBoundary, predictBoundary,
    forN 16 fun g => withS fun s => deratingUpdate g (s.weftTemp g),
    probeBoundary, purseLoop s,
    withS fun s' => treadleBoundary fun t => depth s t != depth s' t]

/-- A frame boundary: every boundary action of every unit, in the order of R21. A re-base changes the number of the frame that starts, not what
the latch finds: a composition is complete for the frame after the last one (R59). -/
def boundaryWork : Act := withS fun before => acts [
  sysBoundary ((before.frame + 1) % 2 ^ 40),
  treadleFinish,
  ysCommitBoundary,
  revertBoundary, positionBoundary,
  geometryBoundary, lateBoundary, withS fun s => latchSwap ((before.frame + 1) % 2 ^ 40) s.frame,
  tailorBoundary,
  withS fun s => universeAdopt s.frame,
  thimbleLatch, weftBoundary, mediaBoundary, xnBoundary, shBoundary, mtBoundary, trimBoundary]

/-- A frame boundary, with the slots and the thread waits that a forward re-base passes. -/
def frameBoundary : Act := withS fun before => acts [boundaryWork, withS fun s => whenDo (before.skipsAhead s) (acts [
  fireSlots s.passed fun _ => true, fireTriggers s.passed fun _ => true, passWaits])]

/-- `FRAME_BOUNDARY`. -/
def execFrameBoundary (s : State) : Host.Outcome State Fault Refusal := done frameBoundary s

/-! ## References that fail to come (R46) -/

/-- An expected event of source `k` has not come by its position plus 1/8 frame. Mains is lost by Tally's timeout alone (`mainsLoss`). -/
def eventMissing (k : Nat) : Act := withS fun s => whenDo (decide (1 ≤ k ∧ k ≤ 6) && s.on (YS_SRC_PRESENT (k - 1))) (
  if k = 6 then beaconMissed
  else acts [updSource k fun x => { x with missing := x.missing + 1, valid := 0 },
    whenDo (k != 5 && decide (s.lossLimit k ≤ (s.source k).missing + 1)) (loseSource k)])

/-- `EXPECTED_EVENT_MISSING`. -/
def execExpectedEventMissing (src : Fin 7) (s : State) : Host.Outcome State Fault Refusal := done (eventMissing src) s

/-! ## Captures (R78, R79) -/

/-- The input captures an edge. -/
def State.captures (s : State) (c : Nat) (rising : Bool) : Bool :=
  s.on (YS_CAP_CFG_ENABLE c) && bit (s.rd (YS_CAP_CFG_EDGE c)) (if rising then 0 else 1)

/-- The 24 bytes of a capture record. -/
def captureRecord (c : Nat) (rising : Bool) (eighths pos : Nat) (t : Stamp) : List Byte :=
  leBytes 8 t.tick ++ leBytes 8 pos ++ leBytes 4 t.seq ++ leBytes 2 t.half ++ leBytes 2 (c * 2 ^ 8 + b2n rising * 8 + eighths)

/-- An edge at an input, `eighths` of a nanosecond into the tick. -/
def captureEdge (c : Nat) (rising : Bool) (eighths : Nat) : Act := withS fun s =>
  let at8 := s.now * 8 + eighths
  let last := s.ys.lastCapture.get none c
  whenDo (s.captures c rising) (
    if last.any fun p => at8 < p + 800 then acts [count (YS_CAP_OVR_OVR c) 1, ledger 0x100B .yardstick warning c]
    else withStamp fun t => acts [
      wrPair (YS_CAP_TICK_LO c) (YS_CAP_TICK_HI c) t.tick, wrPair (YS_CAP_POS_LO c) (YS_CAP_POS_HI c) s.ys.pos,
      wr (YS_CAP_SUB_EDGE c) (b2n rising), wr (YS_CAP_SUB_SUBNS c) eighths,
      updYs fun y => { y with lastCapture := y.lastCapture.set none c (some at8) },
      setEvent (YS_EVENT_CAP c),
      whenDo (s.on (YS_CAP_CFG_BOBBIN c)) (forEach (captureRecord c rising eighths s.ys.pos t) fun b => bobbinByte (35 + c) b false)])

/-- `CAPTURE_EDGE`. -/
def execCaptureEdge (input : Fin 4) (rising : Bool) (eighths : Fin 8) (s : State) : Host.Outcome State Fault Refusal :=
  done (captureEdge input rising eighths) s

end Sys2Proof.Machine
end

