-- ==== Sys2Proof/Machine/Dmx.lean ====
section
/-!
DEFINITION. The DMX512-A ports and the RDM controllers (R214 to R222).
-/

namespace Sys2Proof.Machine

/-- A command on a disabled DMX block has no effect (R3). -/
def dmxOn (a : Act) : Act := withS fun s => whenDo (s.has .dmx) a

def State.dmx (s : State) (n : Nat) : DmxPort := s.ll.ports.get {} n
def updDmx (n : Nat) (f : DmxPort → DmxPort) : Act :=
  updLl fun l => { l with ports := l.ports.set {} n (f (l.ports.get {} n)) }

def dmxIdle : Nat := 0
def dmxSending : Nat := 1
def dmxReceiving : Nat := 2
def dmxRdm : Nat := 3

/-- Register changes take effect at a break (R215). -/
def dmxBreak (n : Nat) : Act := acts [apply1 (DMX_CFG_MODE n), apply1 (DMX_TIMING_MAB n), apply1 (DMX_SLOTS_SLOTS n),
  apply1 (DMX_RDM_SWEEP_EN n)]

/-- DMXn_DE enables the external driver: in output mode, but while a response to an RDM request is awaited; never on a disabled block
(R214 to R216, R223). -/
def State.dmxDe (s : State) (n : Nat) : Bool :=
  s.has .dmx && s.has .lamplighter && s.rdA (DMX_CFG_MODE n) == 1 && (s.dmx n).work.isNone

/-- The port's line is at mark: it sends no packet (R215, R223). -/
def State.dmxMark (s : State) (n : Nat) : Bool := !(s.dmxDe n && s.rd (DMX_STAT_STATE n) == dmxSending)

/-- Slots sent by port `n`. -/
def State.dmxSlots (s : State) (n : Nat) : Nat := max 1 (min 512 (s.rdA (DMX_SLOTS_SLOTS n)))

/-- Microseconds of a level packet: MBB as lengthened for 1,204 from break to break, BREAK, MAB and the slots (R214). -/
def State.dmxTime (s : State) (n : Nat) : Nat :=
  let b := max 92 (min 1000 (s.rdA (DMX_TIMING_BREAK n)))
  max 1204 (s.rdA (DMX_TIMING_MBB n) + b + max 12 (s.rdA (DMX_TIMING_MAB n)) + (s.dmxSlots n + 1) * 44)

/-- The port's line is free: no packet is on it, and no response is awaited. -/
def State.dmxFree (s : State) (n : Nat) : Bool := (s.dmx n).work.isNone && decide ((s.dmx n).busyTo ≤ s.now)

/-- A level packet of an output port begins and is sent whole (R214, R215): it carries one adopted universe. None begins while another packet or
an RDM transaction has the line (R216). -/
def dmxOutput (n : Nat) : Act := withS fun s => whenDo (s.dmxFree n) (acts [dmxBreak n, withS fun s =>
  if s.rdA (DMX_CFG_MODE n) != 1 then wr (DMX_STAT_STATE n) dmxIdle
  else whenDo (s.has .lamplighter && s.on (DMX_STAT_DATA n)) (acts [
    emit (.dmx n (bankSlots s.ll.send (s.rdA (DMX_CFG_UNI n)) (s.dmxSlots n))),
    count (DMX_PKTS n) 1, wr (DMX_STAT_STATE n) dmxSending,
    updDmx n fun p => { p with level := true, busyTo := s.now + s.dmxTime n * 1000 }])])

/-- `DMX_OUTPUT_PACKET`. -/
def execDmxOutputPacket (port : Fin 32) (s : State) : Host.Outcome State Fault Refusal :=
  done (dmxOn (dmxOutput port)) s

/-- A packet arrives at an input port (R207, R208, R215). -/
def dmxInput (n : Nat) (start : Byte) (slots : List Byte) (framing : Bool) : Act := acts [dmxBreak n, withS fun s =>
  whenDo (s.rdA (DMX_CFG_MODE n) == 2) (acts [
    wr (DMX_STAT_STATE n) dmxReceiving,
    whenDo (s.onA (DMX_CFG_BOBBIN n)) (forEach (start :: slots) fun b => bobbinByte n b false),
    if framing then count (DMX_ERR_FRAMING n) 1
    else acts [count (DMX_PKTS n) 1,
      whenDo (s.has .lamplighter && start == 0 && !slots.isEmpty) (acts [
        storeSource (s.rdA (DMX_CFG_INUNI n))
          ⟨.dmx n, min 200 (s.rdA (DMX_SLOTS_PRIO n)), 0, slots.take 512, s.now⟩,
        withS fun s => wr (DMX_STAT_LIVE n) (b2n ((s.sourcesOf (s.rdA (DMX_CFG_INUNI n))).any
          fun x => x.2.id == .dmx n))])]])]

/-- `DMX_INPUT_PACKET`. -/
def execDmxInputPacket (port : Fin 32) (startCode : Byte) (slots : List Byte) (framing : Bool) (s : State) :
    Host.Outcome State Fault Refusal := done (dmxOn (dmxInput port startCode slots framing)) s

/-! ## RDM requests from the rings (R221, R222) -/

/-- Port `n` is an RDM controller that may run transactions (R216), by the settings of its last break (R215). -/
def State.rdmPort (s : State) (n : Nat) : Bool :=
  s.has .lamplighter && s.has .dmx && s.rdA (DMX_CFG_MODE n) == 1 && s.onA (DMX_CFG_RDM_EN n)

/-- A buffer of an entry lies in usable memory. -/
def State.usable (s : State) (a n : Nat) : Bool :=
  n == 0 || (s.extRange a n || decide (a + n ≤ 0x6000000 ∧ (a + n ≤ 0x4C00000 ∨ 0x5900000 ≤ a)))

/-- The status that refuses an entry as it is taken (R222). -/
def State.rdmCheck (s : State) (e : List Byte) : Status :=
  let cc := leAt e 0x1C 1; let pdl := leAt e 0x1D 1
  if (cc ≠ 0x20 ∧ cc ≠ 0x30) ∨ 231 < pdl ∨ !s.usable (bits (leAt e 0 8) 39 0) pdl
      ∨ !s.usable (bits (leAt e 8 8) 39 0) (leAt e 0x20 2) then .badarg
  else if !s.rdmPort (leAt e 0x1E 1 % 32) then .absent
  else .ok

/-- Complete a ring's entry (R221). -/
def rdmComplete (j : RdmJob) (len type msgs : Nat) (st : Status) : Act :=
  completionAt .lamplighter j.addr none (len + type * 2 ^ 16 + msgs % 2 ^ 16 * 2 ^ 32) 0 0 st

/-- Take entries of ring `r` in order into the ports' queues; a full queue holds the ring up (R221). DESIGN CHOICE (log 149): an entry that is
delivered poisoned is taken and completes CORRUPT, as in R91. -/
def rdmTake (r : Nat) : Nat → Act
  | 0 => skip
  | k + 1 => withS fun s =>
    let id := RingId.engine ⟨(4 + r) % 16, Nat.mod_lt _ (by decide)⟩
    let b := ringBase id
    if !s.ringHas id then skip
    else
      let a := s.ringEntry b (s.rd (RING_HEAD b))
      withMemFor .lamplighter a 0x40 fun e bad => withS fun s =>
        let port := leAt e 0x1E 1 % 32
        let st := if bad then .corrupt else s.rdmCheck e
        if st != .ok then acts [whenDo bad (llPoison a), bump (RING_HEAD b) 1, rdmComplete ⟨r, a, e⟩ 0 0 0 st, rdmTake r k]
        else if 4 ≤ (s.dmx port).queue.length then skip
        else acts [bump (RING_HEAD b) 1, updDmx port fun p => { p with queue := p.queue ++ [⟨r, a, e⟩] }, rdmTake r k]

/-- Take entries of both rings, the DMX block enabled or not (R222); on a standby they wait (R393). -/
def rdmTakeAll : Act := withS fun s => whenDo (s.has .lamplighter && !s.isStandby) (acts [rdmTake 0 256, rdmTake 1 256])

/-! ## Responders and discovery (R217 to R219) -/

/-- The key of entry `i` of port `n`'s responder table. -/
def respKey (n i : Nat) : Nat := n * 256 + i
def State.responder (s : State) (n i : Nat) : Option Responder := s.ll.responders.get none (respKey n i)
def setResponder (n i : Nat) (x : Option Responder) : Act :=
  updLl fun l => { l with responders := l.responders.set none (respKey n i) x }
/-- The responder count of DMX_STAT. -/
def respCount (n : Nat) : Act := withS fun s =>
  wr (DMX_STAT_RESP n) ((List.range 256).countP fun i => (s.responder n i).isSome)

/-- A muted responder is added to the table (R217). -/
def addResponder (n uid : Nat) : Act := withS fun s =>
  if (List.range 256).any fun i => (s.responder n i).map (·.uid) == some uid then skip
  else match (List.range 256).find? fun i => (s.responder n i).isNone with
    | none => ledger 0x400A .lamplighter warning n
    | some i => acts [setResponder n i (some ⟨uid, 0, s.ys.tick⟩), respCount n, setEvent LL_EVENT_RDM,
        ledger 0x4008 .lamplighter note (n * 2 ^ 24 + i)]

/-- A known responder answered a sweep's DISC_MUTE, or failed to (R217). -/
def sweepAnswer (n i : Nat) (ok : Bool) : Act := withS fun s =>
  match s.responder n i with
  | none => skip
  | some x =>
    if ok then setResponder n i (some { x with misses := 0 })
    else if x.misses + 1 < 3 then setResponder n i (some { x with misses := x.misses + 1 })
    else acts [setResponder n i none, respCount n, setEvent LL_EVENT_RDM,
      ledger 0x4009 .lamplighter note (n * 2 ^ 24 + i)]

/-- The DISC_MUTE steps for the known responders of port `n`. -/
def State.knownMutes (s : State) (n : Nat) : List RdmWork :=
  (List.range 256).filterMap fun i => (s.responder n i).map fun x => .mute x.uid (some i)

/-- Go on with a sweep once its last step is off the line: the second part follows the first, and after it the sweep has ended (R217,
R218). -/
def sweepNext (n : Nat) : Act := withS fun s =>
  let p := s.dmx n
  let stop := acts [updDmx n fun p => { p with part := 0 }, whenDo (p.asked.isNone) (wr (DMX_RDM_BUSY n) 0)]
  if p.part = 0 ∨ !p.steps.isEmpty ∨ p.work.isSome then skip
  else if p.part = 1 then
    if (s.knownMutes n).isEmpty then stop
    else updDmx n fun p => { p with part := 2, steps := s.knownMutes n }
  else stop

/-- Begin a sweep that waits, at a discovery turn (R217, R218). -/
def sweepBegin (n : Nat) : Act := withS fun s =>
  match (s.dmx n).asked with
  | some un => whenDo ((s.dmx n).part == 0) (updDmx n fun p => { p with
      asked := none, part := 1, sweptAt := s.now
      steps := (if un then [.unMute] else []) ++ [.branch 0 (2 ^ 48 - 1)] })
  | none => skip

/-- A UID addresses every device, or every device of a manufacturer. -/
def isBroadcast (uid : Nat) : Bool := uid % 2 ^ 32 == 2 ^ 32 - 1

/-- The parameter data of a request (R221), none for discovery. DESIGN CHOICE (log 149): a request whose data is delivered poisoned is not sent
and completes CORRUPT. -/
def withRequest (w : RdmWork) (k : List Byte → Act) : Act := match w with
  | .job j _ _ _ =>
    let a := bits (leAt j.entry 0 8) 39 0
    withMemFor .lamplighter a (leAt j.entry 0x1D 1) fun bs bad => if bad then acts [llPoison a, rdmComplete j 0 0 0 .corrupt] else k bs
  | _ => k []

/-- The slots of a request with its start code: 26 and its parameter data. PRESUMED from E1.20, whose packets the spec does not lay out (log 149). -/
def RdmWork.slots : RdmWork → Nat
  | .unMute => 26
  | .branch _ _ => 38
  | .mute _ _ => 26
  | .job j _ _ _ => 26 + leAt j.entry 0x1D 1

/-- Microseconds of a packet of `k` slots on port `n`'s line, from its break on (R214). -/
def State.dmxSpan (s : State) (n k : Nat) : Nat :=
  max 92 (min 1000 (s.rdA (DMX_TIMING_BREAK n))) + max 12 (s.rdA (DMX_TIMING_MAB n)) + k * 44

/-- Send a request under the next transaction number (R222); its break brings register changes into effect (R215). A broadcast has no response,
so that its transaction ends with it (R218, R222). -/
def rdmSend (n : Nat) (w : RdmWork) : Act := withRequest w fun bs => withS fun s =>
  let tn := ((s.dmx n).transaction + 1) % 256
  acts [
    dmxBreak n, emit (.rdm n w tn bs),
    withS fun s => updDmx n fun p => { p with level := false, transaction := tn, busyTo := s.now + s.dmxSpan n w.slots * 1000 },
    match w with
    | .unMute => skip
    | .job j _ _ _ => if isBroadcast (leAt j.entry 0x10 6) then rdmComplete j 0 0 0 .ok
        else acts [updDmx n fun p => { p with work := some w }, wr (DMX_STAT_STATE n) dmxRdm]
    | _ => acts [updDmx n fun p => { p with work := some w }, wr (DMX_STAT_STATE n) dmxRdm]]

/-- A transaction begins (R216): a repeated request, then the urgent ring, the normal ring, and discovery steps. At
least one level packet has gone since the one before it. -/
def rdmStart (n : Nat) : Act := withS fun s =>
  let p := s.dmx n
  whenDo (s.rdmPort n && !s.isStandby && p.level && s.dmxFree n) (
    match p.resume, (p.queue.find? (·.ring == 0)).orElse fun _ => p.queue.head? with
    | some w, _ => acts [updDmx n fun p => { p with resume := none }, rdmSend n w]
    | none, some j => acts [updDmx n fun p => { p with queue := p.queue.erase j },
        rdmSend n (.job j (leAt j.entry 0x1F 1 % 4) false [])]
    | none, none => acts [sweepBegin n, withS fun s =>
        match (s.dmx n).steps with
        | w :: ws => acts [updDmx n fun p => { p with steps := ws }, rdmSend n w]
        | [] => skip, sweepNext n])

/-- `RDM_TRANSACTION_START`. -/
def execRdmTransactionStart (port : Fin 32) (s : State) : Host.Outcome State Fault Refusal :=
  done (acts [rdmTakeAll, dmxOn (rdmStart port)]) s

/-- The last response of a request (R222): the data fits, or the first RESP_MAX bytes are kept. -/
def rdmFinish (j : RdmJob) (data : List Byte) (type msgs : Nat) : Act :=
  let top := leAt j.entry 0x20 2
  let kept := data.take top
  acts [memWriteFor .lamplighter (bits (leAt j.entry 8 8) 39 0) kept,
    rdmComplete j kept.length type msgs (if top < data.length then .full else .ok)]

/-- A try has failed: the request is repeated, or completes (R222). -/
def rdmRetry (n : Nat) (j : RdmJob) (tries : Nat) (heard : Bool) (data : List Byte) : Act :=
  if 0 < tries then updDmx n fun p => { p with resume := some (.job j (tries - 1) heard data) }
  else rdmComplete j 0 0 0 (if heard then .corrupt else .timeout)

/-- What a response does to the request on the line (R217, R222). -/
def rdmAnswer (n : Nat) (w : RdmWork) (r : RdmResp) : Act :=
  match w, r with
  | .unMute, _ => skip
  | .branch _ _, .branch uid => updDmx n fun p => { p with steps := .mute uid.toNat none :: p.steps }
  | .branch lo hi, _ => acts [count (DMX_ERR_COLL n) 1, whenDo (decide (lo < hi))
      (let mid := (lo + hi) / 2
       updDmx n fun p => { p with steps := .branch lo mid :: .branch (mid + 1) hi :: p.steps })]
  | .mute uid none, .muted u => whenDo (u.toNat == uid) (addResponder n uid)
  | .mute uid (some i), .muted u => sweepAnswer n i (u.toNat == uid)
  | .mute _ none, _ => skip
  | .mute _ (some i), _ => sweepAnswer n i false
  | .job j _ _ data, .ack d k => rdmFinish j (data ++ d) 0 k
  | .job j _ _ data, .timer d k => rdmFinish j (data ++ d) 1 k
  | .job j _ _ data, .nack d k => rdmFinish j (data ++ d) 2 k
  | .job j tries heard data, .overflow d _ => updDmx n fun p => { p with resume := some (.job j tries heard (data ++ d)) }
  | .job j tries _ data, _ => rdmRetry n j tries true data

/-- End the transaction of port `n` with what the line brought. -/
def rdmEnd (n : Nat) (f : RdmWork → Act) : Act := withS fun s =>
  match (s.dmx n).work with
  | none => skip
  | some w => acts [updDmx n fun p => { p with work := none }, wr (DMX_STAT_STATE n) dmxSending, f w, sweepNext n]

/-- `RDM_RESPONSE`: what it means, and its bytes, which the port's Bobbin takes as every received byte (R215). -/
def execRdmResponse (port : Fin 32) (resp : RdmReply) (s : State) : Host.Outcome State Fault Refusal :=
  done (dmxOn (acts [whenDo ((s.dmx port).work.isSome && s.onA (DMX_CFG_BOBBIN port)) (forEach resp.raw fun b => bobbinByte port b false),
    rdmEnd port fun w => rdmAnswer port w resp.resp])) s

/-- LL_RDM_CFG.TIMEOUT in ns (R216). -/
def State.rdmWait (s : State) : Nat := max 28 (min 100 (s.rd LL_RDM_CFG_TIMEOUT)) * 100000

/-- No response has come within LL_RDM_CFG.TIMEOUT of the end of the request (R216). -/
def rdmSilence (n : Nat) : Act := withS fun s => whenDo (decide ((s.dmx n).busyTo + s.rdmWait ≤ s.now)) (rdmEnd n fun w => match w with
  | .mute _ (some i) => sweepAnswer n i false
  | .job j tries heard data => rdmRetry n j tries heard data
  | _ => skip)

/-- `RDM_TIMEOUT`. -/
def execRdmTimeout (port : Fin 32) (s : State) : Host.Outcome State Fault Refusal := done (dmxOn (rdmSilence port)) s

/-- The time of a periodic sweep has come (R217); a standby's sweeps are suspended (R393). -/
def rdmSweep (n : Nat) : Act := withS fun s =>
  whenDo (s.onA (DMX_RDM_SWEEP_EN n) && s.rdmPort n && !s.isStandby && !s.on (DMX_RDM_BUSY n)
      && decide ((s.dmx n).sweptAt + max 1 (s.rd LL_RDM_CFG_SWEEP) * 10 ^ 9 ≤ s.now))
    (acts [updDmx n fun p => { p with asked := some false }, wr (DMX_RDM_BUSY n) 1])

/-- `RDM_SWEEP`. -/
def execRdmSweep (port : Fin 32) (s : State) : Host.Outcome State Fault Refusal := done (dmxOn (rdmSweep port)) s

/-- A write of DMX_RDM (R218): DISC is ignored while a sweep is pending or running. -/
def dmxRdmWrite (n : Nat) (v : Nat) : Act := withS fun s => acts [wr (DMX_RDM_SWEEP_EN n) (bits v 30 30),
  whenDo (bit v 31 && !s.on (DMX_RDM_BUSY n) && s.rdmPort n)
    (acts [updDmx n fun p => { p with asked := some true }, wr (DMX_RDM_BUSY n) 1])]

/-- `DMX_RDM_DISC`: a write of DMX_RDM with DISC set. -/
def execDmxRdmDisc (_w : Requester) (port : Fin 32) (v : Word) (s : State) : Host.Outcome State Fault Refusal :=
  done (dmxOn (dmxRdmWrite port (v ||| 0x80000000#32).toNat)) s

/-- The DMX ports in one cycle: an awaited response is given up, a sweep becomes due, and on a free line an RDM request or a level packet
begins (R214 to R217). DESIGN CHOICE (log 149): a port that is not in input mode and sends nothing takes register changes at once. -/
def dmxRun : Act := dmxOn (forN 32 fun n => acts [rdmSilence n, rdmSweep n, rdmStart n,
  withS fun s => whenDo (s.rdA (DMX_CFG_MODE n) != 2) (dmxOutput n)])

end Sys2Proof.Machine
end

