-- ==== Sys2Proof/Machine/Network.lean ====
section
/-!
DEFINITION. The MACs' links and rings, reception and the bridge (R325 to R342).
-/

namespace Sys2Proof.Machine

/-! ## Links (R325, R326) -/

/-- The link of MAC `n` comes up (R325, R326, R355). -/
def macUp (n : Nat) : Act := withS fun s =>
  whenDo (s.macOn n && s.on (MAC_CTRL_ENABLE n) && !s.on (MAC_STATUS_LINK n)) (acts [
    wr (MAC_STATUS_LINK n) 1,
    wr (MAC_STATUS_RATE n) (if 4 ≤ n then 2 else if s.rd (MAC_CTRL_SPEED n) = 1 then 1 else 0),
    bump (MAC_STATUS_CHANGES n) 1, setEvent (MAC_EVENT_LINK_UP n), ledger 0x5001 .network note n,
    syncGroups n, musterAnnounce n])

/-- The link of MAC `n` is lost: every waiting frame is dropped (R326). A frame being sent is cut off with them
(log 21). -/
def macDown (n : Nat) : Act := withS fun s => whenDo (s.linkUp n) (acts [
  macCount n cTxNolink ((s.mac n).queues.foldl (fun k q => k + q.2.length) 0 + b2n (s.mac n).sending.isSome),
  updMac n fun m => { m with queues := [], inFlight := [], sending := none, groups := [] },
  wr (MAC_STATUS_LINK n) 0, bump (MAC_STATUS_CHANGES n) 1, setEvent (MAC_EVENT_LINK_DOWN n),
  ledger 0x5002 .network warning n])

/-- `MAC_LINK_UP`. -/
def execMacLinkUp (n : Fin 6) (s : State) : Host.Outcome State Fault Refusal := done (macUp n) s
/-- `MAC_LINK_DOWN`. -/
def execMacLinkDown (n : Fin 6) (s : State) : Host.Outcome State Fault Refusal := done (macDown n) s

/-- A write of MAC_CTRL: a change of ENABLE, SPEED or FEC takes the link down (R325); clearing MUSTER withdraws
(R355). -/
def macCtrlWrite (n v : Nat) : Act := withS fun s =>
  let restart := bit v 31 != s.on (MAC_CTRL_ENABLE n) || bits v 30 29 != s.rd (MAC_CTRL_SPEED n)
    || bit v 28 != s.on (MAC_CTRL_FEC n)
  acts [
    whenDo (s.on (MAC_CTRL_MUSTER n) && !bit v 26 && s.linkUp n) (musterSend n 2),
    whenDo restart (macDown n),
    wr (MAC_CTRL_ENABLE n) (bits v 31 31), wr (MAC_CTRL_SPEED n) (bits v 30 29), wr (MAC_CTRL_FEC n) (bits v 28 28),
    wr (MAC_CTRL_BRIDGE n) (bits v 27 27), wr (MAC_CTRL_MUSTER n) (bits v 26 26),
    wr (MAC_CTRL_RX_E131 n) (bits v 25 25), wr (MAC_CTRL_TSQ n) (bits v 23 20), syncGroups n]

/-! ## Software transmit rings (R333) -/

/-- The octets of a software frame on the link: with the MAC's tag, padded to 60, and with the FCS (R330, R333). -/
def State.softOctets (s : State) (n q : Nat) (bs : List Byte) : List Byte :=
  let bs := match s.txTag n q with | some t => bs.take 12 ++ beBytes 2 0x8100 ++ beBytes 2 t.toNat ++ bs.drop 12 | none => bs
  withFcs false (bs ++ List.replicate (60 - bs.length) 0)

/-- The frame that software octets make on MAC `n`'s queue `q` (R330, R333). -/
def State.softFrame (s : State) (n q : Nat) (bs : List Byte) : EthFrame :=
  let tagged := s.on (MAC_VLAN_EN n)
  { dst := BitVec.ofNat 48 (ofBe (bs.take 6)), src := BitVec.ofNat 48 (ofBe ((bs.drop 6).take 6)), tag := s.txTag n q,
    len := max 60 (bs.length + 4 * b2n tagged) + 4, pcsBad := false, fcsBad := false, age := 0, body := .other,
    octets := s.softOctets n q bs }

/-- The head entry of software ring `r`: it is refused (R326, R333), or gives the octets of its frame once `fits` takes their number. -/
def softHead (n r : Nat) (fits : State → Nat → Bool) (refuse : Status → Act) (go : List Byte → Act) : Act := withS fun s =>
  let id := txRing n r
  let a := s.ringEntry (ringBase id) (s.rd (RING_HEAD (ringBase id)))
  whenDo (s.ringHas id) (withMemFor .network a 0x20 fun e _ => withS fun s =>
    let buf := bits (leAt e 0 8) 39 0
    let len := bits (leAt e 8 4) 13 0
    if bits (leAt e 0 8) 63 40 ≠ 0 ∨ bits (leAt e 8 4) 31 14 ≠ 0 ∨ len < 14 ∨ s.maxFrame n < len + 4 then refuse .badarg
    else if !s.linkUp n then refuse .absent
    else whenDo (fits s len) (withMemFor .network buf len fun bs bad => if bad then refuse .corrupt else go bs))

/-- A frame of ring `r` that waits or is being sent is taken back. -/
def softDrop (n r : Nat) : Act := withS fun s => whenDo ((s.mac n).inFlight.get false r) (updMac n fun m =>
  let mine (t : TxFrame) : Bool := t.kind == kindSoft && t.id == r
  { m with inFlight := m.inFlight.set false r false, queues := m.queues.set [] r ((m.queues.get [] r).filter fun t => !mine t),
           sending := m.sending.filter fun x => !mine x.2.1 })

/-- The head entry of software ring `r` completes: its frame has left the MAC, or has been refused (R326, R333). -/
def ethTxEntry (n r : Nat) : Act :=
  softHead n r (fun _ _ => true) (fun st => acts [softDrop n r, mediumStamp n (softDone n r st)]) fun bs => withS fun s => acts [
    softDrop n r, sent n (s.softFrame n r bs), mediumStamp n (softDone n r .ok)]

/-- The frame of the head entry of ring `r` joins its queue as soon as it fits; a refused entry completes (R331 to R333). -/
def softRun (n r : Nat) : Act := withS fun s => whenDo (s.macOn n && !(s.mac n).inFlight.get false r) (
  softHead n r (fun s len => s.queueRoom n r (max 60 (len + 4 * b2n (s.on (MAC_VLAN_EN n))) + 4)) (fun st => mediumStamp n (softDone n r st))
    fun bs => withS fun s => acts [enqueue n r ⟨s.softFrame n r bs, kindSoft, r⟩,
      updMac n fun m => { m with inFlight := m.inFlight.set false r true }])

/-- The MACs send: a frame ends, the software rings fill their queues, and the next frame begins (R331, R333). -/
def macsRun : Act := forN 6 fun n => acts [macEnd n, forN 2 (softRun n), macBegin n]

/-- `ETH_TX_ENTRY_COMPLETE`. -/
def execEthTxEntryComplete (n : Fin 6) (ring : Fin 2) (s : State) : Host.Outcome State Fault Refusal :=
  done (ethTxEntry n ring) s

/-! ## Neighbours (R328) -/

/-- An ARP request for neighbour entry `i`, from every MAC that has an address (log 21). -/
def arpRequest (i : Nat) : Act := withS fun s =>
  whenDo (s.netOn && s.on (NBR_CTRL_AUTO i) && !s.on (NBR_CTRL_VALID i) && s.rd (NBR_IP i) != 0) (acts [
    updNet fun t => { t with arpAt := t.arpAt.set 0 i s.now },
    forN 6 fun n => withS fun s => whenDo (s.linkUp n && s.macIp n != 0) (enqueue n 3
      ⟨s.txFrame n 3 0xFFFFFFFFFFFF (.arp false (BitVec.ofNat 48 (s.macAddr n)) (s.macIp n) (s.rd (NBR_IP i))), 0, 0⟩)])

/-- `ARP_RETRY`. -/
def execArpRetry (i : Fin 64) (s : State) : Host.Outcome State Fault Refusal := done (arpRequest i) s

/-- ARP reception (R327, R328). -/
def arpReceive (n : Nat) (isReply : Bool) (mac senderIp targetIp : Nat) : Act := withS fun s =>
  if isReply then forN 64 fun i => withS fun s =>
    whenDo (s.on (NBR_CTRL_AUTO i) && !s.on (NBR_CTRL_VALID i) && s.rd (NBR_IP i) == senderIp && senderIp != 0) (acts [
      wr (NBR_MAC_LO i) mac, wr (NBR_CTRL_MAC_HI i) (mac / 2 ^ 32), wr (NBR_CTRL_VALID i) 1])
  else whenDo (s.macIp n != 0 && targetIp == s.macIp n) (enqueue n 3
    ⟨s.txFrame n 3 mac (.arp true (BitVec.ofNat 48 (s.macAddr n)) (s.macIp n) senderIp), 0, 0⟩)

/-- An IGMP query is answered for each group it asks about (R327). -/
def igmpQuery (n g : Nat) : Act := withS fun s =>
  forEach ((s.mac n).groups.filter fun x => g == 0 || x == g) (igmpReport n)

/-! ## The address table (R338) -/

def State.brEntry (s : State) (i : Nat) : Option BrEntry := s.net.table.get none i
/-- The set of an address. -/
def brSet (addr : Nat) : Nat := crc32 (beBytes 6 addr) % 1024
/-- Replace an entry and the count. -/
def setBr (i : Nat) (e : Option BrEntry) : Act := acts [
  updNet fun t => { t with table := t.table.set none i e }, withS fun s => wr BR_STATUS_ENTRIES s.net.table.length]
/-- The index of an address in the table. -/
def State.brFind (s : State) (addr : Nat) : Option Nat :=
  ((List.range 4).map (brSet addr * 4 + ·)).find? fun i => (s.brEntry i).map (·.addr) == some addr
/-- The first way of a set that `p` accepts. -/
def State.brWay (s : State) (set : Nat) (p : Option BrEntry → Bool) : Option Nat :=
  ((List.range 4).map (set * 4 + ·)).find? fun i => p (s.brEntry i)

/-- Learn a source address (R338). -/
def brLearn (n addr : Nat) : Act := withS fun s =>
  whenDo (s.on BR_CTRL_LEARN) (match s.brFind addr with
    | some i => whenDo ((s.brEntry i).any (!·.fixed)) (setBr i (some ⟨addr, n, false, s.now⟩))
    | none => match s.brWay (brSet addr) (·.isNone) with
      | some i => setBr i (some ⟨addr, n, false, s.now⟩)
      | none =>
        let min := s.now / (60 * 10 ^ 9) + 1
        acts [bridgeCount 3, whenDo (s.net.fullNoted != min) (acts [
          updNet fun t => { t with fullNoted := min }, ledger 0x5007 .network warning (brSet addr)])])

/-- A learned entry that has gone AGE seconds without a refresh is removed (R338). -/
def brAge (i : Nat) : Act := withS fun s =>
  whenDo (s.has .trunk && s.rd BR_CTRL_AGE != 0 && (s.brEntry i).any fun y => !y.fixed && decide (y.at_ + s.rd BR_CTRL_AGE * 10 ^ 9 ≤ s.now))
    (setBr i none)

/-- `BRIDGE_AGEING`. -/
def execBridgeAgeing (index : Fin 4096) (s : State) : Host.Outcome State Fault Refusal := done (brAge index) s

/-- A write of PTP_BR_CMD (R338, R359). A static entry takes the way of its address, a free way, or the first learned
one (log 21); a DELETE of an address that is not there answers ABSENT. -/
def brCommand (op index : Nat) : Act := withS fun s =>
  let addr := s.rd BR_ENT_LO + s.rd BR_ENT_HI_ADDR * 2 ^ 32
  let entry : BrEntry := ⟨addr, s.rd BR_ENT_HI_PORT, true, s.now⟩
  match op with
  | 1 => acts [result NET_STATUS_RESULT .ok, match s.brEntry index with
      | some e => acts [wr BR_ENT_LO e.addr, wr BR_ENT_HI_ADDR (e.addr / 2 ^ 32), wr BR_ENT_HI_VALID 1,
          wr BR_ENT_HI_STATIC (b2n e.fixed), wr BR_ENT_HI_PORT e.port]
      | none => acts [wr BR_ENT_LO 0, wr BR_ENT_HI_ADDR 0, wr BR_ENT_HI_VALID 0, wr BR_ENT_HI_STATIC 0,
          wr BR_ENT_HI_PORT 0]]
  | 2 => match (s.brFind addr).orElse (fun _ => (s.brWay (brSet addr) (·.isNone)).orElse fun _ =>
        s.brWay (brSet addr) fun e => e.any (!·.fixed)) with
      | some i => acts [setBr i (some entry), result NET_STATUS_RESULT .ok]
      | none => result NET_STATUS_RESULT .full
  | 3 => match s.brFind addr with
      | some i => acts [setBr i none, result NET_STATUS_RESULT .ok]
      | none => result NET_STATUS_RESULT .absent
  | _ => skip

/-- A write of PTP_BR_CMD. -/
def brCmdWrite (v : Nat) : Act := brCommand (bits v 31 30) (bits v 11 0)

/-- `BR_TABLE_READ`: a write of PTP_BR_CMD with OP 0b01. -/
def execBrTableRead (_w : Requester) (v : Word) (s : State) : Host.Outcome State Fault Refusal :=
  done (whenDo (s.has .trunk) (brCommand 1 (bits v.toNat 11 0))) s
/-- `BR_TABLE_WRITE`: a write of PTP_BR_CMD with OP 0b10. -/
def execBrTableWrite (_w : Requester) (v : Word) (s : State) : Host.Outcome State Fault Refusal :=
  done (whenDo (s.has .trunk) (brCommand 2 (bits v.toNat 11 0))) s
/-- `BR_TABLE_DELETE`: a write of PTP_BR_CMD with OP 0b11. -/
def execBrTableDelete (_w : Requester) (v : Word) (s : State) : Host.Outcome State Fault Refusal :=
  done (whenDo (s.has .trunk) (brCommand 3 (bits v.toNat 11 0))) s

/-- A write of PTP_SNAP (R336). -/
def snapWrite (v : Nat) : Act := withS fun s => whenDo (bit v 31) (acts [
  forN 6 fun n => forN 16 fun k => wrPair (MAC_SNAP_LO n k) (MAC_SNAP_HI n k) (s.pair (MAC_CNT_LO n k) (MAC_CNT_HI n k)),
  forN 5 fun k => wrPair (BR_SNAP_LO k) (BR_SNAP_HI k) (s.pair (BR_CNT_LO k) (BR_CNT_HI k)),
  bump MAC_SNAP_CTRL_SEQ 1])

/-- `COUNTER_SNAPSHOT`: a write of PTP_SNAP with SNAP set. -/
def execCounterSnapshot (_w : Requester) (v : Word) (s : State) : Host.Outcome State Fault Refusal :=
  done (whenDo s.netOn (snapWrite (v ||| 0x80000000#32).toNat)) s

/-! ## Forwarding (R337, R339 to R342) -/

/-- MAC `n` takes part in the bridge (R337). -/
def State.bridged (s : State) (n : Nat) : Bool := decide (n < 4) && s.macOn n && s.on (MAC_CTRL_BRIDGE n)

/-- The frame is never forwarded (R337). -/
def neverForwarded (f : EthFrame) : Bool :=
  f.dst.toNat / 16 == 0x0180C200000 || match f.body with
    | .udp _ d _ _ _ | .ip _ d => d == 0xE000006B
    | .igmpQuery g | .igmpReport g | .igmpLeave g => g == 0xE000006B
    | _ => false

def isMulticastMac (a : Nat) : Bool := a / 2 ^ 40 % 2 == 1
def broadcastMac : Nat := 0xFFFFFFFFFFFF

/-- The other bridged ports with link up. -/
def State.floodPorts (s : State) (n : Nat) : List Nat :=
  (List.range 4).filter fun m => m != n && s.bridged m && s.linkUp m

/-- Where a frame received on bridged port `n` is forwarded (R339), and whether that is by flooding. -/
def State.forwardTo (s : State) (n : Nat) (f : EthFrame) : List Nat × Bool :=
  let d := f.dst.toNat
  if neverForwarded f then ([], false)
  else if isMulticastMac d then (s.floodPorts n, true)
  else if (List.range 4).any fun m => s.macAddr m == d then ([], false)
  else match (s.brFind d).bind s.brEntry with
    | some e => ((s.floodPorts n).filter (· == e.port), false)
    | none => (s.floodPorts n, true)

/-- A PTP event message (R340). -/
def ptpEventOf : EthBody → Option PtpMsg
  | .ptp m | .udp _ _ _ _ (.ptp m) =>
    match m.kind with | .sync | .delayReq | .event => some m | _ => none
  | _ => none

/-- The egress queue of a forwarded frame (R340). -/
def bridgeQueue (f : EthFrame) : Nat :=
  if (ptpEventOf f.body).isSome then 7
  else match f.body with
    | .udp _ _ _ 48100 (.bytes bs) =>
      if beAt bs 3 1 = 2 then 6 else if beAt bs 3 1 = 1 then 5 else (f.tag.map (·.toNat / 2 ^ 13)).getD 1
    | .udp _ _ _ 5568 (.e131Sync ..) => 6
    | .udp _ _ _ 5568 _ => 4
    | .udp _ _ _ 48101 _ => 3
    | _ => (f.tag.map (·.toNat / 2 ^ 13)).getD 1

/-- Forwarding to MAC `m` is cut-through (R341). -/
def State.cutThrough (s : State) (n m q : Nat) : Bool :=
  (s.mac m).sending.isNone && (List.range 8).all (fun k => decide (k < q) || ((s.mac m).queues.get [] k).isEmpty)
  && decide (s.macGbps m ≤ s.macGbps n)

/-- Forward a frame to MAC `m`. A PTP event message carries its ingress instant for its residence time (R342). A frame
with a bad FCS goes on only when it was cut through, with an inverted FCS (R341). The bridge buffer is never full before the port's eight
queues are, whose size is the same. -/
def bridgeForward (n m ingress : Nat) (f : EthFrame) : Act := withS fun s =>
  let q := bridgeQueue f
  let cut := s.cutThrough n m q
  let t : TxFrame := if (ptpEventOf f.body).isSome then ⟨{ f with age := ingress }, kindBridgedPtp, 0⟩
    else ⟨{ f with age := 0, octets := if f.fcsBad then withFcs true (f.octets.dropLast.dropLast.dropLast.dropLast) else f.octets }, 0, 0⟩
  if f.fcsBad && !cut then skip
  else if !s.queueRoom m q f.len then acts [bridgeCount 4, setEvent PTP_EVENT_BR_FULL, queueFull m q]
  else acts [whenDo cut (bridgeCount 2), whenDo f.fcsBad (macCount m cBrStomp 1), enqueue m q t]

/-! ## Reception (R329, R330, R334, R335) -/

/-- The tag is accepted under R330. -/
def State.tagOk (s : State) (n : Nat) (f : EthFrame) : Bool :=
  match f.tag with
  | none => true
  | some t => t.toNat % 2 ^ 12 == if s.on (MAC_VLAN_EN n) then s.rd (MAC_VLAN_VID n) else 0

/-- The frame is addressed to the device on MAC `n` (R334, R339). -/
def State.toDevice (s : State) (n : Nat) (f : EthFrame) : Bool :=
  let d := f.dst.toNat
  if d = broadcastMac then true
  else if isMulticastMac d then (s.mac n).groups.any (fun g => groupMac g == d)
    || (match f.body with | .igmpQuery _ => s.macIp n != 0 | _ => false)
  else if s.bridged n then (List.range 4).any fun m => s.macAddr m == d
  else s.macAddr n == d

/-- Ingress stamp of a frame in units of 125 ps, at the present tick (R344). -/
def State.ingress (s : State) (n : Nat) (f : EthFrame) (now : Nat) : Nat :=
  let t := now * 8 - f.age - s.rd (PTP_LAT_RX n)
  if n < 4 then t else t / 8 * 8

/-- The enabled filter that matches, lowest first (R334). -/
def State.filterFor (s : State) (n : Nat) (port : Option Nat) : Option Nat :=
  (List.range 8).find? fun i => s.on (MAC_FILT_EN n i)
    && (s.rd (MAC_FILT_UDP_PORT n i) == 0 || port == some (s.rd (MAC_FILT_UDP_PORT n i)))

/-- Receive ring `r` of MAC `n`. -/
def rxRing (n r : Nat) : RingId :=
  .macRx ⟨n % 6, Nat.mod_lt _ (by decide)⟩ ⟨r % 4, Nat.mod_lt _ (by decide)⟩

/-- Deliver a frame to its receive ring (R334, R335). -/
def ringDeliver (n : Nat) (f : EthFrame) : Act := withS fun s =>
  let port := match f.body with | .udp _ _ _ p _ => some p | _ => none
  let filter := s.filterFor n port
  let id := rxRing n (match filter with | some i => s.rd (MAC_FILT_RING n i) | none => 0)
  let b := ringBase id
  let none_ := acts [macCount n cRxNobuf 1, setEvent (MAC_EVENT_NOBUF n)]
  if !s.ringHas id then none_
  else
    let a := s.ringEntry b (s.rd (RING_HEAD b))
    withMemFor .network a 0x20 fun e _ =>
      if bits (leAt e 8 4) 13 0 < f.len then none_
      else withStamp fun st => withS fun s =>
        let t := s.ingress n f s.ys.tick
        let tag := match f.tag with | some t => 2 ^ 12 + t.toNat / 2 ^ 13 * 2 ^ 13 + t.toNat % 2 ^ 12 | none => 0
        acts [
          memWriteFor .network (bits (leAt e 0 8) 39 0) f.octets, bump (RING_HEAD b) 1,
          memWriteFor .network (a + 0x20) (leBytes 8 (t / 8) ++ leBytes 4 st.seq ++ leBytes 2 st.half
            ++ leBytes 2 (t % 8) ++ leBytes 8 tag),
          memWriteFor .network (a + 0x38) (leBytes 8 (f.len * 2 ^ 16 + 2 ^ 15 + filter.getD 15 * 2 ^ 11))]

/-- The enabled ingest streams that a datagram matches (R334, R347, R353). -/
def State.ingestFor (s : State) (n src dst port : Nat) (kind : Nat) : List Nat :=
  (List.range 4).filter fun t => s.on (DR_ING_CFG_ENABLE t) && s.rd (ING_NET_SRC t) == kind && s.rd (ING_NET_PORT t) == n
    && s.rd (ING_GROUP t) == dst && s.rd (ING_NET_UDP t) == port
    && (s.rd (ING_SRCIP t) == 0 || s.rd (ING_SRCIP t) == src)

/-- A write of DR_INGs_CFG (R109): the group is joined or left (R327), and assembly starts anew with an enable. -/
def ingestWrite (t v : Nat) : Act := withS fun s => acts [
  ingestCfgWrite t v,
  withS fun s' => whenDo (s.on (DR_ING_CFG_ENABLE t) != s'.on (DR_ING_CFG_ENABLE t))
    (acts [updIngest t fun _ => {}, syncAllGroups])]

/-- `INGEST_ENABLE`: a write of DR_INGs_CFG with ENABLE set. -/
def execIngestEnable (_w : Requester) (stream : Fin 4) (v : Word) (s : State) : Host.Outcome State Fault Refusal :=
  done (whenDo (s.has .draper) (ingestWrite stream (v ||| 0x80000000#32).toNat)) s

/-- A frame for the device: hardware consumes its own traffic, and the rest goes to a ring (R334). -/
def ethDeliver (n : Nat) (f : EthFrame) : Act := withS fun s =>
  match f.body with
  | .arp r mac a b => arpReceive n r mac.toNat a b
  | .igmpQuery g => igmpQuery n g
  | .igmpReport _ | .igmpLeave _ => skip
  | .udp src dst sport dport d =>
    match d with
    | .ptp m => if dport = 319 ∨ dport = 320 then
        ptpReceive n m ((s.wallNow * 8 - f.age - s.rd (PTP_LAT_RX n)) / 8) else ringDeliver n f
    | .e131 .. | .e131Sync .. | .e131Discovery .. => if dport = 5568 then e131Input d else ringDeliver n f
    | .rtp r =>
      let ts := s.ingestFor n src dst dport 1
      if ts.isEmpty then ringDeliver n f
      else match ts.filter fun t => r.pt == s.rd (ING_NET_PT t) with
        | [] => macCount n cRxNotus 1
        | us => forEach us fun t => rtpReceive n t r
    | .bytes bs =>
      let ts := s.ingestFor n src dst dport 2
      if dst = musterGroup ∧ dport = musterPort ∧ sport = musterPort then musterReceive n f.src.toNat bs
      else if ts.isEmpty then ringDeliver n f
      else forEach ts fun t => weftReceive t bs
  | _ => ringDeliver n f

/-- A dropped frame counts in the first row of R329 that applies. -/
def dropped (n k : Nat) : Act := acts [macCount n k 1, setEvent (MAC_EVENT_BAD n)]

/-- A frame arrives at MAC `n` (R329, R330, R337 to R341). One that finds the link down is not received. -/
def ethReceive (n : Nat) (f : EthFrame) : Act := withS fun s =>
  let bridged := s.bridged n
  let (ports, flood) := if bridged then s.forwardTo n f else ([], false)
  let forward := forEach ports fun m => bridgeForward n m (s.ingress n f s.now) f
  if !s.linkUp n then skip
  else if f.pcsBad then dropped n cRxPcs
  else if f.len < 64 then dropped n cRxRunt
  else if s.maxFrame n < f.len then dropped n cRxOversize
  else if f.fcsBad then acts [dropped n cRxFcs, whenDo (decide (n < 4)) (ail .link), forward]
  else if f.body = .pause then macCount n cRxPause 1
  else if !s.tagOk n f ∧ ports.isEmpty then acts [whenDo bridged (brLearn n f.src.toNat), dropped n cRxVlan]
  else acts [
    whenDo bridged (brLearn n f.src.toNat),
    forward,
    whenDo (!ports.isEmpty) (bridgeCount (if flood then 1 else 0)),
    if s.toDevice n f && s.tagOk n f then
      acts [macCount n cRxFrames 1, macCount n cRxOctets f.len, ethDeliver n f]
    else if ports.isEmpty then macCount n cRxNotus 1
    else acts [macCount n cRxFrames 1, macCount n cRxOctets f.len]]

/-- `ETH_FRAME_RECEIVE`. -/
def execEthFrameReceive (n : Fin 6) (frame : EthFrame) (s : State) : Host.Outcome State Fault Refusal :=
  done (ethReceive n frame) s

end Sys2Proof.Machine
end

