-- ==== Sys2Proof/Machine/Security.lean ====
section
/-!
DEFINITION. Confirmation, anti-rollback, provisioning, debug access, the tamper sensors and the test access port (R502, R503, R506 to
R508).
-/

namespace Sys2Proof.Machine

/-- The requester is a thread of Chandler 0 in SYS mode. -/
def State.sysOnCore0 (s : State) : Requester → Bool
  | .thread c t => c == 0 && (s.thread 0 t).sys
  | _ => false

/-- A write of BT_CONFIRM after step 14: the booted slot becomes ACTIVE and TRY is cleared (R502). -/
def confirmWrite (v : Nat) : Act := withS fun s => whenDo (bit v 0 && s.booted && s.boot.fromFlash) (
  let x := s.rd BT_SLOTS_SLOTS
  let k := s.rd BT_STATUS_SLOT
  acts [wr BT_SLOTS_SLOTS (slotsWord k none (slotTryUsed x) (slotLast x)), journalWrite, ledger 0xA009 .boot note k])

/-- `BT_CONFIRM`. -/
def execBtConfirm (_w : Requester) (v : Word) (s : State) : Host.Outcome State Fault Refusal :=
  done (confirmWrite (v ||| 1#32).toNat) s

/-- A write of BT_SVN (R503). -/
def svnWrite (w : Requester) (v : Nat) : Act := withS fun s => whenDo (bit v 0) (
  if !s.booted || !s.sysOnCore0 w then btRefuse BT_SVN_ADVANCE .state
  else acts [result BT_STATUS_RESULT .ok,
    let n := s.rd BT_SVN_IMAGE
    whenDo (decide (s.rd BT_SVN_FUSED < n)) (acts [
      updBoot fun b => { b with fuse := { b.fuse with rollback := n } }, wr BT_SVN_FUSED n, ledger 0xA005 .boot note n])])

/-- `BT_SVN_ADVANCE`. -/
def execBtSvnAdvance (w : Requester) (v : Word) (s : State) : Host.Outcome State Fault Refusal :=
  done (svnWrite w (v ||| 1#32).toNat) s

/-- The bytes that words of a register group hold: word 0 first, each lowest byte first. -/
def State.wordBytes (s : State) (n : Nat) (f : Nat → Fld) : List Byte := (List.range n).flatMap fun j => leBytes 4 (s.rd (f j))

/-- A write of BT_PROV_CTRL (R506). -/
def provWrite (w : Requester) (v : Nat) : Act := withS fun s => whenDo (bit v 31) (
  if !s.sysOnCore0 w || s.boot.keysel != 0 || s.on BT_STATUS_OWNED then
    acts [result BT_PROV_CTRL_RESULT .state, btRefuse BT_PROV_CTRL_PROGRAM .state]
  else acts [
    updBoot fun b => { b with fuse := { b.fuse with owned := true, ownerKey := ofBe (s.wordBytes 8 BT_PROV_KEY),
                                                    ownerHash := ofBe (s.wordBytes 12 BT_PROV_HASH) } },
    wr BT_STATUS_OWNED 1, result BT_PROV_CTRL_RESULT .ok, result BT_STATUS_RESULT .ok, ledger 0xA00B .boot note 0])

/-- `BT_PROV_PROGRAM`. -/
def execBtProvProgram (w : Requester) (v : Word) (s : State) : Host.Outcome State Fault Refusal :=
  done (provWrite w (v ||| 0x80000000#32).toNat) s

/-! ## Debug access (R507) -/

/-- A read of BT_DBG_NONCE word 0 renews the nonce: new words are free values (log 2). -/
def nonceRead : Act := acts [forN 8 fun j => withFree fun v => wr (BT_DBG_NONCE j) v,
  withS fun s => reply (leBytes 4 (s.rd (BT_DBG_NONCE 0)))]

/-- `DBG_NONCE_READ`. -/
def execDbgNonceRead (_w : Requester) (s : State) : Host.Outcome State Fault Refusal := done nonceRead s

/-- A write of BT_DBG_CTRL (R507): a refused submission stores no SCOPE (R15). -/
def dbgWrite (v : Nat) : Act := withS fun s =>
  let scope := bits v 9 8
  let say (st : Status) := acts [result BT_DBG_CTRL_RESULT st, result BT_STATUS_RESULT st]
  if !bit v 31 then wr BT_DBG_CTRL_SCOPE scope
  else
    let message := s.wordBytes 8 BT_DBG_NONCE ++ leBytes 8 (s.pair BT_SERIAL_LO BT_SERIAL_HI) ++ leBytes 4 scope
    let key := if s.on BT_STATUS_OWNED then s.boot.fuse.ownerHash else s.boot.fuse.vendorHash
    if s.now < s.boot.blockedTo then say .busy
    else if Config.ecdsa key (Config.sha384 message) (s.wordBytes 24 BT_DBG_RESP) then acts [say .ok,
      wr BT_DBG_CTRL_SCOPE scope, wr BT_STATUS_DEBUG scope, updBoot fun b => { b with keysGone := true }, setEvent BT_EVENT_DEBUG,
      ledger 0xA006 .boot warning scope]
    else acts [say .denied, updBoot fun b => { b with blockedTo := s.now + 10 ^ 9 }, setEvent BT_EVENT_DEBUG,
      ledger 0xA007 .boot note 0]

/-- `DBG_SUBMIT`. -/
def execDbgSubmit (_w : Requester) (v : Word) (s : State) : Host.Outcome State Fault Refusal :=
  done (dbgWrite (v ||| 0x80000000#32).toNat) s

/-! ## Tamper and the TAP (R508, R555) -/

/-- The bit of a sensor in BT_TAMPER. -/
def sensorBit : TamperSensor → Nat | .supply => 0 | .clock => 1 | .temperature => 2

/-- The sensor is armed: the clock sensor from the end of step 3 of this start (R555). -/
def State.armed (s : State) (k : TamperSensor) : Bool := k != .clock || s.rd (BT_JOURNAL_STEP 3) == stepDone

/-- `TAMPER_READING`: a reading outside its window holds the device in a warm reset until it comes back. -/
def execTamperReading (sensor : TamperSensor) (outside : Bool) (s : State) : Host.Outcome State Fault Refusal :=
  let k := 2 ^ sensorBit sensor
  done (if outside then whenDo (s.armed sensor && !bit s.boot.tamperHeld (sensorBit sensor)) (acts [
      forN 3 fun j => wr (BT_TAMPER_CAUSE j) (b2n (j == sensorBit sensor)),
      updBoot fun b => { b with tamperHeld := b.tamperHeld ||| k, pendTamper := some k },
      warmReset (warmCode .tamper)])
    else updBoot fun b => { b with tamperHeld := b.tamperHeld &&& (7 - k) }) s

/-- `TAP_INSTRUCTION`: anything but BYPASS, IDCODE and SAMPLE/PRELOAD clears the key ladder and holds the device in a warm reset until
the TAP is reset. Which cause that reset records is a free value (log 2): the spec's list of causes has none for it. -/
def execTapInstruction (t : TapInsn) (s : State) : Host.Outcome State Fault Refusal :=
  done (match t with
    | .bypass | .idcode | .sample => skip
    | .other => whenDo (!s.boot.tapHeld) (acts [updBoot fun b => { b with tapHeld := true },
        withFree fun v => warmReset (v % 8)])
    | .tapReset => updBoot fun b => { b with tapHeld := false }) s

end Sys2Proof.Machine
end

