-- ==== Sys2Proof/Machine/Service.lean ====
section
/-!
DEFINITION. The service agent (R300, R312, R313): its commands, and the updating of an image slot (R500, R501).
-/

namespace Sys2Proof.Machine

/-! ## Requests and replies (R312, R313, R381) -/

/-- The identity that a request carries (R299, R301). -/
def State.endpointIdent (s : State) (ep : Endpoint) : Option Ident :=
  if ep.n.val < 2 then some (s.hostIdent ep.n.val)
  else if ep.n.val < 10 then some (s.threadIdent (ep.n.val - 2) ep.thread.val)
  else if ep.n.val = 10 then some ⟨kindRemote, ep.device.val, ep.gen.toNat⟩ else none

/-- The agent's reply: into the requester's mailbox from endpoint 2, or over Shuttle or the pair link. -/
def serviceReply (ep : Endpoint) (op tag : Nat) (st : Status) (value : Nat) : Act := withS fun s =>
  let m : DWord := BitVec.ofNat 64 (2 ^ 63 + op % 2 ^ 7 * 2 ^ 56 + tag * 2 ^ 48 + st.code * 2 ^ 40 + value % 2 ^ 40)
  if ep.n.val < 10 then boxPut 2 ep.n.val { value := m, gen := (s.thread 0 0).gen, thread := 0, device := 0 } fun _ => skip
  else if ep.n.val = 10 then shMail ep.device.val 2 (ep.thread.val % 16) m
  else pairSend (.mail { message := m, srcEp := 2, dstEp := 2, pgen := s.rd MT_PGEN_PGEN })

/-- A request of the update commands occupies its endpoint until its reply (R313, R500). -/
def serviceSlow (op : Nat) : Bool := decide (6 ≤ op ∧ op ≤ 8)

/-- A request from an endpoint: the agent answers from the end of step 1 (R312), and BUSY while it holds another of this endpoint; a refusal is
recorded (R313). `f` gives status and RESULT to its last argument. -/
def serve (ep : Endpoint) (op : Nat) (tag : BitVec 8) (f : (Status → Nat → Act) → Act) : Act := withS fun s =>
  let answer (st : Status) (v : Nat) : Act := acts [
    whenDo (st != .ok) (ledger 0xB502 .boot note (op * 2 ^ 24 + st.code)), serviceReply ep op tag.toNat st v]
  whenDo (s.boot.agent && ep.n.val != 2) (
    if (s.boot.serving.get none ep.n).isSome then answer .busy 0
    else f fun st v => if serviceSlow op && st == .ok then withS fun s => updBoot fun b => { b with
        serving := b.serving.set none ep.n (some { ep := ep, op := op, tag := tag.toNat, value := v, due := s.now + Config.agentTime op }) }
      else answer st v)

/-- The replies whose time has come (R313). -/
def repliesDue : Act := forN 12 fun n => withS fun s => match s.boot.serving.get none n with
  | some x => whenDo (decide (x.due ≤ s.now)) (acts [
      updBoot fun b => { b with serving := b.serving.set none n none }, serviceReply x.ep x.op x.tag .ok x.value])
  | none => skip

/-- A device-wide service command: STATE for a requester without Hasp 0, with code 0xB001 (R300, R558). -/
def needs0 (ep : Endpoint) (op : Nat) (k : Status → Nat → Act) (f : Act) : Act := withS fun s =>
  if s.holdsHasp (s.endpointIdent ep) 0 then f
  else acts [ledger 0xB001 .boot note (2 ^ 31 + Status.state.code * 2 ^ 24 + op), k .state 0]

/-! ## The plain commands -/

def servePing (arg : Nat) (k : Status → Nat → Act) : Act := k .ok (arg % 2 ^ 40)

/-- The last step that failed in this start, 0xF for none. -/
def State.lastFailed (s : State) : Nat :=
  (List.range 15).foldl (fun n k => if s.rd (BT_JOURNAL_STEP k) == stepFailed then k else n) 0xF

def serveInfo (arg : Nat) (k : Status → Nat → Act) : Act := withS fun s =>
  match bits arg 7 0 with
  | 0 => k .ok (regOf s.regs SYS_ID_PART).toNat
  | 1 => k .ok (s.pair BT_SERIAL_LO BT_SERIAL_HI % 2 ^ 40)
  | 2 => k .ok (s.pair BT_SERIAL_LO BT_SERIAL_HI / 2 ^ 40)
  | 3 => k .ok (s.rd BT_STATUS_STEP + s.lastFailed * 16)
  | 4 => k .ok (s.rd SH_STATUS_NUMBER + s.rd YS_STATUS_MEMBER * 1024)
  | _ => k .badarg 0

def serveAcq (ep : Endpoint) (arg : Nat) (k : Status → Nat → Act) : Act := withS fun s =>
  let n := bits arg 5 0
  match s.endpointIdent ep with
  | some me => haspAcquire n me fun v => k (if bit v 31 then .ok else .busy) v
  | none => k .busy (s.haspPeek n)

def serveRel (ep : Endpoint) (arg : Nat) (k : Status → Nat → Act) : Act := withS fun s =>
  let n := bits arg 5 0
  match s.endpointIdent ep with
  | some me => if s.holdsHasp (some me) n then acts [haspFree n me, k .ok 0] else k .state 0
  | none => k .state 0

/-- RESET: the MACs send WITHDRAW before the warm reset (R355). -/
def serveReset (ep : Endpoint) (arg : Nat) (k : Status → Nat → Act) : Act := needs0 ep 0x05 k (
  if arg != 0 then k .badarg 0
  else acts [k .ok 0, forN 6 fun n => withS fun s => whenDo (s.on (MAC_CTRL_MUSTER n)) (musterWithdraw n), withS fun s => updBoot fun b => { b with resetAt := some (s.now + 10 ^ 6) }])

/-! ## Updating a slot (R500, R501) -/

def serveOpen (ep : Endpoint) (arg : Nat) (k : Status → Nat → Act) : Act := needs0 ep 0x06 k (withS fun s =>
  let slot := bits arg 0 0
  match s.endpointIdent ep with
  | none => k .state 0
  | some me =>
    if s.boot.session.isSome then k .busy 0
    else if s.boot.fromFlash && s.rd BT_STATUS_SLOT == slot then k .state 0
    else acts [
      fun _ => [.clearFlash (slotBase slot) (slotBase slot + slotBytes)],
      updBoot fun b => { b with session := some { owner := me, slot := slot } },
      wr BT_UPDATE_OPEN 1, wr BT_UPDATE_SLOT slot, wr BT_UPDATE_KIND me.kind, wr BT_UPDATE_WRITTEN 0,
      setEvent BT_EVENT_UPDATE, ledger 0xA002 .boot note slot, k .ok 0])

/-- The session of this requester. -/
def State.sessionOf (s : State) (ep : Endpoint) : Option Session :=
  match s.boot.session with
  | some x => if s.endpointIdent ep == some x.owner then some x else none
  | none => none

/-- Every byte of a range is in mapped memory that the agent may read. -/
def State.agentReads (s : State) (a n : Nat) : Bool :=
  s.extRange a n || ((List.range n).all fun i => s.mayRead .agent (a + i))

/-- The header of the session's slot, once its 512 bytes are there, is checked in EARLY mode up to the SVN rows (R500). -/
def earlyCheck (x : Session) (k : Status → Nat → Act) : Act := withS fun s =>
  if !s.on BT_CFG_CHECK && !x.checked && spanTo imgHeader x.spans then
    match s.imgHeadCheck (s.flashAt (slotBase x.slot) imgHeader) with
    | .ok => acts [updBoot fun b => { b with session := some { x with checked := true } }, k .ok 0]
    | st => acts [imgRefuse x.slot st, abandonSession, k st 0]
  else k .ok 0

/-- UPDATE_WRITE (R300, R500). -/
def serveWrite (ep : Endpoint) (arg : Nat) (k : Status → Nat → Act) : Act := needs0 ep 0x07 k (withS fun s =>
  let block := bits arg 39 0
  match s.sessionOf ep with
  | none => k .state 0
  | some x =>
    if !s.agentReads block 16 then k .badarg 0
    else withMem block 16 fun b bad => withS fun s =>
      let a := leAt b 0 5
      let n := leAt b 8 4
      let off := leAt b 0xC 4
      if bad then k .corrupt 0
      else if n = 0 || 16777216 < n || slotBytes < off + n || spanMeets off (off + n) x.spans || !s.agentReads a n then k .badarg 0
      else withMem a n fun data bad =>
        if bad then k .corrupt 0
        else
          let y : Session := { x with spans := spanAdd off (off + n) x.spans }
          acts [flashWrite (slotBase x.slot + off) data, updBoot fun b => { b with session := some y },
            bump BT_UPDATE_WRITTEN n, earlyCheck y k])

/-- A commit sets TRY to the slot, and restarts a step 5 that waits for a slot (R497, R501). -/
def commitSlot (slot : Nat) (k : Status → Nat → Act) : Act := withS fun s =>
  let v := s.rd BT_SLOTS_SLOTS
  acts [wr BT_SLOTS_SLOTS (slotsWord (slotActive v) (some slot) false (slotLast v)), journalWrite, closeSession,
    setEvent BT_EVENT_UPDATE, ledger 0xA003 .boot note slot, k .ok 0,
    whenDo (s.boot.waits == some 5 && s.rd BT_STATUS_SOURCE == 0) (acts [waitAt none, romStep5])]

def serveClose (ep : Endpoint) (arg : Nat) (k : Status → Nat → Act) : Act := needs0 ep 0x08 k (withS fun s =>
  match s.sessionOf ep with
  | none => k .state 0
  | some x =>
    if !bit arg 0 then acts [abandonSession, k .ok 0]
    else
      let h := s.flashAt (slotBase x.slot) imgHeader
      let len := imgBodyLen h
      if !spanTo imgHeader x.spans || !spanTo (imgHeader + len) x.spans then k .badarg 0
      else if s.on BT_CFG_CHECK then commitSlot x.slot k
      else
        let ct := s.flashAt (slotBase x.slot + imgHeader) (min len slotBytes)
        let st := if Config.sha384 ct != ofBe ((h.drop 0x90).take 48) then Status.corrupt else (s.imgDecrypt h ct).1
        if st == .ok then commitSlot x.slot k else acts [imgRefuse x.slot st, abandonSession, k st 0])

/-! ## The commands -/

/-- What the agent does with a request, by its OP (R313). -/
def serveOp (ep : Endpoint) (op arg : Nat) (k : Status → Nat → Act) : Act :=
  match op with
  | 0x01 => servePing arg k
  | 0x02 => serveInfo arg k
  | 0x03 => serveAcq ep arg k
  | 0x04 => serveRel ep arg k
  | 0x05 => serveReset ep arg k
  | 0x06 => serveOpen ep arg k
  | 0x07 => serveWrite ep arg k
  | 0x08 => serveClose ep arg k
  | _ => k .format 0

/-- A message posted to endpoint 2 with bit 63 set (R312). -/
def serviceMessage (ep : Endpoint) (m : DWord) : Act :=
  let v := m.toNat
  serve ep (bits v 62 56) (BitVec.ofNat 8 (bits v 55 48)) (serveOp ep (bits v 62 56) (bits v 47 0))

/-- `PING`. -/
def execPing (ep : Endpoint) (tag : BitVec 8) (arg : BitVec 48) (s : State) : Host.Outcome State Fault Refusal :=
  done (serve ep 0x01 tag (servePing arg.toNat)) s
/-- `INFO`. -/
def execInfo (ep : Endpoint) (tag : BitVec 8) (arg : BitVec 48) (s : State) : Host.Outcome State Fault Refusal :=
  done (serve ep 0x02 tag (serveInfo arg.toNat)) s
/-- `HASP_ACQ`. -/
def execHaspAcq (ep : Endpoint) (tag : BitVec 8) (arg : BitVec 48) (s : State) : Host.Outcome State Fault Refusal :=
  done (serve ep 0x03 tag (serveAcq ep arg.toNat)) s
/-- `HASP_REL`. -/
def execHaspRel (ep : Endpoint) (tag : BitVec 8) (arg : BitVec 48) (s : State) : Host.Outcome State Fault Refusal :=
  done (serve ep 0x04 tag (serveRel ep arg.toNat)) s
/-- `RESET`. -/
def execServiceReset (ep : Endpoint) (tag : BitVec 8) (arg : BitVec 48) (s : State) : Host.Outcome State Fault Refusal :=
  done (serve ep 0x05 tag (serveReset ep arg.toNat)) s
/-- `UPDATE_OPEN`. -/
def execUpdateOpen (ep : Endpoint) (tag : BitVec 8) (arg : BitVec 48) (s : State) : Host.Outcome State Fault Refusal :=
  done (serve ep 0x06 tag (serveOpen ep arg.toNat)) s
/-- `UPDATE_WRITE`. -/
def execUpdateWrite (ep : Endpoint) (tag : BitVec 8) (arg : BitVec 48) (s : State) : Host.Outcome State Fault Refusal :=
  done (serve ep 0x07 tag (serveWrite ep arg.toNat)) s
/-- `UPDATE_CLOSE`. -/
def execUpdateClose (ep : Endpoint) (tag : BitVec 8) (arg : BitVec 48) (s : State) : Host.Outcome State Fault Refusal :=
  done (serve ep 0x08 tag (serveClose ep arg.toNat)) s
/-- `SERVICE_UNKNOWN_OP`: an unlisted OP is answered FORMAT (R313); `op` may also name a listed one, which is then served. -/
def execServiceUnknownOp (ep : Endpoint) (op : BitVec 7) (tag : BitVec 8) (arg : BitVec 48) (s : State) :
    Host.Outcome State Fault Refusal :=
  done (serve ep op.toNat tag (serveOp ep op.toNat arg.toNat)) s

end Sys2Proof.Machine
end

