-- ==== Sys2Proof/Machine/Post.lean ====
section
/-!
DEFINITION. Posting a message: by a host or a core, from Shuttle and from the peer of a pair (R249, R307, R308, R312, R379, R381, R396).
-/

namespace Sys2Proof.Machine

/-- A message posted to endpoint 11 goes to the same endpoint of the peer; while the pair link is down it is lost (R396). -/
def pairPost (src : Nat) (m : DWord) : Act := withS fun s =>
  if s.on MT_STATUS_LINK then pairSend (.mail { message := m, srcEp := src, dstEp := src, pgen := s.rd MT_PGEN_PGEN })
  else count (MB_LOST src 11) 1

/-- The message is a service request (R312). -/
def isService (dst : Nat) (m : DWord) : Bool := dst == 2 && m.toNat / 2 ^ 63 == 1

/-- Store a message for a local endpoint, or hand it on; `k` learns whether it overwrote one (R307, R379, R396). -/
def mailDeliver (src dst thread : Nat) (m : DWord) (k : Bool → Act) : Act := withS fun s =>
  let gen := if src < 2 then s.rd (HP_STATUS_GEN src) else (s.thread (src - 2) thread).gen
  if isService dst m then acts [
    serviceMessage { n := Fin.ofNat 12 src, thread := Fin.ofNat 64 thread, device := 0, gen := BitVec.ofNat 16 gen } m, k false]
  else if dst = 10 then acts [shPost src m, k false]
  else if dst = 11 then acts [pairPost src m, k false]
  else boxPut src dst { value := m, gen := gen, thread := if src < 2 then 0 else thread, device := 0 } k

/-- A post from a local endpoint: status and whether it overwrote a message (R249, R308). -/
def post (src dst thread : Nat) (m : DWord) (k : Status → Bool → Act) : Act := withS fun s =>
  if 12 ≤ dst || dst == src then k .badarg false
  else if isService dst m || s.endpointOn dst then mailDeliver src dst thread m fun hit => k .ok hit
  else k .absent false

/-- A host's write of MB_TXHI_d posts the message (R308). -/
def hostPost (p d v : Nat) : Act := withS fun s =>
  let m : DWord := BitVec.ofNat 64 (v * 2 ^ 32 + (s.hst.low.get 0 p).toNat)
  post p d 0 m fun st hit => updHst fun h => { h with txStat := h.txStat.set 0 p (b2n hit * 2 ^ 8 + st.code) }

/-- `MB_HOST_POST`. -/
def execMbHostPost (port : Fin 2) (d : Fin 16) (v : Word) (s : State) : Host.Outcome State Fault Refusal :=
  done (hostPost port.val d.val v.toNat) s

/-- A message arrives over Shuttle for a local endpoint (R381). -/
def shReceive (f : MailboxFrame) : Act := withS fun s =>
  let e := f.dstEp
  whenDo (decide (e < 10)) (acts [
    wr (SH_SRC_DEVICE e) f.head.src, wr (SH_SRC_ENDPOINT e) f.srcEp, wr (SH_SRC_GEN e) f.cgen,
    if isService e f.message then
      serviceMessage { n := 10, thread := Fin.ofNat 64 f.srcEp, device := Fin.ofNat 1024 f.head.src, gen := BitVec.ofNat 16 f.cgen } f.message
    else whenDo (s.endpointOn e)
      (boxPut 10 e { value := f.message, gen := s.rd SH_GEN_CGEN, thread := 0, device := f.head.src } fun _ => skip)])

/-- `SHUTTLE_MAILBOX`. -/
def execShuttleMailbox (link : ShLink) (seq : Nat) (f : MailboxFrame) (s : State) : Host.Outcome State Fault Refusal :=
  done (whenDo (s.shHears link && !s.shOwn f.head) (acts [
    whenDo ((s.shMine f.head || f.head.dst == everyDevice) && !s.shRepeat seq f.head)
      (acts [shTaken seq f.head, shReceive f]),
    whenDo (!s.shMine f.head) (shForward link seq f.head (.mailbox f))])) s

/-- `PAIR_MAILBOX` (R396): the message is tagged with the PGEN at which it was sent. -/
def execPairMailbox (_seq : Nat) (f : PairMail) (s : State) : Host.Outcome State Fault Refusal :=
  done (whenDo (s.mtOn && s.on MT_STATUS_LINK && decide (f.dstEp < 10)) (
    if isService f.dstEp f.message then
      serviceMessage { n := 11, thread := 0, device := 0, gen := BitVec.ofNat 16 f.pgen } f.message
    else whenDo (s.endpointOn f.dstEp)
      (boxPut 11 f.dstEp { value := f.message, gen := f.pgen, thread := 0, device := 0 } fun _ => skip))) s

end Sys2Proof.Machine
end

