-- ==== Sys2Proof/Machine/Stock.lean ====
section
/-!
DEFINITION. Stockroom, the external memory controller and the Turnstiles (their chapter): transactions with the symbol code, the
scrubbers, the choice of the next transaction, and the commit of the slot tables.
-/

namespace Sys2Proof.Machine

/-! ## Symbol errors (R419 to R421, R425) -/

/-- Bytes the spec does not state, one after another (log 2). -/
def freeBytes : Nat → Nat → Act
  | 0, _ => skip
  | n + 1, a => acts [withFree fun v => fun _ => [.mem a (BitVec.ofNat 8 v)], freeBytes n (a + 1)]

/-- Symbols of the word at `a` go wrong. Beyond two, the code guarantees nothing: a free value tells whether the word fails correction or
is miscorrected to free bytes (R419, log 2). External memory without protection delivers what it holds (R425). -/
def upset (a n : Nat) : Act := withS fun s =>
  let w := a / 32
  let k := s.ts.symbols.get 0 w + n
  if n = 0 ∨ !s.inMem a then skip
  else if !inStock a && !s.on TS_EXT_STATUS_PROTECT then freeBytes 32 (w * 32)
  else if k ≤ 2 then updTs fun t => { t with symbols := t.symbols.set 0 w k }
  else withFree fun v =>
    if v % 2 = 0 then fun _ => [.poison w true]
    else acts [freeBytes 32 (w * 32), updTs fun t => { t with symbols := t.symbols.set 0 w 1 }]

/-- A read hands its data to its requester. -/
def readFor (w : Requester) (a n : Nat) : Act := withMemFor w a n fun d _ => reply d

/-- What a transaction or request does to memory (R416, R427). -/
def transact (r : StockReq) : Act := acts [
  forEach r.upsets fun (a, n) => upset a.toNat n,
  match r.kind with
  | .read => readFor r.w r.addr.toNat r.len
  | .write d => memWriteFor r.w r.addr.toNat d
  | .rmw d => acts [readFor r.w r.addr.toNat r.len, memWriteFor r.w r.addr.toNat d]]

/-- The requester has taken or supplied its data: its transaction ends (R416, R432). -/
def endTransaction (g : Nat) (w : Requester) : Act := withS fun s =>
  match s.ts.running.get none g with
  | some r => whenDo (Requester.id w == some r.req) (updTs fun t => { t with running := t.running.set none g none })
  | none => skip

/-- `STOCKROOM_TRANSACTION` (R416, R418). -/
def execStockroomTransaction (req : StockReq) (s : State) : Host.Outcome State Fault Refusal :=
  done (acts [transact req, endTransaction (groupOf req.addr.toNat) req.w]) s

/-- `EXT_MEMORY_REQUEST` (R425, R427). -/
def execExtMemoryRequest (req : ExtReq) (s : State) : Host.Outcome State Fault Refusal := done (transact req) s

/-! ## Scrubbing (R422, R425) -/

/-- The scrubber visits the word at `a`: `k` tells whether it corrected it. -/
def scrubWord (a : Nat) (k : Act) : Act := withS fun s =>
  let n := s.ts.symbols.get 0 (a / 32)
  if s.excludedAt a then skip
  else if s.poisonedAt a then reportPoison a
  else whenDo (decide (0 < n)) (acts [reportCorrected a, forN n fun _ => ail .scrub,
    updTs fun t => { t with symbols := t.symbols.set 0 (a / 32) 0 }, k])

/-- Words in a bank group (R416). -/
def groupWords : Nat := 196608

/-- One step of the scrubber: the next word of every group; the end of a pass is counted and recorded. -/
def scrubStep : Act := withS fun s => whenDo (s.on TS_SCRUB_CFG_EN) (
  let i := s.ts.scrubAt
  acts [
    forN 16 fun g => scrubWord (wordAddr g i) (updTs fun t => { t with scrubFixed := t.scrubFixed + 1 }),
    updTs fun t => { t with scrubAt := (i + 1) % groupWords },
    whenDo (i + 1 == groupWords) (acts [bump TS_SCRUB_STAT_PASSES 1, setEvent TS_EVENT_SCRUB_PASS,
      withS fun s => ledger 0x8004 .stockroom note (satNat 32 s.ts.scrubFixed),
      updTs fun t => { t with scrubFixed := 0 }])])

/-- `SCRUB_STEP`. -/
def execScrubStep (s : State) : Host.Outcome State Fault Refusal := done scrubStep s

/-- The CK_PIX cycle that has been reached: 1.2 GHz. -/
def State.pixCycle (s : State) : Nat := s.now * 6 / 5

/-- An emergency requester takes group `g` for `k` cycles: a running transaction is interrupted and counted, but not between the read and
the write of a 2-cycle transaction (R431). -/
def interrupt (g k : Nat) : Act := withS fun s =>
  match s.ts.running.get none g with
  | some r => whenDo (!r.rmw) (acts [count (TS_PREEMPT g) 1,
      updTs fun t => { t with running := t.running.set none g (some { r with lost := r.lost + k }) }])
  | none => skip

/-- CK_PIX cycles from one scrub transaction of a group to the next (R422). -/
def State.scrubEvery (s : State) : Nat := min 3600000 (max 100 (s.rd TS_SCRUB_CFG_PERIOD)) * 1200000 / 196608

/-- The scrubber in its own time: it holds each group for 2 cycles, but for an excluded row (R422, R431). -/
def scrubRun : Act := withS fun s => whenDo (s.on TS_SCRUB_CFG_EN && decide (s.ts.scrubDue ≤ s.pixCycle)) (acts [
  forN 16 fun g => whenDo (!s.excludedAt (wordAddr g s.ts.scrubAt)) (interrupt g 2),
  scrubStep, updTs fun t => { t with scrubDue := s.pixCycle + s.scrubEvery }])

/-- Lines of external memory under protection (R425). -/
def State.extLines (s : State) : Nat := s.extSize / 224

/-- The external scrubber visits the next line: its seven words. -/
def extScrub : Act := withS fun s =>
  whenDo (s.on TS_EXT_SCRUB_EN && s.on TS_EXT_STATUS_PROTECT && decide (0 < s.extLines)) (
    let i := s.ts.extScrubAt
    acts [forN 7 fun k => scrubWord (extBase + i * 224 + k * 32) skip,
      updTs fun t => { t with extScrubAt := if i + 1 < s.extLines then i + 1 else 0 },
      whenDo (decide (s.extLines ≤ i + 1)) (bump TS_SCRUB_STAT_EXT_PASSES 1)])

/-- `EXT_SCRUB_ACCESS`. -/
def execExtScrubAccess (s : State) : Host.Outcome State Fault Refusal := done extScrub s

/-- The external scrubber in its own time: the lines evenly over the period (R425). -/
def extScrubRun : Act := withS fun s => whenDo (s.on TS_EXT_SCRUB_EN && decide (s.ts.extScrubDue ≤ s.now)) (acts [
  extScrub, updTs fun t => { t with
    extScrubDue := s.now + min 86400 (max 10 (s.rd TS_EXT_SCRUB_PERIOD)) * 10 ^ 9 / max 1 s.extLines }])

/-- MR4 codes above the nominal refresh rate. PRESUMED (log 26) from the LPDDR5 standard: 0x09 is nominal. -/
def mr4Above (rate : Nat) : Bool := decide (9 < rate)

/-- `MR4_REFRESH_RATE_READ` (R424). -/
def execMr4RefreshRateRead (rate : Fin 32) (s : State) : Host.Outcome State Fault Refusal :=
  done (acts [wr TS_EXT_MR4_RATE rate, whenDo (mr4Above rate) (ledger 0x800B .external warning rate)]) s

/-! ## The Turnstile (R428 to R432, R434, R436) -/

def reqTailor : Nat := 9
def reqScrubber : Nat := 16
def reqDebug : Nat := 17

/-- The slot that the Turnstiles have reached: one of 64, one for each CK_PIX cycle (R428). -/
def State.slotPointer (s : State) : Nat := s.pixCycle % 64
/-- The owner of slot `k` of group `g`. -/
def State.slotOwner (s : State) (g k : Nat) : Option Nat :=
  let k := k % 64
  if s.onA (TS_SLOT_VALID g (k / 4) (k % 4)) then some (s.rdA (TS_SLOT_REQ g (k / 4) (k % 4))) else none
/-- A slot is protected: Tailor owns it (R434). -/
def State.protectedSlot (s : State) (g k : Nat) : Bool := s.slotOwner g k == some reqTailor
/-- Cycles of a transaction (R416). -/
def TsAsk.cycles (a : TsAsk) : Nat := if a.two then 2 else max 1 a.words.val
/-- A transaction that starts in the next cycle would not run on in a protected slot (R428). -/
def State.slotFits (s : State) (g : Nat) (a : TsAsk) : Bool :=
  (List.range (TsAsk.cycles a - 1)).all fun i => !s.protectedSlot g (s.slotPointer + 2 + i)

/-- The priority of a requester (R428). -/
def State.tsRank (s : State) (r : Nat) : Nat :=
  if r < 8 then s.rdA (TS_RANK_LO_PRIO r) else s.rdA (TS_RANK_HI_PRIO (r - 8))

/-- The request that is best by a measure, the earlier of equals. -/
def bestAsk (better : TsAsk → TsAsk → Bool) : List TsAsk → Option TsAsk
  | [] => none
  | a :: as => match bestAsk better as with
    | some b => some (if better b a then b else a)
    | none => some a

/-- The request that a Turnstile grants next, and whether as the longest-waiting one (R428, R430). -/
def State.turnstileChoice (s : State) (g : Nat) (asks : List TsAsk) : Option (TsAsk × Bool) :=
  let of (r : Nat) := asks.find? fun a => a.req.val == r
  let next := s.slotPointer + 1
  let fits := asks.filter fun a => decide (a.req.val < 16) && s.slotFits g a
  let old (a b : TsAsk) := decide (b.age < a.age ∨ (a.age = b.age ∧ a.req.val < b.req.val))
  let high (a b : TsAsk) :=
    decide (s.tsRank b.req < s.tsRank a.req ∨ (s.tsRank a.req = s.tsRank b.req ∧ a.req.val < b.req.val))
  match of reqScrubber, (if s.debugPort then of reqDebug else none) with
  | some a, _ => some (a, false)
  | none, some a => some (a, false)
  | none, none =>
    match (if s.protectedSlot g next then of reqTailor else none) with
    | some a => some (a, false)
    | none =>
      if s.ts.owed.get false g then (bestAsk old fits).map fun a => (a, true)
      else match fits.find? fun a => s.slotOwner g next == some a.req.val with
        | some a => some (a, false)
        | none => (bestAsk high fits).map fun a => (a, false)

/-- `TURNSTILE_GRANT`: group `g` chooses among the requests that wait (R428 to R432). A transaction that its requester has not ended holds
the group; only an emergency requester passes it, and not between the read and the write of a 2-cycle transaction (R431). -/
def turnstileGrant (g : Nat) (asks : List TsAsk) : Act := withS fun s =>
  match s.turnstileChoice g asks with
  | none => skip
  | some (a, longest) =>
    if 16 ≤ a.req.val then interrupt g (if a.two then 2 else a.words.val)
    else match s.ts.running.get none g with
      | some _ => skip
      | none =>
        let n := s.ts.grants.get 0 g + 1
        acts [
          updTs fun t => { t with
            grants := t.grants.set 0 g n, parked := t.parked.set none g (some a.req.val)
            running := t.running.set none g (some { req := a.req.val, rmw := a.two, since := s.now })
            owed := t.owed.set false g ((t.owed.get false g && !longest) || n % max 1 (s.rdA TS_CTRL_N) == 0) },
          whenDo (decide (s.rd (TS_WAIT_MAX g) < a.age)) (acts [wr (TS_WAIT_MAX g) (satNat 16 a.age),
            wr (TS_WAIT_REQ g) a.req.val])]

/-- `TURNSTILE_GRANT`. -/
def execTurnstileGrant (g : Fin 16) (asks : List TsAsk) (s : State) : Host.Outcome State Fault Refusal :=
  done (turnstileGrant g asks) s

/-- The checks of R433 on the shadows. -/
def State.tsLegal (s : State) : Bool :=
  decide (4 ≤ s.rd TS_CTRL_N ∧ s.rd TS_CTRL_N ≤ 64) && (List.range 16).all fun g =>
    let slots := (List.range 16).flatMap fun j => (List.range 4).map fun i => (j, i)
    (slots.all fun (j, i) => s.rd (TS_SLOT_RSV g j i) == 0)
    && decide (5 ≤ (slots.filter fun (j, i) => s.on (TS_SLOT_VALID g j i) && s.rd (TS_SLOT_REQ g j i) == reqTailor).length)

/-- A write of TS_COMMIT (R433). -/
def tsCommitWrite (v : Nat) : Act := whenDo (bit v 0) (wr TS_STATUS_PENDING 1)

/-- `TS_COMMIT`. -/
def execTsCommit (_w : Requester) (v : Word) (s : State) : Host.Outcome State Fault Refusal := done (tsCommitWrite (v.toNat ||| 1)) s

/-- The table wraps: a commit that waits applies in every group, or is refused (R433). -/
def tableWrap : Act := withS fun s => whenDo (s.on TS_STATUS_PENDING) (acts [wr TS_STATUS_PENDING 0,
  if s.tsLegal then acts [result TS_STATUS_RESULT .ok, apply1 TS_CTRL_N, apply1 (TS_RANK_LO_PRIO 0), apply1 (TS_RANK_HI_PRIO 0),
    forN 16 fun g => forN 16 fun j => apply1 (TS_SLOT_VALID g j 0)]
  else acts [result TS_STATUS_RESULT .badarg, setEvent TS_EVENT_REFUSED,
    ledger 0x800A .stockroom note Status.badarg.code]])

/-- `TABLE_WRAP`. -/
def execTableWrap (_g : Fin 16) (s : State) : Host.Outcome State Fault Refusal := done tableWrap s

/-- The scrubbers and the table wrap in one cycle (R422, R425, R428). -/
def stockRun : Act := withS fun s => acts [scrubRun, extScrubRun,
  whenDo (decide ((s.now - 1) * 6 / 5 / 64 < s.pixCycle / 64)) tableWrap]

/-- A write of TS_EXT_NEXT: the holder of Hasp 0 alone (R426, R558). -/
def extNextWrite (w : Requester) (v : Nat) : Act := withS fun s =>
  if s.holds0 w then acts [wr TS_EXT_NEXT_VALID (bits v 1 1), wr TS_EXT_NEXT_PROTECT (bits v 0 0), result TS_STATUS_RESULT .ok]
  else acts [result TS_STATUS_RESULT .state, refusedWrite .stockroom TS_EXT_NEXT_VALID.addr .state]

/-- `TS_EXT_NEXT_WRITE`. -/
def execTsExtNextWrite (w : Requester) (v : Word) (s : State) : Host.Outcome State Fault Refusal :=
  done (extNextWrite w v.toNat) s

end Sys2Proof.Machine
end

