-- ==== Sys2Proof/Machine/Bus.lean ====
section
/-!
DEFINITION. Accesses to the address map (R7 to R13, R30 to R32): which register an address names, what a read of it returns and does, and
what a write of it does. Every chapter's own rules for its registers are called from here.
-/

namespace Sys2Proof.Machine

/-! ## Which register an address names (R3, R32) -/

/-- The reset value of the register at an address that a row covers: the slot tables of the bank groups have one for each word (R435). -/
def RegDesc.resetAt (d : RegDesc) (a : Nat) : Nat :=
  if 0x100A1000 ≤ a ∧ a < 0x100A2000 then slotReset ((a - 0x100A1000) / 0x100) ((a - 0x100A1000) % 0x100 / 4) else d.reset

/-- The row of the register tables that covers an address, with the reset value of the register there. -/
def findRow (a : Nat) : Option RegDesc :=
  (regRows.find? fun d => d.covers (a / 4 * 4)).map fun d => { d with reset := d.resetAt a }

/-- The index of an address in a family of `n` register groups of `stride` bytes from `base`, with the offset in the group. -/
def inBank (base stride n a : Nat) : Option (Nat × Nat) :=
  if base ≤ a ∧ a < base + stride * n then some ((a - base) / stride, (a - base) % stride) else none

/-- The unit behind a register is enabled: a disabled unit's registers read zero and take no write (R3). -/
def State.blockOn (s : State) (a : Nat) : Bool :=
  match a / 2 ^ 16 with
  | 0x1008 =>
    if a < 0x10081000 then true
    else if a < 0x10084000 then s.coreOn ((a - 0x10081000) / 0x200) else s.coreOn ((a - 0x10084000) / 0x100)
  | 0x1010 => s.unit UnitBit.draper.bit
  | 0x1018 => s.unit UnitBit.treadle.bit
  | 0x101C => s.unit UnitBit.treadle.bit
  | 0x1020 | 0x1021 | 0x1022 => s.unit UnitBit.thimble.bit
  | 0x1024 => s.has .lamplighter
  | 0x1025 => s.has .dmx
  | 0x1028 | 0x1029 => s.macOn ((a - 0x10280000) / 0x4000)
  | 0x102C => if 0x102C0200 ≤ a ∧ a < 0x102C0300 then s.has .trunk
    else if 0x102C0080 ≤ a ∧ a < 0x102C0140 then s.macOn ((a - 0x102C0080) / 0x20) else s.netOn
  | 0x1030 => s.has .shuttle
  | 0x1031 => s.has .mantle
  | 0x1034 => s.has .tally
  | _ => true

/-- The ring whose registers hold an address, with the offset of the register. -/
def ringAt (a : Nat) : Option (RingId × Nat) :=
  let engines := (List.range 16).map fun n => RingId.engine (Fin.ofNat 16 n)
  let tx := (List.range 12).map fun k => RingId.macTx (Fin.ofNat 6 (k / 2)) (Fin.ofNat 2 k)
  let rx := (List.range 24).map fun k => RingId.macRx (Fin.ofNat 6 (k / 4)) (Fin.ofNat 4 k)
  ((engines ++ tx ++ rx).find? fun r => decide (ringBase r ≤ a ∧ a < ringBase r + 0x14)).map fun r => (r, a - ringBase r)

/-! ## Values that a read shows as they stand (R10 of the register tables) -/

/-- The state of a thread as FM_c_Tt shows it. -/
def Thread.shown (x : Thread) : Nat :=
  (match x.st with | .dormant => 0 | .ready => 1 | .running => 2 | .blocked => 3 | .suspended => 4) * 2 ^ 29
  + (match x.wait with
    | .none => 0 | .position .. => 1 | .sleep .. => 2 | .signal .. => 3 | .mailbox .. => 4 | .fence .. => 5 | .room .. => 6) * 2 ^ 25
  + b2n x.sys * 2 ^ 24 + x.pri % 64 * 2 ^ 16 + x.sigpend % 2 ^ 16

/-- A register of core `c` at an offset that shows Foreman's state. -/
def State.coreLive (s : State) (c off : Nat) : Option Nat :=
  let k := s.core c
  let level (p : Nat) := (k.ready.get [] p).length
  let levels (lo : Nat) := (List.range 32).foldl (fun n i => n + b2n (decide (0 < level (lo + i))) * 2 ^ i) 0
  let susp (lo : Nat) := (List.range 32).foldl (fun n i => n + b2n ((s.thread c (lo + i)).st == .suspended) * 2 ^ i) 0
  if off = 0 then some (levels 0)
  else if off = 4 then some (levels 32)
  else if off = 8 then some (match k.running with | some t => 2 ^ 31 + t * 2 ^ 8 + (s.thread c t).pri | none => 0)
  else if off = 0xC then some (s.rd (FM_PWQ_PEAK c) * 2 ^ 16 + k.queue.length)
  else if off = 0x18 then some (susp 0)
  else if off = 0x1C then some (susp 32)
  else if 0x40 ≤ off ∧ off < 0x80 then
    some ((List.range 4).foldl (fun n j => n + level (4 * ((off - 0x40) / 4) + j) * 2 ^ (8 * j)) 0)
  else none

/-- TAI seconds and nanoseconds of wall time, zero while there is none (R68). -/
def State.wallTime (s : State) : Nat × Nat :=
  match s.net.wall with | some t => (t.toNat / 10 ^ 9, t.toNat % 10 ^ 9) | none => (0, 0)

/-- What a register shows when it does not hold its value itself. -/
def State.liveRead (s : State) (a : Nat) : Option Nat :=
  if a = YS_POS_LO.addr then some (s.ys.pos % 2 ^ 32)
  else if a = YS_POS_HI.addr then some (s.ys.pos / 2 ^ 32 % 2 ^ 32)
  else if a = YS_TICK_LO.addr then some (s.ys.tick % 2 ^ 32)
  else if a = YS_TICK_HI.addr then some (s.ys.tick / 2 ^ 32 % 2 ^ 32)
  else if a = YS_WALL_SEC_LO.addr then some (s.wallTime.1 % 2 ^ 32)
  else if a = YS_WALL_SEC_HI_SEC.addr then some (s.rd YS_WALL_SEC_HI_EPOCH * 2 ^ 16 + s.wallTime.1 / 2 ^ 32 % 2 ^ 16)
  else if a = YS_WALL_NS.addr then some s.wallTime.2
  else if a = FM_WDOG_STAT_REMAIN.addr then some (s.rd FM_WDOG_STAT_REJECT * 2 ^ 16 + s.wdogRemain % 2 ^ 16)
  else if a = SH_FW_REMAIN.addr then some s.freewheelLeft
  else if a = MT_HEALTH.addr then some s.healthWord
  else match inBank 0x10081000 0x200 8 a with
    | some (c, off) => s.coreLive c off
    | none => match inBank 0x10084000 0x100 8 a with
      | some (c, off) => some (s.thread c (off / 4)).shown
      | none => match inBank 0x10030100 4 64 a with
        | some (n, _) => some (s.haspPeek n)
        | none => match inBank 0x102C0320 4 8 a with
          | some (j, _) => some (leAt (s.partnerBytes (s.rd MU_IDX)) (4 * j) 4)
          | none => none

/-- What a read of a register returns (R9, R10): reserved and write-only bits read as zero. -/
def State.regValue (s : State) (d : RegDesc) (a : Nat) : Nat :=
  (s.liveRead a).getD
    ((s.regs.get (BitVec.ofNat 32 d.reset) a) &&& BitVec.ofNat 32 (d.ro ||| d.rw ||| d.rws ||| d.w1c ||| d.rc)).toNat

/-! ## Pairs that a read of the low word latches (R81) -/

/-- The registers that a read of the one at `a` latches. -/
def latchedBy (a : Nat) : List Nat :=
  let next (base stride n : Nat) : List Nat := match inBank base stride n a with
    | some (_, 0) => [a + 4] | _ => []
  if a = YS_WALL_SEC_LO.addr then [a + 4, a + 8]
  else match inBank 0x10100138 0x80 4 a with
    | some (_, 0) => [a + 4, a + 8]
    | _ =>
      next YS_POS_LO.addr 8 2 ++ next YS_REBASE_TO_LO.addr 8 1 ++ next (YS_SLOT_POS_LO 0).addr 0x10 256 ++ next (TL_CAN_FRAME_LO 0).addr 8 4
      ++ next (TB_T0_LO 0).addr 0x1000 32 ++ next PTP_GM_LO.addr 8 1 ++ next (BR_CNT_LO 0).addr 8 5 ++ next (BR_SNAP_LO 0).addr 8 5
      ++ next SH_MASTER_LO.addr 8 1 ++ next MT_COPY_FRAME_LO.addr 8 1 ++ next TS_EXT_ERRADDR_LO.addr 8 1
      ++ next TY_WIN_TICK_LO.addr 0x100 1 ++ next TY_SNAP_TICK_LO.addr 0x100 1 ++ next (TY_ZX_TICK_LO 0).addr 0x10 8
      ++ next LG_LAST_REPEAT_LO.addr 8 1 ++ next BT_VERSION_LO.addr 8 1 ++ next BT_HANDOFF_LO.addr 8 1 ++ next BT_SERIAL_LO.addr 8 1
      ++ (match inBank 0x10280000 0x4000 6 a with
        | some (_, off) => if 0x200 ≤ off ∧ off < 0x380 ∧ off % 8 = 0 then [a + 4] else []
        | none => [])
      ++ (match inBank 0x10341030 0x80 24 a with
        | some (_, off) => if off < 0x40 ∧ off % 8 = 0 then [a + 4] else []
        | none => [])

/-- The key that tells whether a requester's latch of a register awaits its read. -/
def latchDue (w : Requester) (a : Nat) : Nat := latchKey w a + 2 ^ 23

/-- Latch a register for a requester as it stands. -/
def latchNow (w : Requester) (a : Nat) : Act := withS fun s =>
  match findRow a with
  | some d => acts [latch w a (s.regValue d a), fun _ => [.latch (latchDue w a) 1]]
  | none => skip

/-- An ordinary read: RC fields are cleared, a pending latch is returned, and a low word latches its pair (R9, R81). -/
def plainRead (w : Requester) (d : RegDesc) (a : Nat) : Act := withS fun s =>
  if s.latches.get 0 (latchDue w a) == 1#32 then acts [fun _ => [.latch (latchDue w a) 0], reply (leBytes 4 (s.latched w a))]
  else acts [
    reply (leBytes 4 (s.regValue d a)), forEach (latchedBy a) (latchNow w),
    whenDo (d.rc != 0) fun s => [.reg a d.reset (s.regs.get (BitVec.ofNat 32 d.reset) a &&& ~~~(BitVec.ofNat 32 d.rc))]]

/-! ## Captures (R79, R81) -/

/-- The fields of YS_CAP_SUB of an input. -/
def State.capSub (s : State) (c : Nat) : Nat := s.rd (YS_CAP_SUB_EDGE c) * 8 + s.rd (YS_CAP_SUB_SUBNS c)

/-- Latch the whole capture of an input; `byTick` notes which low word was read last. -/
def capLatch (w : Requester) (c : Nat) (byTick : Nat) : Act := withS fun s => acts [
  latch w (YS_CAP_TICK_HI c).addr (s.rd (YS_CAP_TICK_HI c)), latch w (YS_CAP_POS_LO c).addr (s.rd (YS_CAP_POS_LO c)),
  latch w (YS_CAP_POS_HI c).addr (s.rd (YS_CAP_POS_HI c)), latch w (YS_CAP_TICK_LO c).addr (s.capSub c),
  fun _ => [.latch (latchDue w (YS_CAP_POS_LO c).addr) (BitVec.ofNat 32 byTick)]]

/-- A read of a capture register. -/
def capRead (w : Requester) (c off : Nat) : Act := withS fun s =>
  if off = 0 then acts [capLatch w c 1, reply (leBytes 4 (s.rd (YS_CAP_TICK_LO c)))]
  else if off = 8 then
    let byTick := s.latches.get 0 (latchDue w (YS_CAP_POS_LO c).addr) == 1#32
    if byTick then acts [fun _ => [.latch (latchDue w (YS_CAP_POS_LO c).addr) 0], reply (leBytes 4 (s.latched w (YS_CAP_POS_LO c).addr))]
    else acts [capLatch w c 0, reply (leBytes 4 (s.rd (YS_CAP_POS_LO c)))]
  else reply (leBytes 4 (s.latched w ((YS_CAP_TICK_LO c).addr + off)))

/-- A read of YS_CAP_SUB shows each input's fields as the requester's latch of that input holds them. -/
def capSubRead (w : Requester) : Act := withS fun s =>
  reply (leBytes 4 ((List.range 4).foldl (fun n c => n + s.latched w (YS_CAP_TICK_LO c).addr * 2 ^ (8 * c)) 0))

/-! ## Mailbox registers (R308) -/

/-- The host port that an access to a banked mailbox register acts for. -/
def hostOf : Requester → Option Nat | .hostA => some 0 | .hostB => some 1 | _ => none

/-- A read of a banked mailbox register; `off` counts from 0x10040000. -/
def mailRead (w : Requester) (off : Nat) : Act := withS fun s =>
  match hostOf w with
  | none => reply (leBytes 4 0)
  | some p =>
    if off = 4 then reply (leBytes 4 (s.hst.txStat.get 0 p))
    else if off = 0x200 then
      reply (leBytes 4 ((List.range 12).foldl (fun n e => n + b2n (!(s.box e p).words.isEmpty) * 2 ^ e) 0))
    else match inBank 0x100 0x10 12 off with
      | some (e, 0) => boxReadLo w p e
      | some (e, 4) => boxReadHi w p e
      | some (e, 8) => reply (leBytes 4 (s.latched w (MB_RX_INFO_FULL e).addr))
      | _ => reply (leBytes 4 0)

/-- A write of a banked mailbox register. -/
def mailWrite (w : Requester) (off v : Nat) : Act :=
  match hostOf w with
  | none => skip
  | some p =>
    if off = 0 then updHst fun h => { h with low := h.low.set 0 p (BitVec.ofNat 32 v) }
    else match inBank 0x40 4 16 off with
      | some (d, _) => hostPost p d v
      | none => skip

/-! ## Reads -/

/-- A read of the register at an aligned address, which leaves its four bytes as the reply. -/
def regRead (w : Requester) (a : Nat) : Act := withS fun s =>
  match findRow a with
  | none => reply (leBytes 4 0)
  | some d =>
    if !s.blockOn a then reply (leBytes 4 0)
    else match a / 2 ^ 16 with
    | 0x1003 => match inBank 0x10030000 4 64 a with
      | some (n, _) => haspRead w n
      | none => plainRead w d a
    | 0x1004 => if a < 0x10048000 then mailRead w (a - 0x10040000) else plainRead w d a
    | 0x1009 => match inBank 0x100900A0 0x10 4 a with
      | some (c, off) => capRead w c off
      | none => if a = (YS_CAP_SUB_EDGE 0).addr then capSubRead w else plainRead w d a
    | 0x1024 => if a = LL_IDATA.addr then llIdata false 0 else plainRead w d a
    | 0x102C => match inBank 0x102C0080 0x20 6 a with
      | some (n, off) => if off = 0 then tsqTake w n else if off = 0x10 then plainRead w d a else reply (leBytes 4 (s.latched w a))
      | none => plainRead w d a
    | 0x103C => if a = (BT_DBG_NONCE 0).addr then nonceRead else plainRead w d a
    | 0x103E => match inBank 0x103E1000 0x20 48 a with
      | some (n, off) => if off = 4 then bobbinTake w n else if off = 0 ∨ off = 0x1C then plainRead w d a
          else reply (leBytes 4 (s.latched w a))
      | none => plainRead w d a
    | _ => plainRead w d a

/-- Reads of `n` registers in ascending order, whose bytes follow those read already. -/
def readWords (w : Requester) : Nat → Nat → List Byte → Act
  | 0, _, bs => reply bs
  | n + 1, a, bs => acts [regRead w a, withS fun s => readWords w n (a + 4) (bs ++ s.reply)]

/-- A read of `n` bytes at `a` for a requester, from memory, registers or the XN window (R8, R30, R31). -/
def busRead (w : Requester) (a n : Nat) : Act := withS fun s =>
  if inRegs a then
    if s.xnAt a then xnRead a n
    else if (findRow a).isNone then acts [unmapped w a, reply (List.replicate n 0)]
    else acts [readWords w ((a % 4 + n + 3) / 4) (a / 4 * 4) [], withS fun s => reply ((s.reply.drop (a % 4)).take n)]
  else withMemFor w a n fun bs _ => reply bs

/-! ## Writes -/

/-- A write of a register with no rule of its own (R9). -/
def plainWrite (d : RegDesc) (a v : Nat) : Act := fun s =>
  let w := BitVec.ofNat 32 v
  let old := s.regs.get (BitVec.ofNat 32 d.reset) a
  let m := BitVec.ofNat 32 (d.rw ||| d.rws)
  [.reg a d.reset ((old &&& ~~~m &&& ~~~(BitVec.ofNat 32 d.w1c &&& w)) ||| (w &&& m))]

/-- A write of a ring's register (R87, R116). -/
def ringWrite (r : RingId) (off v : Nat) : Act :=
  let b := ringBase r
  match off with
  | 0 => ringAddrWrite r (RING_LO b) v
  | 4 => ringAddrWrite r (RING_HI b) v
  | 8 => ringCtrl r v
  | 12 => ringTail r v
  | _ => skip

/-- A write-only data register, which keeps what is written for the block's own use. -/
def hiddenWrite (a v : Nat) : Act := fun _ => [.reg a 0 (BitVec.ofNat 32 v)]

def writeFm (w : Requester) (d : RegDesc) (a v : Nat) : Act :=
  if a = FM_CMD_OP.addr then fmCommand (bits v 31 30) (v % 2 ^ 30)
  else if a = FM_WIN_MS.addr then fmWinWrite v
  else if a = FM_WDOG_CFG_TIMEOUT.addr then wdogCfgWrite w v
  else if a = FM_WDOG_KICK_KEY.addr then wdogKickWrite w v
  else plainWrite d a v

def writeYs (d : RegDesc) (a v : Nat) : Act :=
  let word := BitVec.ofNat 32 v
  if a = YS_CTRL_GO.addr then ysCtrlWrite word
  else if a = YS_COMMIT_COMMIT.addr then whenDo (bit v 0) (wr YS_STATUS_PENDING 1)
  else if a = YS_PTP_CFG_PORT.addr then ptpCfgWrite v
  else if a = YS_GEN_CFG_PHASE.addr ∨ a = YS_LTC_CFG_TCRATE.addr then acts [plainWrite d a v, unmapSources]
  else match inBank (YS_TRIG_CFG_ENABLE 0).addr 4 4 a with
    | some (o, _) => trigCfgWrite o word
    | none => match inBank (YS_SLOT_POS_LO 0).addr 0x10 256 a with
      | some (k, 0) => slotFieldWrite k (YS_SLOT_POS_LO k) word
      | some (k, 4) => slotFieldWrite k (YS_SLOT_POS_HI k) word
      | some (k, 8) => slotCtrlWrite k word
      | some (k, _) => slotFieldWrite k (YS_SLOT_TARGET k) word
      | none => plainWrite d a v

def writeDr (d : RegDesc) (a v : Nat) : Act := withS fun s =>
  if a = DR_COMMIT_COMMIT.addr then whenDo (s.has .draper && bit v 0) (wr DR_STATUS_PENDING 1)
  else match inBank (DR_ING_CFG_ENABLE 0).addr 0x20 4 a with
    | some (t, off) => if off = 0 then whenDo (s.has .draper) (ingestWrite t v)
        else if off < 0x10 then ingestFieldWrite t (plainWrite d a v) else plainWrite d a v
    | none => plainWrite d a v

def writeTl (d : RegDesc) (a v : Nat) : Act :=
  if a = TL_COMMIT_COMMIT.addr then whenDo (bit v 0) (wr TL_STATUS_PEND_PRED 1)
  else match inBank (PU_Z_COEF 0 0).addr 0x20 256 a with
    | some (z, 0x14) => corrWrite z v
    | _ => if a = PU_CTRL_ENABLE.addr then puCtrlWrite (plainWrite d a v) else plainWrite d a v

def writeTd (d : RegDesc) (a v : Nat) : Act := withS fun s =>
  match inBank (TD_COMMIT_COMMIT 0).addr 0x1000 16 a with
  | some (t, 0) => whenDo (s.has .treadle && bit v 0) (wr (TD_STATUS_PENDING t) 1)
  | _ => plainWrite d a v

def writeCh (d : RegDesc) (a v : Nat) : Act := withS fun s =>
  match inBank (CH_DISC_REQ 0).addr 0x400 64 a with
  | some (p, 0) => whenDo (bit v 31 && s.has .treadle && s.onA (CH_CTRL_ENABLE p)) (askDiscovery p .request)
  | _ => plainWrite d a v

def writeTb (d : RegDesc) (a v : Nat) : Act :=
  match inBank 0x10201000 0x1000 32 a with
  | some (e, off) =>
    if off = 0 then tbOn (tbCtrlWrite e v)
    else if off = 0x10 then tbRegWrite e 14 v
    else if 0x80 ≤ off ∧ off < 0xB8 then tbRegWrite e ((off - 0x80) / 4) v
    else plainWrite d a v
  | none => plainWrite d a v

def writeLl (d : RegDesc) (a v : Nat) : Act :=
  if a = LL_COMMIT_COMMIT.addr then whenDo (bit v 0) (wr LL_STATUS_PENDING 1)
  else if a = LL_IDATA.addr then llIdata true (BitVec.ofNat 32 v)
  else plainWrite d a v

def writeDmx (d : RegDesc) (a v : Nat) : Act :=
  match inBank (DMX_CFG_MODE 0).addr 0x200 32 a with
  | some (n, 0x18) => dmxRdmWrite n v
  | _ => plainWrite d a v

def writeMac (d : RegDesc) (a v : Nat) : Act :=
  match inBank 0x10280000 0x4000 6 a with
  | some (n, 0) => macCtrlWrite n v
  | some (n, 0x18) => acts [plainWrite d a v, syncGroups n]
  | _ => plainWrite d a v

def writeNet (d : RegDesc) (a v : Nat) : Act := withS fun s =>
  if a = PTP_CTRL_ENABLE.addr then ptpCtrlWrite v
  else if a = MAC_SNAP_CTRL_SNAP.addr then snapWrite v
  else if a = BR_CMD_OP.addr then brCmdWrite v
  else if a = WF_COMMIT_COMMIT.addr then whenDo (bit v 0) (updNet fun t => { t with wfPending := true })
  else if a = PV_CFG_EN.addr then pvCfgWrite v
  else match inBank (ING_NET_SRC 0).addr 0x10 4 a with
    | some (t, _) => if s.on (DR_ING_CFG_ENABLE t) then result NET_STATUS_RESULT .busy else plainWrite d a v
    | none => plainWrite d a v

def writeSh (d : RegDesc) (a v : Nat) : Act :=
  if a = SH_CTRL_RECLAIM.addr then shCtrlWrite v
  else if a = SH_DEPUTY_EN.addr then shDeputyWrite v
  else if a = SH_LGC_CTRL_EN.addr then lgcCtrlWrite v
  else if a = SH_LGC_TAIL.addr then lgcTailWrite v
  else match inBank (SH_STICKY_LO 0).addr 4 2048 a with
    | some _ => stickyWrite ⟨a, 0, 0, 32⟩ v
    | none => plainWrite d a v

def writeTy (d : RegDesc) (a v : Nat) : Act :=
  if a = TY_CTRL_SNAP.addr then tyCtrlWrite v
  else if a = TY_COMMIT_COMMIT.addr then tyCommitWrite v
  else match inBank (TY_PULSE_EN 0).addr 0x10 8 a with
    | some (p, off) => if off < 8 then pulseWrite p ⟨a, d.reset, 0, 32⟩ (BitVec.ofNat 32 v &&& BitVec.ofNat 32 d.rw).toNat
        else plainWrite d a v
    | none => plainWrite d a v

def writeTm (d : RegDesc) (a v : Nat) : Act :=
  if a = TM_CTRL_START.addr then tmCtrlWrite v
  else match inBank (TM_TAP_TAP 0 0).addr 0x10 64 a with
    | some (p, 0) => tapWrite p ⟨a, d.reset, 0, 32⟩ (BitVec.ofNat 32 v &&& BitVec.ofNat 32 d.rw).toNat
    | _ => plainWrite d a v

def writeBt (w : Requester) (d : RegDesc) (a v : Nat) : Act :=
  if a = BT_STEP_OP.addr then btStep (bits v 31 30) (bits v 3 0)
  else if a = (BT_RERUN_RERUN 0).addr then rerunWrite v
  else if a = BT_CONFIRM_CONFIRM.addr then confirmWrite v
  else if a = BT_SVN_ADVANCE.addr then svnWrite w v
  else if a = BT_UCODE_GO.addr then ucodeWrite v
  else if a = BT_HOSTBOOT_HI_GO.addr then hostbootWrite w v
  else if a = BT_DBG_CTRL_SUBMIT.addr then dbgWrite v
  else if a = BT_PROV_CTRL_PROGRAM.addr then provWrite w v
  else if (0x103C0120 ≤ a ∧ a < 0x103C0180) ∨ (0x103C0200 ≤ a ∧ a < 0x103C0250) then hiddenWrite a v
  else plainWrite d a v

/-- A 32-bit write of a register of an enabled unit. -/
def regWrite (w : Requester) (d : RegDesc) (a v : Nat) : Act := withS fun s =>
  match ringAt a with
  | some (r, off) => whenDo (s.ringRegs r) (ringWrite r off v)
  | none => match a / 2 ^ 16 with
    | 0x1000 => if a = SYS_NEXTCFG_VALID.addr then nextcfgWrite w v
        else if a = SYS_COMMIT_COMMIT.addr then sysCommitWrite v else plainWrite d a v
    | 0x1003 => if a < 0x10030100 then haspWrite w ((a - 0x10030000) / 4) v
        else if a = HASP_XN_CTRL_ENABLE.addr then xnCtrlWrite w v else plainWrite d a v
    | 0x1004 => if a < 0x10048000 then mailWrite w (a - 0x10040000) v else skip
    | 0x1008 => writeFm w d a v
    | 0x1009 => writeYs d a v
    | 0x100A => if a = TS_COMMIT_COMMIT.addr then tsCommitWrite v
        else if a = TS_EXT_NEXT_VALID.addr then extNextWrite w v else plainWrite d a v
    | 0x1010 => writeDr d a v
    | 0x1014 => writeTl d a v
    | 0x1018 => writeTd d a v
    | 0x101C => writeCh d a v
    | 0x1020 | 0x1021 | 0x1022 => writeTb d a v
    | 0x1024 => writeLl d a v
    | 0x1025 => writeDmx d a v
    | 0x1028 | 0x1029 => writeMac d a v
    | 0x102C => writeNet d a v
    | 0x1030 => writeSh d a v
    | 0x1031 => if a = MT_CTRL_CLEAR.addr then mtCtrlWrite v else if a = MT_COMMIT_COMMIT.addr then mtCommitWrite v
        else plainWrite d a v
    | 0x1034 => writeTy d a v
    | 0x1038 => if a = LG_CTRL_FREEZE.addr then lgCtrlWrite v else plainWrite d a v
    | 0x103A => writeTm d a v
    | 0x103C => writeBt w d a v
    | _ => plainWrite d a v

/-- A write of `n` bytes at `a` for a requester: a register takes a 32-bit aligned write only (R8, R30, R31). -/
def busWrite (w : Requester) (a : Nat) (data : List Byte) : Act := withS fun s =>
  if inRegs a then
    if s.xnAt a then xnWrite a data.length (ofLe data)
    else match findRow a with
      | none => unmapped w a
      | some d => whenDo (data.length == 4 && a % 4 == 0 && s.blockOn a) (regWrite w d a (ofLe data))
  else memWriteFor w a data

/-! ## The commands -/

/-- An address that the requester reaches neither in memory nor in the register space (R31). -/
def State.isUnmapped (s : State) (w : Requester) (a : Nat) (isWrite : Bool) : Bool :=
  if inRegs a then !s.xnAt a && (findRow a).isNone else if isWrite then !s.mayWrite w a else !s.mayRead w a

/-- An access of a requester, with the access trap that it raises in a Chandler core when its address is not mapped (R31). -/
def trapping (w : Requester) (a : Nat) (isWrite : Bool) (x : Act) : Act := withS fun s => acts [
  x, whenDo (s.isUnmapped w a isWrite) (accessTrap w a)]

/-- `REGISTER_WRITE`. -/
def execRegisterWrite (w : Requester) (addr : BitVec 40) (size : Nat) (v : DWord) (s : State) : Host.Outcome State Fault Refusal :=
  done (trapping w addr.toNat true (busWrite w addr.toNat (leBytes size v.toNat))) s

/-- `RC_REGISTER_READ` (R8, R9, R12). -/
def execRcRegisterRead (w : Requester) (addr : BitVec 40) (size : Nat) (s : State) : Host.Outcome State Fault Refusal :=
  done (trapping w addr.toNat false (busRead w addr.toNat size)) s

/-- `LO_WORD_READ_LATCH` (R81). -/
def execLoWordReadLatch (w : Requester) (addr : BitVec 40) (s : State) : Host.Outcome State Fault Refusal :=
  done (trapping w addr.toNat false (busRead w addr.toNat 4)) s

/-- `UNMAPPED_ACCESS` (R31): a read returns zero and a write is discarded; both are recorded, and a Chandler core raises its access
trap. -/
def execUnmappedAccess (w : Requester) (addr : BitVec 40) (isWrite : Bool) (s : State) : Host.Outcome State Fault Refusal :=
  done (whenDo (s.isUnmapped w addr.toNat isWrite)
    (trapping w addr.toNat isWrite (acts [unmapped w addr.toNat, whenDo (!isWrite) (reply (leBytes 4 0))]))) s

end Sys2Proof.Machine
end

