-- ==== Sys2Proof/Machine/Compose.lean ====
section
/-!
DEFINITION. The end of a composition: its pixels by the exact arithmetic of R98 to R104, the tile writes to the back half
of Bolt, the zone sums handed to Purse, and the completion (R105, R106, R135, R137).
-/

namespace Sys2Proof.Machine

/-- Source pixel (x, y) of a layer whose source starts at `a` with row pitch `pitch`; a pixel that a poisoned word holds
is zero in every channel (R90, R98, R105). -/
def State.sourcePixel (s : State) (format a pitch x y : Nat) : Rgba :=
  let n := pixelBytes format
  let p := a + y * pitch + x * n
  if (wordsOf p n).any s.poisonedAt then ⟨0, 0, 0, 0⟩ else expand format (ofLe (s.bytesAt p n))

/-- A sample between four source pixels (R101). -/
def State.sampleAt (s : State) (l : Layer) (a pitch : Nat) (hx hy : Nat × Nat × Nat) : Rgba :=
  let px (x y : Nat) := s.sourcePixel l.format a pitch x y
  bilinearPx (px hx.1 hy.1) (px hx.2.1 hy.1) (px hx.1 hy.2.1) (px hx.2.1 hy.2.1) hx.2.2 hy.2.2

/-- The sample of a layer at offset (i, j) of its destination (R99, R101, R102). -/
def State.sample (s : State) (l : Layer) (a pitch i j : Nat) : Rgba :=
  let hy := axis j l.stepY l.srcY l.srcH
  if s.ssOn l then
    meanPx (s.sampleAt l a pitch (axisSs i 0 l.stepX l.srcX l.srcW) hy)
      (s.sampleAt l a pitch (axisSs i 1 l.stepX l.srcX l.srcW) hy)
  else s.sampleAt l a pitch (axis i l.stepX l.srcX l.srcW) hy

/-- Blend one admitted layer into canvas pixel (x, y) (R99, R103, R104). Outside its rectangle, and for an ingest stream
that never completed a picture, the pixel keeps its value. -/
def State.blendLayer (s : State) (x y : Nat) (acc : Rgb) (l : LayerRun) : Rgb :=
  let i := (x : Int) - l.dx; let j := (y : Int) - l.dy
  match l.from_ with
  | none => acc
  | some (a, pitch) =>
    if i < 0 ∨ j < 0 ∨ (l.layer.dstW : Int) ≤ i ∨ (l.layer.dstH : Int) ≤ j then acc
    else
      let p := s.sample l.layer a pitch i.toNat j.toNat
      let c := if l.layer.matrixEn then matrix 14 l.layer.coefs l.layer.offs p.rgb else p.rgb
      blendPx l.layer.blend acc c (dv (p.a * dv (l.layer.opacity * l.modOp)))

/-- The background colour of a composition; black where no list was ever adopted (R89, R93). -/
def Comp.background (k : Comp) : Rgb :=
  match k.list with
  | some d => ⟨bits d.background 15 0, bits d.background 31 16, bits d.background 47 32⟩
  | none => black

/-- The composed colour of canvas pixel (x, y). -/
def State.composedPixel (s : State) (k : Comp) (x y : Nat) : Rgb := k.layers.foldl (s.blendLayer x y) k.background

/-- A pixel as Bolt stores it (R83). -/
def Rgb.bytes (p : Rgb) : List Byte := leBytes 2 p.r ++ leBytes 2 p.g ++ leBytes 2 p.b

/-- The words of external memory that a composition reads: the rows of each admitted layer's cropped rectangle. DESIGN CHOICE (log 145): DR_POISON
counts the poisoned ones among them, one that two layers share twice, and no word of a list's header or descriptors. -/
def Comp.sourceWords (k : Comp) : List Nat :=
  k.layers.flatMap fun l => match l.from_ with
    | none => []
    | some (a, pitch) =>
      let b := pixelBytes l.layer.format
      ((List.range l.layer.srcH).flatMap fun r =>
        wordsOf (a + (l.layer.srcY + r) * pitch + l.layer.srcX * b) (l.layer.srcW * b)).eraseDups

/-- The words of the lamp map that the prediction of canvas `c` reads (R119, R135). -/
def State.mapWords (s : State) (c : Nat) : List Nat :=
  let k := s.rdP (TL_CAN_MAP_MAPBASE c)
  wordsOf (mapAddr k) (4 * (min (k + s.canW c * s.canH c) mapSize - k))

/-- The canvas pixels as composed from the present memory, row by row, with their places. -/
def State.composed (s : State) (k : Comp) : List (Nat × Nat × Rgb) :=
  (List.range (s.canH k.canvas)).flatMap fun y => (List.range (s.canW k.canvas)).map fun x =>
    (x, y, s.composedPixel k x y)

/-- The composition of canvas `c` ends with its last tile written, not before the time of R95: the source is read, the pixels go to the back half,
Purse takes their sums, the fences advance and the completion is written, in the order of R106. -/
def compositionEnd (c : Nat) : Act := withS fun s =>
  match s.dr.order.find? fun k => k.canvas == c && k.phase == .running && decide (k.endsAt ≤ s.now) with
  | none => skip
  | some k =>
    let words := k.sourceWords
    let bad := (words.filter s.poisonedAt).length
    let half := 1 - s.frontHalf c
    let px := s.composed k
    acts [
      forEach (words ++ s.mapWords c) touchWord,
      forEach px fun (x, y, v) => memWriteFor .draper (s.boltAddr half c x y) v.bytes,
      wr (DR_CAN_STAT_POISON c) (b2n (decide (0 < bad))),
      whenDo (decide (0 < bad)) (acts [count DR_POISON bad, setEvent DR_EVENT_POISON,
        ledger 0x2004 .draper warning (drPayload c (min bad (2 ^ 24 - 1)))]),
      clearSums c,
      updTl fun t => { t with sums := px.foldl (fun m (x, y, v) => s.predictPixel c x y v m) t.sums },
      recompute,
      updDr fun d => { d with written := d.written.set none c (some k.frame), watch := [] },
      withS fun s => wr (DR_CAN_SLACK c)
        (satSigned 32 (s.unitsToTicks ((frameUnits - s.ys.pos % frameUnits : Nat) : Int) 1)),
      readRetires k, compCompletion k (b2n (decide (0 < bad)) * flagPoison) .ok, compDone k, drRefresh]

/-- `COMPOSITION_END` (R106). -/
def execCompositionEnd (canvas : Fin 4) (s : State) : Host.Outcome State Fault Refusal :=
  done (compositionEnd canvas) s

/-- Draper in one cycle: the composition that is first in line begins, one that has had its time ends, and the reads of an abandoned one have
returned after 2 µs at most (R94, R95, R97). -/
def draperRun : Act := withS fun s => whenDo (s.has .draper) (forEach s.dr.order fun k => match k.phase with
  | .queued => compositionStart k.canvas
  | .running => compositionEnd k.canvas
  | .draining => whenDo (decide (k.endsAt ≤ s.now)) (readsBack k.canvas))

end Sys2Proof.Machine
end

