-- ==== Sys2Proof/Machine/Host.lean ====
section
/-!
DEFINITION. The two host ports (R289 to R297): the link, BAR0, the xSPI target and the DMA rings.
-/

namespace Sys2Proof.Machine

/-- The source unit of port `p`. -/
def hostSrc (p : Nat) : Src := if p = 0 then .hostA else .hostB

/-! ## BAR0 (R291) -/

/-- The internal address that a BAR0 offset reaches: register space, or behind the sliding window. -/
def State.barAddr (s : State) (p off : Nat) : Nat :=
  if off < 0x800000 then 0x10000000 + off else s.rd (HP_WIN_BASE p) * 2 ^ 16 + (off - 0x800000)

/-- The bytes from `a` on, in pieces that each lie in one doubleword. -/
def dwordPieces : Nat → Nat → Nat → List (Nat × Nat)
  | 0, _, _ => []
  | fuel + 1, a, n => if n = 0 then [] else
      let k := min n (4 - a % 4)
      (a, k) :: dwordPieces fuel (a + k) (n - k)

/-- A write of bytes that the host sends to an address: into register space as 32-bit accesses in ascending order. -/
def hostWrite (p a : Nat) (data : List Byte) : Act :=
  if inRegs a then
    forEach (dwordPieces data.length a data.length) fun (x : Nat × Nat) =>
      busWrite (hostReq p) x.1 ((data.drop (x.1 - a)).take x.2)
  else busWrite (hostReq p) a data

/-- Reads of pieces, whose bytes follow those read already. -/
def hostPieces (p : Nat) : List (Nat × Nat) → List Byte → Act
  | [], bs => reply bs
  | x :: xs, bs => acts [busRead (hostReq p) x.1 x.2, withS fun s => hostPieces p xs (bs ++ s.reply)]

/-- A read of `n` bytes at an address for the host. -/
def hostRead (p a n : Nat) : Act :=
  if inRegs a then hostPieces p (dwordPieces n a n) [] else busRead (hostReq p) a n

/-- A write at a BAR0 offset: a burst that passes 0x7F_FFFF goes on in the window. -/
def barWrite (p off : Nat) (data : List Byte) : Act := withS fun s =>
  let k := if off < 0x800000 then 0x800000 - off else data.length
  acts [hostWrite p (s.barAddr p off) (data.take k),
    whenDo (decide (k < data.length)) (hostWrite p (s.barAddr p (off + k)) (data.drop k))]

/-- A read at a BAR0 offset. -/
def barRead (p off n : Nat) : Act := withS fun s =>
  let k := if off < 0x800000 then 0x800000 - off else n
  if n ≤ k then hostRead p (s.barAddr p off) n
  else acts [hostRead p (s.barAddr p off) k, withS fun t => acts [
    hostRead p (s.barAddr p (off + k)) (n - k), withS fun u => reply (t.reply ++ u.reply)]]

/-! ## BAR2 (R290, R298) -/

/-- A doubleword of the MSI-X table or of the pending-bit array. PRESUMED (log 151): the layout of PCI Express, with the array at 4 KiB. -/
def State.bar2Word (s : State) (p o : Nat) : Nat :=
  let x := s.msixAt p (o / 16)
  if o < 0x400 then match o / 4 % 4 with
    | 0 => x.addr % 2 ^ 32 | 1 => x.addr / 2 ^ 32 | 2 => x.data | _ => b2n x.masked
  else if 0x1000 ≤ o ∧ o < 0x1008 then (List.range 32).foldl (fun n i => n + b2n (s.msixAt p ((o - 0x1000) / 4 * 32 + i)).held * 2 ^ i) 0
  else 0

/-- A write of a doubleword of the table: unmasking a vector that is held sends it. -/
def bar2Write (p o v : Nat) : Act := withS fun s =>
  let n := o / 16
  let x := s.msixAt p n
  whenDo (decide (o < 0x400)) (match o / 4 % 4 with
    | 0 => updMsix p n fun x => { x with addr := x.addr / 2 ^ 32 * 2 ^ 32 + v }
    | 1 => updMsix p n fun x => { x with addr := x.addr % 2 ^ 32 + v * 2 ^ 32 }
    | 2 => updMsix p n fun x => { x with data := v }
    | _ => acts [updMsix p n fun x => { x with masked := bit v 0, held := x.held && bit v 0 },
        whenDo (x.held && !bit v 0) (emit (.vector p n))])

/-- A TLP to BAR2: whole doublewords. -/
def bar2Access (p o : Nat) (isWrite : Bool) (data : List Byte) (len : Nat) : Act :=
  if isWrite then forEach (dwordPieces data.length o data.length) fun (x : Nat × Nat) =>
    whenDo (x.2 == 4) (bar2Write p x.1 (leAt data (x.1 - o) 4))
  else withS fun s => reply ((dwordPieces len o len).flatMap fun x => ((leBytes 4 (s.bar2Word p (x.1 / 4 * 4))).drop (x.1 % 4)).take x.2)

/-- The port is a PCI Express endpoint with its link up. -/
def State.pcieUp (s : State) (p : Nat) : Bool := !s.on (HP_STATUS_MODE p) && s.on (HP_STATUS_LINK p)

/-- `BAR0_ACCESS`: one TLP. DESIGN CHOICE (log 151): the table has no row for BAR2, whose 8 KiB stand at the offsets after BAR0. -/
def execBar0Access (port : Fin 2) (off : Nat) (isWrite : Bool) (data : List Byte) (len : Nat) (s : State) :
    Host.Outcome State Fault Refusal :=
  done (whenDo (s.pcieUp port) (
    if off < 0x1000000 then (if isWrite then barWrite port off data else barRead port off len)
    else whenDo (decide (off < 0x1002000)) (bar2Access port (off - 0x1000000) isWrite data len))) s

/-! ## DMA rings (R294 to R297) -/

/-- The range lies wholly in mapped memory outside the tile cache and the register space. -/
def State.dmaRange (s : State) (a n : Nat) : Bool :=
  s.extRange a n || decide (a + n ≤ 0x4C00000) || decide (0x5800000 ≤ a ∧ a + n ≤ 0x6000000)

/-- An entry's completion, then the fence, then the vector (R295, R296). -/
def dmaFinish (p r a : Nat) (e : List Byte) (moved : Nat) (st : Status) : Act := acts [
  setMoved p r 0,
  ringCompletion (hostReq p) a true moved (leAt e 0x18 4) 0 st,
  bump (RING_HEAD (HP_RING_base p r)) 1,
  fenceStep (2 + p) r,
  whenDo (bit (leAt e 0x14 4) 1) (raiseVector p (1 + r)),
  whenDo (st != .ok) (acts [count (HP_DMA_ERRS p) 1, setEvent (HP_EVENT_DMA_ERR p),
    ledger 0xB103 (hostSrc p) warning (p * 2 ^ 24 + r * 2 ^ 16 + st.code)])]

/-- How many of `n` bytes at `a` come before the first poisoned word. -/
def State.cleanBytes (s : State) (a n : Nat) : Nat :=
  match (wordsOf a n).find? s.poisonedAt with | some w => w - a | none => n

/-- How an entry ends that the host has served: it answered, it fell silent, or its link was lost. -/
inductive DmaEnd | answered | silent | lost
  deriving DecidableEq, Repr

/-- An entry is refused with BADARG (R296). -/
def State.dmaBad (s : State) (e : List Byte) : Bool :=
  let dev := leAt e 8 8; let len := leAt e 0x10 4
  dev / 2 ^ 40 != 0 || leAt e 0x14 4 / 4 != 0 || leAt e 0x1C 4 != 0 || len == 0 || decide (2 ^ 24 < len) || !s.dmaRange dev len

/-- The entry at a ring's head goes on from where it stands, with what the host's side has done since, and ends (R296). An answered entry whose
host has neither given every byte nor refused is still in progress. -/
def dmaEntry (p r : Nat) (h : HostData) (how : DmaEnd) : Act := withS fun s =>
  let ring := RingId.engine (Fin.ofNat 16 (6 + 4 * p + r))
  whenDo (s.ringHas ring) (
    let a := s.ringEntry (ringBase ring) (s.rd (RING_HEAD (ringBase ring)))
    withMemFor (hostReq p) a 64 fun e _ =>
      let host := leAt e 0 8; let dev := leAt e 8 8; let len := leAt e 0x10 4; let ctl := leAt e 0x14 4
      let was := min (s.dmaMoved p r) len
      let toHost := bit ctl 0
      let clean := if toHost then s.cleanBytes dev len else len
      let moved := min (was + if toHost then h.sent else h.data.length) len
      let go (n : Nat) : Act :=
        if toHost then withMemFor (hostReq p) (dev + was) (n - was) fun bs _ => emit (.dma p (host + was) bs false)
        else memWriteFor (hostReq p) (dev + was) (h.data.take (n - was))
      let finish (n : Nat) (st : Status) : Act := acts [go n, dmaFinish p r a e n st]
      if s.dmaBad e then dmaFinish p r a e 0 .badarg
      else if how == .lost then finish moved .absent
      else if !s.on (HP_STATUS_LINK p) then dmaFinish p r a e 0 .absent
      else if clean < len && (clean ≤ moved || how == .answered && !h.denied) then withFree fun v => acts [
        go clean,
        withMemFor (hostReq p) (dev + clean) (min 32 (len - clean)) fun bs _ => emit (.dma p (host + clean) bs true),
        dmaFinish p r a e (v % (len + 1)) .corrupt]
      else if h.denied then finish moved .denied
      else if how == .silent then finish moved .timeout
      else if moved == len || toHost then finish len .ok
      else acts [go moved, setMoved p r moved])

/-- What a port does in one turn of a ring: 4 KiB of an entry to the host go out, or the entry's last; an entry from the host waits for its data
(R295). -/
def dmaUnit (p r : Nat) : Act := withS fun s =>
  let b := HP_RING_base p r
  let e := s.bytesAt (s.ringEntry b (s.rd (RING_HEAD b))) 64
  let dev := leAt e 8 8; let was := s.dmaMoved p r
  if s.dmaBad e then dmaEntry p r {} .answered
  else whenDo (bit (leAt e 0x14 4) 0) (
    if was + 4096 < leAt e 0x10 4 && s.cleanBytes (dev + was) 4096 == 4096 then acts [
      withMemFor (hostReq p) (dev + was) 4096 fun bs _ => emit (.dma p (leAt e 0 8 + was) bs false), setMoved p r (was + 4096)]
    else dmaEntry p r {} .answered)

/-- The next ring of a port, in turn, that has an entry (R295). -/
def State.dmaNext (s : State) (p : Nat) : Option Nat :=
  ((List.range 4).map fun i => (s.hst.served.get 3 p + 1 + i) % 4).find? fun r => s.ringHas (.engine (Fin.ofNat 16 (6 + 4 * p + r)))

/-- The host ports serve their rings round-robin. DESIGN CHOICE (log 151): a unit takes 512 ns. -/
def dmaRun : Act := withS fun s => whenDo (s.now % 512 == 0) (forN 2 fun p => withS fun s =>
  match if s.pcieUp p then s.dmaNext p else none with
  | some r => acts [updHst fun h => { h with served := h.served.set 3 p r }, dmaUnit p r]
  | none => skip)

/-- Every entry queued behind ends as `dmaEntry` gives for a link that is down (R297). -/
def dmaFlush (p r : Nat) : Nat → Act
  | 0 => skip
  | n + 1 => acts [dmaEntry p r {} .lost, dmaFlush p r n]

/-- `DMA_ENTRY_COMPLETE`. -/
def execDmaEntryComplete (port : Fin 2) (ring : Fin 4) (host : HostData) (s : State) : Host.Outcome State Fault Refusal :=
  done (dmaEntry port ring host .answered) s

/-- `DMA_HOST_TIMEOUT` (R296): no completion from the host within 50 ms. -/
def execDmaHostTimeout (port : Fin 2) (ring : Fin 4) (host : HostData) (s : State) : Host.Outcome State Fault Refusal :=
  done (dmaEntry port ring host .silent) s

/-! ## The link (R293) -/

/-- A port's link comes up. -/
def linkUpAct (p : Nat) : Act := acts [
  wr (HP_STATUS_LINK p) 1, bump (HP_STATUS_GEN p) 1, setEvent (HP_EVENT_LINK_UP p),
  withS fun s => ledger 0xB101 (hostSrc p) note (p * 2 ^ 24 + s.rd (HP_STATUS_GEN p))]

/-- `HOST_LINK_UP`: the data link layer of a PCI Express port is up. -/
def execHostLinkUp (port : Fin 2) (speed width : Fin 8) (s : State) : Host.Outcome State Fault Refusal :=
  done (whenDo (!s.on (HP_STATUS_MODE port) && !s.on (HP_STATUS_LINK port)) (acts [
    wr (HP_STATUS_SPEED port) speed.val, wr (HP_STATUS_WIDTH port) width.val, linkUpAct port])) s

/-- A reset of a port; `moved` says how far the entry in progress of each DMA ring has come (R293, R297). -/
def portReset (p : Nat) (moved : List HostData) : Act := acts [
  wr (HP_STATUS_LINK p) 0, wr (HP_STATUS_SPEED p) 0, wr (HP_STATUS_WIDTH p) 0,
  setEvent (HP_EVENT_LINK_DOWN p), ledger 0xB102 (hostSrc p) warning p,
  orphanHasps fun o => o.kind == p, clearInbound p, forN 64 fun v => updMsix p v fun _ => {},
  forN 4 fun r => withS fun s => acts [dmaEntry p r (moved.getD r {}) .lost,
    dmaFlush p r (s.ringCount (HP_RING_base p r) - 1)]]

/-- `HOST_PORT_RESET`: a PCI Express port loses a link that is up, or PERST_N goes low; an xSPI port takes PORT_RESET. -/
def execHostPortReset (port : Fin 2) (kind : PortReset) (moved : List HostData) (s : State) :
    Host.Outcome State Fault Refusal :=
  let takes := if s.on (HP_STATUS_MODE port) then kind == .portReset
    else kind == .perst || (kind != .portReset && s.on (HP_STATUS_LINK port))
  done (whenDo takes (portReset port moved)) s

/-! ## xSPI (R292) -/

/-- An xSPI command error. -/
def xspiError (p : Nat) : Act := acts [
  updHst fun h => { h with xspiErr := h.xspiErr.set false p true }, setEvent (HP_EVENT_XSPI_ERR p),
  ledger 0xB104 (hostSrc p) warning p]

/-- A valid command on an xSPI port: the first one brings the link up (R293). -/
def xspiCommand (p : Nat) (a : Act) : Act := withS fun s => whenDo (s.on (HP_STATUS_MODE p)) (acts [
  whenDo (!s.on (HP_STATUS_LINK p)) (linkUpAct p), a])

/-- A READ or a WRITE whose address is not allowed, that runs past the last BAR0 offset, or that reaches registers without being in whole words, is
discarded. -/
def State.xspiBad (s : State) (p addr len : Nat) : Bool :=
  decide (2 ^ 24 ≤ addr ∨ 2 ^ 24 < addr + len) || (inRegs (s.barAddr p addr) && (addr % 4 != 0 || len % 4 != 0))

/-- `XSPI_READ`. The data of a discarded READ are free. -/
def execXspiRead (port : Fin 2) (addr : Word) (len : Nat) (s : State) : Host.Outcome State Fault Refusal :=
  done (xspiCommand port (if s.xspiBad port addr.toNat len then acts [xspiError port, withFree fun v => reply (leBytes len v)]
    else barRead port addr.toNat len)) s

/-- `XSPI_WRITE`. -/
def execXspiWrite (port : Fin 2) (addr : Word) (data : List Byte) (s : State) : Host.Outcome State Fault Refusal :=
  done (xspiCommand port (if s.xspiBad port addr.toNat data.length then xspiError port
    else barWrite port addr.toNat data)) s

/-- `XSPI_STREAM`: bytes to Bobbin 32 or 33 (R314). -/
def execXspiStream (port : Fin 2) (data : List Byte) (s : State) : Host.Outcome State Fault Refusal :=
  done (xspiCommand port (forEach data fun b => bobbinByte (32 + port) b false)) s

/-- `XSPI_STATUS`. -/
def execXspiStatus (port : Fin 2) (s : State) : Host.Outcome State Fault Refusal :=
  done (xspiCommand port (withS fun s =>
    let full := decide (64 ≤ (s.bobbin (32 + port)).bytes.length)
    acts [reply (leBytes 1 (b2n (s.hst.xspiErr.get false port) + 2 * b2n (s.irqLow port) + 4 * b2n full)),
      updHst fun h => { h with xspiErr := h.xspiErr.set false port false }])) s

/-- `XSPI_ID`. -/
def execXspiId (port : Fin 2) (s : State) : Host.Outcome State Fault Refusal :=
  done (xspiCommand port (reply ([0x48, 0x10, 0x0B] ++ leBytes 1 (s.rd SYS_ID_GRADE)))) s

/-- `XSPI_PORT_RESET`: the link goes down until the next valid command. -/
def execXspiPortReset (port : Fin 2) (s : State) : Host.Outcome State Fault Refusal :=
  done (whenDo (s.on (HP_STATUS_MODE port)) (portReset port [])) s

/-- `ENTER_8D`: a command of 1S-1S-1S only. -/
def execEnter8d (port : Fin 2) (s : State) : Host.Outcome State Fault Refusal :=
  done (whenDo (s.on (HP_STATUS_MODE port)) (
    if s.hst.octal.get false port then xspiError port
    else xspiCommand port (updHst fun h => { h with octal := h.octal.set false port true }))) s

/-- `EXIT_8D`: a command of 8D-8D-8D only. -/
def execExit8d (port : Fin 2) (s : State) : Host.Outcome State Fault Refusal :=
  done (whenDo (s.on (HP_STATUS_MODE port)) (
    if s.hst.octal.get false port then xspiCommand port (updHst fun h => { h with octal := h.octal.set false port false })
    else xspiError port)) s

/-- The opcodes of R292. -/
def xspiOpcodes : List Nat := [0x03, 0x02, 0x30, 0x05, 0x9F, 0x99, 0xE8, 0xFF]

/-- `XSPI_INVALID_OPCODE`: any other opcode is ignored and reported. -/
def execXspiInvalidOpcode (port : Fin 2) (op : Byte) (s : State) : Host.Outcome State Fault Refusal :=
  done (whenDo (s.on (HP_STATUS_MODE port) && !xspiOpcodes.contains op.toNat) (xspiError port)) s

/-- `XSPI_READ_TIMEOUT`: a READ of which `len` bytes are not ready within 2 µs returns them as 0xFF. -/
def execXspiReadTimeout (port : Fin 2) (len : Nat) (s : State) : Host.Outcome State Fault Refusal :=
  done (xspiCommand port (acts [reply (List.replicate len 0xFF), xspiError port])) s

end Sys2Proof.Machine
end

