-- ==== Sys2Proof/Machine/Loom.lean ====
section
/-!
DEFINITION. What every instruction of a Chandler core shares (R227 to R233, R243, R253 to R257, R265): the fetch, the caches,
the traps, the end of an instruction, a wait. An instruction is carried out by the RUNNING thread of its core; a core without
one carries out none.
-/

namespace Sys2Proof.Machine

/-! ## Instruction words (R231) -/

def wordRI (op : Nat) (rd ra : Fin 32) (imm : BitVec 16) : Nat := op * 2 ^ 26 + rd * 2 ^ 21 + ra * 2 ^ 16 + imm.toNat
def wordS (sub : Nat) (rd ra : Fin 32) (low : BitVec 10) : Nat :=
  0x3F * 2 ^ 26 + sub * 2 ^ 20 + rd * 2 ^ 15 + ra * 2 ^ 10 + low.toNat

/-! ## Caches (R242, R265) -/

/-- Set index and tag of an address. -/
def lineSet (a : Nat) : Nat := bits a 13 6
def lineTag (a : Nat) : Nat := a / 2 ^ 14

/-- The way that holds the line of an address. -/
def Cache.find (k : Cache) (a : Nat) : Option (Nat × CacheLine) :=
  (List.range 4).findSome? fun w => match k.lines.get none (lineSet a * 4 + w) with
    | some l => if l.tag = lineTag a then some (w, l) else none
    | none => none

/-- The bits of the tree point away from the way used last; the form of the tree is PRESUMED (log 27). -/
def touchTree (b w : Nat) : Nat :=
  if w < 2 then (if w = 0 then b ||| 3 else (b ||| 1) &&& 5) else if w = 2 then (b &&& 2) ||| 4 else b &&& 2

/-- The way that a fill takes: an invalid one, else the one to which the tree points. -/
def Cache.victim (k : Cache) (a : Nat) : Nat :=
  let b := k.plru.get 0 (lineSet a)
  ((List.range 4).find? fun w => (k.lines.get none (lineSet a * 4 + w)).isNone).getD
    (if bit b 0 then 2 + b2n (bit b 2) else b2n (bit b 1))

/-- Note the use of a way. -/
def Cache.touch (k : Cache) (a w : Nat) : Cache :=
  { k with plru := k.plru.set 0 (lineSet a) (touchTree (k.plru.get 0 (lineSet a)) w) }

/-- Fill the line of an address. -/
def Cache.fill (k : Cache) (a : Nat) (data : List Byte) : Cache :=
  let w := k.victim a
  let line : CacheLine := ⟨lineTag a, data⟩
  ({ k with lines := k.lines.set none (lineSet a * 4 + w) (some line) } : Cache).touch a w

/-- A store updates the line that the cache holds. -/
def Cache.store (k : Cache) (a : Nat) (data : List Byte) : Cache := match k.find a with
  | some (w, l) =>
    let o := a % 64
    let line : CacheLine := { l with data := l.data.take o ++ data ++ l.data.drop (o + data.length) }
    ({ k with lines := k.lines.set none (lineSet a * 4 + w) (some line) } : Cache).touch a w
  | none => k

/-- Invalidate the line of an address. -/
def Cache.drop (k : Cache) (a : Nat) : Cache := match k.find a with
  | some (w, _) => { k with lines := k.lines.set none (lineSet a * 4 + w) none }
  | none => k

/-- Read a line of external memory through a cache, which `get` and `put` reach in the core: its bytes, or the poison of a fill,
which is not allocated. -/
def cached (c a : Nat) (get : Core → Cache) (put : Core → Cache → Core) (k : List Byte → Act) (bad : Act) : Act := withS fun s =>
  match (get (s.core c)).find a with
  | some (w, l) => acts [updCore c fun x => put x ((get x).touch a w), k l.data]
  | none => withMem (a / 64 * 64) 64 fun bs poison =>
      if poison then bad else acts [updCore c fun x => put x ((get x).fill a bs), k bs]

/-! ## Fetch (R243, R265) -/

/-- Code may lie at the address: Chandler local memory, scratch and usable external memory. -/
def State.fetchable (s : State) (a : Nat) : Bool := decide (0x4400000 ≤ a ∧ a < 0x4C00000) || inScratch a || s.inExt a

/-- Fetch the word at the thread's pc. -/
def fetch (c t : Nat) (k : Act) : Act := withS fun s =>
  let a := (s.thread c t).pc.toNat
  let w := Requester.thread (Fin.ofNat 8 c) (Fin.ofNat 64 t)
  if a % 4 ≠ 0 ∨ !s.fetchable a then acts [
    whenDo (decide (a < 2 ^ 40) && s.isUnmapped w a false) (unmapped w a), trap c t trapFetch a]
  else if s.inExt a then cached c a Core.icache (fun x k => { x with icache := k }) (fun _ => k) (trap c t trapPoisonFetch a)
  else withMem a 4 fun _ poison => if poison then trap c t trapPoisonFetch a else k

/-- Carry out an instruction on the RUNNING thread of a core: the fetch first, then what the instruction does to the thread. -/
def loom (c : Nat) (body : Nat → Thread → Act) : Act := withS fun s =>
  match (s.core c).running with
  | none => skip
  | some t => fetch c t (withS fun s => body t (s.thread c t))

/-- An instruction ends: it retires, and the thread goes on at the next word. -/
def finish (c t : Nat) (f : Thread → Thread) : Act :=
  updThread c t fun x => { f x with pc := x.pc + 4, retired := x.retired + 1 }

/-- An instruction ends with a value for one register. -/
def finishReg (c t : Nat) (rd : Fin 32) (v : DWord) : Act := finish c t fun x => x.setReg rd v

/-- The instruction's word is not legal (R232). -/
def illegal (c t word : Nat) : Act := trap c t trapIllegal word

/-! ## Branches and jumps (R243) -/

/-- The address `n` words away from the pc, in two's complement of `w` bits. -/
def Thread.away (x : Thread) (w n : Nat) : DWord := x.pc + BitVec.ofInt 64 (4 * signedOf w n)

/-- Go to a target, or raise FETCH when no code may lie there. -/
def jump (c t : Nat) (target : DWord) (f : Thread → Thread) : Act := withS fun s =>
  if target.toNat % 4 ≠ 0 ∨ !s.fetchable target.toNat then trap c t trapFetch target.toNat
  else updThread c t fun x => { f x with pc := target, retired := x.retired + 1 }

/-! ## Status and waits (R245, R246) -/

/-- A system instruction ends with a status, and with what the higher bits of rd hold. -/
def answer (c t : Nat) (rd : Fin 32) (st : Status) (hi : Nat) : Act :=
  finishReg c t rd (BitVec.ofNat 64 (hi + st.code))

/-- An instruction refused with STATE is recorded (R252). -/
def answerState (c t sub : Nat) (rd : Fin 32) : Act := acts [
  ledger 0xB202 (.chandler c) note (c * 2 ^ 24 + t * 2 ^ 16 + sub), answer c t rd .state 0]

/-- The thread becomes BLOCKED on a wait. Its pc and RETIRED stand past the instruction already. -/
def blockOn (c t : Nat) (w : Wait) (deadline : Option Nat) : Act := acts [
  finish c t id,
  updThread c t fun x => { x with st := .blocked, wait := w, deadline := deadline, matched := false, timed := false },
  leaveCore c t]

/-- The cascade tick at which the timeout field of a register ends the wait: none for 0. -/
def State.deadline (s : State) (v : DWord) : Option Nat :=
  let n := v.toNat / 2 ^ 16
  if n = 0 then none else some (s.ys.tick + n)

/-- Complete the wait at issue when its condition holds already, else block. -/
def waitFor (c t : Nat) (w : Wait) (v : DWord) : Act := withS fun s =>
  tryWait c t w (fun l => finish c t fun x => x.setRegs l) (blockOn c t w (s.deadline v))

/-- The thread goes to the tail of its level when another of equal or higher priority is ready; else it goes on. -/
def yieldNow (c t : Nat) : Act := withS fun s =>
  match s.nextReady c with
  | some (p, _) => whenDo (decide ((s.thread c t).pri ≤ p)) (acts [leaveCore c t, enlist c t false])
  | none => skip

/-- The designator that a register holds, if it is one (R245). -/
def readDesignator (v : Nat) : Option (Nat × Nat) :=
  if v / 2 ^ 19 = 0 ∧ bits v 15 14 = 0 ∧ bits v 7 0 = 0 then some (bits v 18 16, bits v 13 8) else none

end Sys2Proof.Machine
end

