-- ==== Sys2Proof/Machine/LoomInt.lean ====
section
/-!
DEFINITION. The integer, compare and packed instructions, branches and jumps (R234 to R237, R243, R244).
-/

namespace Sys2Proof.Machine

/-! ## Operations on two registers -/

/-- An instruction that writes rd from ra and rb. -/
def loomRR (c : Fin 8) (rd ra rb : Fin 32) (f : DWord → DWord → DWord) : Act :=
  loom c fun t x => finishReg c t rd (f (x.reg ra) (x.reg rb))

/-- An instruction that writes rd from ra. -/
def loomRI (c : Fin 8) (rd ra : Fin 32) (f : DWord → DWord) : Act :=
  loom c fun t x => finishReg c t rd (f (x.reg ra))

/-- 1 when a condition holds, else 0. -/
def flag (b : Bool) : DWord := BitVec.ofNat 64 (b2n b)

/-- The shift count of a register (R234). -/
def shiftOf (v : DWord) : Nat := v.toNat % 64

def opMin (a b : DWord) : DWord := if a.toInt ≤ b.toInt then a else b
def opMax (a b : DWord) : DWord := if b.toInt ≤ a.toInt then a else b
def opMinu (a b : DWord) : DWord := if a.toNat ≤ b.toNat then a else b
def opMaxu (a b : DWord) : DWord := if b.toNat ≤ a.toNat then a else b

/-- Products and quotients (R235). -/
def opMulh (a b : DWord) : DWord := BitVec.ofInt 64 (a.toInt * b.toInt / 2 ^ 64)
def opMulhu (a b : DWord) : DWord := BitVec.ofNat 64 (a.toNat * b.toNat / 2 ^ 64)
def opDiv (a b : DWord) : DWord := if b = 0 then BitVec.allOnes 64 else BitVec.ofInt 64 (a.toInt.tdiv b.toInt)
def opDivu (a b : DWord) : DWord := if b = 0 then BitVec.allOnes 64 else BitVec.ofNat 64 (a.toNat / b.toNat)
def opRem (a b : DWord) : DWord := if b = 0 then a else BitVec.ofInt 64 (a.toInt.tmod b.toInt)
def opRemu (a b : DWord) : DWord := if b = 0 then a else BitVec.ofNat 64 (a.toNat % b.toNat)

/-- `ADD`. -/
def loomAdd (c : Fin 8) (rd ra rb : Fin 32) : Act :=
  loomRR c rd ra rb (fun a b => a + b)
/-- `ADD` as a command. -/
def execLoomAdd (c : Fin 8) (rd ra rb : Fin 32) (s : State) : Host.Outcome State Fault Refusal := done (loomAdd c rd ra rb) s
/-- `SUB`. -/
def loomSub (c : Fin 8) (rd ra rb : Fin 32) : Act :=
  loomRR c rd ra rb (fun a b => a - b)
/-- `SUB` as a command. -/
def execLoomSub (c : Fin 8) (rd ra rb : Fin 32) (s : State) : Host.Outcome State Fault Refusal := done (loomSub c rd ra rb) s
/-- `AND`. -/
def loomAnd (c : Fin 8) (rd ra rb : Fin 32) : Act :=
  loomRR c rd ra rb (fun a b => a &&& b)
/-- `AND` as a command. -/
def execLoomAnd (c : Fin 8) (rd ra rb : Fin 32) (s : State) : Host.Outcome State Fault Refusal := done (loomAnd c rd ra rb) s
/-- `OR`. -/
def loomOr (c : Fin 8) (rd ra rb : Fin 32) : Act :=
  loomRR c rd ra rb (fun a b => a ||| b)
/-- `OR` as a command. -/
def execLoomOr (c : Fin 8) (rd ra rb : Fin 32) (s : State) : Host.Outcome State Fault Refusal := done (loomOr c rd ra rb) s
/-- `XOR`. -/
def loomXor (c : Fin 8) (rd ra rb : Fin 32) : Act :=
  loomRR c rd ra rb (fun a b => a ^^^ b)
/-- `XOR` as a command. -/
def execLoomXor (c : Fin 8) (rd ra rb : Fin 32) (s : State) : Host.Outcome State Fault Refusal := done (loomXor c rd ra rb) s
/-- `SHL`. -/
def loomShl (c : Fin 8) (rd ra rb : Fin 32) : Act :=
  loomRR c rd ra rb (fun a b => a <<< shiftOf b)
/-- `SHL` as a command. -/
def execLoomShl (c : Fin 8) (rd ra rb : Fin 32) (s : State) : Host.Outcome State Fault Refusal := done (loomShl c rd ra rb) s
/-- `SHR`. -/
def loomShr (c : Fin 8) (rd ra rb : Fin 32) : Act :=
  loomRR c rd ra rb (fun a b => a >>> shiftOf b)
/-- `SHR` as a command. -/
def execLoomShr (c : Fin 8) (rd ra rb : Fin 32) (s : State) : Host.Outcome State Fault Refusal := done (loomShr c rd ra rb) s
/-- `SAR`. -/
def loomSar (c : Fin 8) (rd ra rb : Fin 32) : Act :=
  loomRR c rd ra rb (fun a b => a.sshiftRight (shiftOf b))
/-- `SAR` as a command. -/
def execLoomSar (c : Fin 8) (rd ra rb : Fin 32) (s : State) : Host.Outcome State Fault Refusal := done (loomSar c rd ra rb) s
/-- `MIN`. -/
def loomMin (c : Fin 8) (rd ra rb : Fin 32) : Act :=
  loomRR c rd ra rb opMin
/-- `MIN` as a command. -/
def execLoomMin (c : Fin 8) (rd ra rb : Fin 32) (s : State) : Host.Outcome State Fault Refusal := done (loomMin c rd ra rb) s
/-- `MAX`. -/
def loomMax (c : Fin 8) (rd ra rb : Fin 32) : Act :=
  loomRR c rd ra rb opMax
/-- `MAX` as a command. -/
def execLoomMax (c : Fin 8) (rd ra rb : Fin 32) (s : State) : Host.Outcome State Fault Refusal := done (loomMax c rd ra rb) s
/-- `MINU`. -/
def loomMinu (c : Fin 8) (rd ra rb : Fin 32) : Act :=
  loomRR c rd ra rb opMinu
/-- `MINU` as a command. -/
def execLoomMinu (c : Fin 8) (rd ra rb : Fin 32) (s : State) : Host.Outcome State Fault Refusal := done (loomMinu c rd ra rb) s
/-- `MAXU`. -/
def loomMaxu (c : Fin 8) (rd ra rb : Fin 32) : Act :=
  loomRR c rd ra rb opMaxu
/-- `MAXU` as a command. -/
def execLoomMaxu (c : Fin 8) (rd ra rb : Fin 32) (s : State) : Host.Outcome State Fault Refusal := done (loomMaxu c rd ra rb) s
/-- `MUL`. -/
def loomMul (c : Fin 8) (rd ra rb : Fin 32) : Act :=
  loomRR c rd ra rb (fun a b => a * b)
/-- `MUL` as a command. -/
def execLoomMul (c : Fin 8) (rd ra rb : Fin 32) (s : State) : Host.Outcome State Fault Refusal := done (loomMul c rd ra rb) s
/-- `MULH`. -/
def loomMulh (c : Fin 8) (rd ra rb : Fin 32) : Act :=
  loomRR c rd ra rb opMulh
/-- `MULH` as a command. -/
def execLoomMulh (c : Fin 8) (rd ra rb : Fin 32) (s : State) : Host.Outcome State Fault Refusal := done (loomMulh c rd ra rb) s
/-- `MULHU`. -/
def loomMulhu (c : Fin 8) (rd ra rb : Fin 32) : Act :=
  loomRR c rd ra rb opMulhu
/-- `MULHU` as a command. -/
def execLoomMulhu (c : Fin 8) (rd ra rb : Fin 32) (s : State) : Host.Outcome State Fault Refusal := done (loomMulhu c rd ra rb) s
/-- `DIV`. -/
def loomDiv (c : Fin 8) (rd ra rb : Fin 32) : Act :=
  loomRR c rd ra rb opDiv
/-- `DIV` as a command. -/
def execLoomDiv (c : Fin 8) (rd ra rb : Fin 32) (s : State) : Host.Outcome State Fault Refusal := done (loomDiv c rd ra rb) s
/-- `DIVU`. -/
def loomDivu (c : Fin 8) (rd ra rb : Fin 32) : Act :=
  loomRR c rd ra rb opDivu
/-- `DIVU` as a command. -/
def execLoomDivu (c : Fin 8) (rd ra rb : Fin 32) (s : State) : Host.Outcome State Fault Refusal := done (loomDivu c rd ra rb) s
/-- `REM`. -/
def loomRem (c : Fin 8) (rd ra rb : Fin 32) : Act :=
  loomRR c rd ra rb opRem
/-- `REM` as a command. -/
def execLoomRem (c : Fin 8) (rd ra rb : Fin 32) (s : State) : Host.Outcome State Fault Refusal := done (loomRem c rd ra rb) s
/-- `REMU`. -/
def loomRemu (c : Fin 8) (rd ra rb : Fin 32) : Act :=
  loomRR c rd ra rb opRemu
/-- `REMU` as a command. -/
def execLoomRemu (c : Fin 8) (rd ra rb : Fin 32) (s : State) : Host.Outcome State Fault Refusal := done (loomRemu c rd ra rb) s
/-- `CEQ`. -/
def loomCeq (c : Fin 8) (rd ra rb : Fin 32) : Act :=
  loomRR c rd ra rb (fun a b => flag (a == b))
/-- `CEQ` as a command. -/
def execLoomCeq (c : Fin 8) (rd ra rb : Fin 32) (s : State) : Host.Outcome State Fault Refusal := done (loomCeq c rd ra rb) s
/-- `CNE`. -/
def loomCne (c : Fin 8) (rd ra rb : Fin 32) : Act :=
  loomRR c rd ra rb (fun a b => flag (a != b))
/-- `CNE` as a command. -/
def execLoomCne (c : Fin 8) (rd ra rb : Fin 32) (s : State) : Host.Outcome State Fault Refusal := done (loomCne c rd ra rb) s
/-- `CLT`. -/
def loomClt (c : Fin 8) (rd ra rb : Fin 32) : Act :=
  loomRR c rd ra rb (fun a b => flag (decide (a.toInt < b.toInt)))
/-- `CLT` as a command. -/
def execLoomClt (c : Fin 8) (rd ra rb : Fin 32) (s : State) : Host.Outcome State Fault Refusal := done (loomClt c rd ra rb) s
/-- `CLTU`. -/
def loomCltu (c : Fin 8) (rd ra rb : Fin 32) : Act :=
  loomRR c rd ra rb (fun a b => flag (decide (a.toNat < b.toNat)))
/-- `CLTU` as a command. -/
def execLoomCltu (c : Fin 8) (rd ra rb : Fin 32) (s : State) : Host.Outcome State Fault Refusal := done (loomCltu c rd ra rb) s
/-- `CGE`. -/
def loomCge (c : Fin 8) (rd ra rb : Fin 32) : Act :=
  loomRR c rd ra rb (fun a b => flag (decide (b.toInt ≤ a.toInt)))
/-- `CGE` as a command. -/
def execLoomCge (c : Fin 8) (rd ra rb : Fin 32) (s : State) : Host.Outcome State Fault Refusal := done (loomCge c rd ra rb) s
/-- `CGEU`. -/
def loomCgeu (c : Fin 8) (rd ra rb : Fin 32) : Act :=
  loomRR c rd ra rb (fun a b => flag (decide (b.toNat ≤ a.toNat)))
/-- `CGEU` as a command. -/
def execLoomCgeu (c : Fin 8) (rd ra rb : Fin 32) (s : State) : Host.Outcome State Fault Refusal := done (loomCgeu c rd ra rb) s

/-! ## Immediates (R237) -/

/-- `ADDI`. -/
def loomAddi (c : Fin 8) (rd ra : Fin 32) (imm : BitVec 16) : Act :=
  loomRI c rd ra (fun a => a + imm.signExtend 64)
/-- `ADDI` as a command. -/
def execLoomAddi (c : Fin 8) (rd ra : Fin 32) (imm : BitVec 16) (s : State) : Host.Outcome State Fault Refusal := done (loomAddi c rd ra imm) s
/-- `ANDI`. -/
def loomAndi (c : Fin 8) (rd ra : Fin 32) (imm : BitVec 16) : Act :=
  loomRI c rd ra (fun a => a &&& imm.zeroExtend 64)
/-- `ANDI` as a command. -/
def execLoomAndi (c : Fin 8) (rd ra : Fin 32) (imm : BitVec 16) (s : State) : Host.Outcome State Fault Refusal := done (loomAndi c rd ra imm) s
/-- `ORI`. -/
def loomOri (c : Fin 8) (rd ra : Fin 32) (imm : BitVec 16) : Act :=
  loomRI c rd ra (fun a => a ||| imm.zeroExtend 64)
/-- `ORI` as a command. -/
def execLoomOri (c : Fin 8) (rd ra : Fin 32) (imm : BitVec 16) (s : State) : Host.Outcome State Fault Refusal := done (loomOri c rd ra imm) s
/-- `XORI`. -/
def loomXori (c : Fin 8) (rd ra : Fin 32) (imm : BitVec 16) : Act :=
  loomRI c rd ra (fun a => a ^^^ imm.zeroExtend 64)
/-- `XORI` as a command. -/
def execLoomXori (c : Fin 8) (rd ra : Fin 32) (imm : BitVec 16) (s : State) : Host.Outcome State Fault Refusal := done (loomXori c rd ra imm) s
/-- `CEQI`. -/
def loomCeqi (c : Fin 8) (rd ra : Fin 32) (imm : BitVec 16) : Act :=
  loomRI c rd ra (fun a => flag (a == imm.signExtend 64))
/-- `CEQI` as a command. -/
def execLoomCeqi (c : Fin 8) (rd ra : Fin 32) (imm : BitVec 16) (s : State) : Host.Outcome State Fault Refusal := done (loomCeqi c rd ra imm) s
/-- `CLTI`. -/
def loomClti (c : Fin 8) (rd ra : Fin 32) (imm : BitVec 16) : Act :=
  loomRI c rd ra (fun a => flag (decide (a.toInt < imm.toInt)))
/-- `CLTI` as a command. -/
def execLoomClti (c : Fin 8) (rd ra : Fin 32) (imm : BitVec 16) (s : State) : Host.Outcome State Fault Refusal := done (loomClti c rd ra imm) s
/-- `CLTIU`. -/
def loomCltiu (c : Fin 8) (rd ra : Fin 32) (imm : BitVec 16) : Act :=
  loomRI c rd ra (fun a => flag (decide (a.toNat < (imm.signExtend 64).toNat)))
/-- `CLTIU` as a command. -/
def execLoomCltiu (c : Fin 8) (rd ra : Fin 32) (imm : BitVec 16) (s : State) : Host.Outcome State Fault Refusal := done (loomCltiu c rd ra imm) s

/-- A shift by an immediate count, whose other bits must be zero. -/
def loomShift (op : Nat) (c : Fin 8) (rd ra : Fin 32) (imm : BitVec 16) (f : DWord → Nat → DWord) : Act :=
  loom c fun t x => if 64 ≤ imm.toNat then illegal c t (wordRI op rd ra imm) else finishReg c t rd (f (x.reg ra) imm.toNat)

/-- `SHLI`. -/
def loomShli (c : Fin 8) (rd ra : Fin 32) (imm : BitVec 16) : Act :=
  loomShift 0x08 c rd ra imm fun a n => a <<< n
/-- `SHLI` as a command. -/
def execLoomShli (c : Fin 8) (rd ra : Fin 32) (imm : BitVec 16) (s : State) : Host.Outcome State Fault Refusal := done (loomShli c rd ra imm) s
/-- `SHRI`. -/
def loomShri (c : Fin 8) (rd ra : Fin 32) (imm : BitVec 16) : Act :=
  loomShift 0x09 c rd ra imm fun a n => a >>> n
/-- `SHRI` as a command. -/
def execLoomShri (c : Fin 8) (rd ra : Fin 32) (imm : BitVec 16) (s : State) : Host.Outcome State Fault Refusal := done (loomShri c rd ra imm) s
/-- `SARI`. -/
def loomSari (c : Fin 8) (rd ra : Fin 32) (imm : BitVec 16) : Act :=
  loomShift 0x0A c rd ra imm fun a n => a.sshiftRight n
/-- `SARI` as a command. -/
def execLoomSari (c : Fin 8) (rd ra : Fin 32) (imm : BitVec 16) (s : State) : Host.Outcome State Fault Refusal := done (loomSari c rd ra imm) s
/-- `LUI`: the bits above imm16 are ra, which must be zero. -/
def loomLui (c : Fin 8) (rd : Fin 32) (imm : BitVec 21) : Act :=
  loom c fun t _ =>
    if 2 ^ 16 ≤ imm.toNat then illegal c t (0x0B * 2 ^ 26 + rd * 2 ^ 21 + imm.toNat)
    else finishReg c t rd (BitVec.ofInt 64 (signedOf 32 (imm.toNat * 2 ^ 16)))
/-- `LUI` as a command. -/
def execLoomLui (c : Fin 8) (rd : Fin 32) (imm : BitVec 21) (s : State) : Host.Outcome State Fault Refusal := done (loomLui c rd imm) s

/-! ## Branches and jumps (R243) -/

/-- A branch on a test of ra. -/
def loomBranch (c : Fin 8) (ra : Fin 32) (imm : BitVec 21) (test : Int → Bool) : Act := loom c fun t x =>
  if test (x.reg ra).toInt then jump c t (x.away 21 imm.toNat) id else finish c t id

/-- `BEQZ`. -/
def loomBeqz (c : Fin 8) (ra : Fin 32) (imm : BitVec 21) : Act :=
  loomBranch c ra imm fun v => v == 0
/-- `BEQZ` as a command. -/
def execLoomBeqz (c : Fin 8) (ra : Fin 32) (imm : BitVec 21) (s : State) : Host.Outcome State Fault Refusal := done (loomBeqz c ra imm) s
/-- `BNEZ`. -/
def loomBnez (c : Fin 8) (ra : Fin 32) (imm : BitVec 21) : Act :=
  loomBranch c ra imm fun v => v != 0
/-- `BNEZ` as a command. -/
def execLoomBnez (c : Fin 8) (ra : Fin 32) (imm : BitVec 21) (s : State) : Host.Outcome State Fault Refusal := done (loomBnez c ra imm) s
/-- `BLTZ`. -/
def loomBltz (c : Fin 8) (ra : Fin 32) (imm : BitVec 21) : Act :=
  loomBranch c ra imm fun v => decide (v < 0)
/-- `BLTZ` as a command. -/
def execLoomBltz (c : Fin 8) (ra : Fin 32) (imm : BitVec 21) (s : State) : Host.Outcome State Fault Refusal := done (loomBltz c ra imm) s
/-- `BGEZ`. -/
def loomBgez (c : Fin 8) (ra : Fin 32) (imm : BitVec 21) : Act :=
  loomBranch c ra imm fun v => decide (0 ≤ v)
/-- `BGEZ` as a command. -/
def execLoomBgez (c : Fin 8) (ra : Fin 32) (imm : BitVec 21) (s : State) : Host.Outcome State Fault Refusal := done (loomBgez c ra imm) s
/-- `J`. -/
def loomJ (c : Fin 8) (imm : BitVec 26) : Act :=
  loom c fun t x => jump c t (x.away 26 imm.toNat) id
/-- `J` as a command. -/
def execLoomJ (c : Fin 8) (imm : BitVec 26) (s : State) : Host.Outcome State Fault Refusal := done (loomJ c imm) s
/-- `JAL`. -/
def loomJal (c : Fin 8) (imm : BitVec 26) : Act :=
  loom c fun t x => jump c t (x.away 26 imm.toNat) fun y => y.setReg 31 (x.pc + 4)
/-- `JAL` as a command. -/
def execLoomJal (c : Fin 8) (imm : BitVec 26) (s : State) : Host.Outcome State Fault Refusal := done (loomJal c imm) s
/-- `JALR`. -/
def loomJalr (c : Fin 8) (rd ra : Fin 32) (imm : BitVec 16) : Act :=
  loom c fun t x => jump c t (x.reg ra + imm.signExtend 64) fun y => y.setReg rd (x.pc + 4)
/-- `JALR` as a command. -/
def execLoomJalr (c : Fin 8) (rd ra : Fin 32) (imm : BitVec 16) (s : State) : Host.Outcome State Fault Refusal := done (loomJalr c rd ra imm) s

/-! ## Packed colour lanes (R244) -/

/-- Lane `k` of a register. -/
def lane (v : DWord) (k : Nat) : Nat := bits v.toNat (16 * k + 15) (16 * k)

/-- An operation on every lane of ra, rb and rd. -/
def packed (f : Nat → Nat → Nat → Nat) (a b t : DWord) : DWord :=
  BitVec.ofNat 64 (f (lane a 0) (lane b 0) (lane t 0) % 65536 + f (lane a 1) (lane b 1) (lane t 1) % 65536 * 65536
    + f (lane a 2) (lane b 2) (lane t 2) % 65536 * 4294967296 + f (lane a 3) (lane b 3) (lane t 3) % 65536 * 281474976710656)

/-- A packed instruction. -/
def loomPacked (c : Fin 8) (rd ra rb : Fin 32) (f : Nat → Nat → Nat → Nat) : Act :=
  loom c fun t x => finishReg c t rd (packed f (x.reg ra) (x.reg rb) (x.reg rd))

/-- `PADDS`. -/
def loomPadds (c : Fin 8) (rd ra rb : Fin 32) : Act :=
  loomPacked c rd ra rb fun a b _ => min 65535 (a + b)
/-- `PADDS` as a command. -/
def execLoomPadds (c : Fin 8) (rd ra rb : Fin 32) (s : State) : Host.Outcome State Fault Refusal := done (loomPadds c rd ra rb) s
/-- `PSUBS`. -/
def loomPsubs (c : Fin 8) (rd ra rb : Fin 32) : Act :=
  loomPacked c rd ra rb fun a b _ => a - b
/-- `PSUBS` as a command. -/
def execLoomPsubs (c : Fin 8) (rd ra rb : Fin 32) (s : State) : Host.Outcome State Fault Refusal := done (loomPsubs c rd ra rb) s
/-- `PMUL`. -/
def loomPmul (c : Fin 8) (rd ra rb : Fin 32) : Act :=
  loomPacked c rd ra rb fun a b _ => dv (a * b)
/-- `PMUL` as a command. -/
def execLoomPmul (c : Fin 8) (rd ra rb : Fin 32) (s : State) : Host.Outcome State Fault Refusal := done (loomPmul c rd ra rb) s
/-- `PMULQ`. -/
def loomPmulq (c : Fin 8) (rd ra rb : Fin 32) : Act :=
  loomPacked c rd ra rb fun a b _ => (a * b + 32768) / 2 ^ 16
/-- `PMULQ` as a command. -/
def execLoomPmulq (c : Fin 8) (rd ra rb : Fin 32) (s : State) : Host.Outcome State Fault Refusal := done (loomPmulq c rd ra rb) s
/-- `PMIN`. -/
def loomPmin (c : Fin 8) (rd ra rb : Fin 32) : Act :=
  loomPacked c rd ra rb fun a b _ => min a b
/-- `PMIN` as a command. -/
def execLoomPmin (c : Fin 8) (rd ra rb : Fin 32) (s : State) : Host.Outcome State Fault Refusal := done (loomPmin c rd ra rb) s
/-- `PMAX`. -/
def loomPmax (c : Fin 8) (rd ra rb : Fin 32) : Act :=
  loomPacked c rd ra rb fun a b _ => max a b
/-- `PMAX` as a command. -/
def execLoomPmax (c : Fin 8) (rd ra rb : Fin 32) (s : State) : Host.Outcome State Fault Refusal := done (loomPmax c rd ra rb) s
/-- `PLERP`. -/
def loomPlerp (c : Fin 8) (rd ra rb : Fin 32) : Act :=
  loomPacked c rd ra rb fun a b t => dv (a * (65535 - t) + b * t)
/-- `PLERP` as a command. -/
def execLoomPlerp (c : Fin 8) (rd ra rb : Fin 32) (s : State) : Host.Outcome State Fault Refusal := done (loomPlerp c rd ra rb) s

end Sys2Proof.Machine
end

