-- ==== Sys2Proof/Machine/LoomMem.lean ====
section
/-!
DEFINITION. Loads, stores and the atomic instructions (R238 to R242).
-/

namespace Sys2Proof.Machine

/-- The requester that thread `t` of core `c` is. -/
def threadReq (c t : Nat) : Requester := .thread (Fin.ofNat 8 c) (Fin.ofNat 64 t)

/-- Where an access of `n` bytes goes (R239). -/
inductive Place | regs | ext | stock
  deriving DecidableEq, Repr

/-- Check an access: the trap it raises, or where it goes. An access that R31 covers is recorded. -/
def place (c t ea n : Nat) (isWrite : Bool) (k : Place → Act) : Act := withS fun s =>
  let w := threadReq c t
  if ea % n ≠ 0 then trap c t trapAlign ea
  else if 2 ^ 40 ≤ ea then trap c t trapAccess ea
  else if inRegs ea && !(s.thread c t).sys then trap c t trapAccess ea
  else if s.isUnmapped w ea isWrite then acts [unmapped w ea, trap c t trapAccess ea]
  else if inRegs ea then if n = 8 then trap c t trapAccess ea else k .regs
  else if s.inExt ea then k .ext else k .stock

/-- The value of a load's bytes. -/
def loaded (n : Nat) (isSigned : Bool) (bs : List Byte) : DWord :=
  if isSigned then BitVec.ofInt 64 (signedOf (8 * n) (ofLe bs)) else BitVec.ofNat 64 (ofLe bs)

/-- A load of `n` bytes (R238, R239, R242). -/
def loadAt (c t ea n : Nat) (rd : Fin 32) (isSigned : Bool) : Act :=
  let give (bs : List Byte) : Act := finishReg c t rd (loaded n isSigned bs)
  place c t ea n false fun
    | .regs => acts [busRead (threadReq c t) ea n, withS fun s => give (s.reply.take n)]
    | .ext => cached c ea Core.dcache (fun x k => { x with dcache := k }) (fun bs => give ((bs.drop (ea % 64)).take n))
        (trap c t trapPoison ea)
    | .stock => withMem ea n fun bs poison => if poison then trap c t trapPoison ea else give bs

/-- A store of `n` bytes (R238, R239, R242). The instruction ends before the access is made, so a thread may stop itself. -/
def storeAt (c t ea n : Nat) (v : DWord) : Act :=
  let data := leBytes n v.toNat
  place c t ea n true fun
    | .regs => acts [finish c t id, busWrite (threadReq c t) ea data]
    | .ext => acts [finish c t id, memWriteFor (threadReq c t) ea data,
        updCore c fun x => { x with dcache := x.dcache.store ea data }]
    | .stock => acts [finish c t id, memWriteFor (threadReq c t) ea data]

/-- The effective address of a load or store. -/
def Thread.ea (x : Thread) (ra : Fin 32) (imm : BitVec 16) : Nat := (x.reg ra + imm.signExtend 64).toNat

/-- `LB`. -/
def loomLb (c : Fin 8) (rd ra : Fin 32) (imm : BitVec 16) : Act :=
  loom c fun t x => loadAt c t (x.ea ra imm) 1 rd true
/-- `LB` as a command. -/
def execLoomLb (c : Fin 8) (rd ra : Fin 32) (imm : BitVec 16) (s : State) : Host.Outcome State Fault Refusal := done (loomLb c rd ra imm) s
/-- `LBU`. -/
def loomLbu (c : Fin 8) (rd ra : Fin 32) (imm : BitVec 16) : Act :=
  loom c fun t x => loadAt c t (x.ea ra imm) 1 rd false
/-- `LBU` as a command. -/
def execLoomLbu (c : Fin 8) (rd ra : Fin 32) (imm : BitVec 16) (s : State) : Host.Outcome State Fault Refusal := done (loomLbu c rd ra imm) s
/-- `LH`. -/
def loomLh (c : Fin 8) (rd ra : Fin 32) (imm : BitVec 16) : Act :=
  loom c fun t x => loadAt c t (x.ea ra imm) 2 rd true
/-- `LH` as a command. -/
def execLoomLh (c : Fin 8) (rd ra : Fin 32) (imm : BitVec 16) (s : State) : Host.Outcome State Fault Refusal := done (loomLh c rd ra imm) s
/-- `LHU`. -/
def loomLhu (c : Fin 8) (rd ra : Fin 32) (imm : BitVec 16) : Act :=
  loom c fun t x => loadAt c t (x.ea ra imm) 2 rd false
/-- `LHU` as a command. -/
def execLoomLhu (c : Fin 8) (rd ra : Fin 32) (imm : BitVec 16) (s : State) : Host.Outcome State Fault Refusal := done (loomLhu c rd ra imm) s
/-- `LW`. -/
def loomLw (c : Fin 8) (rd ra : Fin 32) (imm : BitVec 16) : Act :=
  loom c fun t x => loadAt c t (x.ea ra imm) 4 rd true
/-- `LW` as a command. -/
def execLoomLw (c : Fin 8) (rd ra : Fin 32) (imm : BitVec 16) (s : State) : Host.Outcome State Fault Refusal := done (loomLw c rd ra imm) s
/-- `LWU`. -/
def loomLwu (c : Fin 8) (rd ra : Fin 32) (imm : BitVec 16) : Act :=
  loom c fun t x => loadAt c t (x.ea ra imm) 4 rd false
/-- `LWU` as a command. -/
def execLoomLwu (c : Fin 8) (rd ra : Fin 32) (imm : BitVec 16) (s : State) : Host.Outcome State Fault Refusal := done (loomLwu c rd ra imm) s
/-- `LD`. -/
def loomLd (c : Fin 8) (rd ra : Fin 32) (imm : BitVec 16) : Act :=
  loom c fun t x => loadAt c t (x.ea ra imm) 8 rd false
/-- `LD` as a command. -/
def execLoomLd (c : Fin 8) (rd ra : Fin 32) (imm : BitVec 16) (s : State) : Host.Outcome State Fault Refusal := done (loomLd c rd ra imm) s
/-- `SB`. -/
def loomSb (c : Fin 8) (rd ra : Fin 32) (imm : BitVec 16) : Act :=
  loom c fun t x => storeAt c t (x.ea ra imm) 1 (x.reg rd)
/-- `SB` as a command. -/
def execLoomSb (c : Fin 8) (rd ra : Fin 32) (imm : BitVec 16) (s : State) : Host.Outcome State Fault Refusal := done (loomSb c rd ra imm) s
/-- `SH`. -/
def loomSh (c : Fin 8) (rd ra : Fin 32) (imm : BitVec 16) : Act :=
  loom c fun t x => storeAt c t (x.ea ra imm) 2 (x.reg rd)
/-- `SH` as a command. -/
def execLoomSh (c : Fin 8) (rd ra : Fin 32) (imm : BitVec 16) (s : State) : Host.Outcome State Fault Refusal := done (loomSh c rd ra imm) s
/-- `SW`. -/
def loomSw (c : Fin 8) (rd ra : Fin 32) (imm : BitVec 16) : Act :=
  loom c fun t x => storeAt c t (x.ea ra imm) 4 (x.reg rd)
/-- `SW` as a command. -/
def execLoomSw (c : Fin 8) (rd ra : Fin 32) (imm : BitVec 16) (s : State) : Host.Outcome State Fault Refusal := done (loomSw c rd ra imm) s
/-- `SD`. -/
def loomSd (c : Fin 8) (rd ra : Fin 32) (imm : BitVec 16) : Act :=
  loom c fun t x => storeAt c t (x.ea ra imm) 8 (x.reg rd)
/-- `SD` as a command. -/
def execLoomSd (c : Fin 8) (rd ra : Fin 32) (imm : BitVec 16) (s : State) : Host.Outcome State Fault Refusal := done (loomSd c rd ra imm) s

/-! ## Atomic instructions (R240) -/

/-- Check an atomic access: the trap with the lowest code, or its read of 8 bytes of Stockroom. -/
def atomicAt (c t ea : Nat) (k : DWord → Act) : Act := withS fun s =>
  let w := threadReq c t
  if ea % 8 ≠ 0 then trap c t trapAlign ea
  else if 2 ^ 40 ≤ ea then trap c t trapAccess ea
  else if inRegs ea && !(s.thread c t).sys then trap c t trapAccess ea
  else if s.isUnmapped w ea true then acts [unmapped w ea, trap c t trapAccess ea]
  else if !inStock ea then trap c t trapAtomic ea
  else withMem ea 8 fun bs poison => if poison then trap c t trapPoison ea else k (BitVec.ofNat 64 (ofLe bs))

/-- `SWAP`. -/
def loomSwap (c : Fin 8) (rd ra : Fin 32) (imm : BitVec 16) : Act :=
  loom c fun t x => atomicAt c t (x.ea ra imm) fun v => acts [
    finishReg c t rd v, memWriteFor (threadReq c t) (x.ea ra imm) (leBytes 8 (x.reg rd).toNat)]
/-- `SWAP` as a command. -/
def execLoomSwap (c : Fin 8) (rd ra : Fin 32) (imm : BitVec 16) (s : State) : Host.Outcome State Fault Refusal := done (loomSwap c rd ra imm) s

/-- `CAS`. -/
def loomCas (c : Fin 8) (rd ra rb : Fin 32) : Act :=
  loom c fun t x => atomicAt c t (x.reg ra).toNat fun v => acts [
    finishReg c t rd v,
    whenDo (v == x.reg rd) (memWriteFor (threadReq c t) (x.reg ra).toNat (leBytes 8 (x.reg rb).toNat))]
/-- `CAS` as a command. -/
def execLoomCas (c : Fin 8) (rd ra rb : Fin 32) (s : State) : Host.Outcome State Fault Refusal := done (loomCas c rd ra rb) s

end Sys2Proof.Machine
end

