-- ==== Sys2Proof/Machine/LoomSys.lean ====
section
/-!
DEFINITION. The system instructions and the control registers (R245 to R259).
-/

namespace Sys2Proof.Machine

/-- A system instruction: ILLEGAL when a field that must be zero is not (R232). -/
def loomSys (c : Fin 8) (sub : Nat) (rd ra : Fin 32) (low : BitVec 10) (zero : Bool) (body : Nat → Thread → Act) : Act :=
  loom c fun t x => if zero then body t x else illegal c t (wordS sub rd ra low)

/-- The register that bits [9:5] name. -/
def rbOf (low : BitVec 10) : Fin 32 := Fin.ofNat 32 (low.toNat / 32)
/-- Bits [4:0] are zero beside rb. -/
def lowZero (low : BitVec 10) : Bool := low.toNat % 32 == 0

/-! ## Timeline (R247) -/

/-- `NOW`. -/
def loomNow (c : Fin 8) (rd ra : Fin 32) (low : BitVec 10) : Act :=
  loomSys c 0x00 rd ra low (ra == 0 && low == 0) fun t _ => withS fun s => finishReg c t rd (BitVec.ofNat 64 s.ys.pos)
/-- `NOW` as a command. -/
def execLoomNow (c : Fin 8) (rd ra : Fin 32) (low : BitVec 10) (s : State) : Host.Outcome State Fault Refusal := done (loomNow c rd ra low) s

/-- `TICK`. -/
def loomTick (c : Fin 8) (rd ra : Fin 32) (low : BitVec 10) : Act :=
  loomSys c 0x01 rd ra low (ra == 0 && low == 0) fun t _ => withS fun s => finishReg c t rd (BitVec.ofNat 64 s.ys.tick)
/-- `TICK` as a command. -/
def execLoomTick (c : Fin 8) (rd ra : Fin 32) (low : BitVec 10) (s : State) : Host.Outcome State Fault Refusal := done (loomTick c rd ra low) s

/-- `WAITPOS`. -/
def loomWaitpos (c : Fin 8) (rd ra : Fin 32) (low : BitVec 10) : Act :=
  loomSys c 0x02 rd ra low (low == 0) fun t x => withS fun s =>
    if (x.reg ra).toNat ≤ s.ys.pos then answer c t rd .late 0
    else blockOn c t (.position (x.reg ra).toNat rd) none
/-- `WAITPOS` as a command. -/
def execLoomWaitpos (c : Fin 8) (rd ra : Fin 32) (low : BitVec 10) (s : State) : Host.Outcome State Fault Refusal := done (loomWaitpos c rd ra low) s

/-- `ARMAT`. -/
def loomArmat (c : Fin 8) (rd ra : Fin 32) (low : BitVec 10) : Act :=
  loomSys c 0x03 rd ra low (lowZero low) fun t x =>
    let v := (x.reg (rbOf low)).toNat
    if bits v 9 8 != 0 then answer c t rd .badarg 0
    else acts [armAt (bits v 7 0) (x.reg ra).toNat (bits v 63 32) (bits v 31 16) (bits v 15 12) (bits v 11 10),
      withS fun s => finishReg c t rd (BitVec.ofNat 64 (s.rd YS_STATUS_RESULT))]
/-- `ARMAT` as a command. -/
def execLoomArmat (c : Fin 8) (rd ra : Fin 32) (low : BitVec 10) (s : State) : Host.Outcome State Fault Refusal := done (loomArmat c rd ra low) s

/-! ## Scheduling (R248) -/

/-- `YIELD`. -/
def loomYield (c : Fin 8) (rd ra : Fin 32) (low : BitVec 10) : Act :=
  loomSys c 0x04 rd ra low (rd == 0 && ra == 0 && low == 0) fun t _ => acts [finish c t id, yieldNow c t]
/-- `YIELD` as a command. -/
def execLoomYield (c : Fin 8) (rd ra : Fin 32) (low : BitVec 10) (s : State) : Host.Outcome State Fault Refusal := done (loomYield c rd ra low) s

/-- `SLEEP`. -/
def loomSleep (c : Fin 8) (rd ra : Fin 32) (low : BitVec 10) : Act :=
  loomSys c 0x05 rd ra low (low == 0) fun t x => withS fun s =>
    let n := (x.reg ra).toNat
    if 2 ^ 48 ≤ n then answer c t rd .badarg 0
    else if n = 0 then acts [answer c t rd .ok 0, yieldNow c t]
    else blockOn c t (.sleep rd) (some (s.ys.tick + n))
/-- `SLEEP` as a command. -/
def execLoomSleep (c : Fin 8) (rd ra : Fin 32) (low : BitVec 10) (s : State) : Host.Outcome State Fault Refusal := done (loomSleep c rd ra low) s

/-- The signal wake of a thread, which blocks its issuer while the queue is full (R248, R276). -/
def signalThread (c t : Nat) (rd : Fin 32) (tc tt b : Nat) : Act := withS fun s =>
  if (s.core tc).queue.length < 64 && (s.core tc).held.isEmpty then
    acts [pushWake tc (.signal tt b) .source, answer c t rd .ok 0]
  else acts [blockOn c t (.room tc tt b rd) none, pushWake tc (.signal tt b) (.issuer c t)]

/-- `SIGNAL`. -/
def loomSignal (c : Fin 8) (rd ra : Fin 32) (low : BitVec 10) : Act :=
  loomSys c 0x06 rd ra low (lowZero low) fun t x => withS fun s =>
    let b := (x.reg (rbOf low)).toNat
    match readDesignator (x.reg ra).toNat with
    | none => answer c t rd .badarg 0
    | some (tc, tt) =>
      if b = 0 ∨ 2 ^ 16 ≤ b then answer c t rd .badarg 0
      else if !s.coreOn tc then answer c t rd .absent 0
      else signalThread c t rd tc tt b
/-- `SIGNAL` as a command. -/
def execLoomSignal (c : Fin 8) (rd ra : Fin 32) (low : BitVec 10) (s : State) : Host.Outcome State Fault Refusal := done (loomSignal c rd ra low) s

/-- `WAITSIG`. -/
def loomWaitsig (c : Fin 8) (rd ra : Fin 32) (low : BitVec 10) : Act :=
  loomSys c 0x07 rd ra low (low == 0) fun t x =>
    let mask := (x.reg ra).toNat % 2 ^ 16
    if mask = 0 then answer c t rd .badarg 0 else waitFor c t (.signal mask rd) (x.reg ra)
/-- `WAITSIG` as a command. -/
def execLoomWaitsig (c : Fin 8) (rd ra : Fin 32) (low : BitVec 10) (s : State) : Host.Outcome State Fault Refusal := done (loomWaitsig c rd ra low) s

/-- Give a thread a priority: a READY one moves to the tail of its new level, a BLOCKED or SUSPENDED one takes it when it next becomes
READY (R248, R274). -/
def setPriority (c t p : Nat) : Act := withS fun s =>
  let old := (s.thread c t).pri
  let listed := ((s.core c).ready.get [] old).contains t
  if (s.thread c t).st == .blocked || (s.thread c t).st == .suspended then updThread c t fun x => { x with nextPri := some p }
  else acts [
    whenDo listed (updCore c fun k => { k with ready := k.ready.set [] old ((k.ready.get [] old).filter (· ≠ t)) }),
    updThread c t fun x => { x with pri := p },
    whenDo listed (updCore c fun k => { k with ready := k.ready.set [] p (k.ready.get [] p ++ [t]) })]

/-- The caller lowers itself below a ready thread: it yields. -/
def lowered (c t : Nat) : Act := withS fun s => match s.nextReady c with
  | some (p, _) => whenDo (decide ((s.thread c t).pri < p)) (yieldNow c t)
  | none => skip

/-- `SETPRI`. -/
def loomSetpri (c : Fin 8) (rd ra : Fin 32) (low : BitVec 10) : Act :=
  loomSys c 0x0A rd ra low (lowZero low) fun t x => withS fun s =>
    let a := (x.reg ra).toNat
    let p := (x.reg (rbOf low)).toNat
    let target := if bit a 31 then some (c.val, t) else readDesignator a
    if !x.sys && (target != some (c.val, t) || decide (bits x.priMax.toNat 5 0 < p)) then answer c t rd .denied 0
    else if decide (63 < p) || (bit a 31 && a != 2 ^ 31) then answer c t rd .badarg 0
    else match target with
    | none => answer c t rd .badarg 0
    | some (tc, tt) =>
      if !s.coreOn tc then answer c t rd .absent 0
      else if (s.thread tc tt).st == .dormant then answerState c t 0x0A rd
      else acts [setPriority tc tt p, answer c t rd .ok 0, whenDo (tc == c.val && tt == t) (lowered c t)]
/-- `SETPRI` as a command. -/
def execLoomSetpri (c : Fin 8) (rd ra : Fin 32) (low : BitVec 10) (s : State) : Host.Outcome State Fault Refusal := done (loomSetpri c rd ra low) s

/-- `HALT`. -/
def loomHalt (c : Fin 8) (rd ra : Fin 32) (low : BitVec 10) : Act :=
  loomSys c 0x14 rd ra low (rd == 0 && ra == 0 && low == 0) fun t _ => becomeDormant c t
/-- `HALT` as a command. -/
def execLoomHalt (c : Fin 8) (rd ra : Fin 32) (low : BitVec 10) (s : State) : Host.Outcome State Fault Refusal := done (loomHalt c rd ra low) s

/-! ## Mailboxes (R249) -/

/-- `POST`. -/
def loomPost (c : Fin 8) (rd ra : Fin 32) (low : BitVec 10) : Act :=
  loomSys c 0x08 rd ra low (lowZero low) fun t x =>
    let a := (x.reg ra).toNat
    if 2 ^ 4 ≤ a then answer c t rd .badarg 0
    else post (c.val + 2) a t (x.reg (rbOf low)) fun st hit => answer c t rd st (b2n hit * 2 ^ 8)
/-- `POST` as a command. -/
def execLoomPost (c : Fin 8) (rd ra : Fin 32) (low : BitVec 10) (s : State) : Host.Outcome State Fault Refusal := done (loomPost c rd ra low) s

/-- `RECV`. -/
def loomRecv (c : Fin 8) (rd ra : Fin 32) (low : BitVec 10) : Act :=
  loomSys c 0x09 rd ra low (lowZero low) fun t x => withS fun s =>
    let a := (x.reg ra).toNat
    let src := a % 2 ^ 4
    if bits a 15 4 != 0 || decide (12 ≤ src ∧ src < 15) || src == c.val + 2 then answer c t rd .badarg 0
    else if src != 15 && !s.endpointOn src then answer c t rd .absent 0
    else waitFor c t (.mailbox src rd (rbOf low)) (x.reg ra)
/-- `RECV` as a command. -/
def execLoomRecv (c : Fin 8) (rd ra : Fin 32) (low : BitVec 10) (s : State) : Host.Outcome State Fault Refusal := done (loomRecv c rd ra low) s

/-! ## Engines (R250) -/

/-- Mapped memory, without the register space and the tile cache, at 64 bytes. -/
def State.entrySource (s : State) (a : Nat) : Bool :=
  s.extRange a 64 || decide (a + 64 ≤ 0x4C00000) || decide (0x5800000 ≤ a ∧ a + 64 ≤ 0x6000000)

/-- `SUBMIT`. -/
def loomSubmit (c : Fin 8) (rd ra : Fin 32) (low : BitVec 10) : Act :=
  loomSys c 0x0B rd ra low (lowZero low) fun t x => withS fun s =>
    let n := (x.reg ra).toNat
    let a := (x.reg (rbOf low)).toNat
    let r := RingId.engine (Fin.ofNat 16 n)
    let b := ringBase r
    if 15 < n ∨ a % 64 ≠ 0 ∨ !s.entrySource a then answer c t rd .badarg 0
    else if !s.ringUnit r then answer c t rd .absent 0
    else if !s.on (RING_CTRL_ENABLE b) then answerState c t 0x0B rd
    else if s.ringSize b ≤ s.ringCount b then answer c t rd .full 0
    else withMem a 64 fun bs poison =>
      if poison then answer c t rd .corrupt 0
      else acts [ringSubmit (threadReq c t) r bs, answer c t rd .ok (s.rd (RING_TAIL b) * 2 ^ 16)]
/-- `SUBMIT` as a command. -/
def execLoomSubmit (c : Fin 8) (rd ra : Fin 32) (low : BitVec 10) (s : State) : Host.Outcome State Fault Refusal := done (loomSubmit c rd ra low) s

/-- The fence exists (R106, R250, R295, R380, R477). -/
def fenceExists (e f : Nat) : Bool :=
  (e == 0 && decide (f < 9)) || ((e == 2 || e == 3) && decide (f < 4)) || ((e == 4 || e == 5) && f == 0)
/-- The engine is enabled: the host ports and Ledger always are. -/
def State.engineOn (s : State) (e : Nat) : Bool := if e = 0 then s.has .draper else if e = 5 then s.has .shuttle else true

/-- `FENCE`. -/
def loomFence (c : Fin 8) (rd ra : Fin 32) (low : BitVec 10) : Act :=
  loomSys c 0x0C rd ra low (lowZero low) fun t x => withS fun s =>
    let e := bits (x.reg ra).toNat 15 8
    let f := bits (x.reg ra).toNat 7 0
    let v := (x.reg (rbOf low)).toNat
    if !fenceExists e f || decide (2 ^ 32 ≤ v) then answer c t rd .badarg 0
    else if !s.engineOn e then answer c t rd .absent 0
    else waitFor c t (.fence e f v rd) (x.reg ra)
/-- `FENCE` as a command. -/
def execLoomFence (c : Fin 8) (rd ra : Fin 32) (low : BitVec 10) (s : State) : Host.Outcome State Fault Refusal := done (loomFence c rd ra low) s

/-- `RELEASE` (R107). -/
def loomRelease (c : Fin 8) (rd ra : Fin 32) (low : BitVec 10) : Act :=
  loomSys c 0x0D rd ra low (low == 0) fun t x => withS fun s =>
    let st := s.releaseStatus (x.reg ra).toNat
    acts [drRelease (x.reg ra).toNat, withS fun s =>
      answer c t rd st (if st == .ok || st == .fenced then s.rd DR_REL_SEQ * 2 ^ 32 else 0)]
/-- `RELEASE` as a command. -/
def execLoomRelease (c : Fin 8) (rd ra : Fin 32) (low : BitVec 10) (s : State) : Host.Outcome State Fault Refusal := done (loomRelease c rd ra low) s

/-- `ENGSTAT`. -/
def loomEngstat (c : Fin 8) (rd ra : Fin 32) (low : BitVec 10) : Act :=
  loomSys c 0x0E rd ra low (low == 0) fun t x => withS fun s =>
    let n := (x.reg ra).toNat
    let r := RingId.engine (Fin.ofNat 16 n)
    let b := ringBase r
    if 15 < n then answer c t rd .badarg 0
    else if !s.ringRegs r then answer c t rd .ok 0
    else answer c t rd .ok (s.rd (RING_HEAD b) * 2 ^ 48 + s.rd (RING_TAIL b) * 2 ^ 32 + s.rd (RING_CTRL_LOG2SIZE b) * 2 ^ 28
      + s.rd (RING_CTRL_ENABLE b) * 2 ^ 27 + 2 ^ 26)
/-- `ENGSTAT` as a command. -/
def execLoomEngstat (c : Fin 8) (rd ra : Fin 32) (low : BitVec 10) (s : State) : Host.Outcome State Fault Refusal := done (loomEngstat c rd ra low) s

/-! ## Control registers (R251, R258, R259) -/

/-- The value of a control register; none for a number that is not defined. -/
def State.csr (s : State) (c t : Nat) (n : Nat) : Option DWord :=
  let x := s.thread c t
  match n with
  | 0x000 => some (BitVec.ofNat 64 (x.gen * 2 ^ 32 + c * 2 ^ 16 + t * 2 ^ 8))
  | 0x001 => some (BitVec.ofNat 64 (b2n x.intrap * 2 + b2n x.sys))
  | 0x002 => some x.tvec
  | 0x003 => some x.epc
  | 0x004 => some x.ecause
  | 0x005 => some x.eaddr
  | 0x006 => some x.escratch
  | 0x007 => some x.priMax
  | 0x008 => some (BitVec.ofNat 64 x.sigpend)
  | 0x010 => some (BitVec.ofNat 64 ((s.now - s.fm.resetAt) * 8 / 5))
  | 0x011 => some x.retired
  | 0x020 | 0x021 | 0x022 => some 0
  | _ => none

/-- `CSRR`. -/
def loomCsrr (c : Fin 8) (rd ra : Fin 32) (low : BitVec 10) : Act :=
  loomSys c 0x0F rd ra low (ra == 0) fun t _ => withS fun s =>
    match s.csr c t low.toNat with
    | none => illegal c t (wordS 0x0F rd ra low)
    | some v => finishReg c t rd v
/-- `CSRR` as a command. -/
def execLoomCsrr (c : Fin 8) (rd ra : Fin 32) (low : BitVec 10) (s : State) : Host.Outcome State Fault Refusal := done (loomCsrr c rd ra low) s

/-- The value may be written: its reserved fields are zero. -/
def csrFits (n v : Nat) : Bool := match n with
  | 0x002 => v / 2 ^ 40 == 0 && v % 4 == 0
  | 0x004 => v / 2 ^ 17 == 0 && bits v 15 8 == 0
  | 0x007 => v / 2 ^ 6 == 0
  | _ => true

/-- What a write of a control register does. -/
def csrWrite (c t n : Nat) (v : DWord) : Act := match n with
  | 0x002 => updThread c t fun x => { x with tvec := v }
  | 0x003 => updThread c t fun x => { x with epc := v }
  | 0x004 => updThread c t fun x => { x with ecause := v }
  | 0x005 => updThread c t fun x => { x with eaddr := v }
  | 0x006 => updThread c t fun x => { x with escratch := v }
  | 0x007 => updThread c t fun x => { x with priMax := v }
  | 0x020 => updCore c fun k => { k with dcache := k.dcache.drop v.toNat }
  | 0x021 => updCore c fun k => { k with dcache := {} }
  | 0x022 => updCore c fun k => { k with icache := {} }
  | _ => skip

/-- `CSRW`. -/
def loomCsrw (c : Fin 8) (rd ra : Fin 32) (low : BitVec 10) : Act :=
  loomSys c 0x10 rd ra low true fun t x => withS fun s =>
    let n := low.toNat
    let v := x.reg ra
    if (s.csr c t n).isNone then illegal c t (wordS 0x10 rd ra low)
    else if decide (2 ≤ n ∧ n ≤ 7) && !x.sys then answer c t rd .denied 0
    else if n < 2 ∨ n = 8 ∨ n = 0x10 ∨ n = 0x11 ∨ !csrFits n v.toNat then answer c t rd .badarg 0
    else acts [csrWrite c t n v, answer c t rd .ok 0]
/-- `CSRW` as a command. -/
def execLoomCsrw (c : Fin 8) (rd ra : Fin 32) (low : BitVec 10) (s : State) : Host.Outcome State Fault Refusal := done (loomCsrw c rd ra low) s

/-- `LOG` (R462). -/
def loomLog (c : Fin 8) (rd ra : Fin 32) (low : BitVec 10) : Act :=
  loomSys c 0x11 rd ra low (lowZero low) fun t x =>
    let a := (x.reg ra).toNat
    let b := (x.reg (rbOf low)).toNat
    let cls := bits a 31 28
    let sev := bits a 7 0
    if cls == 0xF || (!x.sys && cls != 0xD && cls != 0xE) then answer c t rd .denied 0
    else if a / 2 ^ 32 != 0 || bits a 15 8 != 0 || b / 2 ^ 32 != 0 || sev == 0 || decide (4 < sev) then answer c t rd .badarg 0
    else acts [ledger (bits a 31 16) (.chandler c) sev b, answer c t rd .ok 0]
/-- `LOG` as a command. -/
def execLoomLog (c : Fin 8) (rd ra : Fin 32) (low : BitVec 10) (s : State) : Host.Outcome State Fault Refusal := done (loomLog c rd ra low) s

/-- `TRAP`. -/
def loomTrap (c : Fin 8) (rd ra : Fin 32) (low : BitVec 10) : Act :=
  loomSys c 0x12 rd ra low (rd == 0 && ra == 0) fun t _ => trap c t trapSoft low.toNat
/-- `TRAP` as a command. -/
def execLoomTrap (c : Fin 8) (rd ra : Fin 32) (low : BitVec 10) (s : State) : Host.Outcome State Fault Refusal := done (loomTrap c rd ra low) s

/-- `ERET` (R253, R257). -/
def loomEret (c : Fin 8) (rd ra : Fin 32) (low : BitVec 10) : Act :=
  loomSys c 0x13 rd ra low (rd == 0 && ra == 0 && low == 0 ) fun t x =>
    if !x.intrap then illegal c t (wordS 0x13 rd ra low)
    else if !x.sys then trap c t trapPriv (wordS 0x13 rd ra low)
    else updThread c t fun x =>
      { x with pc := x.epc, sys := bit x.ecause.toNat 16, intrap := false, retired := x.retired + 1 }
/-- `ERET` as a command. -/
def execLoomEret (c : Fin 8) (rd ra : Fin 32) (low : BitVec 10) (s : State) : Host.Outcome State Fault Refusal := done (loomEret c rd ra low) s

end Sys2Proof.Machine
end

