-- ==== Sys2Proof/Machine/Dispatch.lean ====
section
/-!
DEFINITION. The meaning of every command, one arm per constructor.
-/

namespace Sys2Proof.Machine

/-- What a command does to everything but the queue. -/
def exec (i : Instr) (s : State) : Host.Outcome State Fault Refusal :=
  match i with
  | .powerOnReset env => Sys2Proof.Machine.execPowerOnReset env s
  | .warmReset causes => Sys2Proof.Machine.execWarmReset causes s
  | .bootRomStart env => Sys2Proof.Machine.execBootRomStart env s
  | .btStepStarted w step => Sys2Proof.Machine.execBtStepStarted w step s
  | .btStepDone w step => Sys2Proof.Machine.execBtStepDone w step s
  | .btStepFailed w step => Sys2Proof.Machine.execBtStepFailed w step s
  | .stepTimeout step => Sys2Proof.Machine.execStepTimeout step s
  | .btRerun w v => Sys2Proof.Machine.execBtRerun w v s
  | .btHostbootGo w v => Sys2Proof.Machine.execBtHostbootGo w v s
  | .btConfirm w v => Sys2Proof.Machine.execBtConfirm w v s
  | .btSvnAdvance w v => Sys2Proof.Machine.execBtSvnAdvance w v s
  | .btProvProgram w v => Sys2Proof.Machine.execBtProvProgram w v s
  | .btUcodeGo w v => Sys2Proof.Machine.execBtUcodeGo w v s
  | .ucodeLoadDone => Sys2Proof.Machine.execUcodeLoadDone s
  | .dbgNonceRead w => Sys2Proof.Machine.execDbgNonceRead w s
  | .dbgSubmit w v => Sys2Proof.Machine.execDbgSubmit w v s
  | .tamperReading sensor outside => Sys2Proof.Machine.execTamperReading sensor outside s
  | .tapInstruction t => Sys2Proof.Machine.execTapInstruction t s
  | .registerWrite w addr size v => Sys2Proof.Machine.execRegisterWrite w addr size v s
  | .rcRegisterRead w addr size => Sys2Proof.Machine.execRcRegisterRead w addr size s
  | .loWordReadLatch w addr => Sys2Proof.Machine.execLoWordReadLatch w addr s
  | .unmappedAccess w addr isWrite => Sys2Proof.Machine.execUnmappedAccess w addr isWrite s
  | .sysCommit w v => Sys2Proof.Machine.execSysCommit w v s
  | .sysNextcfgWrite w v => Sys2Proof.Machine.execSysNextcfgWrite w v s
  | .frameBoundary => Sys2Proof.Machine.execFrameBoundary s
  | .ysCommit w v => Sys2Proof.Machine.execYsCommit w v s
  | .ysGo w v => Sys2Proof.Machine.execYsGo w v s
  | .referenceEvent ev => Sys2Proof.Machine.execReferenceEvent ev s
  | .expectedEventMissing src => Sys2Proof.Machine.execExpectedEventMissing src s
  | .tickMsSave => Sys2Proof.Machine.execTickMsSave s
  | .slotArm w slot v => Sys2Proof.Machine.execSlotArm w slot v s
  | .slotDisarm w slot v => Sys2Proof.Machine.execSlotDisarm w slot v s
  | .slotFire slot => Sys2Proof.Machine.execSlotFire slot s
  | .trigActionTakeUp slot => Sys2Proof.Machine.execTrigActionTakeUp slot s
  | .trigOutputChange out => Sys2Proof.Machine.execTrigOutputChange out s
  | .trigPulseEnd out => Sys2Proof.Machine.execTrigPulseEnd out s
  | .trigDisable w out v => Sys2Proof.Machine.execTrigDisable w out v s
  | .captureEdge input rising eighths => Sys2Proof.Machine.execCaptureEdge input rising eighths s
  | .drCommit w v => Sys2Proof.Machine.execDrCommit w v s
  | .ringTailWrite w ring v => Sys2Proof.Machine.execRingTailWrite w ring v s
  | .ringEnable w ring v => Sys2Proof.Machine.execRingEnable w ring v s
  | .ringReset w ring v => Sys2Proof.Machine.execRingReset w ring v s
  | .compositionStart canvas => Sys2Proof.Machine.execCompositionStart canvas s
  | .compositionEnd canvas => Sys2Proof.Machine.execCompositionEnd canvas s
  | .readsReturned canvas => Sys2Proof.Machine.execReadsReturned canvas s
  | .ingestEnable w stream v => Sys2Proof.Machine.execIngestEnable w stream v s
  | .tlCommit w v => Sys2Proof.Machine.execTlCommit w v s
  | .swatchCopyDone => Sys2Proof.Machine.execSwatchCopyDone s
  | .scanoutPixel canvas x y dest => Sys2Proof.Machine.execScanoutPixel canvas x y dest s
  | .tempSourceStale g => Sys2Proof.Machine.execTempSourceStale g s
  | .purseRecomputeDone => Sys2Proof.Machine.execPurseRecomputeDone s
  | .tdEnd t ckr => Sys2Proof.Machine.execTdEnd t ckr s
  | .tdEmit t ckr ctl lv phased n => Sys2Proof.Machine.execTdEmit t ckr ctl lv phased n s
  | .tdShift t auto data cnt n => Sys2Proof.Machine.execTdShift t auto data cnt n s
  | .tdLatch t ckr width => Sys2Proof.Machine.execTdLatch t ckr width s
  | .tdRow t src cnt guard line => Sys2Proof.Machine.execTdRow t src cnt guard line s
  | .tdWait t ckr plane oe n => Sys2Proof.Machine.execTdWait t ckr plane oe n s
  | .tdLoop t c nsrc target n => Sys2Proof.Machine.execTdLoop t c nsrc target n s
  | .tdDetect t rets => Sys2Proof.Machine.execTdDetect t rets s
  | .tdSubf t => Sys2Proof.Machine.execTdSubf t s
  | .tdCommit w t v => Sys2Proof.Machine.execTdCommit w t v s
  | .tdApplyLine t => Sys2Proof.Machine.execTdApplyLine t s
  | .chDiscReq w port v => Sys2Proof.Machine.execChDiscReq w port v s
  | .absentPortRediscover port => Sys2Proof.Machine.execAbsentPortRediscover port s
  | .discoveryEnd port ret => Sys2Proof.Machine.execDiscoveryEnd port ret s
  | .thimblePublish e => Sys2Proof.Machine.execThimblePublish e s
  | .tbEnd e => Sys2Proof.Machine.execTbEnd e s
  | .tbNext e => Sys2Proof.Machine.execTbNext e s
  | .tbLdi e d imm => Sys2Proof.Machine.execTbLdi e d imm s
  | .tbShl8 e d imm => Sys2Proof.Machine.execTbShl8 e d imm s
  | .tbMov e d a => Sys2Proof.Machine.execTbMov e d a s
  | .tbAdd e d a b => Sys2Proof.Machine.execTbAdd e d a b s
  | .tbSub e d a b => Sys2Proof.Machine.execTbSub e d a b s
  | .tbMul e d a b => Sys2Proof.Machine.execTbMul e d a b s
  | .tbMin e d a b => Sys2Proof.Machine.execTbMin e d a b s
  | .tbMax e d a b => Sys2Proof.Machine.execTbMax e d a b s
  | .tbWave e d a kind => Sys2Proof.Machine.execTbWave e d a kind s
  | .tbNoise e d => Sys2Proof.Machine.execTbNoise e d s
  | .tbEach e k => Sys2Proof.Machine.execTbEach e k s
  | .tbOut e k a => Sys2Proof.Machine.execTbOut e k a s
  | .tbBnz e a disp => Sys2Proof.Machine.execTbBnz e a disp s
  | .tbBneg e a disp => Sys2Proof.Machine.execTbBneg e a disp s
  | .tbStart w e v => Sys2Proof.Machine.execTbStart w e v s
  | .tbStop w e v => Sys2Proof.Machine.execTbStop w e v s
  | .tbCommit w e v => Sys2Proof.Machine.execTbCommit w e v s
  | .tbLoad w e v => Sys2Proof.Machine.execTbLoad w e v s
  | .tbLoadDone e => Sys2Proof.Machine.execTbLoadDone e s
  | .tbSeedWrite w e v => Sys2Proof.Machine.execTbSeedWrite w e v s
  | .llAssemblyComplete => Sys2Proof.Machine.execLlAssemblyComplete s
  | .e131DataHandoff row mac => Sys2Proof.Machine.execE131DataHandoff row mac s
  | .e131Keepalive row => Sys2Proof.Machine.execE131Keepalive row s
  | .e131DiscoverySend => Sys2Proof.Machine.execE131DiscoverySend s
  | .llCommit w v => Sys2Proof.Machine.execLlCommit w v s
  | .llCopyDone => Sys2Proof.Machine.execLlCopyDone s
  | .llIdataAccess w isWrite v => Sys2Proof.Machine.execLlIdataAccess w isWrite v s
  | .inputSourceTimeout row src => Sys2Proof.Machine.execInputSourceTimeout row src s
  | .dmxOutputPacket port => Sys2Proof.Machine.execDmxOutputPacket port s
  | .dmxInputPacket port startCode slots framing => Sys2Proof.Machine.execDmxInputPacket port startCode slots framing s
  | .rdmTransactionStart port => Sys2Proof.Machine.execRdmTransactionStart port s
  | .rdmResponse port resp => Sys2Proof.Machine.execRdmResponse port resp s
  | .rdmTimeout port => Sys2Proof.Machine.execRdmTimeout port s
  | .rdmSweep port => Sys2Proof.Machine.execRdmSweep port s
  | .dmxRdmDisc w port v => Sys2Proof.Machine.execDmxRdmDisc w port v s
  | .loomAdd c rd ra rb => Sys2Proof.Machine.execLoomAdd c rd ra rb s
  | .loomSub c rd ra rb => Sys2Proof.Machine.execLoomSub c rd ra rb s
  | .loomAnd c rd ra rb => Sys2Proof.Machine.execLoomAnd c rd ra rb s
  | .loomOr c rd ra rb => Sys2Proof.Machine.execLoomOr c rd ra rb s
  | .loomXor c rd ra rb => Sys2Proof.Machine.execLoomXor c rd ra rb s
  | .loomShl c rd ra rb => Sys2Proof.Machine.execLoomShl c rd ra rb s
  | .loomShr c rd ra rb => Sys2Proof.Machine.execLoomShr c rd ra rb s
  | .loomSar c rd ra rb => Sys2Proof.Machine.execLoomSar c rd ra rb s
  | .loomMin c rd ra rb => Sys2Proof.Machine.execLoomMin c rd ra rb s
  | .loomMax c rd ra rb => Sys2Proof.Machine.execLoomMax c rd ra rb s
  | .loomMinu c rd ra rb => Sys2Proof.Machine.execLoomMinu c rd ra rb s
  | .loomMaxu c rd ra rb => Sys2Proof.Machine.execLoomMaxu c rd ra rb s
  | .loomMul c rd ra rb => Sys2Proof.Machine.execLoomMul c rd ra rb s
  | .loomMulh c rd ra rb => Sys2Proof.Machine.execLoomMulh c rd ra rb s
  | .loomMulhu c rd ra rb => Sys2Proof.Machine.execLoomMulhu c rd ra rb s
  | .loomDiv c rd ra rb => Sys2Proof.Machine.execLoomDiv c rd ra rb s
  | .loomDivu c rd ra rb => Sys2Proof.Machine.execLoomDivu c rd ra rb s
  | .loomRem c rd ra rb => Sys2Proof.Machine.execLoomRem c rd ra rb s
  | .loomRemu c rd ra rb => Sys2Proof.Machine.execLoomRemu c rd ra rb s
  | .loomCeq c rd ra rb => Sys2Proof.Machine.execLoomCeq c rd ra rb s
  | .loomCne c rd ra rb => Sys2Proof.Machine.execLoomCne c rd ra rb s
  | .loomClt c rd ra rb => Sys2Proof.Machine.execLoomClt c rd ra rb s
  | .loomCltu c rd ra rb => Sys2Proof.Machine.execLoomCltu c rd ra rb s
  | .loomCge c rd ra rb => Sys2Proof.Machine.execLoomCge c rd ra rb s
  | .loomCgeu c rd ra rb => Sys2Proof.Machine.execLoomCgeu c rd ra rb s
  | .loomAddi c rd ra imm => Sys2Proof.Machine.execLoomAddi c rd ra imm s
  | .loomAndi c rd ra imm => Sys2Proof.Machine.execLoomAndi c rd ra imm s
  | .loomOri c rd ra imm => Sys2Proof.Machine.execLoomOri c rd ra imm s
  | .loomXori c rd ra imm => Sys2Proof.Machine.execLoomXori c rd ra imm s
  | .loomShli c rd ra imm => Sys2Proof.Machine.execLoomShli c rd ra imm s
  | .loomShri c rd ra imm => Sys2Proof.Machine.execLoomShri c rd ra imm s
  | .loomSari c rd ra imm => Sys2Proof.Machine.execLoomSari c rd ra imm s
  | .loomLui c rd imm => Sys2Proof.Machine.execLoomLui c rd imm s
  | .loomCeqi c rd ra imm => Sys2Proof.Machine.execLoomCeqi c rd ra imm s
  | .loomClti c rd ra imm => Sys2Proof.Machine.execLoomClti c rd ra imm s
  | .loomCltiu c rd ra imm => Sys2Proof.Machine.execLoomCltiu c rd ra imm s
  | .loomLb c rd ra imm => Sys2Proof.Machine.execLoomLb c rd ra imm s
  | .loomLbu c rd ra imm => Sys2Proof.Machine.execLoomLbu c rd ra imm s
  | .loomLh c rd ra imm => Sys2Proof.Machine.execLoomLh c rd ra imm s
  | .loomLhu c rd ra imm => Sys2Proof.Machine.execLoomLhu c rd ra imm s
  | .loomLw c rd ra imm => Sys2Proof.Machine.execLoomLw c rd ra imm s
  | .loomLwu c rd ra imm => Sys2Proof.Machine.execLoomLwu c rd ra imm s
  | .loomLd c rd ra imm => Sys2Proof.Machine.execLoomLd c rd ra imm s
  | .loomSb c rd ra imm => Sys2Proof.Machine.execLoomSb c rd ra imm s
  | .loomSh c rd ra imm => Sys2Proof.Machine.execLoomSh c rd ra imm s
  | .loomSw c rd ra imm => Sys2Proof.Machine.execLoomSw c rd ra imm s
  | .loomSd c rd ra imm => Sys2Proof.Machine.execLoomSd c rd ra imm s
  | .loomSwap c rd ra imm => Sys2Proof.Machine.execLoomSwap c rd ra imm s
  | .loomCas c rd ra rb => Sys2Proof.Machine.execLoomCas c rd ra rb s
  | .loomBeqz c ra imm => Sys2Proof.Machine.execLoomBeqz c ra imm s
  | .loomBnez c ra imm => Sys2Proof.Machine.execLoomBnez c ra imm s
  | .loomBltz c ra imm => Sys2Proof.Machine.execLoomBltz c ra imm s
  | .loomBgez c ra imm => Sys2Proof.Machine.execLoomBgez c ra imm s
  | .loomJ c imm => Sys2Proof.Machine.execLoomJ c imm s
  | .loomJal c imm => Sys2Proof.Machine.execLoomJal c imm s
  | .loomJalr c rd ra imm => Sys2Proof.Machine.execLoomJalr c rd ra imm s
  | .loomPadds c rd ra rb => Sys2Proof.Machine.execLoomPadds c rd ra rb s
  | .loomPsubs c rd ra rb => Sys2Proof.Machine.execLoomPsubs c rd ra rb s
  | .loomPmul c rd ra rb => Sys2Proof.Machine.execLoomPmul c rd ra rb s
  | .loomPmulq c rd ra rb => Sys2Proof.Machine.execLoomPmulq c rd ra rb s
  | .loomPmin c rd ra rb => Sys2Proof.Machine.execLoomPmin c rd ra rb s
  | .loomPmax c rd ra rb => Sys2Proof.Machine.execLoomPmax c rd ra rb s
  | .loomPlerp c rd ra rb => Sys2Proof.Machine.execLoomPlerp c rd ra rb s
  | .loomNow c rd ra low => Sys2Proof.Machine.execLoomNow c rd ra low s
  | .loomTick c rd ra low => Sys2Proof.Machine.execLoomTick c rd ra low s
  | .loomWaitpos c rd ra low => Sys2Proof.Machine.execLoomWaitpos c rd ra low s
  | .loomArmat c rd ra low => Sys2Proof.Machine.execLoomArmat c rd ra low s
  | .loomYield c rd ra low => Sys2Proof.Machine.execLoomYield c rd ra low s
  | .loomSleep c rd ra low => Sys2Proof.Machine.execLoomSleep c rd ra low s
  | .loomSignal c rd ra low => Sys2Proof.Machine.execLoomSignal c rd ra low s
  | .loomWaitsig c rd ra low => Sys2Proof.Machine.execLoomWaitsig c rd ra low s
  | .loomPost c rd ra low => Sys2Proof.Machine.execLoomPost c rd ra low s
  | .loomRecv c rd ra low => Sys2Proof.Machine.execLoomRecv c rd ra low s
  | .loomSetpri c rd ra low => Sys2Proof.Machine.execLoomSetpri c rd ra low s
  | .loomSubmit c rd ra low => Sys2Proof.Machine.execLoomSubmit c rd ra low s
  | .loomFence c rd ra low => Sys2Proof.Machine.execLoomFence c rd ra low s
  | .loomRelease c rd ra low => Sys2Proof.Machine.execLoomRelease c rd ra low s
  | .loomEngstat c rd ra low => Sys2Proof.Machine.execLoomEngstat c rd ra low s
  | .loomCsrr c rd ra low => Sys2Proof.Machine.execLoomCsrr c rd ra low s
  | .loomCsrw c rd ra low => Sys2Proof.Machine.execLoomCsrw c rd ra low s
  | .loomLog c rd ra low => Sys2Proof.Machine.execLoomLog c rd ra low s
  | .loomTrap c rd ra low => Sys2Proof.Machine.execLoomTrap c rd ra low s
  | .loomEret c rd ra low => Sys2Proof.Machine.execLoomEret c rd ra low s
  | .loomHalt c rd ra low => Sys2Proof.Machine.execLoomHalt c rd ra low s
  | .fmStart w v => Sys2Proof.Machine.execFmStart w v s
  | .fmKill w v => Sys2Proof.Machine.execFmKill w v s
  | .fmSuspend w v => Sys2Proof.Machine.execFmSuspend w v s
  | .fmResume w v => Sys2Proof.Machine.execFmResume w v s
  | .contextAreaWrite w addr data => Sys2Proof.Machine.execContextAreaWrite w addr data s
  | .threadDispatch core => Sys2Proof.Machine.execThreadDispatch core s
  | .contextSwitchDone core => Sys2Proof.Machine.execContextSwitchDone core s
  | .wakeEntryTake core => Sys2Proof.Machine.execWakeEntryTake core s
  | .heldWakeAdmit core => Sys2Proof.Machine.execHeldWakeAdmit core s
  | .timerCheck => Sys2Proof.Machine.execTimerCheck s
  | .positionComparatorMatch core t => Sys2Proof.Machine.execPositionComparatorMatch core t s
  | .corePowerDown core => Sys2Proof.Machine.execCorePowerDown core s
  | .corePowerUp core => Sys2Proof.Machine.execCorePowerUp core s
  | .foremanWindowEnd => Sys2Proof.Machine.execForemanWindowEnd s
  | .wdogKick w v => Sys2Proof.Machine.execWdogKick w v s
  | .wdogWarn => Sys2Proof.Machine.execWdogWarn s
  | .wdogBite => Sys2Proof.Machine.execWdogBite s
  | .hostLinkUp port speed width => Sys2Proof.Machine.execHostLinkUp port speed width s
  | .hostPortReset port kind moved => Sys2Proof.Machine.execHostPortReset port kind moved s
  | .bar0Access port off isWrite data len => Sys2Proof.Machine.execBar0Access port off isWrite data len s
  | .xspiRead port addr len => Sys2Proof.Machine.execXspiRead port addr len s
  | .xspiWrite port addr data => Sys2Proof.Machine.execXspiWrite port addr data s
  | .xspiStream port data => Sys2Proof.Machine.execXspiStream port data s
  | .xspiStatus port => Sys2Proof.Machine.execXspiStatus port s
  | .xspiId port => Sys2Proof.Machine.execXspiId port s
  | .xspiPortReset port => Sys2Proof.Machine.execXspiPortReset port s
  | .enter8d port => Sys2Proof.Machine.execEnter8d port s
  | .exit8d port => Sys2Proof.Machine.execExit8d port s
  | .xspiInvalidOpcode port op => Sys2Proof.Machine.execXspiInvalidOpcode port op s
  | .xspiReadTimeout port len => Sys2Proof.Machine.execXspiReadTimeout port len s
  | .dmaEntryComplete port ring host => Sys2Proof.Machine.execDmaEntryComplete port ring host s
  | .dmaHostTimeout port ring host => Sys2Proof.Machine.execDmaHostTimeout port ring host s
  | .haspAcquire w n => Sys2Proof.Machine.execHaspAcquire w n s
  | .haspRelease w n v => Sys2Proof.Machine.execHaspRelease w n v s
  | .mbHostPost port d v => Sys2Proof.Machine.execMbHostPost port d v s
  | .mbHostTake port sender => Sys2Proof.Machine.execMbHostTake port sender s
  | .ping ep tag arg => Sys2Proof.Machine.execPing ep tag arg s
  | .info ep tag arg => Sys2Proof.Machine.execInfo ep tag arg s
  | .haspAcq ep tag arg => Sys2Proof.Machine.execHaspAcq ep tag arg s
  | .haspRel ep tag arg => Sys2Proof.Machine.execHaspRel ep tag arg s
  | .serviceReset ep tag arg => Sys2Proof.Machine.execServiceReset ep tag arg s
  | .updateOpen ep tag arg => Sys2Proof.Machine.execUpdateOpen ep tag arg s
  | .updateWrite ep tag arg => Sys2Proof.Machine.execUpdateWrite ep tag arg s
  | .updateClose ep tag arg => Sys2Proof.Machine.execUpdateClose ep tag arg s
  | .serviceUnknownOp ep op tag arg => Sys2Proof.Machine.execServiceUnknownOp ep op tag arg s
  | .bobbinByteArrive n b => Sys2Proof.Machine.execBobbinByteArrive n b s
  | .bobbinRead w n => Sys2Proof.Machine.execBobbinRead w n s
  | .bobbinStaleNotice n => Sys2Proof.Machine.execBobbinStaleNotice n s
  | .xnAccess w addr size isWrite v => Sys2Proof.Machine.execXnAccess w addr size isWrite v s
  | .xnEnable w v => Sys2Proof.Machine.execXnEnable w v s
  | .xnDisable w v => Sys2Proof.Machine.execXnDisable w v s
  | .macLinkUp n => Sys2Proof.Machine.execMacLinkUp n s
  | .macLinkDown n => Sys2Proof.Machine.execMacLinkDown n s
  | .ethFrameReceive n frame => Sys2Proof.Machine.execEthFrameReceive n frame s
  | .arpRetry n => Sys2Proof.Machine.execArpRetry n s
  | .ethTxEntryComplete n ring => Sys2Proof.Machine.execEthTxEntryComplete n ring s
  | .bridgeAgeing index => Sys2Proof.Machine.execBridgeAgeing index s
  | .brTableRead w v => Sys2Proof.Machine.execBrTableRead w v s
  | .brTableWrite w v => Sys2Proof.Machine.execBrTableWrite w v s
  | .brTableDelete w v => Sys2Proof.Machine.execBrTableDelete w v s
  | .counterSnapshot w v => Sys2Proof.Machine.execCounterSnapshot w v s
  | .ptpDelayReq => Sys2Proof.Machine.execPtpDelayReq s
  | .tsqRead w n => Sys2Proof.Machine.execTsqRead w n s
  | .weftFrameSend stream => Sys2Proof.Machine.execWeftFrameSend stream s
  | .wfCommit w v => Sys2Proof.Machine.execWfCommit w v s
  | .previewFrameSend => Sys2Proof.Machine.execPreviewFrameSend s
  | .musterAnnounce n => Sys2Proof.Machine.execMusterAnnounce n s
  | .musterWithdraw n => Sys2Proof.Machine.execMusterWithdraw n s
  | .musterPartnerTimeout n => Sys2Proof.Machine.execMusterPartnerTimeout n s
  | .shuttleLinkChange link up => Sys2Proof.Machine.execShuttleLinkChange link up s
  | .shuttleFrameDrop link => Sys2Proof.Machine.execShuttleFrameDrop link s
  | .beacon link seq b => Sys2Proof.Machine.execBeacon link seq b s
  | .delayReq link seq => Sys2Proof.Machine.execDelayReq link seq s
  | .delayResp link seq t => Sys2Proof.Machine.execDelayResp link seq t s
  | .linkDelayMeasure => Sys2Proof.Machine.execLinkDelayMeasure s
  | .enumFrame link seq f => Sys2Proof.Machine.execEnumFrame link seq f s
  | .enumReply link seq f => Sys2Proof.Machine.execEnumReply link seq f s
  | .assign link seq f => Sys2Proof.Machine.execAssign link seq f s
  | .enumSurvey => Sys2Proof.Machine.execEnumSurvey s
  | .assignWaitExpire => Sys2Proof.Machine.execAssignWaitExpire s
  | .shuttleMailbox link seq f => Sys2Proof.Machine.execShuttleMailbox link seq f s
  | .ledgerFrame link seq f => Sys2Proof.Machine.execLedgerFrame link seq f s
  | .linkchg link seq f => Sys2Proof.Machine.execLinkchg link seq f s
  | .imageFrame link seq f => Sys2Proof.Machine.execImageFrame link seq f s
  | .reclaim link seq f => Sys2Proof.Machine.execReclaim link seq f s
  | .freewheelExpire => Sys2Proof.Machine.execFreewheelExpire s
  | .shReclaim w v => Sys2Proof.Machine.execShReclaim w v s
  | .shStickyClr w v => Sys2Proof.Machine.execShStickyClr w v s
  | .shuttleRingEntry => Sys2Proof.Machine.execShuttleRingEntry s
  | .ownLineReleased => Sys2Proof.Machine.execOwnLineReleased s
  | .claimWaitExpire => Sys2Proof.Machine.execClaimWaitExpire s
  | .confirmWindowExpire => Sys2Proof.Machine.execConfirmWindowExpire s
  | .claimBackoffExpire => Sys2Proof.Machine.execClaimBackoffExpire s
  | .pairSelDrive => Sys2Proof.Machine.execPairSelDrive s
  | .peerLoss => Sys2Proof.Machine.execPeerLoss s
  | .killPulseEnd => Sys2Proof.Machine.execKillPulseEnd s
  | .killRetry => Sys2Proof.Machine.execKillRetry s
  | .pairLinkChange up => Sys2Proof.Machine.execPairLinkChange up s
  | .pairMailbox seq f => Sys2Proof.Machine.execPairMailbox seq f s
  | .pbeacon seq f => Sys2Proof.Machine.execPbeacon seq f s
  | .sigFrame seq entries => Sys2Proof.Machine.execSigFrame seq entries s
  | .diverge seq key frame => Sys2Proof.Machine.execDiverge seq key frame s
  | .copyFrame seq f => Sys2Proof.Machine.execCopyFrame seq f s
  | .pairCommit seq f => Sys2Proof.Machine.execPairCommit seq f s
  | .helloFrame seq f => Sys2Proof.Machine.execHelloFrame seq f s
  | .health seq value diverged role => Sys2Proof.Machine.execHealth seq value diverged role s
  | .healthSend => Sys2Proof.Machine.execHealthSend s
  | .profileFrame seq frame prof => Sys2Proof.Machine.execProfileFrame seq frame prof s
  | .profileJointTimeout => Sys2Proof.Machine.execProfileJointTimeout s
  | .stateCopyDone => Sys2Proof.Machine.execStateCopyDone s
  | .mtClear w v => Sys2Proof.Machine.execMtClear w v s
  | .mtYield w v => Sys2Proof.Machine.execMtYield w v s
  | .mtCommit w v => Sys2Proof.Machine.execMtCommit w v s
  | .recoveryEnd => Sys2Proof.Machine.execRecoveryEnd s
  | .stockroomTransaction req => Sys2Proof.Machine.execStockroomTransaction req s
  | .turnstileGrant g asks => Sys2Proof.Machine.execTurnstileGrant g asks s
  | .scrubStep => Sys2Proof.Machine.execScrubStep s
  | .extScrubAccess => Sys2Proof.Machine.execExtScrubAccess s
  | .tsCommit w v => Sys2Proof.Machine.execTsCommit w v s
  | .tableWrap g => Sys2Proof.Machine.execTableWrap g s
  | .tsExtNextWrite w v => Sys2Proof.Machine.execTsExtNextWrite w v s
  | .extMemoryRequest req => Sys2Proof.Machine.execExtMemoryRequest req s
  | .tallySample xs => Sys2Proof.Machine.execTallySample xs s
  | .tallyPeriodEnd c => Sys2Proof.Machine.execTallyPeriodEnd c s
  | .tallyWindowEnd => Sys2Proof.Machine.execTallyWindowEnd s
  | .tallyChannelFault n => Sys2Proof.Machine.execTallyChannelFault n s
  | .mainsLoss v => Sys2Proof.Machine.execMainsLoss v s
  | .pulseAssert p => Sys2Proof.Machine.execPulseAssert p s
  | .pulseEnd p => Sys2Proof.Machine.execPulseEnd p s
  | .tySnap w v => Sys2Proof.Machine.execTySnap w v s
  | .tySaveNow w v => Sys2Proof.Machine.execTySaveNow w v s
  | .tySavePeriod => Sys2Proof.Machine.execTySavePeriod s
  | .tySaveWriteDone ok => Sys2Proof.Machine.execTySaveWriteDone ok s
  | .tyCommit w v => Sys2Proof.Machine.execTyCommit w v s
  | .ledgerRecordTake => Sys2Proof.Machine.execLedgerRecordTake s
  | .ledgerRecordDrop record => Sys2Proof.Machine.execLedgerRecordDrop record s
  | .lgFreeze w v => Sys2Proof.Machine.execLgFreeze w v s
  | .lgThaw w v => Sys2Proof.Machine.execLgThaw w v s
  | .lgFreezeLimit => Sys2Proof.Machine.execLgFreezeLimit s
  | .lgArchiveFlush => Sys2Proof.Machine.execLgArchiveFlush s
  | .lgFlush w v => Sys2Proof.Machine.execLgFlush w v s
  | .recordClose => Sys2Proof.Machine.execRecordClose s
  | .lgGaspClr w v => Sys2Proof.Machine.execLgGaspClr w v s
  | .lgExportEntry => Sys2Proof.Machine.execLgExportEntry s
  | .tmStart w v => Sys2Proof.Machine.execTmStart w v s
  | .tmAbort w v => Sys2Proof.Machine.execTmAbort w v s
  | .trimRunEnd r => Sys2Proof.Machine.execTrimRunEnd r s
  | .tempSensorUpdate q => Sys2Proof.Machine.execTempSensorUpdate q s
  | .announceReceiptTimeout => Sys2Proof.Machine.execAnnounceReceiptTimeout s
  | .pairOwnNLow owning => Sys2Proof.Machine.execPairOwnNLow owning s
  | .pairingStepTimeout => Sys2Proof.Machine.execPairingStepTimeout s
  | .tallyChannelFaultEnd n => Sys2Proof.Machine.execTallyChannelFaultEnd n s
  | .archiveWriteDone ok => Sys2Proof.Machine.execArchiveWriteDone ok s
  | .corePowerUpDone core => Sys2Proof.Machine.execCorePowerUpDone core s
  | .refclk25mArrival => Sys2Proof.Machine.execRefclk25mArrival s
  | .mr4RefreshRateRead rate => Sys2Proof.Machine.execMr4RefreshRateRead rate s
  | .coreSupplyLoss => Sys2Proof.Machine.execCoreSupplyLoss s
  | .profileFrameRepeat => Sys2Proof.Machine.execProfileFrameRepeat s
  | .peerAliveRegained => Sys2Proof.Machine.execPeerAliveRegained s
  | .imageFrameSend => Sys2Proof.Machine.execImageFrameSend s

end Sys2Proof.Machine
end

