-- ==== Sys2Proof/Machine/LoomWord.lean ====
section
/-!
DEFINITION. What an instruction word does (R230 to R237, R240, R243 to R245): its opcode, function or sub-opcode selects the instruction,
and everything else is ILLEGAL. A core executes by itself the word that its RUNNING thread fetches.
-/

namespace Sys2Proof.Machine

/-- The register that bits [`lo` + 4 : `lo`] of a word name. -/
def regAt (w lo : Nat) : Fin 32 := Fin.ofNat 32 (w / 2 ^ lo)

/-- A word that R232 refuses. -/
def loomIllegal (c : Fin 8) (w : Nat) : Act := loom c fun t _ => illegal c t w

/-- The RR-format words of opcodes 0x00 to 0x03 (R234 to R236, R244). -/
def loomRRWord (c : Fin 8) (w : Nat) : Act :=
  let rd := regAt w 21; let ra := regAt w 16; let rb := regAt w 11
  match bits w 31 26, bits w 10 0 with
  | 0, 0x00 => loomAdd c rd ra rb | 0, 0x01 => loomSub c rd ra rb | 0, 0x02 => loomAnd c rd ra rb | 0, 0x03 => loomOr c rd ra rb
  | 0, 0x04 => loomXor c rd ra rb | 0, 0x05 => loomShl c rd ra rb | 0, 0x06 => loomShr c rd ra rb | 0, 0x07 => loomSar c rd ra rb
  | 0, 0x08 => loomMin c rd ra rb | 0, 0x09 => loomMax c rd ra rb | 0, 0x0A => loomMinu c rd ra rb | 0, 0x0B => loomMaxu c rd ra rb
  | 1, 0x00 => loomMul c rd ra rb | 1, 0x01 => loomMulh c rd ra rb | 1, 0x02 => loomMulhu c rd ra rb
  | 1, 0x04 => loomDiv c rd ra rb | 1, 0x05 => loomDivu c rd ra rb | 1, 0x06 => loomRem c rd ra rb | 1, 0x07 => loomRemu c rd ra rb
  | 2, 0x00 => loomPadds c rd ra rb | 2, 0x01 => loomPsubs c rd ra rb | 2, 0x02 => loomPmul c rd ra rb
  | 2, 0x03 => loomPmulq c rd ra rb | 2, 0x04 => loomPmin c rd ra rb | 2, 0x05 => loomPmax c rd ra rb
  | 2, 0x06 => loomPlerp c rd ra rb
  | 3, 0x00 => loomCeq c rd ra rb | 3, 0x01 => loomCne c rd ra rb | 3, 0x02 => loomClt c rd ra rb | 3, 0x03 => loomCltu c rd ra rb
  | 3, 0x04 => loomCge c rd ra rb | 3, 0x05 => loomCgeu c rd ra rb
  | _, _ => loomIllegal c w

/-- The S-format words (R245). -/
def loomSWord (c : Fin 8) (w : Nat) : Act :=
  let rd := regAt w 15; let ra := regAt w 10; let low := BitVec.ofNat 10 w
  match bits w 25 20 with
  | 0x00 => loomNow c rd ra low | 0x01 => loomTick c rd ra low | 0x02 => loomWaitpos c rd ra low | 0x03 => loomArmat c rd ra low
  | 0x04 => loomYield c rd ra low | 0x05 => loomSleep c rd ra low | 0x06 => loomSignal c rd ra low | 0x07 => loomWaitsig c rd ra low
  | 0x08 => loomPost c rd ra low | 0x09 => loomRecv c rd ra low | 0x0A => loomSetpri c rd ra low | 0x0B => loomSubmit c rd ra low
  | 0x0C => loomFence c rd ra low | 0x0D => loomRelease c rd ra low | 0x0E => loomEngstat c rd ra low | 0x0F => loomCsrr c rd ra low
  | 0x10 => loomCsrw c rd ra low | 0x11 => loomLog c rd ra low | 0x12 => loomTrap c rd ra low | 0x13 => loomEret c rd ra low
  | 0x14 => loomHalt c rd ra low
  | _ => loomIllegal c w

/-- What an instruction word does on core `c` (R231, R233). -/
def loomAct (c : Fin 8) (w : Nat) : Act :=
  let rd := regAt w 21; let ra := regAt w 16; let imm := BitVec.ofNat 16 w; let disp := BitVec.ofNat 21 w
  match bits w 31 26 with
  | 0x00 | 0x01 | 0x02 | 0x03 => loomRRWord c w
  | 0x04 => loomAddi c rd ra imm | 0x05 => loomAndi c rd ra imm | 0x06 => loomOri c rd ra imm | 0x07 => loomXori c rd ra imm
  | 0x08 => loomShli c rd ra imm | 0x09 => loomShri c rd ra imm | 0x0A => loomSari c rd ra imm | 0x0B => loomLui c rd disp
  | 0x0C => loomCeqi c rd ra imm | 0x0D => loomClti c rd ra imm | 0x0E => loomCltiu c rd ra imm
  | 0x10 => loomLb c rd ra imm | 0x11 => loomLbu c rd ra imm | 0x12 => loomLh c rd ra imm | 0x13 => loomLhu c rd ra imm
  | 0x14 => loomLw c rd ra imm | 0x15 => loomLwu c rd ra imm | 0x16 => loomLd c rd ra imm
  | 0x18 => loomSb c rd ra imm | 0x19 => loomSh c rd ra imm | 0x1A => loomSw c rd ra imm | 0x1B => loomSd c rd ra imm
  | 0x1C => loomSwap c rd ra imm
  | 0x1D => if bits w 10 0 = 0 then loomCas c rd ra (regAt w 11) else loomIllegal c w
  | 0x20 => loomBeqz c rd disp | 0x21 => loomBnez c rd disp | 0x22 => loomBltz c rd disp | 0x23 => loomBgez c rd disp
  | 0x24 => loomJ c (BitVec.ofNat 26 w) | 0x25 => loomJal c (BitVec.ofNat 26 w) | 0x26 => loomJalr c rd ra imm
  | 0x3F => loomSWord c w
  | _ => loomIllegal c w

/-- The word at the pc of a thread: from the line that the core's instruction cache holds, else from memory (R230, R242). -/
def State.wordAt (s : State) (c a : Nat) : Nat :=
  match if s.inExt a then (s.core c).icache.find a else none with
  | some (_, l) => leAt l.data (a % 64) 4
  | none => ofLe (s.bytesAt a 4)

/-- A core with a RUNNING thread executes the word at its pc: the fetch, with its own traps, comes with the instruction. -/
def coreStep (c : Fin 8) : Act := withS fun s => match (s.core c).running with
  | some t => loomAct c (s.wordAt c (s.thread c t).pc.toNat)
  | none => skip

/-- The cores in one CK_TL cycle. DESIGN CHOICE (log 132): each executes one instruction. -/
def coresRun : Act := withS fun s => forN 8 fun c => whenDo (s.coreOn c) (coreStep (Fin.ofNat 8 c))

end Sys2Proof.Machine
end

