-- ==== Sys2Proof/Machine/Idle.lean ====
section
/-!
DEFINITION. What a step does while no command waits: one CK_TL cycle passes (DESIGN CHOICE, log 5). The tick and the position
advance, and what every unit does by itself at its own times happens, in one order of units.
-/

namespace Sys2Proof.Machine

/-! ## Tick and position (R42, R63, R517) -/

/-- A thousandth of a part in a million. -/
def ppb : Int := 10 ^ 9

/-- The local tick's advance in this cycle, and what the clock correction leaves wraps (R517). -/
def State.tickStep (s : State) : Nat × Int :=
  let gathered := s.ys.tickRem + ppb - s.ys.clock
  ((gathered / ppb).toNat, gathered % ppb)

/-- The cascade tick's advance: a debt is slewed out by one tick a cycle, and the tick never falls (R63, R65). -/
def State.tickAdvance (s : State) (n : Nat) : Nat :=
  if 0 < s.ys.tickDebt then n + 1 else if s.ys.tickDebt < 0 then n - 1 else n

/-- Fraction units gained in `n` ticks with the loop's correction, and the remainder that Yardstick carries (R42, R55). -/
def State.posAdvance (s : State) (n : Nat) : Nat × Nat :=
  let num := s.ys.rem + n * (s.rateNum * frameUnits) * (ppb + signedOf 32 (s.rd YS_RATE_ADJ)).toNat
  (num / (s.framePeriod * 10 ^ 9), num % (s.framePeriod * 10 ^ 9))

/-- The fraction wraps in this cycle. -/
def State.wrapsNow (s : State) : Bool := decide ((s.frame + 1) * frameUnits ≤ s.ys.pos + (s.posAdvance s.tickStep.1).1)

/-- Time passes, and wall time with the instance's slewing (R345): the position stops short of a frame boundary, which `boundaryWork` takes. -/
def advanceClocks : Act := withS fun s =>
  let (n, left) := s.tickStep
  let m := s.tickAdvance n
  let (units, rem) := s.posAdvance n
  let p := s.ys.pos + units
  acts [
    fun _ => [.now (s.now + 1)],
    updYs fun y => { y with
      tick := (y.tick + m) % 2 ^ 64, tickRem := left, tickDebt := y.tickDebt - ((m : Int) - n), rem := rem,
      aonTime := y.aonTime + 1, pos := if s.wrapsNow then y.pos else p, fracDue := if s.wrapsNow then p % frameUnits else 0 },
    whenDo (decide (s.ys.tick / 10 ^ 6 < (s.ys.tick + m) / 10 ^ 6)) saveTick,
    updNet fun t =>
      let gathered := t.wallRem + ppb + t.ptp.slew
      { t with wall := t.wall.map (· + gathered / ppb), wallRem := gathered % ppb },
    whenDo s.wrapsNow boundaryWork]

/-! ## Slots, comparators and trigger outputs (R69, R74, R76, R276) -/

/-- Position `p` lies after `lo` and not after `hi`, in the order of the timeline. -/
def within (lo hi p : Nat) : Bool := decide (0 < (p + posMod - lo) % posMod ∧ (p + posMod - lo) % posMod ≤ (hi + posMod - lo) % posMod)

/-- An ARMED slot falls due between two positions. -/
def State.slotDue (s : State) (lo hi k : Nat) : Bool :=
  s.on (YS_SLOT_CTRL_ARMED k) && (
    if s.rd (YS_SLOT_CTRL_MODE k) = 0 then decide (s.slotPos k ≤ hi)
    else
      let start := s.slotPos k / frameUnits
      let per := max 1 (s.rd (YS_SLOT_CTRL_PERIOD k))
      [lo / frameUnits, lo / frameUnits + 1, hi / frameUnits].any fun f =>
        decide (start ≤ f ∧ (f - start) % per = 0) && within lo hi (f * frameUnits + s.slotPos k % frameUnits))

/-- The slots that fire in a cycle that began in `before`, with those that a forward re-base passes: at a boundary what was left of the old
frame comes with the new one's (R69, R74). -/
def State.firing (before s : State) : List Nat × List Nat :=
  let tail := if before.wrapsNow then (List.range 256).filter (before.slotDue before.ys.checked ((before.frame + 1) * frameUnits - 1)) else []
  let passed := if before.wrapsNow && before.skipsAhead s then s.passed else []
  ((List.range 256).filter fun k => tail.contains k || passed.contains k || s.slotDue s.ys.checked s.ys.pos k, passed)

/-- Take up the trigger actions whose position is at most 256 ticks ahead (R76); those that fire now need no taking up. -/
def takeUps (now : List Nat) : Act := forN 256 fun k => withS fun s =>
  whenDo (s.on (YS_SLOT_CTRL_ARMED k) && decide (4 ≤ s.rd (YS_SLOT_CTRL_ACTION k) ∧ s.rd (YS_SLOT_CTRL_ACTION k) ≤ 6)
    && !now.contains k && decide (s.ticksIn (s.unitsUntil k).1 ≤ 256)) (takeUp k)

/-- What the position has reached in a cycle that began in `before`: slots fire, trigger outputs change, pulses end and thread waits match. -/
def slotsDue (before : State) : Act := withS fun s =>
  let (now, passed) := before.firing s
  acts [
    takeUps now,
    fireSlots now fun k => passed.contains k,
    forN 4 fun o => withS fun s => whenDo (decide (s.ys.pulseEnd.get 0 o ≤ s.now)) (pulseOver o),
    fireTriggers now fun k => passed.contains k,
    updYs fun y => { y with checked := s.ys.pos },
    whenDo (before.wrapsNow && before.skipsAhead s) passWaits,
    forEach s.threads fun (x : Nat × Thread) => comparator (x.1 / 64) (x.1 % 64) false]

/-! ## Foreman (R273 to R282) -/

/-- Foreman in one CK_TL cycle: every powered core ends a switch that has lasted 12 CK_CORE cycles (R275) or dispatches, gives up an entry of its
queue every 5 ns (R277), and powers down when it has been idle; a measurement window ends in its time. -/
def foremanRun : Act := withS fun s => acts [
  forN 8 fun c => withS fun s => whenDo (s.coreOn c) (acts [
    if (s.core c).incoming.isSome then whenDo (decide ((s.core c).entering.since + 8 ≤ s.now)) (switchDone c) else dispatch c,
    whenDo (s.now % 5 == 0) (takeEntry c), powerUpDone c, powerDown c]),
  whenDo (decide (s.fm.winStart + s.windowMs * 10 ^ 6 ≤ s.now)) windowEnd]

/-! ## Host ports, the service agent and Bobbins (R295, R313, R318) -/

/-- DMA units, replies of the agent and stale notices that fall due. -/
def portsRun : Act := acts [dmaRun, repliesDue, forN 48 bobbinStale]

/-! ## The network (R328, R331, R338, R343, R348, R352, R355, R356) -/

/-- The first `k` of `n` lines spread evenly over a frame have come due. -/
def State.linesDue (s : State) (n : Nat) : Nat := min n (s.ys.pos % frameUnits * n / frameUnits + 1)

/-- The lines of Weft streams and of the preview that fall due. DESIGN CHOICE (log 153): lines come evenly over the frame. -/
def mediaRun : Act := withS fun s => acts [
  forN 256 fun t => whenDo (s.onA (WF_CFG_EN t) && decide (s.net.wfLine.get 0 t < s.linesDue (s.rdA (WF_SIZE_H t)))) (weftNext t),
  match s.net.pvLine with
  | some y => if s.pvSize.2 ≤ y then updNet fun t => { t with pvLine := none }
      else whenDo (decide (y < s.linesDue s.pvSize.2)) (acts [previewLine y, updNet fun t => { t with pvLine := some (y + 1) }])
  | none => skip]

/-- The network's timers, looked at every 1 ms. -/
def networkTimers : Act := withS fun s => acts [
  forN 64 fun i => whenDo (decide (s.net.arpAt.get 0 i + 10 ^ 9 ≤ s.now)) (arpRequest i),
  forEach s.net.table fun (x : Nat × Option BrEntry) => brAge x.1,
  forN 6 fun n => whenDo (decide (s.net.musterAt.get 0 n + 10 ^ 9 ≤ s.now)) (musterAnnounce n),
  forEach s.net.partners fun (x : Nat × Option Partner) => partnerSilent x.1,
  ptpRun]

/-- The network in one cycle. -/
def networkRun : Act := withS fun s => whenDo s.netOn (acts [whenDo (s.now % 10 ^ 6 == 0) networkTimers, mediaRun, macsRun])

/-! ## Timers (R276, R285, R286, R313, R474) -/

/-- Foreman's timer checks, the watchdog, operating seconds and a RESET command that falls due. -/
def timersDue : Act := withS fun s => acts [
  whenDo (s.now % 32 == 0) timerCheckAll,
  whenDo (s.now % 10 ^ 9 == 0) (count LG_OPSEC 1),
  whenDo (s.on FM_WDOG_CFG_RUNNING && decide (s.fm.wdogKicked + s.fm.wdogTimeout * 500000 ≤ s.now)) wdogWarning,
  if s.on FM_WDOG_CFG_RUNNING && decide (s.fm.wdogKicked + s.fm.wdogTimeout * 10 ^ 6 ≤ s.now) then warmReset (warmCode .watchdog)
  else whenDo (s.boot.resetAt.any fun t => decide (t ≤ s.now)) (warmReset (warmCode .service))]

/-- One CK_TL cycle. A halted part does nothing. -/
def tick : Act := withS fun s => whenDo (!s.boot.halted) (acts [advanceClocks, enginesRun, slotsDue s, draperRun, tailorRun, treadlesRun, forN 64 rediscover, lamplighterRun, rdmTakeAll, dmxRun, coresRun, foremanRun, portsRun, networkRun,
  shuttleRun, mantleRun, profileRun, stockRun, tallyRun, trimRun, bootRun, ucodeLoaded, timersDue,
  sourceOrder s.lg.intake.length, ledgerRun (s.now * 6 / 5 - (s.now - 1) * 6 / 5)])

end Sys2Proof.Machine
end

