-- ==== Sys2Proof/Machine/Step.lean ====
section
/-!
DEFINITION. A step: the command at the front of the queue, or one cycle of the timeline's clock when none waits.
-/

namespace Sys2Proof.Machine

/-- Take the command at the front of the queue. -/
def step (s : State) : Host.Outcome State Fault Refusal :=
  match s.pending with
  | [] => done tick s
  | c :: cs => exec c { s with pending := cs }

/-- The state with a command put at the front of its queue. -/
def State.withCommand (s : State) (c : Instr) : State := { s with pending := c :: s.pending }

/-- The state with the command that a word spells at the front of its queue. -/
def State.withFetchWord (s : State) (nbits w : Nat) : State :=
  match decodeTableWord nbits w with
  | some c => s.withCommand c
  | none => s

end Sys2Proof.Machine
end

