-- ==== Sys2Proof/WellFormed.lean ====
section
/-!
DEFINITION. Which commands can be given at all: operands within the lengths, sizes and ranges that the rules give them. The types of
the operands hold the rest.
-/

namespace Sys2Proof

/-- An access of a size that the bus carries, within the address map (R8, R30). -/
def accessSize (a size : Nat) : Bool := [1, 2, 4, 8].contains size && decide (a + size ≤ 2 ^ 40)

/-- A timecode address that exists (R48). -/
def RefEvent.wf : RefEvent → Bool
  | .ltc h m s f word => decide (h < 24 ∧ m < 60 ∧ s < 60 ∧ f < 30 ∧ word.length = 10)
  | .wclk edges => decide (0 < edges)
  | .ptp _ | .genlock | .mains | .beacon _ => true

/-- Parameter data of an RDM response: at most 231 bytes (R217). -/
def RdmResp.wf : RdmResp → Bool
  | .ack data _ | .overflow data _ | .timer data _ | .nack data _ => decide (data.length ≤ 231)
  | .branch _ | .collision | .muted _ | .bad => true

/-- A frame has the octets of its length, FCS left out or in (R327). -/
def EthFrame.wf (f : EthFrame) : Bool := decide (f.octets.length ≤ f.len)

/-- The header of a Shuttle frame (R363). -/
def ShHead.wf (h : ShHead) : Bool := decide (h.src < 2 ^ 16 ∧ h.dst < 2 ^ 16 ∧ h.hops < 2 ^ 11 ∧ h.cgen < 2 ^ 16)

/-- A beacon's fields (R364). -/
def Beacon.wf (b : Beacon) : Bool := b.head.wf && decide (b.tick < 2 ^ 64 ∧ b.pos < 2 ^ 64 ∧ b.num < 2 ^ 32 ∧ b.den < 2 ^ 32
  ∧ b.acc < 2 ^ 32 ∧ b.rebaseTo < 2 ^ 40 ∧ b.deputy < 2 ^ 10 ∧ b.serial < 2 ^ 64)

/-- A memory transaction: what is written has the transaction's length (R416). -/
def StockReq.wf (r : StockReq) : Bool := match r.kind with
  | .read => true
  | .write d | .rmw d => d.length == r.len

/-- A Trim run's result: four lanes a port, each port once (R514). -/
def TrimResult.wf : TrimResult → Bool
  | .skew flips => (flips.all fun f => f.2.length == 4) && (flips.map (·.1.val)).Nodup
  | .tally .. | .clock _ | .lost => true

/-- The command is well formed. -/
def Instr.wf : Instr → Bool
  | .warmReset causes => !causes.isEmpty
  | .bootRomStart env => env.badRows.all fun r => decide (r.2 < 6144)
  | .registerWrite _ addr size _ => accessSize addr.toNat size
  | .rcRegisterRead _ addr size => accessSize addr.toNat size
  | .loWordReadLatch _ addr => addr.toNat % 4 == 0
  | .referenceEvent ev => ev.wf
  | .scanoutPixel _ x y _ => decide (x < 16384 ∧ y < 16384)
  | .tdDetect _ rets => rets.all fun r => decide (r.2.length ≤ 1048846)
  | .dmxInputPacket _ _ slots _ => decide (slots.length ≤ 512)
  | .rdmResponse _ r => r.resp.wf && decide (r.raw.length ≤ 513)
  | .contextAreaWrite _ addr data => !data.isEmpty && decide (addr.toNat + data.length ≤ 2 ^ 40)
  | .hostLinkUp _ speed width => decide (speed.val ≤ 4) && [0, 1, 2, 4].contains width.val
  | .bar0Access _ off isWrite data len => decide (0 < len ∧ off + len ≤ 2 ^ 24) && (!isWrite || data.length == len)
  | .xspiRead _ _ len => decide (0 < len)
  | .xspiWrite _ _ data => !data.isEmpty
  | .xspiStream _ data => !data.isEmpty
  | .serviceUnknownOp _ op _ _ => op == 0 || decide (8 < op.toNat)
  | .xnAccess _ addr size _ _ => accessSize addr.toNat size
  | .ethFrameReceive _ frame => frame.wf
  | .beacon _ seq b => decide (seq < 2 ^ 32) && b.wf
  | .delayReq _ seq => decide (seq < 2 ^ 32)
  | .delayResp _ seq _ => decide (seq < 2 ^ 32)
  | .enumFrame _ seq f => decide (seq < 2 ^ 32 ∧ f.pos < 2 ^ 16) && f.head.wf
  | .enumReply _ seq f => decide (seq < 2 ^ 32 ∧ f.serial < 2 ^ 64 ∧ f.pos < 2 ^ 16 ∧ f.number < 2 ^ 16 ∧ f.cgen < 2 ^ 16 ∧ f.tick < 2 ^ 64) && f.head.wf
  | .assign _ seq f => decide (seq < 2 ^ 32 ∧ f.serial < 2 ^ 64 ∧ f.number < 2 ^ 16) && f.head.wf
  | .shuttleMailbox _ seq f => decide (seq < 2 ^ 32 ∧ f.srcEp < 16 ∧ f.dstEp < 16 ∧ f.cgen < 2 ^ 16) && f.head.wf
  | .ledgerFrame _ seq f => decide (seq < 2 ^ 32) && f.record.length == 32 && f.head.wf
  | .linkchg _ seq f => decide (seq < 2 ^ 32) && f.head.wf
  | .imageFrame _ seq f => decide (seq < 2 ^ 32 ∧ f.offset < 2 ^ 32 ∧ 1 ≤ f.data.length ∧ f.data.length ≤ 252) && f.head.wf
  | .reclaim _ seq f => decide (seq < 2 ^ 32 ∧ f.pos < 2 ^ 64) && f.head.wf
  | .pairMailbox seq f => decide (seq < 2 ^ 32 ∧ f.srcEp < 16 ∧ f.dstEp < 16 ∧ f.pgen < 2 ^ 16)
  | .pbeacon seq f => decide (seq < 2 ^ 32) && f.wf
  | .sigFrame seq entries => decide (seq < 2 ^ 32 ∧ 1 ≤ entries.length ∧ entries.length ≤ 21) && entries.all fun e => decide (e.key < 2 ^ 32 ∧ e.frame < 2 ^ 32 ∧ e.crc < 2 ^ 32)
  | .diverge seq _ _ => decide (seq < 2 ^ 32)
  | .copyFrame seq f => decide (seq < 2 ^ 32 ∧ f.offset < 2 ^ 32 ∧ 1 ≤ f.data.length ∧ f.data.length ≤ 252)
  | .pairCommit seq f => decide (seq < 2 ^ 32 ∧ f.frame < 2 ^ 40 ∧ f.length < 2 ^ 32 ∧ f.crc < 2 ^ 32)
  | .helloFrame seq f => decide (seq < 2 ^ 32 ∧ f.serial < 2 ^ 64 ∧ f.profile < 4 ∧ f.pgen < 2 ^ 16 ∧ f.health < 2 ^ 32)
  | .health seq _ _ role => decide (seq < 2 ^ 32 ∧ role.val ≤ 5)
  | .profileFrame seq _ _ => decide (seq < 2 ^ 32)
  | .stockroomTransaction req => req.wf
  | .turnstileGrant _ asks => (asks.map (·.req.val)).Nodup && asks.all fun a => decide (1 ≤ a.words.val)
  | .extMemoryRequest req => req.wf
  | .tallySample xs => xs.length == 32
  | .ledgerRecordDrop record => decide (record.code < 2 ^ 16 ∧ record.src < 31 ∧ 1 ≤ record.sev ∧ record.sev ≤ 4 ∧ record.payload < 2 ^ 32)
  | .trimRunEnd r => r.wf
  | .powerOnReset .. | .btStepStarted .. | .btStepDone .. | .btStepFailed .. | .stepTimeout .. | .btRerun .. | .btHostbootGo ..
  | .btConfirm .. | .btSvnAdvance .. | .btProvProgram .. | .btUcodeGo .. | .ucodeLoadDone | .dbgNonceRead .. | .dbgSubmit ..
  | .tamperReading .. | .tapInstruction .. | .unmappedAccess .. | .sysCommit .. | .sysNextcfgWrite .. | .frameBoundary | .ysCommit ..
  | .ysGo .. | .expectedEventMissing .. | .tickMsSave | .slotArm .. | .slotDisarm .. | .slotFire .. | .trigActionTakeUp ..
  | .trigOutputChange .. | .trigPulseEnd .. | .trigDisable .. | .captureEdge .. | .drCommit .. | .ringTailWrite .. | .ringEnable ..
  | .ringReset .. | .compositionStart .. | .compositionEnd .. | .readsReturned .. | .ingestEnable .. | .tlCommit .. | .swatchCopyDone
  | .tempSourceStale .. | .purseRecomputeDone | .tdEnd .. | .tdEmit .. | .tdShift .. | .tdLatch .. | .tdRow .. | .tdWait ..
  | .tdLoop .. | .tdSubf .. | .tdCommit .. | .tdApplyLine .. | .chDiscReq .. | .absentPortRediscover .. | .discoveryEnd ..
  | .thimblePublish .. | .tbEnd .. | .tbNext .. | .tbLdi .. | .tbShl8 .. | .tbMov .. | .tbAdd .. | .tbSub .. | .tbMul .. | .tbMin ..
  | .tbMax .. | .tbWave .. | .tbNoise .. | .tbEach .. | .tbOut .. | .tbBnz .. | .tbBneg .. | .tbStart .. | .tbStop .. | .tbCommit ..
  | .tbLoad .. | .tbLoadDone .. | .tbSeedWrite .. | .llAssemblyComplete | .e131DataHandoff .. | .e131Keepalive .. | .e131DiscoverySend
  | .llCommit .. | .llCopyDone | .llIdataAccess .. | .inputSourceTimeout .. | .dmxOutputPacket .. | .rdmTransactionStart ..
  | .rdmTimeout .. | .rdmSweep .. | .dmxRdmDisc .. | .loomAdd .. | .loomSub .. | .loomAnd .. | .loomOr .. | .loomXor .. | .loomShl ..
  | .loomShr .. | .loomSar .. | .loomMin .. | .loomMax .. | .loomMinu .. | .loomMaxu .. | .loomMul .. | .loomMulh .. | .loomMulhu ..
  | .loomDiv .. | .loomDivu .. | .loomRem .. | .loomRemu .. | .loomCeq .. | .loomCne .. | .loomClt .. | .loomCltu .. | .loomCge ..
  | .loomCgeu .. | .loomAddi .. | .loomAndi .. | .loomOri .. | .loomXori .. | .loomShli .. | .loomShri .. | .loomSari .. | .loomLui ..
  | .loomCeqi .. | .loomClti .. | .loomCltiu .. | .loomLb .. | .loomLbu .. | .loomLh .. | .loomLhu .. | .loomLw .. | .loomLwu ..
  | .loomLd .. | .loomSb .. | .loomSh .. | .loomSw .. | .loomSd .. | .loomSwap .. | .loomCas .. | .loomBeqz .. | .loomBnez ..
  | .loomBltz .. | .loomBgez .. | .loomJ .. | .loomJal .. | .loomJalr .. | .loomPadds .. | .loomPsubs .. | .loomPmul .. | .loomPmulq ..
  | .loomPmin .. | .loomPmax .. | .loomPlerp .. | .loomNow .. | .loomTick .. | .loomWaitpos .. | .loomArmat .. | .loomYield ..
  | .loomSleep .. | .loomSignal .. | .loomWaitsig .. | .loomPost .. | .loomRecv .. | .loomSetpri .. | .loomSubmit .. | .loomFence ..
  | .loomRelease .. | .loomEngstat .. | .loomCsrr .. | .loomCsrw .. | .loomLog .. | .loomTrap .. | .loomEret .. | .loomHalt ..
  | .fmStart .. | .fmKill .. | .fmSuspend .. | .fmResume .. | .threadDispatch .. | .contextSwitchDone .. | .wakeEntryTake ..
  | .heldWakeAdmit .. | .timerCheck | .positionComparatorMatch .. | .corePowerDown .. | .corePowerUp .. | .foremanWindowEnd
  | .wdogKick .. | .wdogWarn | .wdogBite | .hostPortReset .. | .xspiStatus .. | .xspiId .. | .xspiPortReset .. | .enter8d ..
  | .exit8d .. | .xspiInvalidOpcode .. | .xspiReadTimeout .. | .dmaEntryComplete .. | .dmaHostTimeout .. | .haspAcquire ..
  | .haspRelease .. | .mbHostPost .. | .mbHostTake .. | .ping .. | .info .. | .haspAcq .. | .haspRel .. | .serviceReset ..
  | .updateOpen .. | .updateWrite .. | .updateClose .. | .bobbinByteArrive .. | .bobbinRead .. | .bobbinStaleNotice .. | .xnEnable ..
  | .xnDisable .. | .macLinkUp .. | .macLinkDown .. | .arpRetry .. | .ethTxEntryComplete .. | .bridgeAgeing .. | .brTableRead ..
  | .brTableWrite .. | .brTableDelete .. | .counterSnapshot .. | .ptpDelayReq | .tsqRead .. | .weftFrameSend .. | .wfCommit ..
  | .previewFrameSend | .musterAnnounce .. | .musterWithdraw .. | .musterPartnerTimeout .. | .shuttleLinkChange ..
  | .shuttleFrameDrop .. | .linkDelayMeasure | .enumSurvey | .assignWaitExpire | .freewheelExpire | .shReclaim .. | .shStickyClr ..
  | .shuttleRingEntry | .ownLineReleased | .claimWaitExpire | .confirmWindowExpire | .claimBackoffExpire | .pairSelDrive | .peerLoss
  | .killPulseEnd | .killRetry | .pairLinkChange .. | .healthSend | .profileJointTimeout | .stateCopyDone | .mtClear .. | .mtYield ..
  | .mtCommit .. | .recoveryEnd | .scrubStep | .extScrubAccess | .tsCommit .. | .tableWrap .. | .tsExtNextWrite .. | .tallyPeriodEnd ..
  | .tallyWindowEnd | .tallyChannelFault .. | .mainsLoss .. | .pulseAssert .. | .pulseEnd .. | .tySnap .. | .tySaveNow ..
  | .tySavePeriod | .tySaveWriteDone .. | .tyCommit .. | .ledgerRecordTake | .lgFreeze .. | .lgThaw .. | .lgFreezeLimit
  | .lgArchiveFlush | .lgFlush .. | .recordClose | .lgGaspClr .. | .lgExportEntry | .tmStart .. | .tmAbort .. | .tempSensorUpdate ..
  | .announceReceiptTimeout | .pairOwnNLow .. | .pairingStepTimeout | .tallyChannelFaultEnd .. | .archiveWriteDone ..
  | .corePowerUpDone .. | .refclk25mArrival | .mr4RefreshRateRead .. | .coreSupplyLoss | .profileFrameRepeat | .peerAliveRegained
  | .imageFrameSend => true

end Sys2Proof
end

