-- ==== Sys2Proof/Safety.lean ====
section
/-!
DEFINITION. The terms that claims about the part use: the form its state keeps, the registers that signals may change, a
command's completion, and what a thread needs to carry out an instruction.
-/

namespace Sys2Proof.Machine

/-! ## The form of the state -/

/-- Memory is in its canonical form: addresses rise strictly and no entry is what an unlisted byte reads as. -/
def Memory.wf (m : SMap Byte) : Bool := SMap.wf memReset m

/-- What every step keeps of the state's form: memory, flash, poison, latches, threads, cores and fences are canonical,
the registers are in the order of their addresses, and Ledger's intake queue holds no more than its 64 records (R464). -/
def State.inv (s : State) : Bool :=
  Memory.wf s.mem && SMap.wf 0xFF s.flash && SMap.wf false s.poison && SMap.wf 0 s.latches && SMap.wf {} s.threads
    && SMap.wf {} s.cores && SMap.wf 0 s.fences && s.regs.rises && s.active.rises && s.predicted.rises
    && decide (s.lg.intake.length ≤ intakeSize)

/-! ## Completion -/

/-- A command completes in a next state that satisfies `P`. -/
def Completes (c : Instr) (s : State) (P : State → Prop) : Prop := ∃ t, exec c s = .next t ∧ P t

/-! ## Frames -/

/-- The registers that the signal and the interrupt vectors of an event may change beside the event's own register: the
pending vectors of the host ports (R298) and the figures of the cores' pending-wake queues (R276). -/
def signalRegs : List Nat :=
  [(HP_PEND 0 0).addr, (HP_PEND 0 1).addr, (HP_PEND 1 0).addr, (HP_PEND 1 1).addr]
    ++ (List.range 8).flatMap fun c => [(FM_PWQ_PEAK c).addr, (FM_PWQ_FULL c).addr]

/-- The register may be changed by a signal or a vector. -/
abbrev signalReg (a : Nat) : Prop := a ∈ signalRegs

/-- Memory and flash are as before. -/
def SameMemory (s t : State) : Prop := t.mem = s.mem ∧ t.poison = s.poison ∧ t.flash = s.flash

/-- A register that the error reports of memory change. -/
def reportReg (a : Nat) : Prop := a = TS_EVENT_CORR.addr ∨ TS_EXT_CORR.addr ≤ a ∧ a < 0x100A2100

/-- A register that no report of an error in memory changes. -/
def quietReg (a : Nat) : Prop := ¬ signalReg a ∧ ¬ reportReg a ∧ a ≠ LG_EVENT_LOST.addr ∧ a ≠ LG_LOST.addr

/-! ## What a command does and what it leaves alone -/

/-- Threads, memory and flash are as before. -/
def Quiet (s t : State) : Prop := t.threads = s.threads ∧ SameMemory s t

/-- Every register outside `[lo, hi)` is as before, except those that signals and lost records change (R276, R298, R464). -/
def RegsOutside (lo hi : Nat) (s t : State) : Prop :=
  ∀ g : Fld, g.addr < lo ∨ hi ≤ g.addr → ¬ signalReg g.addr → g.addr ≠ LG_LOST.addr → g.addr ≠ LG_EVENT_LOST.addr → t.rd g = s.rd g

/-- A command completes in a state that satisfies `P`, with threads, memory and flash as before and no register changed outside the
window of its unit. -/
def Does (lo hi : Nat) (c : Instr) (s : State) (P : State → Prop) : Prop :=
  Completes c s fun t => P t ∧ Quiet s t ∧ RegsOutside lo hi s t

/-- A command completes and changes nothing. -/
def NoEffect (c : Instr) (s : State) : Prop := exec c s = .next s

/-- Ledger takes records, and its queue has room for all that one command may record. -/
def State.roomy (s : State) : Prop := s.lg.taking = true ∧ s.lg.intake.length < 32

/-- The record waits in Ledger's queue. -/
def Logged (t : State) (code : Nat) (src : Src) (sev payload : Nat) : Prop := ⟨code, src.code, sev, payload⟩ ∈ t.lg.intake

/-- A requester's write of `n` bytes at `a` takes effect in memory: the range is mapped for it, and no word of it lies in an excluded
row or in a locked context area. -/
def State.writable (s : State) (w : Requester) (a n : Nat) : Prop :=
  (∀ i < n, s.mayWrite w (a + i) = true) ∧ ∀ x ∈ wordsOf a n, s.excludedAt x = false ∧ s.ctxLocked x = false

/-- A requester may read all of the `n` bytes at `a`. -/
def State.readable (s : State) (w : Requester) (a n : Nat) : Prop := ∀ i < n, s.mayRead w (a + i) = true

/-- Every byte outside `[lo, hi)` is as before. -/
def MemOutside (s t : State) (lo hi : Nat) : Prop := ∀ x, x < lo ∨ hi ≤ x → t.byteAt x = s.byteAt x

/-! ## Threads that run (R243, R265) -/

/-- Some word that `n` bytes at `a` touch is delivered poisoned. -/
def State.poisoned (s : State) (a n : Nat) : Bool := (wordsOf a n).any s.poisonedAt

/-- The word at the thread's pc can be fetched: it is aligned and lies where code may lie, and it comes from a cached line
or from memory that is not poisoned. -/
def State.canFetch (s : State) (c t : Nat) : Prop :=
  let a := (s.thread c t).pc.toNat
  a % 4 = 0 ∧ s.fetchable a = true ∧
    (if s.inExt a then ((s.core c).icache.find a).isSome ∨ s.poisoned (a / 64 * 64) 64 = false else s.poisoned a 4 = false)

/-- Thread `t` is RUNNING on core `c` and the word at its pc can be fetched. -/
def State.canRun (s : State) (c t : Nat) : Prop := (s.core c).running = some t ∧ s.canFetch c t

/-- The state in which the fetch leaves the part: what an instruction finds when its own effect begins. -/
def State.fetched (s : State) (c t : Nat) : State := (fetch c t skip).run s

/-- A thread after an instruction that ends at the next word with `v` for register `rd`. -/
def Thread.ends (x : Thread) (rd : Fin 32) (v : DWord) : Thread :=
  { x.setReg rd v with pc := x.pc + 4, retired := x.retired + 1 }

/-- A thread after a jump to `target` with `v` for register `rd`. -/
def Thread.lands (x : Thread) (target : DWord) (rd : Fin 32) (v : DWord) : Thread :=
  { x.setReg rd v with pc := target, retired := x.retired + 1 }

/-- A thread after a trap (R255, R256): its cause, with the mode it leaves in bit 16, the word that the trap gives, the pc in
EPC, and SYS mode at TVEC. -/
def Thread.trapped (x : Thread) (cause eaddr : Nat) (epc : DWord) : Thread :=
  { x with epc := epc, ecause := BitVec.ofNat 64 (b2n x.sys * 2 ^ 16 + cause), eaddr := BitVec.ofNat 64 eaddr,
           sys := true, intrap := true, pc := x.tvec }

/-- Thread `t` of core `c` becomes `x`; the other threads, memory and flash stay. -/
def ThreadOnly (s u : State) (c t : Nat) (x : Thread) : Prop :=
  u.thread c t = x ∧ (∀ k, k ≠ tkey c t → u.threads.get {} k = s.threads.get {} k) ∧ SameMemory s u

/-- The command carries out an instruction on thread `t` of core `c`: `v` goes to register `rd` and the thread goes on at the
next word. -/
def Gives (s : State) (c : Fin 8) (t : Nat) (rd : Fin 32) (i : Instr) (v : DWord) : Prop :=
  Completes i s fun u => ThreadOnly s u c t ((s.thread c t).ends rd v)

/-- The word at the pc of core `c`'s thread `t`, when it is `w`, makes the core do by itself what the command does (R230 to R233). -/
def Spells (s : State) (c : Fin 8) (t : Nat) (i : Instr) (w : Nat) : Prop :=
  s.wordAt c (s.thread c t).pc.toNat = w → exec i s = .next ((coreStep c).run s)

/-- The same for packed lanes: each lane of the value follows `f` (R244). -/
def GivesLanes (s : State) (c : Fin 8) (t : Nat) (rd : Fin 32) (i : Instr) (f : Nat → Nat) : Prop :=
  Completes i s fun u => ∃ v : DWord, (∀ k < 4, lane v k = f k) ∧ ThreadOnly s u c t ((s.thread c t).ends rd v)

/-- The command leaves thread `t` of core `c` BLOCKED on `w`, with its context saved and the core free for another (R246, R271). -/
def Waits (s : State) (c : Fin 8) (t : Nat) (i : Instr) (w : Wait) (deadline : Option Nat) : Prop :=
  Completes i s fun u => (u.core c).running = none ∧ (∀ k, k ≠ tkey c t → u.threads.get {} k = s.threads.get {} k) ∧
    u.thread c t = { (s.thread c t).ends 0 0 with st := .blocked, wait := w, deadline := deadline, matched := false, timed := false, fresh := false }

/-- The command leaves thread `t` of core `c` READY at the tail of its level, after it ended with `v` in register `rd`. -/
def Yields (s : State) (c : Fin 8) (t : Nat) (i : Instr) (rd : Fin 32) (v : DWord) : Prop :=
  Completes i s fun u => (u.core c).running = none ∧ (u.thread c t).st = .ready ∧ (u.thread c t).reg rd = ((s.thread c t).ends rd v).reg rd ∧
    (u.thread c t).pc = (s.thread c t).pc + 4 ∧ ((u.core c).ready.get [] (s.thread c t).readyPri).getLast? = some t

/-- The command takes a jump on thread `t` of core `c`. -/
def Jumps (s : State) (c : Fin 8) (t : Nat) (rd : Fin 32) (i : Instr) (target v : DWord) : Prop :=
  Completes i s fun u => ThreadOnly s u c t ((s.thread c t).lands target rd v)

/-- The command raises a trap on thread `t` of core `c`, whose handler is set and which is in no trap. -/
def Traps (s : State) (c : Fin 8) (t : Nat) (i : Instr) (cause eaddr : Nat) (epc : DWord) : Prop :=
  Completes i s fun u => ThreadOnly s u c t ((s.thread c t).trapped cause eaddr epc)

/-- Code may lie at the address (R243). -/
def State.codeAt (s : State) (a : DWord) : Prop := a.toNat % 4 = 0 ∧ s.fetchable a.toNat = true

/-- The thread has a handler and is in no trap. -/
def Thread.canTrap (x : Thread) : Prop := x.intrap = false ∧ x.tvec ≠ 0

/-- The bytes that a load of `n` bytes at `a` finds: of the cached line or of memory in external memory, which is cached (R242);
of memory elsewhere; none when they are delivered poisoned. -/
def State.loadView (s : State) (c a n : Nat) : Option (List Byte) :=
  if s.inExt a then match (s.core c).dcache.find a with
    | some (_, l) => some ((l.data.drop (a % 64)).take n)
    | none => if s.poisoned (a / 64 * 64) 64 then none else some (s.bytesAt a n)
  else if s.poisoned a n then none else some (s.bytesAt a n)

/-- A thread may read the `n` bytes at `a` as memory: aligned, mapped, not registers. -/
def State.loadable (s : State) (c t a n : Nat) : Prop :=
  a % n = 0 ∧ a < 2 ^ 40 ∧ inRegs a = false ∧ s.mayRead (threadReq c t) a = true

/-- A thread may write the `n` bytes at `a` as memory: aligned, mapped for it, not registers, in no excluded row. -/
def State.storable (s : State) (c t a n : Nat) : Prop :=
  a % n = 0 ∧ a < 2 ^ 40 ∧ inRegs a = false ∧ s.mayWrite (threadReq c t) a = true ∧ s.excludedAt (a / 32 * 32) = false

/-- Memory holds `n` bytes of `v` at `a`, lowest first, and every other byte as before; poison and flash stay. -/
def Stored (s u : State) (a n : Nat) (v : DWord) : Prop :=
  (∀ i < n, u.byteAt (a + i) = BitVec.ofNat 8 (v.toNat / 256 ^ i)) ∧
  (∀ x, x < a ∨ a + n ≤ x → u.byteAt x = s.byteAt x) ∧ u.poison = s.poison ∧ u.flash = s.flash

/-- The command stores `n` bytes of `v` at `a` for thread `t` of core `c`, which ends with `w` in register `rd`. -/
def Stores (s : State) (c : Fin 8) (t : Nat) (i : Instr) (a n : Nat) (v : DWord) (rd : Fin 32) (w : DWord) : Prop :=
  Completes i s fun u => u.thread c t = (s.thread c t).ends rd w ∧ (∀ k, k ≠ tkey c t → u.threads.get {} k = s.threads.get {} k) ∧
    Stored s u a n v

end Sys2Proof.Machine
end

