-- ==== Sys2Proof/Certificates/Slice0/Obligations.lean ====
section
/-!
DEFINITION. The statements for the provers: what the block, its commands and its state do.
-/

open Sys2Proof Sys2Proof.Machine

/-- Step takes the command at the front of the queue and is exec of it with the queue's rest; on an empty queue it is one cycle of CK_TL (log
5). -/
def Obligations.StepRunsFrontCommand : Prop :=
  (∀ (s : State) (c : Instr) (cs : List Instr), s.pending = c :: cs → step s = exec c { s with pending := cs }) ∧
  (∀ (s : State) (c : Instr), step (s.withCommand c) = exec c s) ∧
  ∀ s : State, s.pending = [] → ∃ t, step s = .next t ∧ t.pending = [] ∧ (s.boot.halted = false → t.now = s.now + 1)

/-- R13: after reset every field of a register holds the reset value of its table. Nothing is queued, no thread is anything but DORMANT, no
unit is enabled, and the state has its form; memory reads as zero (the model's choice, log 3). -/
def Obligations.ResetState : Prop :=
  let s := State.reset
  (∀ f : Fld, s.rd f = f.of (BitVec.ofNat 32 f.reset) ∧ s.rdA f = f.of (BitVec.ofNat 32 f.reset)) ∧ s.pending = [] ∧ s.out = [] ∧
  (∀ c t, (s.thread c t).st = .dormant ∧ (∀ i, (s.thread c t).reg i = 0)) ∧ (∀ c, s.coreOn c = false) ∧ s.ys.pos = 0 ∧ s.ys.tick = 0 ∧
  s.lg.intake = [] ∧ s.inv = true ∧ ∀ a, s.byteAt a = 0

/-- From every state in the form that `State.inv` says, a step gives a state in that form: memory, flash, poison, latches, threads, cores and
fences stay canonical, the registers stay in the order of their addresses, and Ledger's intake queue holds no more than 64 records. -/
def Obligations.StepKeepsForm : Prop := ∀ s t : State, s.inv = true → step s = .next t → t.inv = true

/-- Every command completes, from every state, and leaves the commands that wait. -/
def Obligations.EveryCommandCompletes : Prop := ∀ (c : Instr) (s : State), Completes c s fun t => t.pending = s.pending

/-- R234: the two-register operations write rd and go on at the next word; g0 takes nothing (R228); nothing else of the thread, no other thread
and no byte of memory changes. The word at the pc selects them by opcode 0x00 and its function (R233). R236, R237: a comparison writes 1 to
rd when its condition holds and 0 when it does not. Opcode 0x03 and the function, or an immediate opcode, select it (R233). R237: the
immediate operations. A shift count above 63 and a LUI with a non-zero ra are ILLEGAL (R232), whose trap gives the instruction's word. The
opcode selects them (R233). -/
def Obligations.LoomIntegerResults : Prop :=
  (∀ (s : State) (c : Fin 8) (t : Nat) (rd ra rb : Fin 32), s.canRun c t →
     let a := (s.thread c t).reg ra
     let b := (s.thread c t).reg rb
     let n := b.toNat % 64
     let rr (op fn : Nat) : Nat := op * 2 ^ 26 + rd * 2 ^ 21 + ra * 2 ^ 16 + rb * 2 ^ 11 + fn
     (s.thread c t).reg 0 = 0 ∧ (∀ v, ((s.thread c t).ends 0 v).g = (s.thread c t).g) ∧
     Gives s c t rd (.loomAdd c rd ra rb) (a + b) ∧ Gives s c t rd (.loomSub c rd ra rb) (a - b) ∧
     Gives s c t rd (.loomAnd c rd ra rb) (a &&& b) ∧ Gives s c t rd (.loomOr c rd ra rb) (a ||| b) ∧
     Gives s c t rd (.loomXor c rd ra rb) (a ^^^ b) ∧ Gives s c t rd (.loomShl c rd ra rb) (a <<< n) ∧
     Gives s c t rd (.loomShr c rd ra rb) (a >>> n) ∧ Gives s c t rd (.loomSar c rd ra rb) (a.sshiftRight n) ∧
     Gives s c t rd (.loomMin c rd ra rb) (if a.toInt ≤ b.toInt then a else b) ∧
     Gives s c t rd (.loomMax c rd ra rb) (if a.toInt ≤ b.toInt then b else a) ∧
     Gives s c t rd (.loomMinu c rd ra rb) (if a.toNat ≤ b.toNat then a else b) ∧
     Gives s c t rd (.loomMaxu c rd ra rb) (if a.toNat ≤ b.toNat then b else a) ∧
     Spells s c t (.loomAdd c rd ra rb) (rr 0 0) ∧ Spells s c t (.loomSub c rd ra rb) (rr 0 1) ∧
     Spells s c t (.loomAnd c rd ra rb) (rr 0 2) ∧ Spells s c t (.loomOr c rd ra rb) (rr 0 3) ∧
     Spells s c t (.loomXor c rd ra rb) (rr 0 4) ∧ Spells s c t (.loomShl c rd ra rb) (rr 0 5) ∧
     Spells s c t (.loomShr c rd ra rb) (rr 0 6) ∧ Spells s c t (.loomSar c rd ra rb) (rr 0 7) ∧
     Spells s c t (.loomMin c rd ra rb) (rr 0 8) ∧ Spells s c t (.loomMax c rd ra rb) (rr 0 9) ∧
     Spells s c t (.loomMinu c rd ra rb) (rr 0 10) ∧ Spells s c t (.loomMaxu c rd ra rb) (rr 0 11)) ∧
  (∀ (s : State) (c : Fin 8) (t : Nat) (rd ra rb : Fin 32) (imm : BitVec 16), s.canRun c t →
     let a := (s.thread c t).reg ra
     let b := (s.thread c t).reg rb
     let n := imm.signExtend 64
     let rr (op fn : Nat) : Nat := op * 2 ^ 26 + rd * 2 ^ 21 + ra * 2 ^ 16 + rb * 2 ^ 11 + fn
     let ri (op : Nat) : Nat := op * 2 ^ 26 + rd * 2 ^ 21 + ra * 2 ^ 16 + imm.toNat
     Gives s c t rd (.loomCeq c rd ra rb) (if a = b then 1 else 0) ∧ Gives s c t rd (.loomCne c rd ra rb) (if a = b then 0 else 1) ∧
     Gives s c t rd (.loomClt c rd ra rb) (if a.slt b then 1 else 0) ∧ Gives s c t rd (.loomCltu c rd ra rb) (if a.ult b then 1 else 0) ∧
     Gives s c t rd (.loomCge c rd ra rb) (if a.slt b then 0 else 1) ∧ Gives s c t rd (.loomCgeu c rd ra rb) (if a.ult b then 0 else 1) ∧
     Gives s c t rd (.loomCeqi c rd ra imm) (if a = n then 1 else 0) ∧ Gives s c t rd (.loomClti c rd ra imm) (if a.slt n then 1 else 0) ∧
     Gives s c t rd (.loomCltiu c rd ra imm) (if a.ult n then 1 else 0) ∧
     Spells s c t (.loomCeq c rd ra rb) (rr 3 0) ∧ Spells s c t (.loomCne c rd ra rb) (rr 3 1) ∧
     Spells s c t (.loomClt c rd ra rb) (rr 3 2) ∧ Spells s c t (.loomCltu c rd ra rb) (rr 3 3) ∧
     Spells s c t (.loomCge c rd ra rb) (rr 3 4) ∧ Spells s c t (.loomCgeu c rd ra rb) (rr 3 5) ∧
     Spells s c t (.loomCeqi c rd ra imm) (ri 12) ∧ Spells s c t (.loomClti c rd ra imm) (ri 13) ∧
     Spells s c t (.loomCltiu c rd ra imm) (ri 14)) ∧
  (∀ (s : State) (c : Fin 8) (t : Nat) (rd ra : Fin 32) (imm : BitVec 16), s.canRun c t →
     let x := s.thread c t
     let a := x.reg ra
     let ri (op : Nat) : Nat := op * 2 ^ 26 + rd * 2 ^ 21 + ra * 2 ^ 16 + imm.toNat
     Gives s c t rd (.loomAddi c rd ra imm) (a + imm.signExtend 64) ∧ Gives s c t rd (.loomAndi c rd ra imm) (a &&& imm.zeroExtend 64) ∧
     Gives s c t rd (.loomOri c rd ra imm) (a ||| imm.zeroExtend 64) ∧ Gives s c t rd (.loomXori c rd ra imm) (a ^^^ imm.zeroExtend 64) ∧
     Gives s c t rd (.loomLui c rd (imm.zeroExtend 21)) ((imm ++ (0 : BitVec 16)).signExtend 64) ∧
     (imm.toNat < 64 → Gives s c t rd (.loomShli c rd ra imm) (a <<< imm.toNat) ∧ Gives s c t rd (.loomShri c rd ra imm) (a >>> imm.toNat) ∧
       Gives s c t rd (.loomSari c rd ra imm) (a.sshiftRight imm.toNat)) ∧
     (64 ≤ imm.toNat → x.canTrap →
       Traps s c t (.loomShli c rd ra imm) 3 (0x20000000 + rd * 2 ^ 21 + ra * 2 ^ 16 + imm.toNat) x.pc ∧
       Traps s c t (.loomShri c rd ra imm) 3 (0x24000000 + rd * 2 ^ 21 + ra * 2 ^ 16 + imm.toNat) x.pc ∧
       Traps s c t (.loomSari c rd ra imm) 3 (0x28000000 + rd * 2 ^ 21 + ra * 2 ^ 16 + imm.toNat) x.pc) ∧
     Spells s c t (.loomAddi c rd ra imm) (ri 4) ∧ Spells s c t (.loomAndi c rd ra imm) (ri 5) ∧
     Spells s c t (.loomOri c rd ra imm) (ri 6) ∧ Spells s c t (.loomXori c rd ra imm) (ri 7) ∧
     Spells s c t (.loomShli c rd ra imm) (ri 8) ∧ Spells s c t (.loomShri c rd ra imm) (ri 9) ∧
     Spells s c t (.loomSari c rd ra imm) (ri 10) ∧
     ∀ w : BitVec 21, Spells s c t (.loomLui c rd w) (11 * 2 ^ 26 + rd * 2 ^ 21 + w.toNat) ∧ ( 2 ^ 16 ≤ w.toNat → x.canTrap → Traps s c t (.loomLui c rd w) 3 (0x2C000000 + rd * 2 ^ 21 + w.toNat) x.pc))

/-- R235: the products, and their halves; division rounds toward zero, a divisor of 0 gives all ones and leaves the dividend as the remainder,
and the most negative number divided by -1 gives itself and 0. Opcode 0x01 and the function select them (R233). -/
def Obligations.LoomMultiplyDivideResults : Prop :=
  ∀ (s : State) (c : Fin 8) (t : Nat) (rd ra rb : Fin 32), s.canRun c t →
    let a := (s.thread c t).reg ra
    let b := (s.thread c t).reg rb
    let rr (op fn : Nat) : Nat := op * 2 ^ 26 + rd * 2 ^ 21 + ra * 2 ^ 16 + rb * 2 ^ 11 + fn
    Gives s c t rd (.loomMul c rd ra rb) (a * b) ∧
    Gives s c t rd (.loomMulh c rd ra rb) (BitVec.ofInt 64 (a.toInt * b.toInt / 2 ^ 64)) ∧
    Gives s c t rd (.loomMulhu c rd ra rb) (BitVec.ofNat 64 (a.toNat * b.toNat / 2 ^ 64)) ∧
    (b = 0 → Gives s c t rd (.loomDiv c rd ra rb) (-1) ∧ Gives s c t rd (.loomDivu c rd ra rb) (-1) ∧
      Gives s c t rd (.loomRem c rd ra rb) a ∧ Gives s c t rd (.loomRemu c rd ra rb) a) ∧
    (a = BitVec.intMin 64 ∧ b = -1 → Gives s c t rd (.loomDiv c rd ra rb) a ∧ Gives s c t rd (.loomRem c rd ra rb) 0) ∧
    (b ≠ 0 → Gives s c t rd (.loomDiv c rd ra rb) (a.sdiv b) ∧ Gives s c t rd (.loomDivu c rd ra rb) (a / b) ∧
      Gives s c t rd (.loomRem c rd ra rb) (a.srem b) ∧ Gives s c t rd (.loomRemu c rd ra rb) (a % b)) ∧
    Spells s c t (.loomMul c rd ra rb) (rr 1 0) ∧ Spells s c t (.loomMulh c rd ra rb) (rr 1 1) ∧
    Spells s c t (.loomMulhu c rd ra rb) (rr 1 2) ∧ Spells s c t (.loomDiv c rd ra rb) (rr 1 4) ∧
    Spells s c t (.loomDivu c rd ra rb) (rr 1 5) ∧ Spells s c t (.loomRem c rd ra rb) (rr 1 6) ∧
    Spells s c t (.loomRemu c rd ra rb) (rr 1 7)

/-- R244 with the `div` of R100: every lane of a packed operation follows its rule. Opcode 0x02 and the function select it (R233). -/
def Obligations.LoomPackedResults : Prop :=
  ∀ (s : State) (c : Fin 8) (t : Nat) (rd ra rb : Fin 32), s.canRun c t →
    let a := lane ((s.thread c t).reg ra)
    let b := lane ((s.thread c t).reg rb)
    let d := lane ((s.thread c t).reg rd)
    let rr (op fn : Nat) : Nat := op * 2 ^ 26 + rd * 2 ^ 21 + ra * 2 ^ 16 + rb * 2 ^ 11 + fn
    GivesLanes s c t rd (.loomPadds c rd ra rb) (fun k => min 65535 (a k + b k)) ∧
    GivesLanes s c t rd (.loomPsubs c rd ra rb) (fun k => a k - b k) ∧
    GivesLanes s c t rd (.loomPmul c rd ra rb) (fun k => (a k * b k + 32767) / 65535) ∧
    GivesLanes s c t rd (.loomPmulq c rd ra rb) (fun k => (a k * b k + 32768) / 65536) ∧
    GivesLanes s c t rd (.loomPmin c rd ra rb) (fun k => min (a k) (b k)) ∧
    GivesLanes s c t rd (.loomPmax c rd ra rb) (fun k => max (a k) (b k)) ∧
    GivesLanes s c t rd (.loomPlerp c rd ra rb) (fun k => (a k * (65535 - d k) + b k * d k + 32767) / 65535) ∧
    Spells s c t (.loomPadds c rd ra rb) (rr 2 0) ∧ Spells s c t (.loomPsubs c rd ra rb) (rr 2 1) ∧
    Spells s c t (.loomPmul c rd ra rb) (rr 2 2) ∧ Spells s c t (.loomPmulq c rd ra rb) (rr 2 3) ∧
    Spells s c t (.loomPmin c rd ra rb) (rr 2 4) ∧ Spells s c t (.loomPmax c rd ra rb) (rr 2 5) ∧
    Spells s c t (.loomPlerp c rd ra rb) (rr 2 6)

/-- R243: a branch goes to pc + 4 × sext(disp21) when its test holds and to the next word when it does not; J, JAL and JALR go to their
targets, with the link. A target where no code may lie raises FETCH, and then nothing is linked. The opcode selects them (R233). -/
def Obligations.LoomJumps : Prop :=
  ∀ (s : State) (c : Fin 8) (t : Nat) (rd ra : Fin 32) (d : BitVec 21) (e : BitVec 26) (imm : BitVec 16), s.canRun c t →
    let x := s.thread c t
    let a := x.reg ra
    let near := x.pc + 4 * d.signExtend 64
    let far := x.pc + 4 * e.signExtend 64
    let dest := a + imm.signExtend 64
    let br (op : Nat) : Nat := op * 2 ^ 26 + ra * 2 ^ 21 + d.toNat
    let branch (i : Instr) (test : Prop) : Prop :=
      (¬ test → Gives s c t 0 i 0) ∧ (test → s.codeAt near → Jumps s c t 0 i near 0) ∧
      (test → ¬ s.codeAt near → x.canTrap → Traps s c t i 1 near.toNat x.pc)
    branch (.loomBeqz c ra d) (a = 0) ∧ branch (.loomBnez c ra d) (a ≠ 0) ∧ branch (.loomBltz c ra d) (a.toInt < 0) ∧
    branch (.loomBgez c ra d) (0 ≤ a.toInt) ∧
    (s.codeAt far → Jumps s c t 0 (.loomJ c e) far 0 ∧ Jumps s c t 31 (.loomJal c e) far (x.pc + 4)) ∧
    (¬ s.codeAt far → x.canTrap → Traps s c t (.loomJ c e) 1 far.toNat x.pc ∧ Traps s c t (.loomJal c e) 1 far.toNat x.pc) ∧
    (s.codeAt dest → Jumps s c t rd (.loomJalr c rd ra imm) dest (x.pc + 4)) ∧
    (¬ s.codeAt dest → x.canTrap → Traps s c t (.loomJalr c rd ra imm) 1 dest.toNat x.pc) ∧
    Spells s c t (.loomBeqz c ra d) (br 0x20) ∧ Spells s c t (.loomBnez c ra d) (br 0x21) ∧ Spells s c t (.loomBltz c ra d) (br 0x22) ∧
    Spells s c t (.loomBgez c ra d) (br 0x23) ∧ Spells s c t (.loomJ c e) (0x24 * 2 ^ 26 + e.toNat) ∧
    Spells s c t (.loomJal c e) (0x25 * 2 ^ 26 + e.toNat) ∧
    Spells s c t (.loomJalr c rd ra imm) (0x26 * 2 ^ 26 + rd * 2 ^ 21 + ra * 2 ^ 16 + imm.toNat)

/-- R238: a load from memory gives rd the bytes it finds, lowest first, with the sign or with zeros above them. The opcode selects it (R233).
R238: a store writes the low bytes of rd, lowest first, at its effective address and no other byte; a store into the context area of a
thread that is READY, RUNNING or BLOCKED writes nothing (R268). The opcode selects it (R233). -/
def Obligations.LoomMemoryResults : Prop :=
  (∀ (s : State) (c : Fin 8) (t : Nat) (rd ra : Fin 32) (imm : BitVec 16) (bs : List Byte), s.canRun c t →
     let a := ((s.thread c t).reg ra + imm.signExtend 64).toNat
     let found (n : Nat) : Prop := s.loadable c t a n ∧ s.loadView c a n = some bs
     let m (op : Nat) : Nat := op * 2 ^ 26 + rd * 2 ^ 21 + ra * 2 ^ 16 + imm.toNat
     (found 1 → Gives s c t rd (.loomLb c rd ra imm) ((BitVec.ofNat 8 (ofLe bs)).signExtend 64) ∧
       Gives s c t rd (.loomLbu c rd ra imm) (BitVec.ofNat 64 (ofLe bs))) ∧
     (found 2 → Gives s c t rd (.loomLh c rd ra imm) ((BitVec.ofNat 16 (ofLe bs)).signExtend 64) ∧
       Gives s c t rd (.loomLhu c rd ra imm) (BitVec.ofNat 64 (ofLe bs))) ∧
     (found 4 → Gives s c t rd (.loomLw c rd ra imm) ((BitVec.ofNat 32 (ofLe bs)).signExtend 64) ∧
       Gives s c t rd (.loomLwu c rd ra imm) (BitVec.ofNat 64 (ofLe bs))) ∧
     (found 8 → Gives s c t rd (.loomLd c rd ra imm) (BitVec.ofNat 64 (ofLe bs))) ∧
     Spells s c t (.loomLb c rd ra imm) (m 0x10) ∧ Spells s c t (.loomLbu c rd ra imm) (m 0x11) ∧
     Spells s c t (.loomLh c rd ra imm) (m 0x12) ∧ Spells s c t (.loomLhu c rd ra imm) (m 0x13) ∧
     Spells s c t (.loomLw c rd ra imm) (m 0x14) ∧ Spells s c t (.loomLwu c rd ra imm) (m 0x15) ∧
     Spells s c t (.loomLd c rd ra imm) (m 0x16)) ∧
  (∀ (s : State) (c : Fin 8) (t : Nat) (rd ra : Fin 32) (imm : BitVec 16), s.canRun c t →
     let a := ((s.thread c t).reg ra + imm.signExtend 64).toNat
     let v := (s.thread c t).reg rd
     let m (op : Nat) : Nat := op * 2 ^ 26 + rd * 2 ^ 21 + ra * 2 ^ 16 + imm.toNat
     let store (i : Instr) (n : Nat) : Prop := s.storable c t a n →
       (s.ctxLocked (a / 32 * 32) = false → Stores s c t i a n v 0 0) ∧
       (s.ctxLocked (a / 32 * 32) = true → Completes i s fun u => u.thread c t = (s.thread c t).ends 0 0 ∧ SameMemory s u)
     store (.loomSb c rd ra imm) 1 ∧ store (.loomSh c rd ra imm) 2 ∧ store (.loomSw c rd ra imm) 4 ∧ store (.loomSd c rd ra imm) 8 ∧
     Spells s c t (.loomSb c rd ra imm) (m 0x18) ∧ Spells s c t (.loomSh c rd ra imm) (m 0x19) ∧
     Spells s c t (.loomSw c rd ra imm) (m 0x1A) ∧ Spells s c t (.loomSd c rd ra imm) (m 0x1B))

/-- R239, R255: an access that is not aligned raises ALIGN, one with address bits above bit 39 or to the register space from USER mode raises
ACCESS, so does a 64-bit access to the register space, and a load of poisoned data raises POISON; memory stays. R240: SWAP and CAS on 8
aligned bytes of Stockroom give rd what memory held; SWAP stores rd's old value and CAS stores rb when memory held rd's value; outside
Stockroom they raise ATOMIC. The opcode selects them (R233). -/
def Obligations.LoomAccessesAndAtomics : Prop :=
  (∀ (s : State) (c : Fin 8) (t : Nat) (rd ra : Fin 32) (imm : BitVec 16), s.canRun c t → (s.thread c t).canTrap →
     let x := s.thread c t
     let a := (x.reg ra + imm.signExtend 64).toNat
     let traps (i : Instr) (n : Nat) (isLoad : Bool) : Prop :=
       (a % n ≠ 0 → Traps s c t i 5 a x.pc) ∧ (a % n = 0 → 2 ^ 40 ≤ a → Traps s c t i 6 a x.pc) ∧
       (a % n = 0 → inRegs a = true → x.sys = false → Traps s c t i 6 a x.pc) ∧
       (n = 8 → a % n = 0 → inRegs a = true → (findRow a).isSome → Traps s c t i 6 a x.pc) ∧
       (isLoad = true → s.loadable c t a n → s.loadView c a n = none → Traps s c t i 8 a x.pc)
     traps (.loomLb c rd ra imm) 1 true ∧ traps (.loomLbu c rd ra imm) 1 true ∧ traps (.loomLh c rd ra imm) 2 true ∧
     traps (.loomLhu c rd ra imm) 2 true ∧ traps (.loomLw c rd ra imm) 4 true ∧ traps (.loomLwu c rd ra imm) 4 true ∧
     traps (.loomLd c rd ra imm) 8 true ∧ traps (.loomSb c rd ra imm) 1 false ∧ traps (.loomSh c rd ra imm) 2 false ∧
     traps (.loomSw c rd ra imm) 4 false ∧ traps (.loomSd c rd ra imm) 8 false) ∧
  (∀ (s : State) (c : Fin 8) (t : Nat) (rd ra rb : Fin 32) (imm : BitVec 16), s.canRun c t →
     let x := s.thread c t
     let a := (x.reg ra + imm.signExtend 64).toNat
     let b := (x.reg ra).toNat
     let m (op : Nat) : Nat := op * 2 ^ 26 + rd * 2 ^ 21 + ra * 2 ^ 16 + imm.toNat
     let old (p : Nat) : DWord := BitVec.ofNat 64 (ofLe (s.bytesAt p 8))
     let open_ (p : Nat) : Prop := s.storable c t p 8 ∧ inStock p = true ∧ s.poisoned p 8 = false ∧ s.ctxLocked (p / 32 * 32) = false
     (open_ a → Stores s c t (.loomSwap c rd ra imm) a 8 (x.reg rd) rd (old a)) ∧
     (open_ b → old b = x.reg rd → Stores s c t (.loomCas c rd ra rb) b 8 (x.reg rb) rd (old b)) ∧
     (open_ b → old b ≠ x.reg rd → Gives s c t rd (.loomCas c rd ra rb) (old b)) ∧
     (x.canTrap → a % 8 = 0 → s.inExt a = true → a < 2 ^ 40 → Traps s c t (.loomSwap c rd ra imm) 7 a x.pc) ∧
     (x.canTrap → b % 8 = 0 → s.inExt b = true → b < 2 ^ 40 → Traps s c t (.loomCas c rd ra rb) 7 b x.pc) ∧
     Spells s c t (.loomSwap c rd ra imm) (m 0x1C) ∧
     Spells s c t (.loomCas c rd ra rb) (0x1D * 2 ^ 26 + rd * 2 ^ 21 + ra * 2 ^ 16 + rb * 2 ^ 11))

/-- R247: NOW and TICK read the clocks; WAITPOS answers LATE (0x0A) for a position not later than the position, else waits for it; ARMAT checks
like a register write of ARM (R70), answers the status, and on OK leaves the slot ARMED with the settings it names. -/
def Obligations.LoomTimelineResults : Prop :=
  ∀ (s : State) (c : Fin 8) (t : Nat) (rd ra : Fin 32) (low : BitVec 10), s.canRun c t →
    let s0 := s.fetched c t
    let x := s.thread c t
    let a := (x.reg ra).toNat
    let v := (x.reg (Fin.ofNat 32 (low.toNat / 32))).toNat
    let k := v % 256
    let st := s0.armCheck k a (v / 2 ^ 32 % 2 ^ 32) (v / 2 ^ 16 % 2 ^ 16) (v / 2 ^ 12 % 16) (v / 2 ^ 10 % 4)
    Gives s c t rd (.loomNow c rd 0 0) (BitVec.ofNat 64 s.ys.pos) ∧ Gives s c t rd (.loomTick c rd 0 0) (BitVec.ofNat 64 s.ys.tick) ∧
    (a ≤ s.ys.pos → Gives s c t rd (.loomWaitpos c rd ra 0) 0x0A) ∧
    (s.ys.pos < a → Waits s c t (.loomWaitpos c rd ra 0) (.position a rd) none) ∧
    (low.toNat % 32 = 0 → v / 2 ^ 8 % 4 ≠ 0 → Gives s c t rd (.loomArmat c rd ra low) 1) ∧
    (low.toNat % 32 = 0 → v / 2 ^ 8 % 4 = 0 → Completes (.loomArmat c rd ra low) s fun u =>
      ThreadOnly s u c t (x.ends rd (BitVec.ofNat 64 st.code)) ∧ u.rd YS_STATUS_RESULT = st.code ∧
      (st = .ok → u.on (YS_SLOT_CTRL_ARMED k) = true ∧ u.slotPos k = a ∧ u.rd (YS_SLOT_TARGET k) = v / 2 ^ 32 % 2 ^ 32 ∧
        u.rd (YS_SLOT_CTRL_PERIOD k) = v / 2 ^ 16 % 2 ^ 16 ∧ u.rd (YS_SLOT_CTRL_ACTION k) = v / 2 ^ 12 % 16 ∧
        u.rd (YS_SLOT_CTRL_MODE k) = v / 2 ^ 10 % 4) ∧
      (st ≠ .ok → ∀ g : Fld, quietReg g.addr → g.addr ≠ YS_STATUS_RESULT.addr → u.rd g = s.rd g))

/-- R251, R258, R259: CSRR gives each control register, CSRW in SYS mode replaces the writable ones and refuses the others with BADARG (1),
USER mode is refused with DENIED (6), and an undefined number is ILLEGAL. R251, R255 to R257, R462: LOG hands Ledger its record and answers
OK, or is refused; TRAP raises SOFT with the pc after it in EPC; a trap in a trap, or without a handler, suspends the thread; ERET goes
back to EPC in the mode that ECAUSE holds. -/
def Obligations.LoomSystemResults : Prop :=
  (∀ (s : State) (c : Fin 8) (t : Nat) (rd ra : Fin 32) (n : BitVec 10), s.canRun c t → t < 64 →
     let x := s.thread c t
     let v := x.reg ra
     let defined : List (Nat × DWord) := [(0x000, BitVec.ofNat 64 (x.gen * 2 ^ 32 + c * 2 ^ 16 + t * 2 ^ 8)),
       (0x001, BitVec.ofNat 64 (b2n x.intrap * 2 + b2n x.sys)), (0x002, x.tvec), (0x003, x.epc), (0x004, x.ecause), (0x005, x.eaddr),
       (0x006, x.escratch), (0x007, x.priMax), (0x008, BitVec.ofNat 64 x.sigpend),
       (0x010, BitVec.ofNat 64 ((s.now - s.fm.resetAt) * 8 / 5)), (0x011, x.retired), (0x020, 0), (0x021, 0), (0x022, 0)]
     let written (y : Thread) : Prop := Completes (.loomCsrw c rd ra n) s fun u => ThreadOnly s u c t (y.ends rd 0)
     (∀ w, (n.toNat, w) ∈ defined → Gives s c t rd (.loomCsrr c rd 0 n) w) ∧
     ((∀ w, (n.toNat, w) ∉ defined) → x.canTrap →
       Traps s c t (.loomCsrr c rd 0 n) 3 (0xFCF00000 + rd * 2 ^ 15 + n.toNat) x.pc ∧
       Traps s c t (.loomCsrw c rd ra n) 3 (0xFD000000 + rd * 2 ^ 15 + ra * 2 ^ 10 + n.toNat) x.pc) ∧
     (2 ≤ n.toNat → n.toNat ≤ 7 → x.sys = false → Gives s c t rd (.loomCsrw c rd ra n) 6) ∧
     (n.toNat = 0 ∨ n.toNat = 1 ∨ n.toNat = 8 ∨ n.toNat = 0x10 ∨ n.toNat = 0x11 → Gives s c t rd (.loomCsrw c rd ra n) 1) ∧
     (x.sys = true → (n.toNat = 2 → (v.toNat < 2 ^ 40 ∧ v.toNat % 4 = 0 → written { x with tvec := v }) ∧
         (2 ^ 40 ≤ v.toNat ∨ v.toNat % 4 ≠ 0 → Gives s c t rd (.loomCsrw c rd ra n) 1)) ∧
       (n.toNat = 3 → written { x with epc := v }) ∧ (n.toNat = 5 → written { x with eaddr := v }) ∧
       (n.toNat = 6 → written { x with escratch := v }) ∧
       (n.toNat = 7 → (v.toNat < 64 → written { x with priMax := v }) ∧ (64 ≤ v.toNat → Gives s c t rd (.loomCsrw c rd ra n) 1))) ∧
     (n.toNat = 0x21 → Completes (.loomCsrw c rd ra n) s fun u => u.thread c t = x.ends rd 0 ∧ (u.core c).dcache = {}) ∧
     (n.toNat = 0x22 → Completes (.loomCsrw c rd ra n) s fun u => u.thread c t = x.ends rd 0 ∧ (u.core c).icache = {})) ∧
  (∀ (s : State) (c : Fin 8) (t : Nat) (rd ra : Fin 32) (low : BitVec 10), s.canRun c t →
     let s0 := s.fetched c t
     let x := s.thread c t
     let a := (x.reg ra).toNat
     let b := (x.reg (Fin.ofNat 32 (low.toNat / 32))).toNat
     let cls := a / 2 ^ 28 % 16
     let sev := a % 256
     (low.toNat % 32 = 0 → cls = 15 ∨ (x.sys = false ∧ cls ≠ 13 ∧ cls ≠ 14) → Gives s c t rd (.loomLog c rd ra low) 6) ∧
     (low.toNat % 32 = 0 → cls ≠ 15 → x.sys = true → 2 ^ 32 ≤ a ∨ 2 ^ 32 ≤ b ∨ a / 2 ^ 8 % 256 ≠ 0 ∨ sev = 0 ∨ 4 < sev →
       Gives s c t rd (.loomLog c rd ra low) 1) ∧
     (low.toNat % 32 = 0 → cls ≠ 15 → x.sys = true ∨ cls = 13 ∨ cls = 14 → a < 2 ^ 32 → b < 2 ^ 32 → a / 2 ^ 8 % 256 = 0 → 1 ≤ sev → sev ≤ 4 →
       s0.lg.taking = true → s0.lg.intake.length < 64 → Completes (.loomLog c rd ra low) s fun u =>
         ThreadOnly s u c t (x.ends rd 0) ∧ u.lg.intake = s0.lg.intake ++ [⟨a / 2 ^ 16, 8 + c, sev, b⟩]) ∧
     (x.canTrap → Traps s c t (.loomTrap c 0 0 low) 9 low.toNat (x.pc + 4)) ∧
     (¬ x.canTrap → Completes (.loomTrap c 0 0 low) s fun u => (u.thread c t).st = .suspended ∧ (u.core c).running = none) ∧
     (x.intrap = true → x.sys = true → Completes (.loomEret c 0 0 0) s fun u => ThreadOnly s u c t
       { x with pc := x.epc, sys := x.ecause.getLsbD 16, intrap := false, retired := x.retired + 1 }) ∧
     (x.intrap = false → x.tvec ≠ 0 → Traps s c t (.loomEret c 0 0 0) 3 0xFD300000 x.pc))

/-- R248, R270, R273: yielding, sleeping, signals, priorities and the halt of a thread. -/
def Obligations.LoomScheduling : Prop :=
  ∀ (s : State) (c : Fin 8) (t : Nat) (rd ra : Fin 32) (low : BitVec 10), s.canRun c t → t < 64 → s.coreOn c = true →
    let s0 := s.fetched c t
    let x := s.thread c t
    let a := x.reg ra
    let b := (x.reg (Fin.ofNat 32 (low.toNat / 32))).toNat
    let above (p : Nat) : Prop := ∃ q, p ≤ q ∧ q < 64 ∧ (s.core c).ready.get [] q ≠ []
    let mask := a.toNat % 2 ^ 16
    (¬ above x.pri → Gives s c t 0 (.loomYield c 0 0 0) 0) ∧ (above x.pri → Yields s c t (.loomYield c 0 0 0) 0 0) ∧
    (a = 0 → ¬ above x.pri → Gives s c t rd (.loomSleep c rd ra 0) 0) ∧ (a = 0 → above x.pri → Yields s c t (.loomSleep c rd ra 0) rd 0) ∧
    (0 < a.toNat → a.toNat < 2 ^ 48 → Waits s c t (.loomSleep c rd ra 0) (.sleep rd) (some (s.ys.tick + a.toNat))) ∧
    (2 ^ 48 ≤ a.toNat → Gives s c t rd (.loomSleep c rd ra 0) 1) ∧
    (mask = 0 → Gives s c t rd (.loomWaitsig c rd ra 0) 1) ∧
    (x.sigpend &&& mask ≠ 0 → Completes (.loomWaitsig c rd ra 0) s fun u => ThreadOnly s u c t
      { x.ends rd (BitVec.ofNat 64 ((x.sigpend &&& mask) * 2 ^ 16)) with sigpend := x.sigpend - (x.sigpend &&& mask) }) ∧
    (mask ≠ 0 → x.sigpend &&& mask = 0 → Waits s c t (.loomWaitsig c rd ra 0) (.signal mask rd) (s.deadline a)) ∧
    (low.toNat % 32 = 0 → (∀ tc < 8, ∀ tt < 64, a.toNat ≠ tc * 2 ^ 16 + tt * 2 ^ 8) ∨ b = 0 ∨ 2 ^ 16 ≤ b → Gives s c t rd (.loomSignal c rd ra low) 1) ∧
    (low.toNat % 32 = 0 → 0 < b → b < 2 ^ 16 → ∀ tc < 8, ∀ tt < 64, a.toNat = tc * 2 ^ 16 + tt * 2 ^ 8 →
      (s.coreOn tc = false → Gives s c t rd (.loomSignal c rd ra low) 5) ∧
      (s.coreOn tc = true → (s0.core tc).queue.length < 64 → (s0.core tc).held = [] → Completes (.loomSignal c rd ra low) s fun u =>
        ThreadOnly s u c t (x.ends rd 0) ∧ (u.core tc).queue = (s0.core tc).queue ++ [.signal tt b]) ∧
      (s.coreOn tc = true → 64 ≤ (s0.core tc).queue.length → Waits s c t (.loomSignal c rd ra low) (.room tc tt b rd) none)) ∧
    (low.toNat % 32 = 0 → x.st = .running → a = 2 ^ 31 → b < 64 → x.sys = true ∨ b ≤ x.priMax.toNat % 64 → ¬ above (b + 1) →
      Completes (.loomSetpri c rd ra low) s fun u => ThreadOnly s u c t { x.ends rd 0 with pri := b }) ∧
    (low.toNat % 32 = 0 → x.sys = false → a ≠ 2 ^ 31 ∧ a ≠ BitVec.ofNat 64 (c * 2 ^ 16 + t * 2 ^ 8) ∨ x.priMax.toNat % 64 < b →
      a.toNat < 2 ^ 31 ∨ a = 2 ^ 31 → Gives s c t rd (.loomSetpri c rd ra low) 6) ∧
    (low.toNat % 32 = 0 → x.sys = true → 64 ≤ b → Gives s c t rd (.loomSetpri c rd ra low) 1) ∧
    (low.toNat % 32 = 0 → x.sys = true → b < 64 → ∀ tc < 8, ∀ tt < 64, (tc, tt) ≠ (c.val, t) → a.toNat = tc * 2 ^ 16 + tt * 2 ^ 8 → s.coreOn tc = true →
      ((s.thread tc tt).st = .dormant → Gives s c t rd (.loomSetpri c rd ra low) 2) ∧
      ((s.thread tc tt).st ≠ .dormant → Completes (.loomSetpri c rd ra low) s fun u => u.thread c t = x.ends rd 0 ∧ SameMemory s u ∧
        u.thread tc tt = if (s.thread tc tt).st = .blocked ∨ (s.thread tc tt).st = .suspended then { (s.thread tc tt) with nextPri := some b }
          else { (s.thread tc tt) with pri := b })) ∧
    (s.boot.session = none → Completes (.loomHalt c 0 0 0) s fun u => SameMemory s u ∧ (u.core c).running = none ∧
      ((s0.core c).held = [] → ∀ k, k ≠ tkey c t → u.threads.get {} k = s.threads.get {} k) ∧ u.thread c t = { x with
        st := .dormant, wait := .none, deadline := none, matched := false, timed := false, nextPri := none, result := [], sigpend := 0 })

/-- R249, R306, R307: POST leaves its message, with the sender's generation, at the newest place of the mailbox; RECV takes the oldest one of
its sender, or waits. -/
def Obligations.LoomMessages : Prop :=
  ∀ (s : State) (c : Fin 8) (t : Nat) (rd ra : Fin 32) (low : BitVec 10), s.canRun c t → low.toNat % 32 = 0 →
    let x := s.thread c t
    let a := (x.reg ra).toNat
    let rb : Fin 32 := Fin.ofNat 32 (low.toNat / 32)
    let msg := x.reg rb
    let service : Prop := a = 2 ∧ 2 ^ 63 ≤ msg.toNat
    let src := a % 16
    let word : MbWord := { value := msg, gen := x.gen, thread := t, device := 0 }
    let post := Instr.loomPost c rd ra low
    let recv := Instr.loomRecv c rd ra low
    (12 ≤ a ∨ a = c + 2 → Gives s c t rd post 1) ∧
    (a < 12 → a ≠ c + 2 → ¬ service → s.endpointOn a = false → Gives s c t rd post 5) ∧
    (a < 10 → a ≠ c + 2 → ¬ service → s.endpointOn a = true → Completes post s fun u =>
      let old := (s.box (c + 2) a).words
      if s.boxSize ≤ old.length
      then ThreadOnly s u c t (x.ends rd 0x100) ∧ u.box (c + 2) a = { words := old.dropLast ++ [{ word with coll := true }] }
      else ThreadOnly s u c t (x.ends rd 0) ∧ u.box (c + 2) a = { words := old ++ [word] }) ∧
    (a / 16 % 2 ^ 12 ≠ 0 ∨ (12 ≤ src ∧ src < 15) ∨ src = c + 2 → Gives s c t rd recv 1) ∧
    (a / 16 % 2 ^ 12 = 0 → src < 12 → src ≠ c + 2 → s.endpointOn src = false → Gives s c t rd recv 5) ∧
    (a / 16 % 2 ^ 12 = 0 → src < 12 → src ≠ c + 2 → s.endpointOn src = true → (s.box src (c + 2)).words = [] →
      Waits s c t recv (.mailbox src rd rb) (s.deadline (x.reg ra))) ∧
    (a / 16 % 2 ^ 12 = 0 → src < 12 → src ≠ c + 2 → s.endpointOn src = true → rd ≠ rb → ∀ m l, (s.box src (c + 2)).words = m :: l →
      Completes recv s fun u => u.box src (c + 2) = { words := l } ∧
        ThreadOnly s u c t ((x.setReg rb m.value).ends rd
          (BitVec.ofNat 64 ((if s.stale src m then 0x0B else 0) + src * 2 ^ 8 + b2n m.coll * 2 ^ 12))))

/-- R107, R250: what SUBMIT, FENCE, RELEASE and ENGSTAT answer and leave. -/
def Obligations.LoomEngines : Prop :=
  ∀ (s : State) (c : Fin 8) (t : Nat) (rd ra : Fin 32) (low : BitVec 10), s.canRun c t →
    let s0 := s.fetched c t
    let x := s.thread c t
    let n := (x.reg ra).toNat
    let b := (x.reg (Fin.ofNat 32 (low.toNat / 32))).toNat
    let r := RingId.engine (Fin.ofNat 16 n)
    let g := ringBase r
    let submit := Instr.loomSubmit c rd ra low
    let fence := Instr.loomFence c rd ra low
    let e := n / 2 ^ 8 % 256
    let f := n % 256
    (low.toNat % 32 = 0 → 15 < n ∨ b % 64 ≠ 0 ∨ s.entrySource b = false → Gives s c t rd submit 1) ∧
    (low.toNat % 32 = 0 → n ≤ 15 → b % 64 = 0 → s.entrySource b = true → s.ringUnit r = false → Gives s c t rd submit 5) ∧
    (low.toNat % 32 = 0 → n ≤ 15 → b % 64 = 0 → s.entrySource b = true → s.ringUnit r = true →
      (s.on (RING_CTRL_ENABLE g) = false → Gives s c t rd submit 2) ∧
      (s.on (RING_CTRL_ENABLE g) = true → s.ringSize g ≤ s.ringCount g → Gives s c t rd submit 4) ∧
      (s.on (RING_CTRL_ENABLE g) = true → s.ringCount g < s.ringSize g → s.poisoned b 64 = true → Gives s c t rd submit 7) ∧
      (s.on (RING_CTRL_ENABLE g) = true → s.ringCount g < s.ringSize g → s.poisoned b 64 = false → Completes submit s fun u =>
        u.thread c t = x.ends rd (BitVec.ofNat 64 (s.rd (RING_TAIL g) * 2 ^ 16)) ∧ u.rd (RING_TAIL g) = (s.rd (RING_TAIL g) + 1) % 2 ^ 16 ∧
        (∀ k, k ≠ tkey c t → u.threads.get {} k = s.threads.get {} k))) ∧
    (low.toNat % 32 = 0 → fenceExists e f = false ∨ 2 ^ 32 ≤ b → Gives s c t rd fence 1) ∧
    (low.toNat % 32 = 0 → fenceExists e f = true → b < 2 ^ 32 → (s.engineOn e = false → Gives s c t rd fence 5) ∧
      (s.engineOn e = true → reached (s.fenceValue e f) b = true → Gives s c t rd fence 0) ∧
      (s.engineOn e = true → reached (s.fenceValue e f) b = false → Waits s c t fence (.fence e f b rd) (s.deadline (x.reg ra)))) ∧
    (s.has .draper = false → Gives s c t rd (.loomRelease c rd ra 0) 5) ∧
    (s.has .draper = true → n % 16 ≠ 0 → Gives s c t rd (.loomRelease c rd ra 0) 1) ∧
    (s.has .draper = true → n % 16 = 0 → s.bufNamed n = false → Completes (.loomRelease c rd ra 0) s fun u =>
      ThreadOnly s u c t (x.ends rd (BitVec.ofNat 64 ((s.rd DR_REL_SEQ + 1) % 2 ^ 32 * 2 ^ 32))) ∧ u.rd DR_REL_SEQ = (s.rd DR_REL_SEQ + 1) % 2 ^ 32) ∧
    (s.has .draper = true → n % 16 = 0 → s.bufNamed n = true → s.dr.held.length < 32 → Completes (.loomRelease c rd ra 0) s fun u =>
      ThreadOnly s u c t (x.ends rd (BitVec.ofNat 64 ((s.rd DR_REL_SEQ + 1) % 2 ^ 32 * 2 ^ 32 + 9))) ∧
      u.dr.held = s.dr.held ++ [((s.rd DR_REL_SEQ + 1) % 2 ^ 32, n)]) ∧
    (s.has .draper = true → n % 16 = 0 → s.bufNamed n = true → 32 ≤ s.dr.held.length → Gives s c t rd (.loomRelease c rd ra 0) 4) ∧
    (15 < n → Gives s c t rd (.loomEngstat c rd ra 0) 1) ∧
    (n ≤ 15 → s.ringRegs r = false → Gives s c t rd (.loomEngstat c rd ra 0) 0) ∧
    (n ≤ 15 → s.ringRegs r = true → Gives s c t rd (.loomEngstat c rd ra 0) (BitVec.ofNat 64 (s0.rd (RING_HEAD g) * 2 ^ 48 +
      s0.rd (RING_TAIL g) * 2 ^ 32 + s0.rd (RING_CTRL_LOG2SIZE g) * 2 ^ 28 + s0.rd (RING_CTRL_ENABLE g) * 2 ^ 27 + 2 ^ 26)))

/-- R232, R233, R245: a system instruction with a field that must be zero and is not raises ILLEGAL, which gives the instruction's word; so
does, at the pc, a word of a reserved opcode, function or sub-opcode, and CAS with a function. SUB selects the system instructions. R238,
R239: SYS mode reads and writes 32-bit registers with LW, LWU and SW: the value read has the sign or zeros above it. -/
def Obligations.LoomWordsAndRegisters : Prop :=
  (∀ (s : State) (c : Fin 8) (t : Nat) (rd ra : Fin 32) (low : BitVec 10), s.canRun c t → (s.thread c t).canTrap →
     let x := s.thread c t
     let sw (sub : Nat) : Nat := 0xFC000000 + sub * 2 ^ 20 + rd * 2 ^ 15 + ra * 2 ^ 10 + low.toNat
     let bad (i : Instr) (sub : Nat) : Prop :=
       Traps s c t i 3 (sw sub) x.pc
     let w := s.wordAt c x.pc.toNat
     let op := w / 2 ^ 26
     let fn := w % 2 ^ 11
     let noInstruction : Prop := op = 0 ∧ 0x0C ≤ fn ∨ op = 1 ∧ (fn = 3 ∨ 8 ≤ fn) ∨ op = 2 ∧ 7 ≤ fn ∨ op = 3 ∧ 6 ≤ fn ∨ op ∈ [0x0F, 0x17, 0x1E, 0x1F, 0x27] ∨
       op = 0x1D ∧ fn ≠ 0 ∨ 0x28 ≤ op ∧ op < 0x3F ∨ op = 0x3F ∧ 0x15 ≤ w / 2 ^ 20 % 64
     (noInstruction → ThreadOnly s ((coreStep c).run s) c t (x.trapped 3 w x.pc)) ∧
     (ra ≠ 0 ∨ low ≠ 0 → bad (.loomNow c rd ra low) 0x00 ∧ bad (.loomTick c rd ra low) 0x01) ∧
     (low ≠ 0 → bad (.loomWaitpos c rd ra low) 0x02 ∧ bad (.loomSleep c rd ra low) 0x05 ∧ bad (.loomWaitsig c rd ra low) 0x07 ∧
       bad (.loomRelease c rd ra low) 0x0D ∧ bad (.loomEngstat c rd ra low) 0x0E) ∧
     (low.toNat % 32 ≠ 0 → bad (.loomArmat c rd ra low) 0x03 ∧ bad (.loomSignal c rd ra low) 0x06 ∧ bad (.loomPost c rd ra low) 0x08 ∧
       bad (.loomRecv c rd ra low) 0x09 ∧ bad (.loomSetpri c rd ra low) 0x0A ∧ bad (.loomSubmit c rd ra low) 0x0B ∧
       bad (.loomFence c rd ra low) 0x0C ∧ bad (.loomLog c rd ra low) 0x11) ∧
     (rd ≠ 0 ∨ ra ≠ 0 ∨ low ≠ 0 → bad (.loomYield c rd ra low) 0x04 ∧ bad (.loomEret c rd ra low) 0x13 ∧ bad (.loomHalt c rd ra low) 0x14) ∧
     (ra ≠ 0 → bad (.loomCsrr c rd ra low) 0x0F) ∧ (rd ≠ 0 ∨ ra ≠ 0 → bad (.loomTrap c rd ra low) 0x12) ∧
     Spells s c t (.loomNow c rd ra low) (sw 0x00) ∧ Spells s c t (.loomTick c rd ra low) (sw 0x01) ∧
     Spells s c t (.loomWaitpos c rd ra low) (sw 0x02) ∧ Spells s c t (.loomArmat c rd ra low) (sw 0x03) ∧
     Spells s c t (.loomYield c rd ra low) (sw 0x04) ∧ Spells s c t (.loomSleep c rd ra low) (sw 0x05) ∧
     Spells s c t (.loomSignal c rd ra low) (sw 0x06) ∧ Spells s c t (.loomWaitsig c rd ra low) (sw 0x07) ∧
     Spells s c t (.loomPost c rd ra low) (sw 0x08) ∧ Spells s c t (.loomRecv c rd ra low) (sw 0x09) ∧
     Spells s c t (.loomSetpri c rd ra low) (sw 0x0A) ∧ Spells s c t (.loomSubmit c rd ra low) (sw 0x0B) ∧
     Spells s c t (.loomFence c rd ra low) (sw 0x0C) ∧ Spells s c t (.loomRelease c rd ra low) (sw 0x0D) ∧
     Spells s c t (.loomEngstat c rd ra low) (sw 0x0E) ∧ Spells s c t (.loomCsrr c rd ra low) (sw 0x0F) ∧
     Spells s c t (.loomCsrw c rd ra low) (sw 0x10) ∧ Spells s c t (.loomLog c rd ra low) (sw 0x11) ∧
     Spells s c t (.loomTrap c rd ra low) (sw 0x12) ∧ Spells s c t (.loomEret c rd ra low) (sw 0x13) ∧
     Spells s c t (.loomHalt c rd ra low) (sw 0x14)) ∧
  (∀ (s : State) (c : Fin 8) (t : Nat) (rd ra : Fin 32) (imm : BitVec 16), s.canRun c t → (s.thread c t).sys = true →
     let x := s.thread c t
     x.reg ra + imm.signExtend 64 = 0x10090044 → s.latches.get 0 (latchDue (threadReq c t) 0x10090044) = 0 →
       Gives s c t rd (.loomLw c rd ra imm) ((BitVec.ofNat 32 (s.rd YS_PTP_OFF)).signExtend 64) ∧
       Gives s c t rd (.loomLwu c rd ra imm) (BitVec.ofNat 64 (s.rd YS_PTP_OFF)) ∧
       Completes (.loomSw c rd ra imm) s fun u => ThreadOnly s u c t (x.ends 0 0) ∧ u.rd YS_PTP_OFF = (x.reg rd).toNat % 2 ^ 32)

/-- R267 to R272: starting, killing, suspending and resuming a thread, and what is refused. R245, R272: a command that names no thread, or one
of a core that is off. -/
def Obligations.ThreadCommands : Prop :=
  (∀ (s : State) (w : Requester) (c : Fin 8) (t : Fin 64) (v : Word), s.coreOn c = true → v.toNat % 2 ^ 30 = c * 2 ^ 16 + t * 2 ^ 8 →
     let x := s.thread c t
     let area := ctxBase c t + 0x180
     let p (off : Nat) := leAt (s.bytesAt area 0x80) off 8
     let legal : Prop := p 0x20 < 2 ^ 9 ∧ p 0x20 / 2 ^ 6 % 4 = 0 ∧ leAt (s.bytesAt area 0x80) 0x28 0x58 = 0
     let fits (y : State) (st : Nat) : Prop := y.rd FM_STATUS_RESULT = st
     let others (y : State) : Prop := ∀ k, k ≠ tkey c t → y.threads.get {} k = s.threads.get {} k
     let refused (cmd : Instr) (op : Nat) : Prop := Does 0x10080000 0x10090000 cmd s fun y => fits y 2 ∧ y.on FM_EVENT_REFUSED = true ∧
       y.rd FM_REFUSALS = min (2 ^ 32 - 1) (s.rd FM_REFUSALS + 1) ∧ (s.roomy → Logged y 0xB306 .foreman note (op * 2 ^ 24 + 2))
     (x.st = .dormant → s.poisoned area 0x80 = false → legal → Completes (.fmStart w v) s fun y => fits y 0 ∧ others y ∧ SameMemory s y ∧
       let z := y.thread c t
       z.st = .ready ∧ z.wait = .none ∧ z.pri = p 0x20 % 64 ∧ z.sys = (p 0x20 / 2 ^ 8 % 2 == 1) ∧ z.pc.toNat = p 0 ∧ z.gen = (x.gen + 1) % 2 ^ 16 ∧
       (z.reg 1).toNat = p 8 ∧ (z.reg 30).toNat = p 0x10 ∧ (z.reg 29).toNat = p 0x18 ∧ (∀ i < 29, i ≠ 1 → z.reg i = 0) ∧ z.reg 31 = 0 ∧ z.sigpend = 0 ∧
       z.intrap = false ∧ z.tvec = 0 ∧ ((y.core c).ready.get [] z.pri).getLast? = some t.val) ∧
     (x.st = .dormant → s.poisoned area 0x80 = false → ¬ legal → Completes (.fmStart w v) s fun y => fits y 1 ∧ y.threads = s.threads ∧ SameMemory s y) ∧
     (x.st = .dormant → s.poisoned area 0x80 = true → Completes (.fmStart w v) s fun y => fits y 7 ∧ y.threads = s.threads ∧ SameMemory s y) ∧
     (x.st ≠ .dormant → refused (.fmStart w v) 0) ∧ (x.st = .dormant → refused (.fmKill w v) 1) ∧
     (x.st = .dormant ∨ x.st = .suspended → refused (.fmSuspend w v) 2) ∧ (x.st ≠ .suspended → refused (.fmResume w v) 3) ∧
     (x.st ≠ .dormant → s.boot.session = none → Completes (.fmKill w v) s fun y => fits y 0 ∧ y.flash = s.flash ∧ y.thread c t = { x with
         st := .dormant, wait := .none, deadline := none, matched := false, timed := false, nextPri := none, result := [], sigpend := 0,
         fresh := x.fresh && (s.core c).running != some t.val } ∧
       (y.core c).running ≠ some t.val ∧ ((s.core c).held = [] → others y ∧ ((∀ n < 64, (s.hasp n).owner ≠ some (s.threadIdent c t)) → (y.core c).queue = (s.core c).queue.filter (fun e => !e.names t)) ∧
         (y.core c).ready.get [] x.pri = ((s.core c).ready.get [] x.pri).filter (· ≠ t.val)) ∧
       ((s.core c).running ≠ some t.val → SameMemory s y) ∧ (∀ a, a < ctxBase c t ∨ ctxBase c t + 0x180 ≤ a → y.byteAt a = s.byteAt a) ∧
       ((s.core c).running = some t.val → s.dr.watch = [] → (∀ i < 12, s.excludedAt (ctxBase c t + 32 * i) = false) → y.bytesAt (ctxBase c t) 0x180 = x.context)) ∧
     (x.st ≠ .dormant → x.st ≠ .suspended → Completes (.fmSuspend w v) s fun y => fits y 0 ∧ others y ∧ (y.thread c t).st = .suspended ∧
       (y.thread c t).wait = x.wait ∧ (y.thread c t).g = x.g ∧ (y.thread c t).pc = x.pc ∧ (y.core c).running ≠ some t.val ∧
       y.on FM_EVENT_SUSPENDED = true ∧ (s.roomy → Logged y 0xB304 .foreman note (c * 2 ^ 16 + t * 2 ^ 8))) ∧
     (x.st = .suspended → Completes (.fmResume w v) s fun y => fits y 0 ∧ others y ∧ SameMemory s y ∧
       (x.wait ≠ .none → y.thread c t = { x with st := .blocked }) ∧
       (x.wait = .none → (y.thread c t).st = .ready ∧ (y.thread c t).g = x.g ∧ (y.thread c t).pri = x.readyPri ∧
         ((y.core c).ready.get [] x.readyPri).getLast? = some t.val))) ∧
  (∀ (s : State) (w : Requester) (v : Word),
     let named : Prop := ∃ c < 8, ∃ t < 64, v.toNat % 2 ^ 30 = c * 2 ^ 16 + t * 2 ^ 8
     let refused (st : Nat) : Prop := ∀ cmd ∈ [Instr.fmStart w v, .fmKill w v, .fmSuspend w v, .fmResume w v],
       Does 0x10080000 0x10090000 cmd s fun y => y.rd FM_STATUS_RESULT = st ∧ y.on FM_EVENT_REFUSED = true ∧ y.rd FM_REFUSALS = s.rd FM_REFUSALS
     (¬ named → refused 1) ∧ (named → s.coreOn (v.toNat / 2 ^ 16 % 8) = false → refused 5))

/-- R268, R273 to R275: writes to context areas, dispatch by priority, and the end of a context switch, which restores what leaving the core
has saved. -/
def Obligations.ThreadSwitching : Prop :=
  ∀ (s : State) (w : Requester) (addr : BitVec 40) (data : List Byte) (c : Fin 8) (t : Nat),
    let a := addr.toNat
    let k := s.core c
    let x := s.thread c t
    let write := Instr.contextAreaWrite w addr data
    let free : Prop := s.coreOn c = true ∧ s.rd (FM_PWR_STATE c) = 0 ∧ k.incoming = none
    let saved := ctxBase c t
    let seated (u : State) : Prop := (u.core c).incoming = none ∧ (u.core c).running = some t
    let resumed (z : Thread) : Thread := { (z.setRegs x.result) with st := .running, result := [] }
    let figures (u : State) := (u.core c).bands.get {} k.entering.band
    let counted (u : State) : Prop :=
      figures u = ⟨(figures s).count + 1, max (figures s).max k.entering.wait, (figures s).sum + k.entering.wait⟩
    (a < 0x5900000 ∨ 0x5940000 ≤ a → NoEffect write s) ∧
    (0x5900000 ≤ a → a < 0x5940000 → 0 < data.length → a % 32 + data.length ≤ 32 → s.excludedAt (a / 32 * 32) = false → s.dr.watch = [] →
      (s.ctxLocked (a / 32 * 32) = false → Completes write s fun u => u.threads = s.threads ∧ u.bytesAt a data.length = data ∧
        ∀ i, i < a ∨ a + data.length ≤ i → u.byteAt i = s.byteAt i) ∧
      (s.ctxLocked (a / 32 * 32) = true → Does 0x10080000 0x10090000 write s fun u => u.on FM_EVENT_CTX_DENY = true ∧
        u.rd FM_CTX_DENY = min (2 ^ 32 - 1) (s.rd FM_CTX_DENY + 1))) ∧
    (¬ free ∨ s.nextReady c = none → NoEffect (.threadDispatch c) s) ∧
    (∀ p r, free → s.nextReady c = some (p, t) → k.running = some r → p ≤ (s.thread c r).pri → NoEffect (.threadDispatch c) s) ∧
    (∀ p, free → s.nextReady c = some (p, t) → k.running = none → Completes (.threadDispatch c) s fun u => Quiet s u ∧ u.regs = s.regs ∧
      (u.core c).incoming = some t ∧ (u.core c).running = none ∧ t ∉ (u.core c).ready.get [] x.pri ∧
      (u.core c).entering = ⟨x.pri / 8, s.now - x.readyAt, s.now⟩ ∧ figures u = figures s) ∧
    (∀ p r, free → s.nextReady c = some (p, t) → k.running = some r → r < 64 → t < 64 → r ≠ t → (s.thread c r).pri < p → Completes (.threadDispatch c) s fun u =>
      (u.core c).incoming = some t ∧ (u.core c).running = none ∧ (u.thread c r).st = .ready ∧ u.thread c t = x ∧
      ((u.core c).ready.get [] (s.thread c r).readyPri).head? = some r) ∧
    (k.incoming = none → NoEffect (.contextSwitchDone c) s) ∧
    (k.incoming = some t → x.fresh = true → Completes (.contextSwitchDone c) s fun u => SameMemory s u ∧ u.thread c t = resumed x ∧ seated u ∧
      counted u) ∧
    (k.incoming = some t → x.fresh = false → s.poisoned saved 0x160 = false → Completes (.contextSwitchDone c) s fun u => SameMemory s u ∧
      u.thread c t = resumed (x.restore (s.bytesAt saved 0x160)) ∧ seated u ∧ counted u) ∧
    (k.incoming = some t → x.fresh = false → s.poisoned saved 0x160 = true → Completes (.contextSwitchDone c) s fun u => SameMemory s u ∧
      (u.thread c t).st = .suspended ∧ (u.core c).incoming = none ∧ u.on FM_EVENT_SUSPENDED = true ∧ figures u = figures s)

/-- R267: a context that Foreman has saved restores every general register, the pc, the mode and the control registers. -/
def Obligations.ContextRoundTrip : Prop :=
  ∀ x y : Thread,
    let z := y.restore x.context
    x.context.length = 384 ∧ (∀ i < 32, z.reg i = x.reg i) ∧ z.pc = x.pc ∧ z.sys = x.sys ∧ z.intrap = x.intrap ∧ z.tvec = x.tvec ∧ z.epc = x.epc ∧
    z.ecause = x.ecause ∧ z.eaddr = x.eaddr ∧ z.escratch = x.escratch ∧ z.priMax = x.priMax ∧ z.retired = x.retired ∧
    z.st = y.st ∧ z.wait = y.wait ∧ z.pri = y.pri ∧ z.gen = y.gen ∧ z.sigpend = y.sigpend

/-- R74, R246, R276 to R278: timers and position comparators give their wakes, the head of a queue wakes what waits for it, and a held wake
enters the queue when there is room. -/
def Obligations.PendingWakes : Prop :=
  ∀ (s : State) (c : Fin 8) (t : Fin 64) (es : List WakeEntry) (h : Held) (hs : List Held),
    let k := s.core c
    let x := s.thread c t
    let queue (u : State) := (u.core c).queue
    let take := Instr.wakeEntryTake c
    let open_ : Prop := s.coreOn c = true ∧ k.queue.length < 64 ∧ k.held = []
    let wakes (entry : WakeEntry) (l : List (Nat × DWord)) (y : Thread) : Prop := s.coreOn c = true → k.incoming = none → k.queue = entry :: es → x.st = .blocked →
      k.held = [] → Completes take s fun u => queue u = es ∧ SameMemory s u ∧ u.thread c t = { y with
          st := .ready, pri := x.readyPri, nextPri := none, wait := .none, deadline := none, matched := false, timed := false, result := l, readyAt := s.now } ∧
        ((u.core c).ready.get [] x.readyPri).getLast? = some t.val
    (s.coreOn c = false ∨ k.incoming ≠ none ∨ k.queue = [] → NoEffect take s) ∧
    (∀ bits, s.coreOn c = true → k.incoming = none → k.queue = .signal t bits :: es → (∀ m rd, x.wait ≠ .signal m rd) → k.held = [] → Completes take s fun u =>
      queue u = es ∧ u.thread c t = { x with sigpend := x.sigpend ||| bits } ∧ u.regs = s.regs) ∧
    (∀ bits m rd, x.wait = .signal m rd → (x.sigpend ||| bits) &&& m ≠ 0 → wakes (.signal t bits)
      [(rd, BitVec.ofNat 64 (((x.sigpend ||| bits) &&& m) * 2 ^ 16))] { x with sigpend := (x.sigpend ||| bits) - ((x.sigpend ||| bits) &&& m) }) ∧
    (∀ p rd late, x.wait = .position p rd → x.matched = true → wakes (.position t late) [(rd, if late then 0x0A else 0)] x) ∧
    (∀ rd, x.wait = .sleep rd → wakes (.timeline t) [(rd, 0)] x ∧ (x.timed = true → wakes (.timer t) [(rd, 0)] x)) ∧
    (∀ m rd, x.wait = .signal m rd → x.timed = true → x.sigpend &&& m = 0 → wakes (.timer t) [(rd, 8)] x) ∧
    (∀ bits, s.coreOn c = true → k.incoming = none → k.queue = .signal t bits :: es → (∀ m rd, x.wait ≠ .signal m rd) → k.held = h :: hs →
      h.origin = .source → es.length < 64 → Completes take s fun u => queue u = es ++ [h.entry] ∧ (u.core c).held = hs ∧
        u.rd (FM_PWQ_FULL c) = s.rd (FM_PWQ_FULL c) ∧ SameMemory s u) ∧
    (k.held = [] ∨ 64 ≤ k.queue.length → NoEffect (.heldWakeAdmit c) s) ∧
    (k.held = h :: hs → h.origin = .source → k.queue.length < 64 → Completes (.heldWakeAdmit c) s fun u =>
      queue u = k.queue ++ [h.entry] ∧ (u.core c).held = hs ∧ u.rd (FM_PWQ_FULL c) = s.rd (FM_PWQ_FULL c) ∧
      u.rd (FM_PWQ_PEAK c) = max (k.queue.length + 1) (s.rd (FM_PWQ_PEAK c)) ∧ Quiet s u) ∧
    (∀ ic it tc tt b rd, k.held = h :: hs → h.origin = .issuer ic it → (s.thread ic it).wait = .room tc tt b rd →
      (s.thread ic it).st = .blocked → k.queue.length < 64 → Completes (.heldWakeAdmit c) s fun u => (queue u) = k.queue ++ [h.entry] ∧
        (u.core c).held = hs ∧ (u.thread ic it).st = .ready ∧ (u.thread ic it).result = [(rd, 0)]) ∧
    (∀ d, open_ → k.queue = [] → x.deadline = some d → d ≤ s.ys.tick → x.timed = false → s.waiting c t = true → s.on (NOTIFY_ENABLE FM_NOTIFY_addr) = false →
      Completes .timerCheck s fun u => .timer t.val ∈ queue u ∧ u.thread c t = { x with timed := true } ∧ SameMemory s u) ∧
    (∀ p rd, open_ → x.wait = .position p rd → x.matched = false → p ≤ s.ys.pos → Completes (.positionComparatorMatch c t) s fun u =>
      queue u = k.queue ++ [.position t false] ∧ u.thread c t = { x with matched := true } ∧ SameMemory s u) ∧
    ((∀ p rd, x.wait = .position p rd → x.matched = true ∨ s.ys.pos < p) → NoEffect (.positionComparatorMatch c t) s)

/-- R281 to R286: power gating of a core, the end of a measurement window, and the watchdog's kick and warning. -/
def Obligations.CoresAndWatchdog : Prop :=
  ∀ (s : State) (c : Fin 8) (w : Requester) (v : Word),
    let k := s.core c
    let fm := Does 0x10080000 0x10090000
    let state := s.rd (FM_PWR_STATE c)
    let sleeps : Prop := 0 < c.val ∧ s.coreOn c = true ∧ s.on (FM_PWR_MODE c) = true ∧ state = 0 ∧ k.running = none ∧ k.incoming = none ∧ s.nextReady c = none ∧
      max k.idleSince s.fm.resetAt + max 1 (s.rd (FM_PWR_IDLE c)) * 1000 ≤ s.now
    let key : Prop := (∃ t, w = .thread 0 t) ∧ v.toNat % 2 ^ 16 = 0x4B1C
    let kick := Instr.wdogKick w v
    let rejects (t : State) : Prop := t.rd FM_WDOG_STAT_REJECT = min (2 ^ 16 - 1) (s.rd FM_WDOG_STAT_REJECT + 1) ∧ t.fm.wdogKicked = s.fm.wdogKicked
    (sleeps → fm (.corePowerDown c) s fun t => t.rd (FM_PWR_STATE c) = 2 ∧ t.core c = { k with icache := {}, dcache := {} }) ∧
    (¬ sleeps → NoEffect (.corePowerDown c) s) ∧
    (state = 2 → fm (.corePowerUp c) s fun t => t.rd (FM_PWR_STATE c) = 3 ∧ t.cores = s.cores) ∧ (state ≠ 2 → NoEffect (.corePowerUp c) s) ∧
    (state = 3 → fm (.corePowerUpDone c) s fun t => t.rd (FM_PWR_STATE c) = 0 ∧ t.cores = s.cores) ∧ (state ≠ 3 → NoEffect (.corePowerUpDone c) s) ∧
    (fm .foremanWindowEnd s fun t => t.fm.winStart = s.now ∧ t.rd FM_WIN_SEQ = (s.rd FM_WIN_SEQ + 1) % 2 ^ 16 ∧
      t.rd (FM_BUSY c) = min (2 ^ 32 - 1) (k.busy + match k.busySince with | some b => s.now - b | none => 0) ∧
      (∀ b < 8, let y := k.bands.get {} b
        t.rd (FM_BAND_COUNT c b) = min (2 ^ 32 - 1) y.count ∧ t.rd (FM_BAND_MAX c b) = min (2 ^ 32 - 1) y.max ∧
        (y.count ≠ 0 → y.sum / y.count < 2 ^ 32 → t.rd (FM_BAND_MEAN c b) = y.sum / y.count)) ∧
      t.core c = { k with busy := 0, busySince := k.busySince.map fun _ => s.now, bands := [], fullSeen := false }) ∧
    (key → s.stuckGroups = [] → fm kick s fun t => t.on FM_WDOG_CFG_STUCK = false ∧ t.rd FM_WDOG_STAT_REJECT = s.rd FM_WDOG_STAT_REJECT ∧
      t.fm = { s.fm with wdogKicked := s.now, wdogTimeout := max 10 (min 60000 (s.rd FM_WDOG_CFG_TIMEOUT)), wdogWarned := false }) ∧
    (key → s.stuckGroups ≠ [] → fm kick s fun t => rejects t ∧ t.on FM_WDOG_CFG_STUCK = true ∧
      ∀ g r, s.ts.running.get none g = some r → g ∈ s.stuckGroups → t.ts.running.get none g = some { r with told := true }) ∧
    (∀ g, g ∈ s.stuckGroups ↔ g < 16 ∧ ∃ r, s.ts.running.get none g = some r ∧ 60000 + 5 * r.lost < 6 * (s.now - r.since)) ∧
    (¬ key → fm kick s fun t => rejects t ∧ t.on FM_WDOG_CFG_STUCK = s.on FM_WDOG_CFG_STUCK) ∧
    (s.on FM_WDOG_CFG_RUNNING = true → s.fm.wdogWarned = false → fm .wdogWarn s fun t => t.fm = { s.fm with wdogWarned := true } ∧
      t.on FM_EVENT_WDOG_WARN = true ∧
      (s.roomy → Logged t 0xB302 .foreman warning ((s.fm.wdogTimeout - (s.now - s.fm.wdogKicked) / 10 ^ 6) % 2 ^ 32))) ∧
    (s.on FM_WDOG_CFG_RUNNING = false ∨ s.fm.wdogWarned = true → NoEffect .wdogWarn s)

/-- R480, R482: after a power-on reset every register but the fused and strapped ones is at its reset value, memory reads as the unwritten
byte, threads, cores, Yardstick and Ledger are as new, and flash and fuses are kept. -/
def Obligations.PowerOnReset : Prop :=
  ∀ (s : State) (env : PowerEnv), Completes (.powerOnReset env) s fun t =>
    (∀ a < 2 ^ 40, t.byteAt a = 0) ∧ t.flash = s.flash ∧ (∀ k, t.threads.get {} k = {}) ∧ (∀ k, t.cores.get {} k = {}) ∧
    t.ys = {} ∧ t.lg = {} ∧ t.hst = {} ∧ t.boot = { fuse := s.boot.fuse, tamperHeld := s.boot.tamperHeld } ∧
    t.rd BT_STATUS_SOURCE = env.bootSrc ∧ t.on (HP_STATUS_MODE 0) = env.haXspi ∧ t.on (HP_STATUS_MODE 1) = env.hbXspi ∧
    t.sh = { master := env.master } ∧ t.pair BT_SERIAL_LO BT_SERIAL_HI = s.boot.fuse.serial % 2 ^ 64 ∧
    ∀ g : Fld, g.addr ∉ [SYS_ID_GRADE.addr, (HP_PCIID_VENDOR 0).addr, (HP_PCIID_VENDOR 1).addr, BT_STATUS_OWNED.addr, BT_SVN_FUSED.addr,
      BT_SERIAL_LO.addr, BT_SERIAL_HI.addr, (HP_STATUS_MODE 0).addr, (HP_STATUS_MODE 1).addr] → t.rd g = g.of (BitVec.ofNat 32 g.reset)

/-- R480, R481: a warm reset records the cause of highest rank, keeps memory and flash, puts threads, cores and every register outside the
always-on domain back, and keeps the registers of that domain. R286, R481, R486, R508, R545: what takes the part into reset or holds it
there, and the record that each leaves. -/
def Obligations.Resets : Prop :=
  (∀ (s : State) (causes : List WarmCause) (c : WarmCause), c ∈ causes → (∀ d ∈ causes, warmRank c ≤ warmRank d) → s.boot.session = none →
     Completes (.warmReset causes) s fun t =>
       t.rd BT_RSTCAUSE_CAUSE = warmCode c ∧ SameMemory s t ∧ (∀ k, t.threads.get {} k = {}) ∧ (∀ k, t.cores.get {} k = {}) ∧
       t.lg.taking = false ∧ t.boot.atStart = true ∧ t.dr = {} ∧ t.hst = {} ∧ t.net = {} ∧
       (∀ g : Fld, keptWarm g.addr = false → t.rd g = g.of (BitVec.ofNat 32 g.reset)) ∧
       ∀ g : Fld, keptWarm g.addr = true → g.addr ∉ [(HP_STATUS_LINK 0).addr, (HP_STATUS_LINK 1).addr, BT_STATUS_STEP.addr,
         BT_SVN_IMAGE.addr, FM_LASTRESET_WDOG.addr, BT_RSTCAUSE_CAUSE.addr] → (g.addr < 0x10340800 ∨ 0x10340880 ≤ g.addr) → t.rd g = s.rd g) ∧
  (∀ s : State, s.boot.session = none →
     (s.on FM_WDOG_CFG_RUNNING = true → Completes .wdogBite s fun t => t.rd BT_RSTCAUSE_CAUSE = 2 ∧ t.on FM_LASTRESET_WDOG = true ∧
       t.rd FM_LASTRESET_BITE_MS = s.fm.wdogTimeout % 2 ^ 16 ∧ t.boot.pendBite = true ∧ SameMemory s t) ∧
     (∀ n : Fin 15, 7 ≤ n.val → n.val ≤ 13 → s.rd (BT_JOURNAL_STEP n) = 1 → s.boot.stepAt + 60 * 10 ^ 9 ≤ s.now → Completes (.stepTimeout n) s fun t =>
       t.rd BT_RSTCAUSE_CAUSE = 5 ∧ t.rd (BT_JOURNAL_STEP n) = 3 ∧ t.boot.pendStep = some n.val) ∧
     (∀ n : Fin 15, s.now < s.boot.stepAt + 60 * 10 ^ 9 → NoEffect (.stepTimeout n) s) ∧
     (∀ k : TamperSensor, s.armed k = true → s.boot.tamperHeld < 8 → bit s.boot.tamperHeld (sensorBit k) = false →
       Completes (.tamperReading k true) s fun t => t.rd BT_RSTCAUSE_CAUSE = 4 ∧ bit t.boot.tamperHeld (sensorBit k) = true ∧
         t.boot.pendTamper = some (2 ^ sensorBit k) ∧ ∀ j < 3, t.on (BT_TAMPER_CAUSE j) = (j == sensorBit k)) ∧
     (∀ k : TamperSensor, Completes (.tamperReading k false) s fun t => bit t.boot.tamperHeld (sensorBit k) = false ∧ Quiet s t ∧ t.regs = s.regs) ∧
     (s.boot.tapHeld = false → Completes (.tapInstruction .other) s fun t => t.boot.tapHeld = true ∧ ∀ k, t.threads.get {} k = {}) ∧
     (Completes (.tapInstruction .tapReset) s fun t => t.boot.tapHeld = false ∧ Quiet s t ∧ t.regs = s.regs) ∧
     NoEffect (.tapInstruction .bypass) s ∧ NoEffect (.tapInstruction .idcode) s ∧ NoEffect (.tapInstruction .sample) s ∧
     Completes .coreSupplyLoss s fun t => t.boot.halted = true ∧ t.rd SYS_UNITS_WORD = 0 ∧ t.rd MT_STATUS_SEL = 0 ∧ t.mt.pulls = false ∧ Quiet s t)

/-- R27, R484, R487, R498: steps 0 to 5 of a start that follows a warm reset and boots from a host or from Shuttle: the previous journal is
kept apart, the steps that pass are DONE, and the part waits in step 5; without REFCLK_25M it waits in step 3, marked FAILED, until the
clock arrives; a failed ROM check halts the part. R483: firmware's reports of steps 7 to 14: which are refused with STATE (0x02) and leave
the journal unchanged, and what the others leave. -/
def Obligations.StartSteps : Prop :=
  (∀ (s : State) (env : BootEnv), env.trains = true → env.flash = false → env.ladderOk = true → s.boot.cold = false →
     s.rd BT_STATUS_SOURCE ≠ 0 →
     (s.boot.atStart = true → s.boot.halted = false → s.heldInReset = false → (∀ k < 15, s.rd (BT_JOURNAL_STEP k) ≠ 1 ∧ s.rd (BT_JOURNAL_STEP k) ≠ 3) →
       Completes (.bootRomStart env) s fun t => (∀ k < 15, t.rd (BT_PREVJ_STEP k) = s.rd (BT_JOURNAL_STEP k)) ∧
         (env.romOk = false → t.boot.halted = true ∧ t.rd (BT_JOURNAL_STEP 0) = 3) ∧
         (env.romOk = true → env.refclk = false → (∀ k < 3, t.rd (BT_JOURNAL_STEP k) = 2) ∧ t.rd (BT_JOURNAL_STEP 3) = 3 ∧
           t.rd BT_STATUS_STEP = 3 ∧ t.boot.waits = some 3) ∧
         (env.romOk = true → env.refclk = true → (∀ k < 5, t.rd (BT_JOURNAL_STEP k) = 2) ∧ t.rd (BT_JOURNAL_STEP 5) = 1 ∧
           t.rd BT_STATUS_STEP = 5 ∧ t.boot.waits = some 5 ∧ t.on TS_EXT_STATUS_TRAINED = true)) ∧
     (s.boot.waits = some 3 → s.boot.env = some env → s.on (BT_FALLBACK_STEP 4) = false →
       Completes .refclk25mArrival s fun t => t.rd (BT_JOURNAL_STEP 3) = 2 ∧ t.rd (BT_JOURNAL_STEP 4) = 2 ∧ t.rd (BT_JOURNAL_STEP 5) = 1 ∧
         t.rd BT_STATUS_STEP = 5 ∧ t.boot.waits = some 5)) ∧
  (∀ (s : State) (w : Requester) (n : Fin 16),
     let st (k : Nat) := s.rd (BT_JOURNAL_STEP k)
     let refused (c : Instr) := Completes c s fun t => t.rd BT_STATUS_RESULT = 2 ∧ (∀ k < 15, t.rd (BT_JOURNAL_STEP k) = st k) ∧ Quiet s t
     (n.val < 7 → refused (.btStepStarted w n) ∧ refused (.btStepDone w n) ∧ refused (.btStepFailed w n)) ∧
     (7 ≤ n.val → n.val ≤ 14 → st (n - 1) ≠ 2 → st (n - 1) ≠ 3 → refused (.btStepStarted w n)) ∧
     (7 ≤ n.val → n.val ≤ 14 → st n ≠ 1 → refused (.btStepDone w n) ∧ refused (.btStepFailed w n)) ∧
     (n.val = 9 ∨ n.val = 14 → st (n - 1) = 2 ∨ st (n - 1) = 3 → Completes (.btStepStarted w n) s fun t =>
       t.rd BT_STATUS_RESULT = 0 ∧ t.rd BT_STATUS_STEP = n ∧ t.rd (BT_JOURNAL_STEP n) = 1 ∧ t.boot.stepAt = s.now ∧
       (∀ k < 15, k ≠ n.val → t.rd (BT_JOURNAL_STEP k) = st k) ∧ (n.val = 14 → t.on FM_WDOG_CFG_RUNNING = true) ∧ t.threads = s.threads ∧ t.mem = s.mem) ∧
     (7 ≤ n.val → n.val ≤ 14 → st n = 1 → (n.val = 7 → s.lacksUcode = false) → Completes (.btStepDone w n) s fun t =>
       t.rd BT_STATUS_RESULT = 0 ∧ t.rd (BT_JOURNAL_STEP n) = 2 ∧ (∀ k < 15, k ≠ n.val → t.rd (BT_JOURNAL_STEP k) = st k) ∧ t.threads = s.threads) ∧
     (8 ≤ n.val → n.val ≤ 14 → st n = 1 → Completes (.btStepFailed w n) s fun t =>
       t.rd BT_STATUS_RESULT = 0 ∧ t.rd (BT_JOURNAL_STEP n) = 3 ∧ t.on BT_EVENT_STEP_FAIL = true ∧
       (∀ k < 15, k ≠ n.val → t.rd (BT_JOURNAL_STEP k) = st k) ∧ t.threads = s.threads ∧ t.mem = s.mem))

/-- R391, R487, R496, R498: a host's GO starts the check of its image, and one with the wrong magic is refused with FORMAT (0x0C); BT_UCODE
checks its source and starts a load, whose end shows the unit's microcode; step 11 is left behind after 2 s; BT_RERUN counts only after
step 14. -/
def Obligations.BootRequests : Prop :=
  ∀ (s : State) (w : Requester) (v : Word),
    let a := s.rd BT_HOSTBOOT_LO + v.toNat % 256 * 2 ^ 32
    let head := s.bytesAt a 512
    let body := s.bytesAt (a + 512) (min (leAt head 0x28 4) 0x4000000)
    let unit := v.toNat / 2 ^ 28 % 4
    let src := s.pair BT_UCODE_ADDR_LO BT_UCODE_ADDR_HI
    let len := s.rd BT_UCODE_LEN
    (s.boot.waits = some 5 → s.rd BT_STATUS_SOURCE = 1 → w = .hostA → leAt (s.bytesAt a 512) 0 4 ≠ 0x4D494E5A →
      ((List.range 512).all fun i => s.mayRead .boot (a + i)) = true → Completes (.btHostbootGo w v) s fun t =>
        t.rd BT_STATUS_RESULT = 0x0C ∧ t.on BT_EVENT_REFUSED = true ∧ t.boot.waits = some 5 ∧ Quiet s t) ∧
    (s.boot.waits = some 5 → s.rd BT_STATUS_SOURCE = 1 → w = .hostA → s.readable .boot a 512 → s.readable .boot (a + 512) body.length →
      s.poisoned a (512 + body.length) = false → s.imgCheck head body = .ok → ∀ plain, s.imgDecrypt head body = (.ok, plain) →
      Completes (.btHostbootGo w v) s fun t => t.rd BT_STATUS_RESULT = 0 ∧ t.rd (BT_JOURNAL_STEP 5) = 2 ∧ t.rd (BT_JOURNAL_STEP 6) = 2 ∧
        t.rd BT_STATUS_STEP = 7 ∧ t.boot.waits = none ∧ t.boot.fromFlash = false ∧ t.pair BT_HANDOFF_LO BT_HANDOFF_HI = s.staging % 2 ^ 40 ∧
        (t.thread 0 0).pc = BitVec.ofNat 64 (leAt head 0x30 8) ∧ (t.thread 0 0).sys = true) ∧
    (s.boot.waits ≠ some 5 ∨ w = .hostB ∧ s.rd BT_STATUS_SOURCE = 1 → Completes (.btHostbootGo w v) s fun t =>
      t.rd BT_HOSTBOOT_HI_ADDR = v.toNat % 256 ∧ t.boot = s.boot ∧ Quiet s t) ∧
    (s.on BT_UCODE_BUSY = false → unit = 0 ∨ src < s.staging ∨ s.staging + stagingSize < src + len →
      Does 0x103C0000 0x103D0000 (.btUcodeGo w v) s fun t => t.rd BT_UCODE_RESULT = 1 ∧ t.rd BT_STATUS_RESULT = 1 ∧ t.on BT_UCODE_BUSY = false) ∧
    (s.on BT_UCODE_BUSY = false → unit ≠ 0 → s.staging ≤ src → src + len ≤ s.staging + stagingSize →
      Does 0x103C0000 0x103D0000 (.btUcodeGo w v) s fun t => t.on BT_UCODE_BUSY = true ∧ t.rd BT_UCODE_UNIT = unit ∧
        t.boot = { s.boot with ucode := some (unit, src, len) }) ∧
    (∀ k b n, s.boot.ucode = some (k, b, n) → 0 < k → k < 4 → s.poisoned b n = false → Completes .ucodeLoadDone s fun t =>
      t.on BT_UCODE_BUSY = false ∧ t.rd BT_UCODE_RESULT = 0 ∧ t.on (BT_UCODE_LOADED (k - 1)) = true ∧ Quiet s t) ∧
    (∀ x ≤ s.now, s.mt.stepEnd = some x → s.rd MT_STATUS_ROLE = 1 → Completes .pairingStepTimeout s fun t =>
      t.mt.stepEnd = none ∧ t.mt.background = true ∧ (s.rd (BT_JOURNAL_STEP 11) = 1 → t.rd (BT_JOURNAL_STEP 11) = 3) ∧ t.threads = s.threads) ∧
    (s.booted = false → NoEffect (.btRerun w v) s) ∧
    (s.booted = true → v.toNat / 2 ^ 10 % 2 = 0 → v.toNat / 2 ^ 11 % 2 = 1 → s.has .mantle = true → s.mt.alive = false →
      Completes (.btRerun w v) s fun t => t.mt.alive = true ∧ t.rd MT_STATUS_ROLE = (if s.mt.low then 3 else 1) ∧ t.threads = s.threads)

/-- R502, R503, R506, R507: confirming an image, blowing rollback fuses, provisioning an owner, and debug access, with who may ask. -/
def Obligations.SecurityRequests : Prop :=
  ∀ (s : State) (w : Requester) (v : Word),
    let x := s.rd BT_SLOTS_SLOTS
    let k := s.rd BT_STATUS_SLOT
    let n := s.rd BT_SVN_IMAGE
    let scope := v.toNat / 2 ^ 8 % 4
    let key := if s.on BT_STATUS_OWNED then s.boot.fuse.ownerHash else s.boot.fuse.vendorHash
    let granted := Config.ecdsa key (Config.sha384 (s.wordBytes 8 BT_DBG_NONCE ++ leBytes 8 (s.pair BT_SERIAL_LO BT_SERIAL_HI) ++ leBytes 4 scope))
      (s.wordBytes 24 BT_DBG_RESP)
    (s.booted = true → s.boot.fromFlash = true → Completes (.btConfirm w v) s fun t =>
      t.rd BT_SLOTS_SLOTS = k + x / 8 % 2 * 8 + x / 16 % 2 * 16 ∧ t.threads = s.threads ∧ t.mem = s.mem) ∧
    (s.booted = false ∨ s.sysOnCore0 w = false → Does 0x103C0000 0x103D0000 (.btSvnAdvance w v) s fun t =>
      t.rd BT_STATUS_RESULT = 2 ∧ t.rd BT_SVN_FUSED = s.rd BT_SVN_FUSED ∧ t.boot = s.boot) ∧
    (s.booted = true → s.sysOnCore0 w = true → Does 0x103C0000 0x103D0000 (.btSvnAdvance w v) s fun t =>
      t.rd BT_STATUS_RESULT = 0 ∧ t.rd BT_SVN_FUSED = max n (s.rd BT_SVN_FUSED)) ∧
    (s.sysOnCore0 w = false ∨ s.boot.keysel ≠ 0 ∨ s.on BT_STATUS_OWNED = true → Does 0x103C0000 0x103D0000 (.btProvProgram w v) s fun t =>
      t.rd BT_PROV_CTRL_RESULT = 2 ∧ t.rd BT_STATUS_RESULT = 2 ∧ t.boot = s.boot) ∧
    (s.sysOnCore0 w = true → s.boot.keysel = 0 → s.on BT_STATUS_OWNED = false → Does 0x103C0000 0x103D0000 (.btProvProgram w v) s fun t =>
      t.on BT_STATUS_OWNED = true ∧ t.rd BT_PROV_CTRL_RESULT = 0 ∧ t.boot.fuse.owned = true ∧
      t.boot.fuse.ownerKey = ofBe (s.wordBytes 8 BT_PROV_KEY) ∧ t.boot.fuse.ownerHash = ofBe (s.wordBytes 12 BT_PROV_HASH)) ∧
    (Does 0x103C0000 0x103D0000 (.dbgNonceRead w) s fun t =>
      (∀ j < 8, t.rd (BT_DBG_NONCE j) = Config.freeValue (s.freeCount + j) % 2 ^ 32) ∧ t.reply = leBytes 4 (t.rd (BT_DBG_NONCE 0))) ∧
    (s.now < s.boot.blockedTo → Does 0x103C0000 0x103D0000 (.dbgSubmit w v) s fun t => t.rd BT_DBG_CTRL_RESULT = 3 ∧ t.boot = s.boot) ∧
    (s.boot.blockedTo ≤ s.now → Does 0x103C0000 0x103D0000 (.dbgSubmit w v) s fun t =>
      (granted = true → t.rd BT_DBG_CTRL_RESULT = 0 ∧ t.rd BT_STATUS_DEBUG = scope ∧ t.boot.keysGone = true) ∧
      (granted = false → t.rd BT_DBG_CTRL_RESULT = 6 ∧ t.rd BT_STATUS_DEBUG = s.rd BT_STATUS_DEBUG ∧ t.boot.blockedTo = s.now + 10 ^ 9))

/-- R34, R37 to R39, R397: a profile request is noted and decided later, in a pair together with the peer's; the word of the next start is
taken from the holder of Hasp 0 alone, and a legal one only. -/
def Obligations.ProfileAndConfiguration : Prop :=
  ∀ (s : State) (w : Requester) (v : Word) (frame : BitVec 40) (prof : Fin 4),
    let n := v.toNat
    let legal : Prop := n % 2 = 1 ∧ (n / 2 ^ 30 % 2 = 1 → n / 2 ^ 4 % 16 = 0 ∧ n / 2 ^ 15 % 2 = 0 ∧ n / 2 ^ 16 % 2 = 0) ∧
      (n / 2 ^ 12 % 2 = 1 → n / 2 ^ 11 % 2 = 1)
    let sys := Does 0x10000000 0x10010000
    let dropped (t : State) := t.on SYS_STATUS_PENDING = false ∧ t.rd SYS_STATUS_RESULT = (if s.rd SYS_PROFILE_PROFILE = 3 then 1 else 2) ∧ t.mt.own = none
    (s.on SYS_STATUS_PENDING = true → NoEffect (.sysCommit w v) s) ∧
    (s.on SYS_STATUS_PENDING = false → s.on MT_STATUS_PAIRED = false → sys (.sysCommit w v) s fun t => t.on SYS_STATUS_PENDING = true ∧ t.mt = s.mt) ∧
    (s.on SYS_STATUS_PENDING = false → s.on MT_STATUS_PAIRED = true → s.mt.peer = none → sys (.sysCommit w v) s fun t =>
      t.on SYS_STATUS_PENDING = true ∧ t.mt.own = some (s.frame, s.rd SYS_PROFILE_PROFILE, s.now)) ∧
    (s.mtOn = true → s.on MT_STATUS_LINK = true → s.mt.decideAt = none → ∀ seq,
      (s.mt.own = none → sys (.profileFrame seq frame prof) s fun t => t.mt.peer = some (frame.toNat, prof.val, s.now) ∧ t.regs = s.regs) ∧
      (∀ f p a, s.mt.own = some (f, p, a) → sys (.profileFrame seq frame prof) s fun t =>
        (p = prof → t.mt.decideAt = some (max f frame.toNat + 8)) ∧ (p ≠ prof → dropped t))) ∧
    (s.mtOn = true → s.on MT_STATUS_LINK = true → ∀ f p a, s.mt.own = some (f, p, a) → sys .profileFrameRepeat s fun t =>
      t.out = s.out ++ [.pair s.mt.seq (.profile f p)] ∧ t.mt.own = s.mt.own) ∧
    (∀ f p a, s.mt.own = some (f, p, a) → s.mt.decideAt = none → (a + 10 ^ 9 ≤ s.now → sys .profileJointTimeout s dropped) ∧
      (s.now < a + 10 ^ 9 → NoEffect .profileJointTimeout s)) ∧
    (s.holds0 w = false → sys (.sysNextcfgWrite w v) s fun t => t.rd SYS_STATUS_RESULT = 2 ∧
      t.rd SYS_NEXTCFG_VALID = s.rd SYS_NEXTCFG_VALID ∧ t.rd SYS_NEXTCFG_WORD = s.rd SYS_NEXTCFG_WORD) ∧
    (s.holds0 w = true → 2 ^ 31 ≤ n → ¬ legal → sys (.sysNextcfgWrite w v) s fun t => t.rd SYS_STATUS_RESULT = 1 ∧
      t.rd SYS_NEXTCFG_VALID = s.rd SYS_NEXTCFG_VALID ∧ t.rd SYS_NEXTCFG_WORD = s.rd SYS_NEXTCFG_WORD) ∧
    (s.holds0 w = true → n < 2 ^ 31 ∨ legal → sys (.sysNextcfgWrite w v) s fun t => t.rd SYS_STATUS_RESULT = 0 ∧
      t.rd SYS_NEXTCFG_VALID = n / 2 ^ 31 ∧ t.rd SYS_NEXTCFG_WORD = n % 2 ^ 31)

/-- R557: the die temperature in quarter degrees, the two levels at and below the grade limit with their hysteresis, and the records of an
alarm; each 0xC202 counts for the health word. -/
def Obligations.DieTemperature : Prop :=
  ∀ (s : State) (q : BitVec 12), Does 0x10000000 0x10010000 (.tempSensorUpdate q) s fun t =>
    let l : Int := if s.rd SYS_ID_GRADE = 0 then 400 else 420
    t.rd SYS_TEMP_TEMP = q.toNat ∧ t.on SYS_TEMP_NEAR = (if l - 20 ≤ q.toInt then true else if q.toInt ≤ l - 32 then false else s.on SYS_TEMP_NEAR) ∧
    t.on SYS_TEMP_ABOVE = (if l ≤ q.toInt then true else if q.toInt ≤ l - 12 then false else s.on SYS_TEMP_ABOVE) ∧
    (s.roomy → t.lg.intake = s.lg.intake ++
      (if s.on SYS_TEMP_NEAR = false ∧ l - 20 ≤ q.toInt then [⟨0xC201, Src.sys.code, warning, ofSigned 32 q.toInt⟩] else []) ++
      (if s.on SYS_TEMP_ABOVE = false ∧ l ≤ q.toInt then [⟨0xC202, Src.sys.code, error, ofSigned 32 q.toInt⟩] else [])) ∧
    (s.has .mantle = true → s.on SYS_TEMP_ABOVE = false → l ≤ q.toInt → (Ailment.env.code, s.now) ∈ t.mt.faults)

/-- R8, R9, R31, R81: what accesses to the register space do: a 32-bit write of an RW field, a W1C field and a read-only one, the discarded
narrower and misaligned writes, a read that clears, a read that latches the high word, and an access to an address that no block decodes,
which returns zero or is discarded, is recorded, and raises the access trap of a running thread. -/
def Obligations.RegisterAccess : Prop :=
  ∀ (s : State) (w : Requester) (v : DWord) (size : Nat),
    (Does 0x10090000 0x100A0000 (.registerWrite w 0x10090044 4 v) s fun t => t.rd YS_PTP_OFF = v.toNat % 2 ^ 32) ∧
    (Does 0x10090000 0x100A0000 (.registerWrite w 0x1009003C 4 v) s fun t => ∀ k < 13,
      t.on ⟨0x1009003C, 0, k, 1⟩ = (s.on ⟨0x1009003C, 0, k, 1⟩ && !v.getLsbD k)) ∧
    (Completes (.registerWrite w 0x10000000 4 v) s fun t => (∀ g : Fld, t.rd g = s.rd g) ∧ Quiet s t) ∧
    (0 < size → size < 4 → NoEffect (.registerWrite w 0x10090044 size v) s ∧ NoEffect (.registerWrite w 0x10090045 size v) s) ∧
    (s.latches.get 0 (latchDue w 0x10000018) = 0 → Does 0x10000000 0x10010000 (.rcRegisterRead w 0x10000018 4) s fun t =>
      t.reply = leBytes 4 (s.rd SYS_REFUSALS) ∧ t.rd SYS_REFUSALS = 0) ∧
    (s.latches.get 0 (latchDue w 0x10000018) = 0 → Does 0x10000000 0x10010000 (.rcRegisterRead w 0x1000001A 1) s fun t =>
      t.reply = [BitVec.ofNat 8 (s.rd SYS_REFUSALS / 2 ^ 16)] ∧ t.rd SYS_REFUSALS = 0) ∧
    (s.latches.get 0 (latchDue w 0x10090028) = 0 → ∃ t, exec (.loWordReadLatch w 0x10090028) s = .next t ∧
      t.reply = leBytes 4 s.ys.tick ∧ t.regs = s.regs ∧ Quiet s t ∧
      ∀ y : State, y.latches = t.latches → Completes (.rcRegisterRead w 0x1009002C 4) y fun u => u.reply = leBytes 4 (s.ys.tick / 2 ^ 32)) ∧
    (∀ (a : BitVec 40) (isWrite : Bool), s.isUnmapped w a.toNat isWrite = true →
      (∀ c k, w = .thread c k → (s.core c).running ≠ some k.val) → Completes (.unmappedAccess w a isWrite) s fun t => Quiet s t ∧ (isWrite = false → t.reply = List.replicate 4 0) ∧ (s.roomy → Logged t 0x8001 (srcOf w) warning (a.toNat / 2 ^ 8))) ∧
    (∀ (a : BitVec 40) (isWrite : Bool) (c : Fin 8) (k : Fin 64), s.isUnmapped (.thread c k) a.toNat isWrite = true → (s.core c).running = some k.val →
      (s.thread c k).canTrap → Traps s c k (.unmappedAccess (.thread c k) a isWrite) trapAccess a.toNat (s.thread c k).pc) ∧
    (∀ a : BitVec 40, s.isUnmapped w a.toNat false = false → NoEffect (.unmappedAccess w a false) s)

/-- R46, R47, R51, R55: what a reference event leaves of its source, when the source becomes qualified, the error that it steers by; and what
an expected event that does not come leaves, up to the loss of the source. -/
def Obligations.YardstickReferences : Prop :=
  ∀ (s : State) (ev : RefEvent),
    let k := ev.source
    let valid : Prop := ∃ p q t, s.spacing ev = some (p, q) ∧ (s.source k).lastTick = some t ∧ gapValid (s.rdA YS_SLEW_MAX) (s.now - t) p q = true
    (Does 0x10090000 0x100A0000 (.referenceEvent ev) s fun t =>
      t.on (YS_SRC_PRESENT (k - 1)) = true ∧ (t.source k).lastTick = some s.now ∧ (t.source k).missing = 0 ∧ t.ys.pos = s.ys.pos ∧
      (valid → (t.source k).valid = (s.source k).valid + 1) ∧ (¬ valid → (t.source k).valid = 0) ∧
      (valid → s.rd YS_LOSS_QUAL_COUNT ≤ (s.source k).valid + 1 → t.on (YS_SRC_QUALIFIED (k - 1)) = true)) ∧
    (∀ ns, s.rd YS_STATUS_SOURCE = 1 → Completes (.referenceEvent (.ptp ns)) s fun t => t.rd YS_ERR = satSigned 32
      (s.unitsToTicks ((ns * s.rateNum * 2 ^ 24 / (s.rateDen * 10 ^ 9) : Nat) + signedOf 32 (s.rd YS_PTP_OFF) * 2 ^ 24 - s.ys.pos) 1)) ∧
    (s.on (YS_SRC_PRESENT 4) = true → Does 0x10090000 0x100A0000 (.expectedEventMissing 5) s fun t =>
      (t.source 5).missing = (s.source 5).missing + 1 ∧ (t.source 5).valid = 0 ∧ t.regs = s.regs) ∧
    (∀ src : Fin 7, 1 ≤ src.val → src.val ≤ 4 → s.on (YS_SRC_PRESENT (src - 1)) = true → s.rd YS_STATUS_SOURCE ≠ src.val →
      Does 0x10090000 0x100A0000 (.expectedEventMissing src) s fun t =>
        (t.source src).missing = (s.source src).missing + 1 ∧ (t.source src).valid = 0 ∧
        t.on (YS_SRC_PRESENT (src - 1)) = decide ((s.source src).missing + 1 < s.lossLimit src)) ∧
    (∀ src : Fin 7, 1 ≤ src.val → s.on (YS_SRC_PRESENT (src - 1)) = false → NoEffect (.expectedEventMissing src) s)

/-- R43, R45, R60, R64: a commit and GO, the saved tick, and a frame boundary: the position that it opens and a commit that takes effect there. -/
def Obligations.YardstickTimeline : Prop :=
  ∀ (s : State) (w : Requester) (v : Word),
    let ys := Does 0x10090000 0x100A0000
    (v.getLsbD 0 = true → ys (.ysCommit w v) s fun t => t.on YS_STATUS_PENDING = true ∧ t.active = s.active) ∧
    (v.getLsbD 0 = false → NoEffect (.ysCommit w v) s) ∧
    (ys (.ysGo w v) s fun t => t.rd YS_CTRL_REVERT = v.toNat / 2 ^ 8 % 2 ∧ t.rd YS_CTRL_JUMP_MODE = v.toNat / 2 ^ 4 % 2 ∧
      t.rd YS_STATUS_STATE = (if v.getLsbD 0 = false ∨ s.rd YS_STATUS_STATE ≠ 0 then s.rd YS_STATUS_STATE
        else if s.rd YS_STATUS_SOURCE ≠ 7 then 1 else if s.freeRunOnly then 2 else 3)) ∧
    (ys .tickMsSave s fun t => t.ys.savedTick = s.ys.tick / 10 ^ 6 * 10 ^ 6 ∧ t.regs = s.regs) ∧
    (s.ys.rebase = none → s.ys.snap = none → Completes .frameBoundary s fun t =>
      t.ys.pos = ((s.ys.pos / 2 ^ 24 + 1) % 2 ^ 40 * 2 ^ 24 + s.ys.fracDue) % 2 ^ 64 ∧
      (s.on YS_STATUS_PENDING = true → ysCommitLegal s = true → s.on SYS_STATUS_PENDING = false →
        rateWithin (s.rd SYS_PROFILE_ACTIVE) (s.rd YS_RATE_NUM) (s.rd YS_RATE_DEN) = true →
        t.on YS_STATUS_PENDING = false ∧ t.rd YS_STATUS_RESULT = 0 ∧ t.rdA YS_RATE_NUM = s.rd YS_RATE_NUM ∧ t.rdA YS_RATE_DEN = s.rd YS_RATE_DEN) ∧
      (s.on YS_STATUS_PENDING = true → ysCommitLegal s = false → t.on YS_STATUS_PENDING = false ∧ t.rd YS_STATUS_RESULT = 1 ∧
        t.rdA YS_RATE_NUM = s.rdA YS_RATE_NUM))

/-- R69 to R73: a write with ARM takes the settings, checks them and arms the slot; a busy slot keeps its settings; a write with DISARM disarms
it; a slot that fires says so, a ONCE slot disarms itself, and a WAKE enters its core's queue. -/
def Obligations.ArmSlots : Prop :=
  ∀ (s : State) (w : Requester) (k : Fin 256) (v : Word),
    let n := v.toNat
    let action := n / 2 ^ 20 % 16
    let mode := n / 2 ^ 18 % 4
    let period := n % 2 ^ 16
    let same : Prop := action = s.rd (YS_SLOT_CTRL_ACTION k) ∧ mode = s.rd (YS_SLOT_CTRL_MODE k) ∧ period = s.rd (YS_SLOT_CTRL_PERIOD k)
    let st := s.armCheck k (s.slotPos k) (s.rd (YS_SLOT_TARGET k)) period action mode
    let ys := Does 0x10090000 0x100A0000
    (v.getLsbD 29 = true → ys (.slotArm w k v) s fun t => t.rd YS_STATUS_RESULT = 1 ∧ t.on (YS_SLOT_CTRL_ARMED k) = s.on (YS_SLOT_CTRL_ARMED k)) ∧
    (v.getLsbD 29 = false → s.slotBusy k = true → ¬ same → ys (.slotArm w k v) s fun t => t.rd YS_STATUS_RESULT = 3 ∧
      t.rd (YS_SLOT_CTRL_ACTION k) = s.rd (YS_SLOT_CTRL_ACTION k) ∧ t.on (YS_SLOT_CTRL_ARMED k) = s.on (YS_SLOT_CTRL_ARMED k)) ∧
    (v.getLsbD 29 = false → s.slotBusy k = false → st = .ok → ys (.slotArm w k v) s fun t =>
      t.rd (YS_SLOT_CTRL_ACTION k) = action ∧ t.rd (YS_SLOT_CTRL_MODE k) = mode ∧ t.rd (YS_SLOT_CTRL_PERIOD k) = period ∧
      t.rd YS_STATUS_RESULT = 0 ∧ t.on (YS_SLOT_CTRL_ARMED k) = true) ∧
    (v.getLsbD 29 = false → s.slotBusy k = false → st ≠ .ok → ys (.slotArm w k v) s fun t => t.rd YS_STATUS_RESULT = st.code ∧
      ∀ f : Fld, f.addr ≠ YS_STATUS_RESULT.addr → ¬ signalReg f.addr → t.rd f = s.rd f) ∧
    (v.getLsbD 30 = false → s.slotBusy k = false ∨ same → ys (.slotDisarm w k v) s fun t => t.on (YS_SLOT_CTRL_ARMED k) = false ∧
      (∀ x ∈ t.ys.trig, x.slot ≠ k) ∧ t.rd YS_STATUS_RESULT = s.rd YS_STATUS_RESULT) ∧
    (s.on (YS_SLOT_CTRL_ARMED k) = false → NoEffect (.slotFire k) s) ∧
    (s.on (YS_SLOT_CTRL_ARMED k) = true → s.rd (YS_SLOT_CTRL_ACTION k) = 7 → ∀ c : Fin 8, s.rd (YS_SLOT_TARGET k) / 2 ^ 16 % 8 = c →
      s.coreOn c = true → (s.core c).queue.length < 64 → (s.core c).held = [] → Completes (.slotFire k) s fun t =>
        t.on (YS_SLOT_CTRL_FIRED k) = true ∧ t.on (YS_SLOT_CTRL_ARMED k) = decide (s.rd (YS_SLOT_CTRL_MODE k) ≠ 0) ∧ Quiet s t ∧
        (t.core c).queue = (s.core c).queue ++ [.timeline (s.rd (YS_SLOT_TARGET k) / 2 ^ 8 % 64)]) ∧
    (s.on (YS_SLOT_CTRL_ARMED k) = true → s.rd (YS_SLOT_CTRL_ACTION k) = 4 → s.ys.trig = [] →
      s.on (YS_TRIG_CFG_ENABLE (s.rd (YS_SLOT_TARGET k) % 4)) = true → Completes (.slotFire k) s fun t =>
        t.on (YS_TRIG_CFG_LEVEL (s.rd (YS_SLOT_TARGET k) % 4)) = true ∧ Quiet s t)

/-- R76 to R79: a trigger action is taken up with its output's ADVANCE, the earliest one changes the output, a pulse ends, and an output that
is disabled goes low; an edge at an enabled input is captured with tick, position and part of the tick, and one within 100 ns of the last
is counted as an overrun. -/
def Obligations.TriggersAndCaptures : Prop :=
  ∀ (s : State) (w : Requester) (k : Fin 256) (o : Fin 4) (v : Word) (rising : Bool) (eighths : Fin 8),
    let ys := Does 0x10090000 0x100A0000
    let a := s.rd (YS_SLOT_CTRL_ACTION k)
    let target := s.rd (YS_SLOT_TARGET k)
    let edge : Prop := s.on (YS_CAP_CFG_ENABLE o) = true ∧ bit (s.rd (YS_CAP_CFG_EDGE o)) (if rising then 0 else 1) = true
    (s.on (YS_SLOT_CTRL_ARMED k) = true → 4 ≤ a → a ≤ 6 → (∀ x ∈ s.ys.trig, x.slot ≠ k) → ys (.trigActionTakeUp k) s fun t =>
      t.regs = s.regs ∧ t.ys.trig = s.ys.trig ++ [⟨k, target % 4, a, target / 256, s.changeAt k (target % 4), false⟩]) ∧
    (∀ x ∈ s.ys.trig, x.out = o → x.made = false → s.on (YS_TRIG_CFG_ENABLE o) = true →
      (∀ z ∈ s.ys.trig, z.out = o → z.made = false → z = x ∨ x.due < z.due ∨ (x.due = z.due ∧ x.slot < z.slot)) →
      ys (.trigOutputChange o) s fun t => t.on (YS_TRIG_CFG_LEVEL o) = decide (x.action ≠ 5) ∧
        t.ys.pulseEnd.get 0 o = (if x.action = 6 then s.now + x.width else 0) ∧ { x with made := true } ∈ t.ys.trig) ∧
    (s.ys.pulseEnd.get 0 o ≠ 0 → ys (.trigPulseEnd o) s fun t => t.on (YS_TRIG_CFG_LEVEL o) = false ∧ t.ys.pulseEnd.get 0 o = 0) ∧
    (ys (.trigDisable w o v) s fun t => t.on (YS_TRIG_CFG_ENABLE o) = false ∧ t.on (YS_TRIG_CFG_LEVEL o) = false ∧
      t.rd (YS_TRIG_CFG_INVERT o) = v.toNat / 2 ^ 30 % 2 ∧ t.rd (YS_TRIG_CFG_ADVANCE o) = v.toNat / 2 ^ 16 % 256 ∧ t.ys.pulseEnd.get 0 o = 0) ∧
    (¬ edge → NoEffect (.captureEdge o rising eighths) s) ∧
    (edge → (∀ p, s.ys.lastCapture.get none o = some p → p + 800 ≤ s.now * 8 + eighths) → s.on (YS_CAP_CFG_BOBBIN o) = false →
      ys (.captureEdge o rising eighths) s fun t => t.pair (YS_CAP_TICK_LO o) (YS_CAP_TICK_HI o) = s.ys.tick % 2 ^ 64 ∧
        t.pair (YS_CAP_POS_LO o) (YS_CAP_POS_HI o) = s.ys.pos % 2 ^ 64 ∧ t.on (YS_CAP_SUB_EDGE o) = rising ∧ t.rd (YS_CAP_SUB_SUBNS o) = eighths ∧
        t.on (YS_EVENT_CAP o) = true ∧ t.ys.seq = (s.ys.seq + 1) % 2 ^ 32) ∧
    (∀ p, edge → s.ys.lastCapture.get none o = some p → s.now * 8 + eighths < p + 800 → ys (.captureEdge o rising eighths) s fun t =>
      t.rd (YS_CAP_OVR_OVR o) = min 255 (s.rd (YS_CAP_OVR_OVR o) + 1) ∧ t.pair (YS_CAP_TICK_LO o) (YS_CAP_TICK_HI o) = s.pair (YS_CAP_TICK_LO o) (YS_CAP_TICK_HI o) ∧
      (s.roomy → Logged t 0x100B .yardstick warning o))

/-- R86, R87, R116: a ring takes a TAIL that neither takes back entries nor overfills it; ENABLE is taken with a legal size and an aligned
array in external memory or scratch, and starts the ring's fence at 0; RESET empties a disabled ring. R109: a stream is enabled when its
settings and buffers are legal; the settings of an enabled one stay. -/
def Obligations.RingsAndStreams : Prop :=
  (∀ (s : State) (w : Requester) (r : RingId) (v : Word),
     let b := ringBase r
     let n := (v.toNat % 2 ^ 16 + 2 ^ 16 - s.rd (RING_HEAD b)) % 2 ^ 16
     let size := v.toNat % 16
     let shows (t : State) (st : Nat) : Prop := ∀ f, ringResult r = some f → t.rd f = st
     let ring (c : Instr) (P : State → Prop) : Prop := Completes c s fun t => P t ∧ Quiet s t ∧
       ∀ g : Fld, g.addr < b ∨ b + 0x14 ≤ g.addr → (∀ f, ringResult r = some f → g.addr ≠ f.addr) → t.rd g = s.rd g
     let off := s.on (RING_CTRL_ENABLE b) = false
     let legal : Prop := 4 ≤ size ∧ size ≤ 8 ∧ s.ringAddr b % 64 = 0 ∧ s.extOrScratch (s.ringAddr b) (2 ^ size * 64) = true
     (s.ringUnit r = false → NoEffect (.ringTailWrite w r v) s) ∧
     (s.ringUnit r = true → s.ringCount b ≤ n → n ≤ s.ringSize b → ring (.ringTailWrite w r v) fun t =>
        t.rd (RING_TAIL b) = v.toNat % 2 ^ 16 ∧ (tailShown r = true → shows t 0)) ∧
     (s.ringUnit r = true → n < s.ringCount b ∨ s.ringSize b < n → ring (.ringTailWrite w r v) fun t =>
       t.rd (RING_TAIL b) = s.rd (RING_TAIL b) ∧ shows t 1) ∧
     (s.ringUnit r = true → v.getLsbD 30 = false → off → legal → ring (.ringEnable w r v) fun t =>
       t.on (RING_CTRL_ENABLE b) = true ∧ t.rd (RING_CTRL_LOG2SIZE b) = size ∧ shows t 0 ∧
       (∀ e f, ringFence r = some (e, f) → t.fences.get 0 (fenceKey e f) = 0)) ∧
     (s.ringUnit r = true → v.getLsbD 30 = false → off → ¬ legal → ring (.ringEnable w r v) fun t =>
       t.on (RING_CTRL_ENABLE b) = false ∧ shows t 1) ∧
     (s.ringRegs r = true → s.ringUnit r = false → off → ring (.ringEnable w r v) fun t => ∀ f : Fld, b ≤ f.addr → f.addr < b + 0x14 → t.rd f = s.rd f) ∧
     (s.ringRegs r = true → v.getLsbD 31 = false → off → ring (.ringReset w r v) fun t =>
       t.rd (RING_HEAD b) = 0 ∧ t.rd (RING_TAIL b) = 0 ∧ t.on (RING_CTRL_ENABLE b) = false) ∧
     (s.ringRegs r = true → v.getLsbD 31 = false → ¬ off → ring (.ringReset w r v) fun t =>
       t.rd (RING_HEAD b) = s.rd (RING_HEAD b) ∧ t.rd (RING_TAIL b) = s.rd (RING_TAIL b) ∧ t.on (RING_CTRL_ENABLE b) = false ∧ shows t 3)) ∧
  (∀ (s : State) (w : Requester) (i : Fin 4) (v : Word),
     let st := s.ingestEnableCheck i v.toNat
     (s.has .draper = false → NoEffect (.ingestEnable w i v) s) ∧
     (s.has .draper = true → s.on (DR_ING_CFG_ENABLE i) = false → Completes (.ingestEnable w i v) s fun t =>
       t.on (DR_ING_CFG_ENABLE i) = (st == .ok) ∧ t.rd DR_STATUS_RESULT = st.code ∧ t.rd (DR_ING_CFG_SAMPLING i) = v.toNat / 2 ^ 26 % 4 ∧
       t.rd (DR_ING_CFG_COLOUR i) = v.toNat / 2 ^ 25 % 2 ∧ t.rd (DR_ING_CFG_RANGE i) = v.toNat / 2 ^ 24 % 2 ∧ Quiet s t) ∧
     (s.has .draper = true → s.on (DR_ING_CFG_ENABLE i) = true → Completes (.ingestEnable w i v) s fun t =>
       t.on (DR_ING_CFG_ENABLE i) = true ∧ t.rd (DR_ING_CFG_SAMPLING i) = s.rd (DR_ING_CFG_SAMPLING i) ∧
       (v.toNat / 2 ^ 24 % 16 ≠ s.rd (DR_ING_CFG_SAMPLING i) * 4 + s.rd (DR_ING_CFG_COLOUR i) * 2 + s.rd (DR_ING_CFG_RANGE i) →
         t.rd DR_STATUS_RESULT = 3) ∧ Quiet s t))

/-- R84, R91, R94, R96: a geometry commit waits for the boundary; the first composition in line begins with the list its canvas has adopted, or
adopts the list of the ring's one entry, and its layers are admitted in slot order within the budget. R97, R98 to R106, R135: a composition
that ends leaves its pixels in the back half of Bolt and advances READ and DONE to its frame; one that was abandoned does that when its
reads have returned. -/
def Obligations.Compositions : Prop :=
  (∀ (s : State) (w : Requester) (v : Word) (c : Fin 4) (k : Comp) (rest : List Comp),
     let b := ringBase (.engine ⟨c, by omega⟩)
     let start := Instr.compositionStart c
     let list := s.dr.adopted.get none c
     let got := s.fitting c (s.budgetRoom c) (((list.map (·.layers)).getD []).map (s.layerRun c))
     let a := s.ringEntry b (s.rd (RING_HEAD b))
     let l := leAt (s.bytesAt a 32) 0 8 % 2 ^ 40
     let n := min 16 (leAt (s.bytesAt l 64) 0 4 % 256)
     (s.has .draper = true → v.getLsbD 0 = true → Does 0x10100000 0x10110000 (.drCommit w v) s fun t => t.on DR_STATUS_PENDING = true ∧ t.active = s.active) ∧
     (s.has .draper = false ∨ v.getLsbD 0 = false → NoEffect (.drCommit w v) s) ∧
     (s.dr.order = [] ∨ (s.dr.order = k :: rest ∧ (k.canvas ≠ c ∨ k.phase ≠ .queued)) → NoEffect start s) ∧
     (s.has .draper = true → s.dr.order = k :: rest → k.canvas = c → k.phase = .queued → s.on (RING_CTRL_ENABLE b) = false →
       Does 0x10100000 0x10110000 start s fun t =>
         t.dr.order.head? = some { k with
             phase := .running, entry := none, list := list, layers := got.1, cut := got.2.2.isSome, endsAt := s.now + s.compTime c got.1 } ∧
         t.rd (DR_CAN_COST c) = got.2.1 ∧ t.rd (DR_CAN_STAT_LAYERS c) = got.1.length % 32 ∧ t.on (DR_CAN_STAT_CUT c) = got.2.2.isSome ∧
         t.dr.written.get none c = none ∧ t.on DR_STATUS_RUNNING = true ∧ t.rd DR_STATUS_ACTIVE = c ∧
         (s.roomy → ∀ x, got.2.2 = some x → Logged t 0x2003 .draper warning (c * 2 ^ 24 + x % 2 ^ 24))) ∧
     (∀ d, s.has .draper = true → s.dr.order = k :: rest → k.canvas = c → k.phase = .queued → s.on (RING_CTRL_ENABLE b) = true →
       s.ringCount b = 1 → s.poisoned a 32 = false → leAt (s.bytesAt a 32) 0x10 4 % 2 = 1 → l % 64 = 0 → s.extRange l (64 + 64 * n) = true →
       s.poisoned l 64 = false → s.poisoned (l + 64) (64 * n) = false →
       s.validate (s.bytesAt l 64 ++ s.bytesAt (l + 64) (64 * n)) false = (.ok, some d) → Completes start s fun t =>
         t.rd (RING_HEAD b) = (s.rd (RING_HEAD b) + 1) % 2 ^ 16 ∧ t.dr.adopted.get none c = some d ∧ t.rd (DR_CAN_TAG c) = d.tag % 2 ^ 32 ∧
         t.on (DR_CAN_STAT_ADOPTED c) = true ∧ t.rd (DR_CAN_STAT_LAST_RESULT c) = 0 ∧ SameMemory s t ∧ t.threads = s.threads)) ∧
  (∀ (s : State) (c : Fin 4) (k : Comp),
     let running := s.dr.order.find? fun x => x.canvas == c.val && x.phase == .running && decide (x.endsAt ≤ s.now)
     let draining := s.dr.order.find? fun x => x.canvas == c.val && x.phase == .draining
     let half := 1 - s.frontHalf c
     let lo := half * 0x1800000 + s.rdA (DR_CAN_BASE c)
     let after (t : State) : Prop := t.rd (DR_CAN_DONE c) = k.frame % 2 ^ 32 ∧ t.rd (DR_CAN_READ c) = k.frame % 2 ^ 32 ∧ t.threads = s.threads ∧
       ∀ x ∈ t.dr.order, x.canvas ≠ c ∨ x.frame ≠ k.frame
     (running = none → NoEffect (.compositionEnd c) s) ∧ (draining = none → NoEffect (.readsReturned c) s) ∧
     (draining = some k → Completes (.readsReturned c) s fun t => after t ∧ SameMemory s t) ∧
     (running = some k → Completes (.compositionEnd c) s fun t => after t ∧ t.dr.written.get none c = some k.frame ∧ t.tl.running = true) ∧
     (running = some k → k.entry = none → s.ts.excluded = [] → s.rdA (DR_CAN_BASE c) + 6 * (s.canW c * s.canH c) ≤ 0x1800000 →
       Completes (.compositionEnd c) s fun t =>
         (∀ x y, x < s.canW c → y < s.canH c → t.bytesAt (s.boltAddr half c x y) 6 = (s.composedPixel k x y).bytes) ∧
         ∀ a, a < lo ∨ lo + 6 * (s.canW c * s.canH c) ≤ a → t.byteAt a = s.byteAt a))

/-- R122, R123, R126: what the scan-out of a pixel hands to its chain port: the corrected and dithered values of a good pixel, black going in
on a blank canvas, darkness for a poisoned or unmapped pixel, and what counts the one and the other. R127 to R129, R137: Tailor's commit,
the end of a Swatch copy, a temperature source that goes stale, and the end of a recomputation, whose gains a latch that waited takes. -/
def Obligations.TailorScanOut : Prop :=
  (∀ (s : State) (c : Fin 4) (x y : Nat) (p : Fin 64) (z : Fin 256),
     let l := s.leader (p / 4)
     let m := if s.onA (TD_CTRL_MODE l) then max 1 (s.rdA (TD_CTRL_MULT l)) else 1
     let depth := if s.onA (TD_CTRL_MODE l) then 16 else s.rdA (TL_GRP_OUT_DEPTH (p / 4))
     let px := (s.portRect p).1
     let py := (s.portRect p).2.1
     let pw := (s.portRect p).2.2.1
     let n := (y - py) * pw + (x - px)
     let inside : Prop := px ≤ x ∧ x < px + pw ∧ py ≤ y ∧ y < py + (s.portRect p).2.2.2 ∧ n < 16384
     let taken : Prop := s.onA (CH_CTRL_ENABLE p) = true ∧ s.rdA (TD_CTRL_CANVAS l) = c ∧ inside
     let clean : Prop := ∀ i < 3, s.tl.carry.get 0 (lampKey p n * 4 + i) = 0
     let src := s.scanSource c x y
     let shows (k : Nat) (lit : List Nat) (vals : List (List Nat)) (t : State) : Prop := t.tl.shown.get none (lampKey p n) = some ⟨k, lit, vals⟩
     let damaged := (s.scanWords c x y).filter fun d => (s.poisonedAt d || decide (0 < s.ts.symbols.get 0 (d / 32))) && !s.tl.seen.contains d
     (¬ taken → NoEffect (.scanoutPixel c x y (.chain p)) s) ∧
     (taken → x < s.canW c → y < s.canH c → clean → s.tl.toAdopt = none → damaged = [] → s.rdA (TL_GRP_OUT_WIN (p / 4)) = 0 →
       ∀ v k e, src = some (v, k, e) → Completes (.scanoutPixel c x y (.chain p)) s fun t =>
         let u := s.corrected (some (p / 4)) e v
         let out := dither (s.onA (TL_GRP_OUT_DITHER (p / 4))) depth x y s.frame
         shows k [u.r, u.g, u.b] [List.replicate m (out u.r), List.replicate m (out u.g), List.replicate m (out u.b)] t ∧ Quiet s t ∧ t.regs = s.regs ∧
         (s.on (TL_FRONT_BLANK c) = true → v = black)) ∧
     (taken → x < s.canW c → y < s.canH c → s.tl.toAdopt = none → src = none → Completes (.scanoutPixel c x y (.chain p)) s fun t =>
       shows mapSize [0, 0, 0] (List.replicate 3 (List.replicate m 0)) t ∧ Quiet s t) ∧
     (s.tl.toAdopt = none → s.mapIndex c x y < mapSize → damaged = [] → NoEffect (.scanoutPixel c x y (.weft z)) s) ∧
     (s.canW c ≤ x ∨ s.canH c ≤ y → NoEffect (.scanoutPixel c x y (.weft z)) s) ∧
     (x < s.canW c → y < s.canH c → s.tl.toAdopt = none →
       (mapSize ≤ s.mapIndex c x y → Does 0x10140000 0x10148000 (.scanoutPixel c x y (.weft z)) s fun t =>
         t.rd TL_MAPRANGE = min (2 ^ 32 - 1) (s.rd TL_MAPRANGE + 1) ∧ (s.roomy → Logged t 0x3103 .tailor warning c)) ∧
       (∀ d, damaged = [d] → s.poisonedAt d = true → Completes (.scanoutPixel c x y (.weft z)) s fun t =>
         t.rd TL_POISON = min (2 ^ 32 - 1) (s.rd TL_POISON + 1) ∧ d ∈ t.tl.seen ∧ Quiet s t ∧
         (s.roomy → Logged t 0x3104 .tailor warning (d / 2 ^ 8 % 2 ^ 24))))) ∧
  (∀ (s : State) (w : Requester) (v : Word) (g : Fin 16),
     let tl := Does 0x10140000 0x10180000
     let silent : Prop := s.tl.sourceAt.get 0 g + 1000000000 ≤ s.now ∧
       (s.rdA (TL_DRT_A_SRC g) = 0 ∧ s.retTemp g = none ∨ s.rdA (TL_DRT_A_SRC g) = 1 ∧ s.weftTemp g = none)
     let ended : Prop := s.tl.running = true ∧ s.tl.calcEnds ≤ s.now
     (v.getLsbD 0 = true → tl (.tlCommit w v) s fun t => t.on TL_STATUS_PEND_PRED = true ∧ t.active = s.active ∧ t.predicted = s.predicted) ∧
     (v.getLsbD 0 = false → NoEffect (.tlCommit w v) s) ∧
     (s.now < s.tl.copyEnds → NoEffect .swatchCopyDone s) ∧
      (s.tl.copyEnds ≤ s.now → tl .swatchCopyDone s fun t => t.on SW_STATUS_COPYING = false ∧ t.tl = s.tl) ∧
     (silent → s.on (TL_DRT_STAT_STALE g) = false → tl (.tempSourceStale g) s fun t =>
       t.on (TL_DRT_STAT_STALE g) = true ∧ t.on TL_EVENT_TEMP_STALE = true ∧ (s.roomy → Logged t 0xC102 .tailor warning g)) ∧
     (¬ silent ∨ s.on (TL_DRT_STAT_STALE g) = true → NoEffect (.tempSourceStale g) s) ∧ (¬ ended → NoEffect .purseRecomputeDone s) ∧
     (ended → s.tl.toAdopt = none → tl .purseRecomputeDone s fun t => t.tl = { s.tl with running := false, toAdopt := none } ∧ t.regs = s.regs) ∧
     (∀ k, ended → s.tl.toAdopt = some k → s.on PU_CTRL_ENABLE = true → tl .purseRecomputeDone s fun t => t.tl.running = false ∧ t.tl.toAdopt = none ∧ t.tl.frames = s.tl.frames + 1 ∧
       (∀ z < 256, t.rd (PU_Z_GAIN_GAIN z) = k.g.get 32768 z % 2 ^ 16 ∧ t.on (PU_Z_GAIN_LIMITED z) = decide (k.g.get 32768 z < 32768)) ∧
       t.rd PU_TOTAL_GAIN_GT = k.gt % 2 ^ 16 ∧ t.on PU_TOTAL_GAIN_LIMITED = decide (k.gt < 32768) ∧ t.rd PU_TOTAL_PRED = min (2 ^ 32 - 1) k.pt) ∧
     (∀ k, ended → s.tl.toAdopt = some k → s.on PU_CTRL_ENABLE = false → tl .purseRecomputeDone s fun t => t.tl.running = false ∧ t.tl.toAdopt = none ∧
       (∀ z < 256, t.rd (PU_Z_GAIN_GAIN z) = 32768 ∧ t.on (PU_Z_GAIN_LIMITED z) = false) ∧ t.rd PU_TOTAL_GAIN_GT = 32768))

/-- R145 to R154: what each wave instruction leaves of a running Treadle's program, and what its ports put out; and a Treadle whose next word's
clock has come does what that word spells by R147, as the command does. -/
def Obligations.WaveProgram : Prop :=
  ∀ (s : State) (t : Fin 16) (ckr a b d : Bool) (k j : Fin 4) (n : Fin 16384) (m : Fin 16777216) (width : Fin 16) (guard : Fin 256) (line : Fin 32)
    (target : Fin 512),
    let r := s.tdRun t
    let pc := s.rd (TD_STATUS_PC t)
    let runs : Prop := s.has .treadle = true ∧ s.tdRuns t = true ∧ r.ended = false
    let driven := (s.tdPorts t).filter s.drives
    let ends := s.frameClocks t
    let left := (ends - r.clock) * (1 + s.rdA (TD_CTRL_EDGE t))
    let ctl (start stop : Nat) (on : Bool) (p : Nat) : List OutMsg :=
      (((s.port p).windows.foldl (fun l w => outside w l) [(start, min stop ends)]).filter fun x => x.1 < x.2).map fun x =>
        .ctl p x.1 x.2 (on != s.onA (CH_CTRL_CTL_INV p))
    let lanes (p : Nat) := laneBits (s.lanes p) (s.shiftBits p j.val (if a then s.maxLamps t else n + 1)
      (if s.planes t then min r.marks (s.mult t - 1) else 0) ((r.counters.getD k 0 + s.rdA (CH_PHASE_ROTATE p)) % 12))
    let kept (r' : TdRun) (out : List OutMsg) : TdRun := { r' with part := if s.planes t then r'.part ++ out.filterMap fun
      | .ctl p x z v => some (.ctl p (x - r.partAt) (z - r.partAt) v)
      | .chain p da db => some (.shift p da db)
      | .row _ x l => some (.row (x - r.partAt) l)
      | _ => none else r'.part }
    let goes (c : Instr) (r' : TdRun) (out : List OutMsg) : Prop := (¬ runs → NoEffect c s) ∧
      (runs → pc < 511 → Completes c s fun u => u.tdRun t = kept r' out ∧ u.rd (TD_STATUS_PC t) = pc + 1 ∧ u.out = s.out ++ out ∧ Quiet s u) ∧
      (runs → pc = 511 → s.on (TD_STATUS_PENDING t) = false → Completes c s fun u =>
        u.tdRun t = { kept r' out with ended := true, closing := true, ck := false, lanes := false } ∧ u.out = s.out ++ out ∧ Quiet s u)
    let spells (c : Instr) (w : Nat) : Prop := s.waveWord t = some w → Machine.exec c s = .next ((treadleStep t).run s)
    let flag (x : Bool) (i : Nat) := b2n x * 2 ^ i
    let off (p : Nat) := s.rdA (CH_PHASE_PHASE p) % (n + 1)
    let la := max r.clock r.windowEnd
    let new := if a then r.counters.getD k 0 else line.val
    let i := r.counters.getD k 0
    let len := match j.val with | 0 => n.val + 1 | 1 => s.scanLines t | 2 => s.mult t | _ => 12
    (runs → s.on (TD_STATUS_PENDING t) = false → Completes (.tdEnd t ckr) s fun u =>
      u.tdRun t = { r with ended := true, closing := true, ck := ckr, lanes := false } ∧ u.regs = s.regs ∧ u.out = s.out ∧ Quiet s u) ∧
    (¬ runs → NoEffect (.tdEnd t ckr) s) ∧
    goes (.tdEmit t ckr a b d n) { r with ck := ckr, lanes := b, ctl := a, clock := r.clock + (n + 1) } (driven.flatMap fun p =>
      if d then ctl r.clock (r.clock + off p) a p ++ ctl (r.clock + off p) (r.clock + off p + 1) (!a) p ++
        ctl (r.clock + off p + 1) (r.clock + (n + 1)) a p
      else ctl r.clock (r.clock + (n + 1)) a p) ∧
    (s.on MT_STATUS_PAIRED = false → goes (.tdShift t a j k n)
      { r with ck := true, ctl := false, clock := r.clock + s.shiftClocks t (if a then s.maxLamps t else n + 1) }
      (driven.map fun p => .chain p ((lanes p).1.take left) ((lanes p).2.take left))) ∧
    goes (.tdLatch t ckr width) { r with ck := ckr, lanes := false, ctl := false, clock := la + (width + 1) }
      (driven.flatMap (ctl la (la + (width + 1)) true)) ∧
    (runs → pc < 511 → s.planes t = true → Completes (.tdLatch t ckr width) s fun u => ∀ p ∈ s.tdPorts t, (u.port p).latched = (s.port p).shifted) ∧
    (r.lines + 1 ≠ s.rd (TD_APPLY t) ∨ s.on (TD_STATUS_PENDING t) = false → goes (.tdRow t a k guard line)
      { r with line := new, lines := r.lines + 1, ctl := r.ctl && new == r.line,
               clock := if new = r.line then r.clock else la + 1 + guard } (if new = r.line then [] else [.row t la new])) ∧
    (r.lines + 1 ≠ s.rd (TD_APPLY t) ∨ s.on (TD_STATUS_PENDING t) = false → runs → pc < 511 → Completes (.tdRow t a k guard line) s fun u =>
      u.rd (TD_LINE_ROWSEL t) = new % 32 ∧ (s.seams t = true → u.rd (TD_LINE_ROWSEL (t + 1)) = new % 32)) ∧
    goes (.tdWait t ckr false b m) { r with ck := ckr, lanes := false, ctl := b, clock := r.clock + (m + 1) } (driven.flatMap (ctl r.clock (r.clock + (m + 1)) b)) ∧
    (runs → pc < 511 → Completes (.tdWait t ckr true b m) s fun u => u.rd (TD_STATUS_PC t) = pc + 1 ∧ Quiet s u ∧ u.tdRun t =
      { r with part := (u.tdRun t).part, windowEnd := (s.tdPorts t).foldl (fun e p => match (s.port p).latched with
        | some q => max e (r.clock + s.rdA (CH_PHASE_OE_OFF p) + 2 ^ q * s.rdA (TD_UNIT t)) | none => e) r.windowEnd } ∧
      ∀ p ∈ s.tdPorts t, (u.port p).windows = (s.port p).windows ++ match (s.port p).latched with
        | some q => [(r.clock + s.rdA (CH_PHASE_OE_OFF p), r.clock + s.rdA (CH_PHASE_OE_OFF p) + 2 ^ q * s.rdA (TD_UNIT t))] | none => []) ∧
    (¬ runs → NoEffect (.tdWait t ckr true b m) s ∧ NoEffect (.tdLoop t k j target n) s) ∧
    (runs → i + 1 < len → Completes (.tdLoop t k j target n) s fun u =>
      u.tdRun t = { r with counters := r.counters.set k (i + 1) } ∧ u.rd (TD_STATUS_PC t) = target ∧ u.out = s.out ∧ Quiet s u) ∧
    (len ≤ i + 1 → goes (.tdLoop t k j target n) { r with counters := r.counters.set k 0 } []) ∧
    goes (.tdSubf t) { r with marks := r.marks + 1, last := r.part, lastLen := r.clock - r.partAt, part := [], partAt := r.clock } [] ∧
    spells (.tdEnd t ckr) (flag ckr 27) ∧
    spells (.tdEmit t ckr a b d n) (2 ^ 28 + flag ckr 27 + flag a 26 + flag b 24 + flag d 23 + n) ∧
    spells (.tdShift t a j k n) (2 * 2 ^ 28 + flag a 27 + j * 2 ^ 24 + k * 2 ^ 22 + n) ∧
    spells (.tdLatch t ckr width) (3 * 2 ^ 28 + flag ckr 27 + width) ∧
    spells (.tdRow t a k guard line) (4 * 2 ^ 28 + flag a 27 + k * 2 ^ 24 + guard * 2 ^ 14 + line) ∧
    spells (.tdWait t ckr a b m) (5 * 2 ^ 28 + flag ckr 27 + flag a 26 + flag b 25 + m) ∧
    spells (.tdLoop t k j target n) (6 * 2 ^ 28 + k * 2 ^ 26 + j * 2 ^ 24 + target * 2 ^ 14 + n) ∧
    spells (.tdSubf t) (8 * 2 ^ 28)

/-- R158 to R164: a commit waits for its apply line, where it is checked and, unless it is structural, takes effect; a bad read-back is
counted, and a good one publishes the faults it shows. R165 to R167: discoveries that software or an absent port asks for, and what the end
of one leaves for each thing that it finds. -/
def Obligations.TreadleCommitsAndDiscovery : Prop :=
  (∀ (s : State) (w : Requester) (t : Fin 16) (v : Word) (p : Fin 64) (ret : List Bool),
     let st := s.tdCheck t
     let r := s.tdRun t
     let runs : Prop := s.has .treadle = true ∧ s.tdRuns t = true ∧ r.ended = false
     let clocks := s.stepClocks t (s.rdA (CH_RET_DLY p) + s.rdA (CH_RET_RET_ADJ p) + ceilDiv (s.lineLamps p * s.lampBits p) (s.lanes p))
     let alone : Prop := ((s.tdPorts t).filter fun q => s.onA (CH_CTRL_RB_EN q)) = [p.val] ∧ (s.port p).out = false ∧ (s.port p).absent = false
     let bytes := (List.range (s.lineLamps p)).map fun i => (List.range 8).foldl (fun x j => 2 * x +
       b2n (ret.getD (s.rdA (CH_RET_DLY p) + s.rdA (CH_RET_RET_ADJ p) + i * (s.lampBits p / s.lanes p) + j) false)) 0
     let good : Prop := ∀ x ∈ bytes, oddParity 8 x = true
     let reached : Prop := r.lines = s.rd (TD_APPLY t)
     let opens := bytes.foldl (fun k x => k + x % 2 + x / 4 % 2 + x / 16 % 2) 0
     (s.has .treadle = true → v.getLsbD 0 = true → Does 0x10180000 0x101C0000 (.tdCommit w t v) s fun u => u.on (TD_STATUS_PENDING t) = true ∧ u.active = s.active) ∧
     (s.has .treadle = false ∨ v.getLsbD 0 = false → NoEffect (.tdCommit w t v) s) ∧
     (s.has .treadle = false ∨ s.on (TD_STATUS_PENDING t) = false ∨ ¬ reached → NoEffect (.tdApplyLine t) s) ∧
     (s.has .treadle = true → reached → s.on (TD_STATUS_PENDING t) = true → st ≠ .ok → Does 0x10180000 0x101D0000 (.tdApplyLine t) s fun u =>
       u.on (TD_STATUS_PENDING t) = false ∧ u.rd (TD_STATUS_RESULT t) = st.code ∧ u.on (TD_EVENT_REFUSED t) = true ∧ u.active = s.active ∧
       (s.roomy → Logged u 0x3204 .treadle note (t * 2 ^ 24 + st.code))) ∧
     (s.has .treadle = true → reached → s.on (TD_STATUS_PENDING t) = true → st = .ok → Completes (.tdApplyLine t) s fun u =>
       u.on (TD_STATUS_PENDING t) = false ∧ u.rd (TD_STATUS_RESULT t) = 0 ∧ u.rdA (TD_CTRL_MULT t) = s.rd (TD_CTRL_MULT t) ∧
       u.rdA (TD_UNIT t) = s.rd (TD_UNIT t) ∧ (∀ q < 4, u.rdA (CH_CTRL_ENABLE (4 * t + q)) = s.rd (CH_CTRL_ENABLE (4 * t + q))) ∧
       u.rdA (TD_CTRL_SCAN t) = s.rdA (TD_CTRL_SCAN t) ∧ u.rd (TD_STATUS_STATE t) = (if s.tdStructural t then 2 else s.rd (TD_STATUS_STATE t)) ∧
       Quiet s u) ∧
     (¬ runs → NoEffect (.tdDetect t [(p, ret)]) s) ∧
     (runs → s.rd (TD_STATUS_PC t) < 511 → alone → s.onA (CH_CTRL_RB16 p) = false → Completes (.tdDetect t [(p, ret)]) s fun u =>
       u.threads = s.threads ∧ (u.tdRun t).clock = r.clock + clocks ∧ u.rd (TD_STATUS_PC t) = s.rd (TD_STATUS_PC t) + 1 ∧
       (¬ good → u.rd (CH_RB_FAIL p) = min (2 ^ 32 - 1) (s.rd (CH_RB_FAIL p) + 1) ∧ u.mem = s.mem ∧ (u.port p).fails = (s.port p).fails + 1 ∧
         (1 ≤ (s.port p).fails → u.on (CH_DISC_BUSY p) = true)) ∧
       (good → u.rd (CH_RB_FAIL p) = s.rd (CH_RB_FAIL p) ∧ (u.port p).fails = 0 ∧ u.rd (CH_FAULTS_OPEN p) = min 65535 opens ∧
         u.on (CH_TEMP_VALID p) = false))) ∧
  (∀ (s : State) (w : Requester) (p : Fin 64) (v : Word) (ret : DiscRet) (why : DiscWhy),
     let free := s.on (CH_DISC_BUSY p) = false
     let td := Does 0x10180000 0x101D0000
     let found := s.discOutcome p ret
     let fixed := s.rdA (CH_RET_DLY p) + s.rdA (CH_RET_RET_ADJ p)
     let bits := s.lampBits p
     let pay (n : Nat) := p * 2 ^ 24 + n
     (s.has .treadle = true → s.onA (CH_CTRL_ENABLE p) = true → free → td (.chDiscReq w p v) s fun t =>
       t.on (CH_DISC_BUSY p) = true ∧ (t.port p).asked = some .request) ∧
     (s.has .treadle = false ∨ s.onA (CH_CTRL_ENABLE p) = false ∨ ¬ free → NoEffect (.chDiscReq w p v) s) ∧
     (s.has .treadle = true → (s.port p).absent = true → (s.port p).absentAt + 1000000000 ≤ s.now → free → td (.absentPortRediscover p) s fun t =>
       t.on (CH_DISC_BUSY p) = true ∧ (t.port p).asked = some .absent) ∧
     ((s.port p).absent = false ∨ s.now < (s.port p).absentAt + 1000000000 → NoEffect (.absentPortRediscover p) s) ∧
     (found = match ret with
       | none => (2, 0)
       | some (n, clean) => if fixed + (16384 * bits + s.lanes p - 1) / s.lanes p + 16 < n then (2, 0) else if clean = false then (4, 0)
         else if n < fixed ∨ (n - fixed) * s.lanes p % max 1 bits ≠ 0 then (3, 0) else (1, (n - fixed) * s.lanes p / max 1 bits)) ∧
     ((s.port p).runs = none → NoEffect (.discoveryEnd p ret) s) ∧
     ((s.port p).runs = some why → td (.discoveryEnd p ret) s fun t =>
       t.rd (CH_DISC_RESULT p) = found.1 ∧ t.on (CH_DISC_BUSY p) = false ∧
       t.port p = { (s.port p) with runs := none, rejoin := true, absent := found.1 == 2, absentAt := s.now } ∧
       (found.1 = 2 → s.has .treadle = true → s.onA (CH_CTRL_ENABLE p) = true → t.chainPins p = ⟨false, false, s.onA (CH_CTRL_CTL_INV p)⟩) ∧
       t.rd (CH_DISC_LENGTH p) = (if found.1 = 1 then found.2 % 2 ^ 15 else s.rd (CH_DISC_LENGTH p)) ∧
       (s.roomy → (found.1 = 2 → Logged t 0x3303 .treadle warning p) ∧ (found.1 = 3 ∨ found.1 = 4 → Logged t 0x3306 .treadle warning (pay found.1)) ∧
         (found.1 = 1 → (s.port p).absent = true → Logged t 0x3305 .treadle note (pay found.2 % 2 ^ 32)) ∧
         (found.1 = 1 → (s.port p).absent = false → found.2 ≠ s.lineLamps p → Logged t 0x3302 .treadle warning (pay found.2 % 2 ^ 32)))))

/-- R172, R178 to R180: the instructions that write a register of a step in progress. Register 14 and 15 take nothing; the next word is
executed next; the 4,097th instruction faults instead, and outside a step nothing happens. R178, R180, R181: noise, blocks, outputs,
branches and the end of a step. An engine whose next word's cycle has come does what that word spells by R177, as the command does. -/
def Obligations.ThimbleInstructions : Prop :=
  (∀ (s : State) (e : Fin 32) (d a b : Fin 16) (imm : BitVec 8) (kind : Fin 6) (x : TbStep),
     let qa := s.q e a
     let qb := s.q e b
     let sat (v : Int) := max (-2147483648) (min 2147483647 v)
     let wrap (v : Int) := (v + 2147483648) % 4294967296 - 2147483648
     let writes (c : Instr) (v : Int) : Prop := ((s.engine e).step = none → NoEffect c s) ∧
       ((s.engine e).step = some x → x.done < 4096 → x.pc < 255 → Completes c s fun t => Quiet s t ∧
         s.engine e = { t.engine e with step := some x } ∧ (t.engine e).step = some { x with done := x.done + 1, pc := x.pc + 1 } ∧
         t.q e d = (if d < 14 then v else s.q e d) ∧ ∀ g : Fld, g.addr ≠ (TB_Q e d).addr → t.rd g = s.rd g) ∧
       ((s.engine e).step = some x → 4096 ≤ x.done → x.writes = [] → s.on (TB_STAT_PENDING e) = false → Does 0x10200000 0x10230000 c s fun t =>
         (t.engine e).step = none ∧ t.rd (TB_STAT_STATE e) = 2 ∧ t.rd (TB_STAT_CAUSE e) = 1 ∧ t.rd (TB_STAT_PC e) = x.pc % 256 ∧
         t.on (TB_FAULT_FAULT e) = true ∧ t.tb.targets = s.tb.targets ∧
         (s.roomy → Logged t 0x2102 .thimble warning ((e * 2 ^ 24 + 2 ^ 8 + x.pc) % 2 ^ 32)))
     writes (.tbLdi e d imm) (imm.toInt * 65536) ∧ writes (.tbShl8 e d imm) (wrap (s.q e d * 256 + imm.toNat)) ∧ writes (.tbMov e d a) qa ∧
     writes (.tbAdd e d a b) (sat (qa + qb)) ∧ writes (.tbSub e d a b) (sat (qa - qb)) ∧ writes (.tbMul e d a b) (sat (qa * qb / 65536)) ∧
     writes (.tbMin e d a b) (min qa qb) ∧ writes (.tbMax e d a b) (max qa qb) ∧
     writes (.tbWave e d a (Fin.castLE (by decide) kind)) (waveValue kind qa) ∧ NoEffect (.tbWave e d a 6) s ∧ NoEffect (.tbWave e d a 15) s) ∧
  (∀ (s : State) (e : Fin 32) (d a k : Fin 16) (disp : BitVec 8) (x : TbStep),
     let spells (c : Instr) (w : Nat) : Prop := s.thimbleWord e = some w → Machine.exec c s = .next ((engineStep e).run s)
     let three (op : Nat) := op * 2 ^ 12 + d * 2 ^ 8 + a * 2 ^ 4 + k
     let byte (op r : Nat) := op * 2 ^ 12 + r * 2 ^ 8 + disp.toNat
     let y : TbStep := { x with done := x.done + 1 }
     let k8 := k.val % 8
     let index := match x.block with | some (_, i, _) => i | none => 0
     let goes (c : Instr) (z : TbStep) (P : State → Prop) : Prop := ((s.engine e).step = none → NoEffect c s) ∧
       ((s.engine e).step = some x → x.done < 4096 → x.pc < 255 → Completes c s fun t => (t.engine e).step = some z ∧ Quiet s t ∧ P t)
     let kept (t : State) : Prop := t.regs = s.regs
     let q14 (v : Nat) (t : State) : Prop := t.rd (TB_QRO e 0) = v ∧ ∀ g : Fld, g.addr ≠ (TB_QRO e 0).addr → t.rd g = s.rd g
     let faults (c : Instr) (cause : Nat) : Prop := (s.engine e).step = some x → x.done < 4096 → x.writes = [] → s.on (TB_STAT_PENDING e) = false →
       Completes c s fun t => (t.engine e).step = none ∧ t.rd (TB_STAT_STATE e) = 2 ∧ t.rd (TB_STAT_CAUSE e) = cause ∧ t.rd (TB_STAT_PC e) = x.pc % 256 ∧
         t.tb.targets = s.tb.targets ∧ Quiet s t
     let n := s.rd (TB_SEED e)
     let shifted := if n % 2 = 1 then (n / 2) ^^^ 0x80200003 else n / 2
     let target := ((x.pc : Int) + 1 + disp.toInt).toNat
     let room : Prop := s.onA (TB_OUT_EN e k8) = true ∧ index < s.rdA (TB_OUT_COUNT e k8)
     goes (.tbNoise e d) { y with pc := x.pc + 1 } (fun t => t.rd (TB_SEED e) = shifted ∧
       t.q e d = if d < 14 then ((shifted % 65536 : Nat) : Int) else s.q e d) ∧
     (x.block = none → goes (.tbEach e k) { y with block := some (k8, 0, x.pc + 1), pc := x.pc + 1 } (q14 0)) ∧
     (x.block ≠ none → faults (.tbEach e k) 2) ∧ (x.block = none → faults (.tbNext e) 3) ∧
     (∀ f i w, x.block = some (f, i, w) → w ≤ 255 → i < 1024 →
       (i + 1 < s.rdA (TB_OUT_COUNT e f) → goes (.tbNext e) { y with block := some (f, i + 1, w), pc := w } (q14 ((i + 1) * 65536))) ∧
       (s.rdA (TB_OUT_COUNT e f) ≤ i + 1 → goes (.tbNext e) { y with block := none, pc := x.pc + 1 } (q14 0))) ∧
     (room → goes (.tbOut e k a) { y with outs := x.outs.set none (s.rdA (TB_OUT_BASE e k8) + index) (some (ofSigned 32 (s.q e a))), pc := x.pc + 1 } kept) ∧
     (¬ room → goes (.tbOut e k a) { y with pc := x.pc + 1 } fun t => t.rd (TB_DISCARD e) = min (2 ^ 32 - 1) (s.rd (TB_DISCARD e) + 1)) ∧
     (s.q e a ≠ 0 → target ≤ 255 → goes (.tbBnz e a disp) { y with pc := target } kept) ∧
     (s.q e a = 0 → goes (.tbBnz e a disp) { y with pc := x.pc + 1 } kept) ∧
     (s.q e a < 0 → target ≤ 255 → goes (.tbBneg e a disp) { y with pc := target } kept) ∧
     (0 ≤ s.q e a → goes (.tbBneg e a disp) { y with pc := x.pc + 1 } kept) ∧
     ((s.engine e).step = none → NoEffect (.tbEnd e) s) ∧
     ((s.engine e).step = some x → x.done < 4096 → x.writes = [] → Completes (.tbEnd e) s fun t =>
       t.engine e = { (s.engine e) with step := none, set := some (x.since + 4096, x.outs) } ∧ q14 0 t ∧ Quiet s t) ∧
     spells (.tbEnd e) 0 ∧ spells (.tbNext e) 0x100 ∧ spells (.tbLdi e d disp) (byte 1 d) ∧ spells (.tbShl8 e d disp) (byte 2 d) ∧
     spells (.tbMov e d a) (0x3000 + d * 2 ^ 8 + a * 2 ^ 4) ∧ spells (.tbAdd e d a k) (three 4) ∧ spells (.tbSub e d a k) (three 5) ∧
     spells (.tbMul e d a k) (three 6) ∧ spells (.tbMin e d a k) (three 7) ∧ spells (.tbMax e d a k) (three 8) ∧
     (k.val < 6 → spells (.tbWave e d a k) (three 9)) ∧ spells (.tbNoise e d) (0xA000 + d * 2 ^ 8) ∧
     (k.val < 8 → spells (.tbEach e k) (0xB000 + k * 2 ^ 8) ∧ spells (.tbOut e k a) (0xC000 + k * 2 ^ 8 + a * 2 ^ 4)) ∧
     spells (.tbBnz e a disp) (byte 13 a) ∧ spells (.tbBneg e a disp) (byte 14 a))

/-- R174, R180, R182 to R188: publication, and the commands of an engine: start, stop, commit, load and the noise register. -/
def Obligations.ThimbleCommands : Prop :=
  ∀ (s : State) (w : Requester) (e : Fin 32) (v : Word) (outs : SMap (Option Nat)) (due : Nat),
    let x := s.engine e
    let only (b : Nat) : Prop := ∀ j : Nat, 28 ≤ j → j < 32 → j ≠ b → v.getLsbD j = false
    let tb := Does 0x10200000 0x10230000
    let state := s.rd (TB_STAT_STATE e)
    let addr := s.pair (TB_LOAD_LO e) (TB_LOAD_HI e)
    let refused (c : Instr) (st : Nat) : Prop := tb c s fun t => t.rd (TB_STAT_RESULT e) = st ∧ t.on TB_EVENT_REFUSED = true ∧ t.active = s.active ∧
      (s.roomy → Logged t 0x2103 .thimble note (e * 2 ^ 24 + st))
    (x.set = none → NoEffect (.thimblePublish e) s) ∧
    (x.set = some (due, outs) → s.ys.tick < due → NoEffect (.thimblePublish e) s) ∧
    (x.set = some (due, outs) → outs.wf none = true → due ≤ s.ys.tick → tb (.thimblePublish e) s fun t => t.regs = s.regs ∧ (t.engine e).set = none ∧
      ∀ k, let taken := s.driven k = true ∧ ∀ d i, s.tb.source.get none k = some (d, i) → d = due → i ≤ e
        (taken → t.tb.targets.get none k = (outs.get none k).or (s.tb.targets.get none k)) ∧
        (outs.get none k = none ∨ ∃ i, s.tb.source.get none k = some (due, i) ∧ e < i → t.tb.targets.get none k = s.tb.targets.get none k)) ∧
    (s.has .thimble = false → NoEffect (.tbStart w e v) s ∧ NoEffect (.tbStop w e v) s ∧ NoEffect (.tbCommit w e v) s ∧ NoEffect (.tbLoad w e v) s ∧
      NoEffect (.tbLoadDone e) s ∧ NoEffect (.tbSeedWrite w e v) s) ∧
    (s.has .thimble = true → only 31 → state ≠ 1 → tb (.tbStart w e v) s fun t => t.engine e = { x with starting := true } ∧
      t.rd (TB_STAT_RESULT e) = 0 ∧ t.rd (TB_QRO e 1) = 0 ∧ t.on (TB_CTRL_KEEP_T0 e) = v.getLsbD 27 ∧ t.rd (TB_STAT_STATE e) = state) ∧
    (s.has .thimble = true → only 31 → state = 1 → tb (.tbStart w e v) s fun t => t.rd (TB_STAT_RESULT e) = 2 ∧ t.tb = s.tb ∧
      (s.roomy → Logged t 0xB003 .thimble note (0x201000 + 0x1000 * e))) ∧
    (s.has .thimble = true → only 30 → s.on (TB_STAT_PENDING e) = false → (∀ y, x.step = some y → y.writes = []) → tb (.tbStop w e v) s fun t =>
      t.engine e = { x with starting := false, step := none, fading := x.fading ++ s.heldTargets e ++ s.waitingTargets e } ∧ t.rd (TB_STAT_STATE e) = 0 ∧
      t.on (TB_STATUS_RUNNING e) = false ∧ t.tb.targets = s.tb.targets ∧ t.rd (TB_QRO e 0) = 0 ∧
      (∀ y, x.step = some y → ∀ j < 14, t.rd (TB_Q e j) = y.saved.getD j 0 % 2 ^ 32)) ∧
    (s.has .thimble = true → only 29 → (s.on (TB_STAT_BUSY e) = true → refused (.tbCommit w e v) 3) ∧
      (s.on (TB_STAT_BUSY e) = false → s.tbLegal e = false → refused (.tbCommit w e v) 1) ∧
      (s.on (TB_STAT_BUSY e) = false → s.tbLegal e = true → tb (.tbCommit w e v) s fun t => t.rd (TB_STAT_RESULT e) = 0 ∧
        (state = 1 → t.on (TB_STAT_PENDING e) = true ∧ t.active = s.active) ∧
        (state ≠ 1 → t.on (TB_STAT_PENDING e) = false ∧ (∀ i < 256, t.rdA (TB_PROG e i) = s.rd (TB_PROG e i)) ∧
          ∀ i < 8, t.rdA (TB_OUT_BASE e i) = s.rd (TB_OUT_BASE e i) ∧ t.rdA (TB_OUT_COUNT e i) = s.rd (TB_OUT_COUNT e i)))) ∧
    (s.has .thimble = true → only 28 → (s.on (TB_STAT_BUSY e) = true → refused (.tbLoad w e v) 3) ∧
      (s.on (TB_STAT_BUSY e) = false → addr % 64 ≠ 0 ∨ s.extOrScratch addr 512 = false → refused (.tbLoad w e v) 1) ∧
      (s.on (TB_STAT_BUSY e) = false → addr % 64 = 0 → s.extOrScratch addr 512 = true → tb (.tbLoad w e v) s fun t => t.on (TB_STAT_BUSY e) = true ∧ (t.engine e).image = addr)) ∧
    (s.has .thimble = true → s.on (TB_STAT_BUSY e) = true → s.poisoned x.image 512 = false → Completes (.tbLoadDone e) s fun t => Quiet s t ∧
      t.on (TB_STAT_BUSY e) = false ∧ t.rd (TB_STAT_RESULT e) = 0 ∧ ∀ i < 256, t.rd (TB_PROG e i) = leAt (s.bytesAt x.image 512) (2 * i) 2) ∧
    (s.has .thimble = true → s.on (TB_STAT_BUSY e) = true → s.poisoned x.image 512 = true → Completes (.tbLoadDone e) s fun t => Quiet s t ∧
      t.on (TB_STAT_BUSY e) = false ∧ t.rd (TB_STAT_RESULT e) = 7 ∧ ∀ i < 256, t.rd (TB_PROG e i) = s.rd (TB_PROG e i)) ∧
    (s.has .thimble = true → x.step = none → tb (.tbSeedWrite w e v) s fun t => t.rd (TB_SEED e) = (if v = 0 then 1 else v.toNat) ∧ t.tb = s.tb) ∧
    (∀ y, s.has .thimble = true → x.step = some y → tb (.tbSeedWrite w e v) s fun t => t.regs = s.regs ∧
      (t.engine e).step = some { y with writes := y.writes ++ [(14, v.toNat)] })

/-- R192, R198, R207, R212, R226: the commit bit, the indirect tables, the end of an assembly, which gives every enabled row its packet, and
the loss of an input source. -/
def Obligations.LamplighterCycle : Prop :=
  ∀ (s : State) (w : Requester) (v : Word) (row : Fin 512) (src : Fin 4), s.has .lamplighter = true →
    let ll := Does 0x10240000 0x10250000
    let a := s.rd LL_IADDR_ADDR / 4 * 4
    let place := row.val * 4 + src.val
    let shadowed : Prop := (a < 0x2000 ∨ (0x10000 ≤ a ∧ a < 0x30000) ∨ (0x40000 ≤ a ∧ a < 0x51000)) ∧
      ¬ (0x40000 ≤ a ∧ a < 0x50000 ∧ a % 16 = 12) ∧ ¬ (0x50000 ≤ a ∧ a % 8 = 4)
    let quiet (y : InSource) : Prop := (∃ b, y.id = .cid b) ∧ y.heard + 2500000000 ≤ s.now ∨ (∃ p, y.id = .dmx p) ∧ y.heard + 1250000000 ≤ s.now
    let moved (t : State) : Prop := t.rd LL_IADDR_ADDR = if s.on LL_IADDR_INC then (a + 4) % 2 ^ 19 else s.rd LL_IADDR_ADDR
    (v.getLsbD 0 = true → ll (.llCommit w v) s fun t => t.on LL_STATUS_PENDING = true ∧ t.ll = s.ll ∧ t.active = s.active) ∧
    (v.getLsbD 0 = false → NoEffect (.llCommit w v) s) ∧ (s.now < s.ll.copyAt → NoEffect .llCopyDone s) ∧
    (s.ll.copyAt ≤ s.now → ll .llCopyDone s fun t => t.on LL_STATUS_COPYING = false ∧ t.ll = s.ll) ∧
    (shadowed → ll (.llIdataAccess w true v) s fun t => t.ll = { s.ll with tabS := s.ll.tabS.set 0 (a / 4) v } ∧ moved t) ∧
    (¬ shadowed → ll (.llIdataAccess w true v) s fun t => t.ll = s.ll ∧ moved t) ∧
    (ll (.llIdataAccess w false v) s fun t => t.reply = leBytes 4 (s.indirect a) ∧ t.ll = s.ll ∧ moved t) ∧
    (s.on LL_STATUS_BUSY = false ∨ s.ll.assembled = true ∨ s.now < s.ll.due → NoEffect .llAssemblyComplete s) ∧
    (s.on LL_STATUS_BUSY = true → s.ll.assembled = false → s.ll.due ≤ s.now → Completes .llAssemblyComplete s fun t => Quiet s t ∧ t.ll.assembled = true ∧
      t.rd LL_CYCLE_TIME = min (s.now - s.ll.started) (2 ^ 32 - 1) ∧ ∀ r < 4096, let c := s.outRow r
        (c.number = 0 → (t.llRow r).owed = [] ∧ r ∉ t.ll.inCycle) ∧
        (c.number ≠ 0 → c.keep = false → r ∈ t.ll.inCycle ∧
          t.llRow r = { (s.llRow r) with hand := bankSlots s.ll.asm r c.slots, handSeq := none, owed := c.macs })) ∧
    (s.ll.sources.get none place = none → NoEffect (.inputSourceTimeout row src) s) ∧
    (∀ y, s.ll.sources.get none place = some y → ¬ quiet y → NoEffect (.inputSourceTimeout row src) s) ∧
    (∀ y, s.ll.sources.get none place = some y → quiet y → Completes (.inputSourceTimeout row src) s fun t => Quiet s t ∧
      t.ll = { s.ll with sources := s.ll.sources.set none place none } ∧ t.on LL_EVENT_INPUT = true ∧
      (s.roomy → ∀ c, y.id = .cid c → Logged t 0x4006 .lamplighter warning row) ∧
      (∀ p, y.id = .dmx p → t.on (DMX_STAT_LIVE p) = false ∧ (s.roomy → Logged t 0x400D .lamplighter warning (p % 2 ^ 32))))

/-- R211 to R213: a row's data packet goes to queue 4 of its MAC with the row's next sequence number, once for each MAC; a keep-alive repeats
the row's adopted data; universe discovery goes to queue 3 and lists the enabled rows. -/
def Obligations.E131Output : Prop :=
  ∀ (s : State) (r : Fin 4096) (n : Fin 6), s.has .lamplighter = true →
    let c := s.outRow r
    let x := s.llRow r
    let seq := x.handSeq.getD ((x.seq + 1) % 256)
    let d := UdpData.e131 s.cid s.sourceName c.prio c.sync seq false false c.number 0 x.hand
    let queue (t : State) (q : Nat) := (t.mac n).queues.get [] q
    let elapsed : Prop := ∃ a, x.sentAt = some a ∧ a + max 800 (min 1000 (s.rd LL_KEEPALIVE_MS)) * 1000000 ≤ s.now
    let sends : Prop := s.isStandby = false ∧ s.linkUp n = true ∧ s.macIp n ≠ 0
    let free : Prop := s.rowWaits r n = false ∧ ∀ h ∈ s.ll.held, ¬ (h.1 = r ∧ h.2.1 = n)
    let packet (q mac ip : Nat) (p : UdpData) : TxFrame := ⟨s.txFrame n q mac (.udp (s.macIp n) ip 5568 5568 p), 0, 0⟩
    let rows := ((List.range 4096).map s.outRow).filter (·.number ≠ 0)
    let us := (rows.map (·.number)).mergeSort (· ≤ ·)
    (free → n.val ∉ x.owed → NoEffect (.e131DataHandoff r n) s) ∧ (∀ q < r.val, n.val ∈ (s.llRow q).owed → NoEffect (.e131DataHandoff r n) s) ∧
    (free → n.val ∈ x.owed → s.queueRoom n 4 (s.udpFrameLen n d) = true → Completes (.e131DataHandoff r n) s fun t => Quiet s t ∧
      t.llRow r = { x with owed := x.owed.erase n, handSeq := some seq, seq := seq, sentAt := some s.now, last := some x.hand,
                           same := if x.handSeq.isSome then x.same else if x.last = some x.hand then x.same + 1 else 1 } ∧
      (s.isStandby = true → t.net = s.net) ∧ (sends → ∀ m, s.resolve (s.rowDest c) = some m → queue t 4 = queue s 4 ++ [packet 4 m (s.rowDest c) d])) ∧
    (s.ll.adopted = true → c.number ≠ 0 → x.owed = [] → elapsed → Completes (.e131Keepalive r) s fun t => Quiet s t ∧ t.regs = s.regs ∧
      t.llRow r = { x with hand := bankSlots s.ll.send r c.slots, handSeq := none, owed := c.macs }) ∧
    (s.ll.adopted = false ∨ c.number = 0 ∨ x.owed ≠ [] ∨ ¬ elapsed → NoEffect (.e131Keepalive r) s) ∧
    (s.on LL_CTRL_DISCOVERY = false ∨ s.isStandby = true ∨ s.now < s.ll.discoveryAt + 10000000000 → NoEffect .e131DiscoverySend s) ∧
    (s.on LL_CTRL_DISCOVERY = true → s.ll.discoveryAt + 10000000000 ≤ s.now → sends → (∃ y ∈ rows, bit y.ports n = true) → us.length ≤ 512 →
      s.queueRoom n 3 (s.udpFrameLen n (.e131Discovery s.cid s.sourceName us)) = true → Completes .e131DiscoverySend s fun t => Quiet s t ∧
        queue t 3 = queue s 3 ++ [packet 3 (groupMac 0xEFFFFAD6) 0xEFFFFAD6 (.e131Discovery s.cid s.sourceName us)])

/-- R207, R214, R215, R217, R218: an output port sends one adopted universe whole, an input port hands a packet with start code 0 to its input
row, and sweeps are asked for by their time or by software. R216 to R218, R222: which request a transaction puts on the line, and what a
response, a collision or silence leaves. -/
def Obligations.DmxAndRdm : Prop :=
  (∀ (s : State) (w : Requester) (p : Fin 32) (v : Word) (start : Byte) (slots : List Byte), s.has .dmx = true →
     let mode := s.rd (DMX_CFG_MODE p)
     let n := max 1 (min 512 (s.rd (DMX_SLOTS_SLOTS p)))
     let inRow := s.rd (DMX_CFG_INUNI p)
     let input := Instr.dmxInputPacket p start slots
     let plus (k old : Nat) := min (2 ^ k - 1) (old + 1)
     let dmx := Does 0x10250000 0x10254000
     let sweeps : Prop := s.onA (DMX_RDM_SWEEP_EN p) = true ∧ s.rdmPort p = true ∧ s.isStandby = false ∧ s.on (DMX_RDM_BUSY p) = false ∧
        (s.dmx p).sweptAt + max 1 (s.rd LL_RDM_CFG_SWEEP) * 1000000000 ≤ s.now
     let free : Prop := (s.dmx p).work = none ∧ (s.dmx p).busyTo ≤ s.now
     (¬ free → NoEffect (.dmxOutputPacket p) s) ∧
     (free → mode = 1 → s.has .lamplighter = true → s.on (DMX_STAT_DATA p) = true → dmx (.dmxOutputPacket p) s fun t =>
       t.out = s.out ++ [.dmx p (bankSlots s.ll.send (s.rd (DMX_CFG_UNI p)) n)] ∧ t.rd (DMX_PKTS p) = plus 32 (s.rd (DMX_PKTS p)) ∧
       t.rd (DMX_STAT_STATE p) = 1 ∧ (t.dmx p).level = true ∧ t.dmxDe p = true ∧ t.dmxMark p = false) ∧
     (free → mode ≠ 1 → dmx (.dmxOutputPacket p) s fun t => t.out = s.out ∧ t.rd (DMX_STAT_STATE p) = 0 ∧ t.ll = s.ll ∧ t.dmxDe p = false) ∧
     (mode ≠ 2 → dmx (input false) s fun t => t.ll = s.ll ∧ t.regs = s.regs) ∧
     (mode = 2 → s.on (DMX_CFG_BOBBIN p) = false → dmx (input true) s fun t => t.ll = s.ll ∧ t.rd (DMX_ERR_FRAMING p) = plus 16 (s.rd (DMX_ERR_FRAMING p))) ∧
     (mode = 2 → s.on (DMX_CFG_BOBBIN p) = false → start ≠ 0 ∨ slots = [] → dmx (input false) s fun t =>
       t.ll = s.ll ∧ t.rd (DMX_PKTS p) = plus 32 (s.rd (DMX_PKTS p)) ∧ t.rd (DMX_STAT_STATE p) = 2) ∧
     (mode = 2 → s.on (DMX_CFG_BOBBIN p) = false → s.has .lamplighter = true → start = 0 → slots ≠ [] →
       (∀ k < 4, s.ll.sources.get none (inRow * 4 + k) = none) → Completes (input false) s fun t => Quiet s t ∧
         t.ll.sources.get none (inRow * 4) = some ⟨.dmx p, min 200 (s.rd (DMX_SLOTS_PRIO p)), 0, slots.take 512, s.now⟩ ∧
         t.on (DMX_STAT_LIVE p) = true ∧ t.rd (DMX_PKTS p) = plus 32 (s.rd (DMX_PKTS p)) ∧
         (s.roomy → Logged t 0x4005 .lamplighter note inRow)) ∧
     (sweeps → dmx (.rdmSweep p) s fun t => t.dmx p = { (s.dmx p) with asked := some false } ∧ t.on (DMX_RDM_BUSY p) = true) ∧
     (¬ sweeps → NoEffect (.rdmSweep p) s) ∧
     (dmx (.dmxRdmDisc w p v) s fun t => t.on (DMX_RDM_SWEEP_EN p) = v.getLsbD 30 ∧
       (s.rdmPort p = true → s.on (DMX_RDM_BUSY p) = false → t.dmx p = { (s.dmx p) with asked := some true } ∧ t.on (DMX_RDM_BUSY p) = true) ∧
       (s.rdmPort p = false ∨ s.on (DMX_RDM_BUSY p) = true → t.ll = s.ll ∧ t.on (DMX_RDM_BUSY p) = s.on (DMX_RDM_BUSY p)))) ∧
  (∀ (s : State) (p : Fin 32) (resp : RdmResp) (j : RdmJob) (lo hi tries : Nat) (heard : Bool) (data : List Byte) (uid : BitVec 48), s.has .dmx = true →
     let x := s.dmx p
     let idle : Prop := s.ringHas (.engine 4) = false ∧ s.ringHas (.engine 5) = false
     let ready : Prop := s.rdmPort p = true ∧ s.isStandby = false ∧ x.level = true ∧ x.work = none ∧ x.busyTo ≤ s.now
     let tell (r : RdmResp) := Instr.rdmResponse p ⟨r, []⟩
     let data0 := s.bytesAt (bits (leAt j.entry 0 8) 39 0) (leAt j.entry 0x1D 1)
     let tn := (x.transaction + 1) % 256
     let silent : Prop := x.busyTo + max 28 (min 100 (s.rd LL_RDM_CFG_TIMEOUT)) * 100000 ≤ s.now
     let ends (c : Instr) (y : DmxPort) : Prop := Completes c s fun t => Quiet s t ∧ t.dmx p = y ∧ t.rd (DMX_STAT_STATE p) = 1
     (idle → ¬ ready → NoEffect (.rdmTransactionStart p) s) ∧
     (idle → ready → x.resume = none → x.queue.head? = some j → (∀ k ∈ x.queue, k.ring ≠ 0) ∨ j.ring = 0 → isBroadcast (leAt j.entry 0x10 6) = false →
       leAt j.entry 0x1D 1 = 0 ∨ (s.extRange (bits (leAt j.entry 0 8) 39 0) (leAt j.entry 0x1D 1) = true ∧
         s.poisoned (bits (leAt j.entry 0 8) 39 0) (leAt j.entry 0x1D 1) = false) →
       Completes (.rdmTransactionStart p) s fun t => Quiet s t ∧ t.rd (DMX_STAT_STATE p) = 3 ∧
         (∃ more, t.out = s.out ++ more ++ [.rdm p (.job j (leAt j.entry 0x1F 1 % 4) false []) tn data0]) ∧
         t.dmx p = { x with queue := x.queue.erase j, level := false, work := some (.job j (leAt j.entry 0x1F 1 % 4) false []), transaction := tn,
                            busyTo := s.now + (max 92 (min 1000 (s.rd (DMX_TIMING_BREAK p))) + max 12 (s.rd (DMX_TIMING_MAB p)) + (26 + leAt j.entry 0x1D 1) * 44) * 1000 }) ∧
     (x.work = none → NoEffect (tell resp) s ∧ NoEffect (.rdmTimeout p) s) ∧ (¬ silent → NoEffect (.rdmTimeout p) s) ∧
     (x.work = some (.branch lo hi) → ends (tell (.branch uid)) { x with work := none, steps := .mute uid.toNat none :: x.steps }) ∧
     (x.work = some (.branch lo hi) → lo < hi → ends (tell .collision)
       { x with work := none, steps := .branch lo ((lo + hi) / 2) :: .branch ((lo + hi) / 2 + 1) hi :: x.steps }) ∧
     (x.work = some (.mute uid.toNat none) → (∀ i < 256, ∀ y, s.responder p i = some y → y.uid ≠ uid.toNat) → s.responder p 0 = none →
       Completes (tell (.muted uid)) s fun t => Quiet s t ∧ t.responder p 0 = some ⟨uid.toNat, 0, s.ys.tick⟩ ∧ t.on LL_EVENT_RDM = true ∧
         (s.roomy → Logged t 0x4008 .lamplighter note (p * 2 ^ 24))) ∧
     (x.work = some (.job j (tries + 1) heard data) → x.part = 0 → (silent → ends (.rdmTimeout p) { x with work := none, resume := some (.job j tries heard data) }) ∧
       ends (tell .bad) { x with work := none, resume := some (.job j tries true data) }) ∧
     (∀ more k, x.work = some (.job j tries heard data) → x.part = 0 →
       ends (tell (.overflow more k)) { x with work := none, resume := some (.job j tries heard (data ++ more)) }) ∧
     (x.work = some (.job j 0 heard data) → x.part = 0 → silent → Completes (.rdmTimeout p) s fun t => t.dmx p = { x with work := none } ∧ t.threads = s.threads) ∧
     (∀ more k, x.work = some (.job j tries heard data) → x.part = 0 → Completes (tell (.ack more k)) s fun t =>
       t.dmx p = { x with work := none } ∧ t.threads = s.threads))

/-- R289, R292, R293, R297, R303, R310: the link of a host port comes up and goes down, with what that leaves of the host's Hasps and
mailboxes, and the xSPI commands that move no memory. -/
def Obligations.HostLinks : Prop :=
  ∀ (s : State) (p : Fin 2) (speed width : Fin 8) (op : Byte) (kind : PortReset) (moved : List HostData) (len : Nat), s.boot.session = none →
    let lo := 0x10010000 + 0x10000 * p.val
    let hp (c : Instr) (P : State → Prop) : Prop := Does lo (lo + 0x10000) c s P
    let xspi : Prop := s.on (HP_STATUS_MODE p) = true
    let up : Prop := s.on (HP_STATUS_LINK p) = true
    let octal := s.hst.octal.get false p.val
    let opens (t : State) : Prop := t.on (HP_STATUS_LINK p) = true ∧ t.rd (HP_STATUS_GEN p) = (s.rd (HP_STATUS_GEN p) + 1) % 2 ^ 16 ∧
      t.on (HP_EVENT_LINK_UP p) = true ∧ (s.roomy → Logged t 0xB101 (hostSrc p) note (p * 2 ^ 24 + t.rd (HP_STATUS_GEN p)))
    let takes (t : State) : Prop := (¬ up → opens t) ∧ (up → t.rd (HP_STATUS_GEN p) = s.rd (HP_STATUS_GEN p))
    let error (t : State) : Prop := t.on (HP_EVENT_XSPI_ERR p) = true ∧ t.hst.xspiErr.get false p.val = true ∧
      (s.roomy → Logged t 0xB104 (hostSrc p) warning p)
    let resets (c : Instr) : Prop := Completes c s fun t => t.on (HP_STATUS_LINK p) = false ∧ t.rd (HP_STATUS_SPEED p) = 0 ∧
      t.rd (HP_STATUS_WIDTH p) = 0 ∧ t.rd (HP_STATUS_GEN p) = s.rd (HP_STATUS_GEN p) ∧ t.on (HP_EVENT_LINK_DOWN p) = true ∧
      (s.roomy → Logged t 0xB102 (hostSrc p) warning p) ∧ (∀ j < 12, t.box j p = {}) ∧
      (∀ j < 12, ∀ d < 12, d ≠ p.val → t.box j d = s.box j d) ∧
      (∀ n < 64, ∀ o, (s.hasp n).owner = some o → o.kind = p → t.hasp n = { owner := none, orphan := true }) ∧
      (∀ n < 64, (∀ o, (s.hasp n).owner = some o → o.kind ≠ p) → t.hasp n = s.hasp n) ∧
      (∀ v < 64, t.msixAt p v = {}) ∧ ((∀ r : Fin 4, s.ringHas (.engine (Fin.ofNat 16 (6 + 4 * p.val + r.val))) = false) → Quiet s t)
    let taken : Prop := if s.on (HP_STATUS_MODE p) then kind = .portReset else kind = .perst ∨ kind ≠ .portReset ∧ up
    (¬ xspi → ¬ up → hp (.hostLinkUp p speed width) fun t => opens t ∧ t.rd (HP_STATUS_SPEED p) = speed ∧ t.rd (HP_STATUS_WIDTH p) = width) ∧
    (xspi ∨ up → NoEffect (.hostLinkUp p speed width) s) ∧
    (taken → resets (.hostPortReset p kind moved)) ∧ (¬ taken → NoEffect (.hostPortReset p kind moved) s) ∧
    (xspi → resets (.xspiPortReset p)) ∧
    (¬ xspi → ∀ c ∈ [Instr.xspiPortReset p, .xspiStatus p, .xspiId p, .enter8d p, .exit8d p, .xspiInvalidOpcode p op, .xspiReadTimeout p len],
      NoEffect c s) ∧
    (xspi → hp (.xspiId p) fun t => takes t ∧ t.reply = [0x48, 0x10, 0x0B, BitVec.ofNat 8 (s.rd SYS_ID_GRADE)]) ∧
    (xspi → up → hp (.xspiStatus p) fun t => t.hst.xspiErr.get false p.val = false ∧ t.reply = [BitVec.ofNat 8
      (b2n (s.hst.xspiErr.get false p.val) + 2 * (if s.rd (HP_PEND p 0) = 0 ∧ s.rd (HP_PEND p 1) = 0 then 0 else 1)
        + 4 * (if (s.bobbin (32 + p)).bytes.length < 64 then 0 else 1))]) ∧
    (xspi → ¬ up → hp (.xspiStatus p) fun t => opens t ∧ t.hst.xspiErr.get false p.val = false) ∧
    (xspi → octal = false → hp (.enter8d p) fun t => takes t ∧ t.hst.octal.get false p.val = true) ∧
    (xspi → octal = true → hp (.exit8d p) fun t => takes t ∧ t.hst.octal.get false p.val = false) ∧
    (xspi → octal = true → hp (.enter8d p) fun t => error t ∧ t.hst.octal = s.hst.octal) ∧
    (xspi → octal = false → hp (.exit8d p) fun t => error t ∧ t.hst.octal = s.hst.octal) ∧
    (xspi → op ∉ [0x03#8, 0x02#8, 0x30#8, 0x05#8, 0x9F#8, 0x99#8, 0xE8#8, 0xFF#8] → hp (.xspiInvalidOpcode p op) error) ∧
    (xspi → hp (.xspiReadTimeout p len) fun t => takes t ∧ error t ∧ t.reply = List.replicate len 0xFF)

/-- R291, R292, R314: what a host reads, writes and streams: registers behind the lower half of BAR0, memory behind its window, and Bobbin 32
or 33. R88, R294 to R296: how the entry at the head of a DMA ring goes on and ends. -/
def Obligations.HostTransfers : Prop :=
  (∀ (s : State) (p : Fin 2) (off : Nat) (data : List Byte) (len : Nat) (addr : Word),
     let w := hostReq p
     let pcie : Prop := s.on (HP_STATUS_MODE p) = false ∧ s.on (HP_STATUS_LINK p) = true
     let xspi : Prop := s.on (HP_STATUS_MODE p) = true
     let window := s.rd (HP_WIN_BASE p) * 2 ^ 16 + (off - 0x800000)
     let bobbin (t : State) := (t.bobbin (32 + p)).bytes.map (·.val)
     let reads (c : Instr) (n : Nat) : Prop := Completes c s fun t => t.reply = s.bytesAt window n ∧ Quiet s t
     let writes (c : Instr) : Prop := Completes c s fun t => t.bytesAt window data.length = data ∧
       MemOutside s t window (window + data.length) ∧ t.threads = s.threads ∧ t.flash = s.flash
     let rejected (c : Instr) : Prop := Completes c s fun t => t.on (HP_EVENT_XSPI_ERR p) = true ∧ (s.roomy → Logged t 0xB104 (hostSrc p) warning p) ∧ Quiet s t
     let readable : Prop := 0x800000 ≤ off ∧ off + len ≤ 0x1000000 ∧ inRegs window = false ∧ s.readable w window len
     let writable : Prop := 0x800000 ≤ off ∧ off < 0x1000000 ∧ off + data.length ≤ 0x1000000 ∧ inRegs window = false ∧ s.writable w window data.length ∧ s.dr.watch = []
     let bar2 (n : Nat) : Nat := 0x1000000 + 16 * n
     (pcie → ∀ n < 64, let x := s.msixAt p n
       (data.length = 4 → Completes (.bar0Access p (bar2 n) true data len) s fun t => Quiet s t ∧ t.regs = s.regs ∧
         t.msixAt p n = { x with addr := x.addr / 2 ^ 32 * 2 ^ 32 + ofLe data }) ∧
       (data.length = 4 → Completes (.bar0Access p (bar2 n + 12) true data len) s fun t => Quiet s t ∧ t.regs = s.regs ∧
         t.msixAt p n = { x with masked := (ofLe data).testBit 0, held := x.held && (ofLe data).testBit 0 } ∧
         ((ofLe data).testBit 0 = false → x.held = true → .vector p n ∈ t.out)) ∧
       (Completes (.bar0Access p (bar2 n + 12) false data 4) s fun t => t.reply = leBytes 4 (b2n x.masked) ∧ Quiet s t)) ∧
     (pcie → ∀ n < 64, ((raiseVector p n).run s).msixAt p n =
       if (s.msixAt p n).masked then { s.msixAt p n with held := true } else s.msixAt p n) ∧
     (¬ pcie ∨ 0x1002000 ≤ off → NoEffect (.bar0Access p off false data len) s ∧ NoEffect (.bar0Access p off true data len) s) ∧
     (pcie → readable → reads (.bar0Access p off false data len) len) ∧ (pcie → writable → writes (.bar0Access p off true data len)) ∧
     (pcie → data.length = 4 → Completes (.bar0Access p 0x90044 true data len) s fun t => t.rd YS_PTP_OFF = ofLe data ∧ Quiet s t) ∧
     (pcie → s.latches.get 0 (latchDue w 0x10090044) = 0 → Completes (.bar0Access p 0x90044 false data 4) s fun t => t.reply = leBytes 4 (s.rd YS_PTP_OFF) ∧ Quiet s t) ∧
     (xspi → readable → addr.toNat = off → reads (.xspiRead p addr len) len) ∧
     (xspi → writable → addr.toNat = off → writes (.xspiWrite p addr data)) ∧
     (xspi → 2 ^ 24 ≤ addr.toNat → rejected (.xspiRead p addr len) ∧ rejected (.xspiWrite p addr data)) ∧
     (xspi → addr.toNat = 0x7FFFF8 → let past := s.rd (HP_WIN_BASE p) * 2 ^ 16
       data.length = 12 → inRegs past = false → s.writable w past 4 → s.dr.watch = [] →
       Completes (.xspiWrite p addr data) s fun t => t.bytesAt past 4 = data.drop 8 ∧ MemOutside s t past (past + 4)) ∧
     (xspi → addr.toNat < 0x800000 → addr.toNat % 4 ≠ 0 ∨ len % 4 ≠ 0 → rejected (.xspiRead p addr len)) ∧
     (xspi → addr.toNat < 0x800000 → addr.toNat % 4 ≠ 0 ∨ data.length % 4 ≠ 0 → rejected (.xspiWrite p addr data)) ∧
     (xspi → (s.bobbin (32 + p)).bytes.length + data.length ≤ 64 → Completes (.xspiStream p data) s fun t =>
       bobbin t = bobbin s ++ data ∧ Quiet s t) ∧
     (¬ xspi → NoEffect (.xspiRead p addr len) s ∧ NoEffect (.xspiWrite p addr data) s ∧ NoEffect (.xspiStream p data) s)) ∧
  (∀ (s : State) (p : Fin 2) (r : Fin 4) (h : HostData),
     let ring := RingId.engine (Fin.ofNat 16 (6 + 4 * p.val + r.val))
     let b := HP_RING_base p r
     let a := s.ringEntry b (s.rd (RING_HEAD b))
     let e := s.bytesAt a 64
     let host := leAt e 0 8
     let dev := leAt e 8 8
     let len := leAt e 0x10 4
     let ctl := leAt e 0x14 4
     let good : Prop := dev < 2 ^ 40 ∧ ctl < 4 ∧ leAt e 0x1C 4 = 0 ∧ 0 < len ∧ len ≤ 2 ^ 24 ∧ s.dmaRange dev len = true
     let up : Prop := s.on (HP_STATUS_LINK p) = true
     let served : Prop := s.ringHas ring = true ∧ s.readable (hostReq p) a 64 ∧ s.writable (hostReq p) a 64 ∧ s.dr.watch = []
     let was := min (s.dmaMoved p r) len
     let fits : Prop := s.writable (hostReq p) dev len ∧ (dev + len ≤ a ∨ a + 64 ≤ dev)
     let ended (moved : Nat) (st : Status) (t : State) : Prop :=
       t.rd (RING_HEAD b) = (s.rd (RING_HEAD b) + 1) % 2 ^ 16 ∧ t.fenceValue (2 + p) r = (s.fenceValue (2 + p) r + 1) % 2 ^ 32 ∧
       leAt (t.bytesAt a 64) 0x30 8 = moved ∧ leAt (t.bytesAt a 64) 0x38 8 = leAt e 0x18 4 * 2 ^ 32 + 0x8000 + st.code ∧
       (∀ x, (x < a ∨ a + 64 ≤ x) → (x < dev ∨ dev + moved ≤ x) → t.byteAt x = s.byteAt x) ∧ t.threads = s.threads ∧ t.flash = s.flash ∧
       (st ≠ .ok → t.rd (HP_DMA_ERRS p) = min (2 ^ 32 - 1) (s.rd (HP_DMA_ERRS p) + 1) ∧ t.on (HP_EVENT_DMA_ERR p) = true)
     let both (P : State → Prop) : Prop := Completes (.dmaEntryComplete p r h) s P ∧ Completes (.dmaHostTimeout p r h) s P
     (s.ringHas ring = false → NoEffect (.dmaEntryComplete p r h) s ∧ NoEffect (.dmaHostTimeout p r h) s) ∧
     (served → ¬ good → both (ended 0 .badarg)) ∧ (served → good → ¬ up → both (ended 0 .absent)) ∧
     (served → good → up → ctl % 2 = 0 → fits →
       (h.denied = false → len ≤ was + h.data.length → Completes (.dmaEntryComplete p r h) s fun t =>
         ended len .ok t ∧ t.bytesAt (dev + was) (len - was) = h.data.take (len - was)) ∧
       (h.denied = false → was + h.data.length < len → Completes (.dmaEntryComplete p r h) s fun t =>
         t.bytesAt (dev + was) h.data.length = h.data ∧ t.dmaMoved p r = was + h.data.length ∧ MemOutside s t dev (dev + len) ∧
         t.rd (RING_HEAD b) = s.rd (RING_HEAD b) ∧ t.fenceValue (2 + p) r = s.fenceValue (2 + p) r) ∧
       (h.denied = false → Completes (.dmaHostTimeout p r h) s (ended (min (was + h.data.length) len) .timeout)) ∧
       (h.denied = true → both (ended (min (was + h.data.length) len) .denied))) ∧
     (served → good → up → ctl % 2 = 1 → s.readable (hostReq p) dev len → s.poisoned dev len = false →
       (h.denied = false → Completes (.dmaEntryComplete p r h) s fun t =>
         ended len .ok t ∧ .dma p (host + was) (s.bytesAt (dev + was) (len - was)) false ∈ t.out) ∧
       (h.denied = false → Completes (.dmaHostTimeout p r h) s (ended (min (was + h.sent) len) .timeout)) ∧
       (h.denied = true → both (ended (min (was + h.sent) len) .denied)) ∧
       (was + 4096 < len → let t := (dmaUnit p r).run s
         t.dmaMoved p r = was + 4096 ∧ .dma p (host + was) (s.bytesAt (dev + was) 4096) false ∈ t.out ∧ Quiet s t)))

/-- R249, R301 to R304, R307, R308: acquiring and releasing a Hasp, and how a host posts a message and takes one. -/
def Obligations.HaspsAndMailboxes : Prop :=
  ∀ (s : State) (w : Requester) (n : Fin 64) (v : Word) (p : Fin 2) (d : Fin 16), s.boot.session = none →
    let hasp := Does 0x10030000 0x10040000
    let h := s.hasp n
    let value (me : Ident) := me.kind * 2 ^ 26 + me.index * 2 ^ 16 + me.gen
    let peek := b2n h.orphan * 2 ^ 30 + (match h.owner with | some o => value o | none => 0)
    let takes : Prop := ∃ me, s.identOf w = some me ∧ h.owner = some me ∧ v = 0
    let word : MbWord := ⟨BitVec.ofNat 64 (v.toNat * 2 ^ 32 + (s.hst.low.get 0 p.val).toNat), s.rd (HP_STATUS_GEN p), 0, 0, false⟩
    let service : Prop := d.val = 2 ∧ word.value.toNat / 2 ^ 63 = 1
    let size := if s.unit 30 then 8 else 1
    let x := s.box p d
    let told (t : State) (st : Nat) : Prop := t.hst.txStat.get 0 p.val = st
    let y := s.box d p
    (∀ me, s.identOf w = some me → h.owner = none → hasp (.haspAcquire w n) s fun t =>
      t.hasp n = { owner := some me, orphan := false } ∧ t.reply = leBytes 4 (2 ^ 31 + b2n h.orphan * 2 ^ 30 + value me)) ∧
    (∀ me, s.identOf w = some me → h.owner = some me → hasp (.haspAcquire w n) s fun t => t.hst = s.hst ∧ t.reply = leBytes 4 (2 ^ 31 + 2 ^ 29 + value me)) ∧
    (∀ me o, s.identOf w = some me → h.owner = some o → o ≠ me → hasp (.haspAcquire w n) s fun t => t.hst = s.hst ∧ t.reply = leBytes 4 (value o)) ∧
    (s.identOf w = none → hasp (.haspAcquire w n) s fun t => t.hst = s.hst ∧ t.reply = leBytes 4 peek) ∧
    (takes → hasp (.haspRelease w n v) s fun t => t.hasp n = {} ∧ ∀ k, k ≠ n.val → t.hasp k = s.hasp k) ∧
    (¬ takes → hasp (.haspRelease w n v) s fun t => t.hst = s.hst ∧ t.on HASP_EVENT_REJECT = true ∧
      t.rd HASP_REJECT = min (2 ^ 32 - 1) (s.rd HASP_REJECT + 1) ∧ (s.roomy → match s.identOf w with
        | some me => Logged t 0xB402 .hasp note (n * 2 ^ 24 + me.kind * 2 ^ 16)
        | none => ∃ k < 4, Logged t 0xB402 .hasp note (n * 2 ^ 24 + k * 2 ^ 16))) ∧
    (12 ≤ d.val ∨ d.val = p.val → Completes (.mbHostPost p d v) s fun t => told t 1 ∧ t.hst.boxes = s.hst.boxes ∧ Quiet s t) ∧
    (d.val < 12 → d.val ≠ p.val → ¬ service → s.endpointOn d = false → Completes (.mbHostPost p d v) s fun t =>
      told t 5 ∧ t.hst.boxes = s.hst.boxes ∧ Quiet s t) ∧
    (d.val < 10 → d.val ≠ p.val → ¬ service → s.endpointOn d = true → Completes (.mbHostPost p d v) s fun t => Quiet s t ∧
      (x.words.length < size → told t 0 ∧ t.box p d = { words := x.words ++ [word] }) ∧
      (size ≤ x.words.length → told t 0x100 ∧ t.box p d = { words := x.words.dropLast ++ [{ word with coll := true }] }) ∧
      ∀ j < 12, ∀ e < 12, (j ≠ p.val ∨ e ≠ d.val) → t.box j e = s.box j e) ∧
    (12 ≤ d.val → NoEffect (.mbHostTake p d) s) ∧
    (d.val < 12 → Completes (.mbHostTake p d) s fun t => t.box d p = { words := y.words.drop 1 } ∧
      t.reply = leBytes 8 (match y.words with | m :: _ => m.value.toNat | [] => 0) ∧ t.regs = s.regs ∧ Quiet s t)

/-- R299, R300, R312, R313, R500, R501: what the service agent does with the requests of the local endpoints, and its answers. -/
def Obligations.ServiceCommands : Prop :=
  ∀ (s : State) (ep : Endpoint) (op : BitVec 7) (tag : BitVec 8) (arg : BitVec 48),
    let a := arg.toNat
    let n := a % 64
    let slot := a % 2
    let word (o : Nat) (st : Status) (v : Nat) : DWord := BitVec.ofNat 64 (2 ^ 63 + o * 2 ^ 56 + tag.toNat * 2 ^ 48 + st.code * 2 ^ 40 + v % 2 ^ 40)
    let full := decide ((if s.unit 30 then 8 else 1) ≤ (s.box 2 ep.n).words.length)
    let answers (o : Nat) (st : Status) (v : Nat) (t : State) : Prop :=
      (t.box 2 ep.n).words.getLast? = some ⟨word o st v, (s.thread 0 0).gen, 0, 0, full⟩
    let gives (c : Instr) (o : Nat) (st : Status) (v : Nat) (P : State → Prop) : Prop := Completes c s fun t =>
      answers o st v t ∧ t.threads = s.threads ∧ t.mem = s.mem ∧
      (s.roomy → st ≠ .ok → Logged t 0xB502 .boot note (o * 2 ^ 24 + st.code)) ∧ P t
    let serving (b : Boot) (o : Nat) : Boot := { b with
      serving := b.serving.set none ep.n
        (some { ep := ep, op := o, tag := tag.toNat, value := 0, due := s.now + Config.agentTime o }) }
    let starts (c : Instr) (o : Nat) (b : Boot) (P : State → Prop) : Prop := Completes c s fun t =>
      t.boot = serving b o ∧ t.hst.boxes = s.hst.boxes ∧ t.threads = s.threads ∧ t.mem = s.mem ∧ P t
    let held : Prop := s.holdsHasp (s.endpointIdent ep) 0 = true
    let free : Prop := s.boot.serving.get none ep.n = none
    let same (t : State) : Prop := t.boot = s.boot ∧ t.flash = s.flash
    let flashed (t : State) (lo hi : Nat) : Prop := (∀ x, lo ≤ x → x < hi → t.flash.get 0xFF x = 0xFF) ∧
      ∀ x, x < lo ∨ hi ≤ x → t.flash.get 0xFF x = s.flash.get 0xFF x
    let sane (i : Ident) : Prop := i.kind < 4 ∧ i.index < 1024 ∧ i.gen < 2 ^ 16
    let idle : Prop := s.boot.agent = false ∨ ep.n.val = 2
    (idle → ∀ c ∈ [Instr.ping ep tag arg, .info ep tag arg, .haspAcq ep tag arg, .haspRel ep tag arg, .serviceReset ep tag arg,
      .updateOpen ep tag arg, .updateWrite ep tag arg, .updateClose ep tag arg, .serviceUnknownOp ep op tag arg], NoEffect c s) ∧
    (¬ idle → ep.n.val < 10 → ¬ free → gives (.ping ep tag arg) 1 .busy 0 same ∧ gives (.info ep tag arg) 2 .busy 0 same ∧
      gives (.haspAcq ep tag arg) 3 .busy 0 same ∧ gives (.haspRel ep tag arg) 4 .busy 0 same ∧ gives (.serviceReset ep tag arg) 5 .busy 0 same ∧
      gives (.updateOpen ep tag arg) 6 .busy 0 same ∧ gives (.updateWrite ep tag arg) 7 .busy 0 same ∧
      gives (.updateClose ep tag arg) 8 .busy 0 same ∧ gives (.serviceUnknownOp ep op tag arg) op.toNat .busy 0 same) ∧
    (∀ o < 128, ∀ v due, ep.n.val < 10 → due ≤ s.now → s.boot.serving.get none ep.n = some ⟨ep, o, tag.toNat, v, due⟩ →
      (∀ k, k ≠ ep.n.val → s.boot.serving.get none k = none) →
      answers o .ok v (repliesDue.run s) ∧ (repliesDue.run s).boot = { s.boot with serving := s.boot.serving.set none ep.n none }) ∧
    (¬ idle → ep.n.val < 10 → free →
      (gives (.ping ep tag arg) 1 .ok (a % 2 ^ 40) same) ∧
      (a % 256 = 0 → gives (.info ep tag arg) 2 .ok (s.rd ⟨0x10000000, 0x48100B00, 0, 32⟩) same) ∧
      (a % 256 = 1 → gives (.info ep tag arg) 2 .ok (s.pair BT_SERIAL_LO BT_SERIAL_HI % 2 ^ 40) same) ∧
      (a % 256 = 2 → gives (.info ep tag arg) 2 .ok (s.pair BT_SERIAL_LO BT_SERIAL_HI / 2 ^ 40) same) ∧
      (a % 256 = 4 → gives (.info ep tag arg) 2 .ok (s.rd SH_STATUS_NUMBER + s.rd YS_STATUS_MEMBER * 1024) same) ∧
      (4 < a % 256 → gives (.info ep tag arg) 2 .badarg 0 same) ∧
      (8 < op.toNat ∨ op.toNat = 0 → gives (.serviceUnknownOp ep op tag arg) op.toNat .format 0 same) ∧
      (∀ me, s.endpointIdent ep = some me →
        ((s.hasp n).owner = none → sane me → ∃ v, gives (.haspAcq ep tag arg) 3 .ok v fun t => t.hasp n = { owner := some me, orphan := false }) ∧
        (∀ o, (s.hasp n).owner = some o → o ≠ me → sane o →
          gives (.haspAcq ep tag arg) 3 .busy (o.kind * 2 ^ 26 + o.index * 2 ^ 16 + o.gen) fun t => t.hst.hasps = s.hst.hasps) ∧
        ((s.hasp n).owner = some me → s.boot.session = none → gives (.haspRel ep tag arg) 4 .ok 0 fun t => t.hasp n = {}) ∧
        ((s.hasp n).owner ≠ some me → gives (.haspRel ep tag arg) 4 .state 0 fun t => t.hst.hasps = s.hst.hasps)) ∧
      (¬ held → gives (.serviceReset ep tag arg) 5 .state 0 same ∧ gives (.updateOpen ep tag arg) 6 .state 0 same ∧
        gives (.updateWrite ep tag arg) 7 .state 0 same ∧ gives (.updateClose ep tag arg) 8 .state 0 same) ∧
      (held → a ≠ 0 → gives (.serviceReset ep tag arg) 5 .badarg 0 same) ∧
      (held → a = 0 → gives (.serviceReset ep tag arg) 5 .ok 0 fun t => t.boot = { s.boot with resetAt := some (s.now + 10 ^ 6) }) ∧
      (held → s.boot.session ≠ none → gives (.updateOpen ep tag arg) 6 .busy 0 same) ∧
      (∀ me, held → s.endpointIdent ep = some me → s.boot.session = none → s.boot.fromFlash = false ∨ s.rd BT_STATUS_SLOT ≠ slot →
        starts (.updateOpen ep tag arg) 6 { s.boot with session := some { owner := me, slot := slot } } fun t =>
          flashed t (slot * 0x4000000) (slot * 0x4000000 + 0x4000000) ∧ t.on BT_UPDATE_OPEN = true ∧ t.rd BT_UPDATE_WRITTEN = 0) ∧
      (s.sessionOf ep = none → gives (.updateWrite ep tag arg) 7 .state 0 same) ∧
      (∀ x, s.sessionOf ep = some x →
        let b := s.bytesAt (a % 2 ^ 40) 16
        let src := leAt b 0 5
        let len := leAt b 8 4
        let off := leAt b 0xC 4
        let dest := x.slot * 0x4000000 + off
        (held → 0 < len → len ≤ 16777216 → off + len ≤ 0x4000000 → spanMeets off (off + len) x.spans = false → s.agentReads (a % 2 ^ 40) 16 = true →
          s.agentReads src len = true → s.poisoned (a % 2 ^ 40) 16 = false → s.poisoned src len = false → s.on BT_CFG_CHECK = true →
          starts (.updateWrite ep tag arg) 7 { s.boot with session := some { x with spans := spanAdd off (off + len) x.spans } } fun t =>
            t.flashAt dest len = s.bytesAt src len ∧
            (∀ y, y < dest ∨ dest + len ≤ y → t.flash.get 0xFF y = s.flash.get 0xFF y) ∧
            t.rd BT_UPDATE_WRITTEN = (s.rd BT_UPDATE_WRITTEN + len) % 2 ^ 28) ∧
        (held → s.agentReads (a % 2 ^ 40) 16 = true → s.poisoned (a % 2 ^ 40) 16 = false → len = 0 ∨ 16777216 < len →
          gives (.updateWrite ep tag arg) 7 .badarg 0 same) ∧
        (held → a % 2 = 0 → starts (.updateClose ep tag arg) 8 { s.boot with session := none } fun t =>
          flashed t (x.slot * 0x4000000) (x.slot * 0x4000000 + 0x10000) ∧ t.on BT_UPDATE_OPEN = false)))

/-- R315 to R318, R320 to R322: bytes into a Bobbin and words out of it, its stale notice, and the XN window with the write that enables or
disables it. -/
def Obligations.BobbinsAndWindow : Prop :=
  ∀ (s : State) (w : Requester) (n : Fin 48) (b : StageByte) (addr : BitVec 40) (size : Nat) (v : DWord) (u : Word),
    let bb := Does 0x103E0000 0x103F0000
    let xn := Does 0x10030000 0x10040000
    let x := s.bobbin n
    let word := x.bytes.take 8
    let i := addr.toNat - 0x10400000
    let inside : Prop := s.on HASP_XN_CTRL_ENABLE = true ∧ 0x10400000 ≤ addr.toNat ∧ addr.toNat < 0x10420000
    let level (k : Nat) (t : State) := t.hst.xn.levels.get 0 k
    let threshold := 8 * min 8 (s.rd (BB_CFG_THRESH n))
    let rowsClash : Prop := ∃ r, 256 ≤ r ∧ r < 4096 ∧ 1 ≤ (s.outRow r).number ∧ (s.outRow r).number ≤ 256
    let refused (c : Instr) (st : Nat) : Prop := xn c s fun t => t.rd HASP_XN_CTRL_RESULT = st ∧ t.hst = s.hst ∧
      t.on HASP_XN_CTRL_ENABLE = s.on HASP_XN_CTRL_ENABLE ∧ (s.roomy → Logged t 0xB702 .xnWindow note st)
    (s.bobbinFed n = false → NoEffect (.bobbinByteArrive n b) s) ∧
    (s.bobbinFed n = true → x.bytes.length < 64 → bb (.bobbinByteArrive n b) s fun t => t.rd (BB_FILL_FILL n) = x.bytes.length + 1 ∧
      t.ys.seq = (s.ys.seq + 1) % 2 ^ 32 ∧ (0 < threshold → x.bytes.length + 1 = threshold → t.on (levelNotice n) = true) ∧
      t.bobbin n = { x with bytes := x.bytes ++ [⟨b.val, s.ys.tick, s.ys.seq, b.bad⟩], dropping := false,
                            since := if x.bytes.isEmpty then s.now else x.since }) ∧
    (s.bobbinFed n = true → 64 ≤ x.bytes.length → bb (.bobbinByteArrive n b) s fun t => t.bobbin n = { x with ovf := true, dropping := true } ∧
      t.rd (BB_FILL_OVF n) = min (2 ^ 16 - 1) (s.rd (BB_FILL_OVF n) + 1) ∧
      (s.roomy → x.dropping = false → Logged t 0xB601 .bobbin warning n)) ∧
    (x.bytes ≠ [] → bb (.bobbinRead w n) s fun t => t.reply = leBytes 4 (ofLe (word.map (·.val))) ∧
      t.latched w (BB_DATA_HI n).addr = ofLe (word.map (·.val)) / 2 ^ 32 ∧
      t.bobbin n = { x with bytes := x.bytes.drop 8, ovf := false, since := s.now, told := false } ∧
      t.latched w (BB_INFO_COUNT n).addr = b2n (word.any (·.bad)) * 2 ^ 31 + b2n x.ovf * 2 ^ 30 + word.length) ∧
    (x.bytes = [] → bb (.bobbinRead w n) s fun t => t.reply = leBytes 4 0 ∧ t.latched w (BB_INFO_COUNT n).addr = 0 ∧
      t.bobbin n = { x with since := s.now, told := false }) ∧
    (x.bytes ≠ [] → x.told = false → s.rd (BB_CFG_STALE n) ≠ 0 → x.since + s.rd (BB_CFG_STALE n) * 100000 ≤ s.now → bb (.bobbinStaleNotice n) s fun t =>
      t.bobbin n = { x with told := true } ∧ t.on (staleNotice n) = true) ∧
    (x.bytes = [] ∨ x.told = true ∨ s.rd (BB_CFG_STALE n) = 0 ∨ s.now < x.since + s.rd (BB_CFG_STALE n) * 100000 → NoEffect (.bobbinStaleNotice n) s) ∧
    (¬ inside → Completes (.xnAccess w addr size false v) s fun t => t.reply = List.replicate size 0 ∧ Quiet s t ∧
      (s.roomy → Logged t 0x8001 (srcOf w) warning (addr.toNat / 2 ^ 8))) ∧
    (inside → size ≠ 1 → size ≠ 2 → ∀ wr, xn (.xnAccess w addr size wr v) s fun t => t.hst = s.hst ∧
      t.rd HASP_XN_STAT_BADSIZE = min (2 ^ 16 - 1) (s.rd HASP_XN_STAT_BADSIZE + 1) ∧ (wr = false → t.reply = List.replicate size 0)) ∧
    (inside → xn (.xnAccess w addr 1 false v) s fun t => t.reply = [s.hst.xn.written.get 0 i] ∧ t.hst = s.hst) ∧
    (inside → xn (.xnAccess w addr 1 true v) s fun t => t.hst.xn.written.get 0 i = BitVec.ofNat 8 v.toNat ∧
      (s.xnDefers = false → level i t = BitVec.ofNat 8 v.toNat) ∧
      (s.xnDefers = true → t.hst.xn.levels = s.hst.xn.levels ∧ t.hst.xn.deferred = s.hst.xn.deferred ++ [(i, BitVec.ofNat 8 v.toNat)])) ∧
    (inside → i + 1 < 131072 → s.xnDefers = false → xn (.xnAccess w addr 2 true v) s fun t =>
      level i t = BitVec.ofNat 8 (v.toNat / 256) ∧ level (i + 1) t = BitVec.ofNat 8 v.toNat) ∧
    (s.holds0 w = false → refused (.xnEnable w u) 2 ∧ refused (.xnDisable w u) 2) ∧
    (s.holds0 w = true → s.unit 16 = true ∨ rowsClash → refused (.xnEnable w u) 2) ∧
    (s.holds0 w = true → s.unit 16 = false → ¬ rowsClash → s.has .lamplighter = false → refused (.xnEnable w u) 5) ∧
    (s.holds0 w = true → s.unit 16 = false → ¬ rowsClash → s.has .lamplighter = true → xn (.xnEnable w u) s fun t =>
      t.on HASP_XN_CTRL_ENABLE = true ∧ t.rd HASP_XN_CTRL_RESULT = 0 ∧ t.hst.xn = { rows := s.hst.xn.rows } ∧
      (s.roomy → Logged t 0xB701 .xnWindow note 1)) ∧
    (s.holds0 w = true → xn (.xnDisable w u) s fun t => t.on HASP_XN_CTRL_ENABLE = false ∧ t.rd HASP_XN_CTRL_RESULT = 0 ∧ t.hst = s.hst ∧
      (s.roomy → s.on HASP_XN_CTRL_ENABLE = true → Logged t 0xB701 .xnWindow note 0))

/-- R325, R326, R328, R333, R336, R338: links, the software transmit rings, ARP requests, the bridge's address table and the snapshot of the
counters. -/
def Obligations.NetworkLinks : Prop :=
  ∀ (s : State) (w : Requester) (n : Fin 6) (r : Fin 2) (i : Fin 64) (k : Fin 4096) (v : Word),
    let net := Does 0x10280000 0x102D0000
    let on : Prop := s.macOn n = true ∧ s.on (MAC_CTRL_ENABLE n) = true
    let x := s.mac n
    let count (t : State) (m c : Nat) := t.pair (MAC_CNT_LO m c) (MAC_CNT_HI m c)
    let queue (t : State) (m q : Nat) := (t.mac m).queues.get [] q
    let lost := x.queues.foldl (fun j q => j + q.2.length) 0 + b2n x.sending.isSome
    let asks : Prop := s.netOn = true ∧ s.on (NBR_CTRL_AUTO i) = true ∧ s.on (NBR_CTRL_VALID i) = false ∧ s.rd (NBR_IP i) ≠ 0
    let arp (m : Nat) := s.txFrame m 3 0xFFFFFFFFFFFF (.arp false (BitVec.ofNat 48 (s.macAddr m)) (s.macIp m) (s.rd (NBR_IP i)))
    let ring := RingId.macTx n r
    let b := ringBase ring
    let a := s.ringEntry b (s.rd (RING_HEAD b))
    let e := s.bytesAt a 64
    let buf := leAt e 0 8
    let len := leAt e 8 4
    let good : Prop := buf < 2 ^ 40 ∧ 14 ≤ len ∧ len + 4 ≤ s.maxFrame n
    let served : Prop := s.ringHas ring = true ∧ s.readable .network a 64 ∧ s.writable .network a 64 ∧ s.dr.watch = []
    let ended (st : Status) (P : State → Prop) : Prop := Completes (.ethTxEntryComplete n r) s fun t =>
      t.rd (RING_HEAD b) = (s.rd (RING_HEAD b) + 1) % 2 ^ 16 ∧ leAt (t.bytesAt a 64) 0x38 8 = leAt e 0x18 4 * 2 ^ 32 + 0x8000 + st.code ∧
      MemOutside s t a (a + 64) ∧ t.threads = s.threads ∧ t.flash = s.flash ∧ P t
    let kept (t : State) : Prop := x.inFlight.get false r.val = false → t.net = s.net
    let entry := s.brEntry k
    let old (y : BrEntry) : Prop := y.fixed = false ∧ y.at_ + s.rd BR_CTRL_AGE * 10 ^ 9 ≤ s.now
    let index := v.toNat % 4096
    let addr := s.rd BR_ENT_LO + s.rd BR_ENT_HI_ADDR * 2 ^ 32
    let free := s.brWay (brSet addr) (·.isNone)
    let learned := s.brWay (brSet addr) fun y => y.any (!·.fixed)
    let fixed : BrEntry := ⟨addr, s.rd BR_ENT_HI_PORT, true, s.now⟩
    let table (j : Nat) (y : Option BrEntry) (t : State) : Prop := t.brEntry j = y ∧ (∀ m, m ≠ j → t.brEntry m = s.brEntry m) ∧
      t.rd BR_STATUS_ENTRIES = t.net.table.length % 2 ^ 13
    (on → s.on (MAC_STATUS_LINK n) = false → net (.macLinkUp n) s fun t => t.on (MAC_STATUS_LINK n) = true ∧
      t.rd (MAC_STATUS_RATE n) = (if 4 ≤ n.val then 2 else if s.rd (MAC_CTRL_SPEED n) = 1 then 1 else 0) ∧
      t.rd (MAC_STATUS_CHANGES n) = (s.rd (MAC_STATUS_CHANGES n) + 1) % 2 ^ 16 ∧ t.on (MAC_EVENT_LINK_UP n) = true ∧
      (s.roomy → Logged t 0x5001 .network note n)) ∧
    (¬ on ∨ s.on (MAC_STATUS_LINK n) = true → NoEffect (.macLinkUp n) s) ∧
    (s.linkUp n = true → net (.macLinkDown n) s fun t => t.on (MAC_STATUS_LINK n) = false ∧ t.on (MAC_EVENT_LINK_DOWN n) = true ∧
      t.mac n = { x with queues := [], inFlight := [], sending := none, groups := [] } ∧ count t n 12 = (count s n 12 + lost) % 2 ^ 64 ∧
      t.rd (MAC_STATUS_CHANGES n) = (s.rd (MAC_STATUS_CHANGES n) + 1) % 2 ^ 16 ∧ (s.roomy → Logged t 0x5002 .network warning n)) ∧
    (s.linkUp n = false → NoEffect (.macLinkDown n) s) ∧ (¬ asks → NoEffect (.arpRetry i) s) ∧
    (asks → net (.arpRetry i) s fun t => t.net.arpAt.get 0 i.val = s.now ∧ ∀ m < 6, s.linkUp m = true → s.macIp m ≠ 0 →
      s.queueRoom m 3 (arp m).len = true → queue t m 3 = queue s m 3 ++ [⟨arp m, 0, 0⟩]) ∧
    (s.ringHas ring = false → NoEffect (.ethTxEntryComplete n r) s) ∧ (served → ¬ good → ended .badarg kept) ∧
    (served → good → s.linkUp n = false → ended .absent kept) ∧
    (served → good → s.linkUp n = true → s.readable .network buf len →
      (s.poisoned buf len = true → ended .corrupt kept) ∧
      (s.poisoned buf len = false → ended .ok fun t => .eth n (s.softFrame n r (s.bytesAt buf len)) ∈ t.out ∧
        count t n 10 = (count s n 10 + 1) % 2 ^ 64)) ∧
    (∀ y, s.has .trunk = true → s.rd BR_CTRL_AGE ≠ 0 → entry = some y → old y → net (.bridgeAgeing k) s (table k none)) ∧
    (s.has .trunk = false ∨ s.rd BR_CTRL_AGE = 0 ∨ (∀ y, entry = some y → ¬ old y) → NoEffect (.bridgeAgeing k) s) ∧
    (s.has .trunk = false → ∀ c ∈ [Instr.brTableRead w v, .brTableWrite w v, .brTableDelete w v], NoEffect c s) ∧
    (s.netOn = false → NoEffect (.counterSnapshot w v) s) ∧
    (s.has .trunk = true →
      (s.brEntry index = none → net (.brTableRead w v) s fun t => t.on BR_ENT_HI_VALID = false ∧ t.net = s.net) ∧
      (∀ y, s.brEntry index = some y → net (.brTableRead w v) s fun t => t.net = s.net ∧ t.on BR_ENT_HI_VALID = true ∧
        t.rd BR_ENT_LO = y.addr % 2 ^ 32 ∧ t.rd BR_ENT_HI_ADDR = y.addr / 2 ^ 32 % 2 ^ 16 ∧ t.on BR_ENT_HI_STATIC = y.fixed ∧
        t.rd BR_ENT_HI_PORT = y.port % 8) ∧
      (∀ j, s.brFind addr = some j → net (.brTableWrite w v) s fun t => table j (some fixed) t ∧ t.rd NET_STATUS_RESULT = 0) ∧
      (∀ j, s.brFind addr = none → free = some j ∨ free = none ∧ learned = some j →
        net (.brTableWrite w v) s fun t => table j (some fixed) t ∧ t.rd NET_STATUS_RESULT = 0) ∧
      (s.brFind addr = none → free = none → learned = none → net (.brTableWrite w v) s fun t => t.net = s.net ∧
        t.rd NET_STATUS_RESULT = Status.full.code) ∧
      (∀ j, s.brFind addr = some j → net (.brTableDelete w v) s fun t => table j none t ∧ t.rd NET_STATUS_RESULT = 0) ∧
      (s.brFind addr = none → net (.brTableDelete w v) s fun t => t.net = s.net ∧ t.rd NET_STATUS_RESULT = 5)) ∧
    (s.netOn = true → (net (.counterSnapshot w v) s fun t => t.net = s.net ∧ t.rd MAC_SNAP_CTRL_SEQ = (s.rd MAC_SNAP_CTRL_SEQ + 1) % 2 ^ 16 ∧
        (∀ m < 6, ∀ c < 16, t.pair (MAC_SNAP_LO m c) (MAC_SNAP_HI m c) = count s m c) ∧
        ∀ c < 5, t.pair (BR_SNAP_LO c) (BR_SNAP_HI c) = s.pair (BR_CNT_LO c) (BR_CNT_HI c)))

/-- R327, R329, R330, R334, R335, R338 to R341: what becomes of a frame that arrives: it is dropped and counted in the first row that applies,
answered, delivered to a receive ring, or forwarded by the bridge. -/
def Obligations.FrameReception : Prop :=
  ∀ (s : State) (n : Fin 6) (f : EthFrame),
    let receive := Instr.ethFrameReceive n f
    let net := Does 0x10280000 0x102D0000
    let up : Prop := s.linkUp n = true
    let count (t : State) (m c : Nat) := t.pair (MAC_CNT_LO m c) (MAC_CNT_HI m c)
    let queue (t : State) (m q : Nat) := (t.mac m).queues.get [] q
    let counted (c : Nat) (t : State) : Prop := count t n c = (count s n c + 1) % 2 ^ 64
    let bad (c : Nat) : Prop := net receive s fun t => counted c t ∧ t.on (MAC_EVENT_BAD n) = true ∧ t.net = s.net
    let whole : Prop := f.pcsBad = false ∧ 64 ≤ f.len ∧ f.len ≤ s.maxFrame n
    let clean : Prop := whole ∧ f.fcsBad = false ∧ f.body ≠ .pause
    let alone : Prop := s.bridged n = false
    let mine : Prop := s.toDevice n f = true ∧ s.tagOk n f = true
    let answer (mac : BitVec 48) (ip : Nat) := s.txFrame n 3 mac.toNat (.arp true (BitVec.ofNat 48 (s.macAddr n)) (s.macIp n) ip)
    let filter := s.filterFor n none
    let ring := rxRing n (match filter with | some i => s.rd (MAC_FILT_RING n i) | none => 0)
    let b := ringBase ring
    let a := s.ringEntry b (s.rd (RING_HEAD b))
    let e := s.bytesAt a 64
    let buf := leAt e 0 8 % 2 ^ 40
    let size := leAt e 8 4 % 2 ^ 14
    let plain : Prop := up ∧ clean ∧ alone ∧ mine ∧ f.body = .other
    (¬ up → NoEffect receive s) ∧ (up → f.pcsBad = true → bad 5) ∧ (up → f.pcsBad = false → f.len < 64 → bad 2) ∧
    (up → f.pcsBad = false → 64 ≤ f.len → s.maxFrame n < f.len → bad 3) ∧ (up → whole → f.fcsBad = true → 4 ≤ n.val → bad 4) ∧
    (up → whole → f.fcsBad = false → f.body = .pause → net receive s fun t => counted 9 t ∧ t.net = s.net) ∧
    (up → clean → alone → s.tagOk n f = false → bad 6) ∧
    (up → clean → alone → s.tagOk n f = true → s.toDevice n f = false → net receive s fun t => counted 8 t ∧ t.net = s.net) ∧
    (∀ mac ip, up → clean → alone → mine → f.body = .arp false mac ip (s.macIp n) → s.macIp n ≠ 0 →
      s.queueRoom n 3 (answer mac ip).len = true → net receive s fun t => counted 0 t ∧ queue t n 3 = queue s n 3 ++ [⟨answer mac ip, 0, 0⟩]) ∧
    (plain → s.ringHas ring = false → net receive s fun t => counted 0 t ∧ counted 7 t ∧ t.on (MAC_EVENT_NOBUF n) = true ∧ t.net = s.net) ∧
    (plain → s.ringHas ring = true → s.readable .network a 64 → size < f.len → Completes receive s fun t => counted 0 t ∧ counted 7 t ∧ t.net = s.net ∧ Quiet s t) ∧
    (plain → s.ringHas ring = true → s.readable .network a 64 → s.writable .network a 64 → s.writable .network buf f.octets.length →
      s.dr.watch = [] → f.len ≤ size → buf + f.octets.length ≤ a ∨ a + 64 ≤ buf → Completes receive s fun t => counted 0 t ∧
        t.bytesAt buf f.octets.length = f.octets ∧ t.rd (RING_HEAD b) = (s.rd (RING_HEAD b) + 1) % 2 ^ 16 ∧
        leAt (t.bytesAt a 64) 0x38 8 = f.len * 2 ^ 16 + 2 ^ 15 + filter.getD 15 * 2 ^ 11 ∧ t.threads = s.threads ∧
        ∀ x, (x < a ∨ a + 64 ≤ x) → (x < buf ∨ buf + f.octets.length ≤ x) → t.byteAt x = s.byteAt x) ∧
    (∀ m, up → clean → s.bridged n = true → s.forwardTo n f = ([m], false) → s.toDevice n f = false → ptpEventOf f.body = none →
      s.queueRoom m (bridgeQueue f) f.len = true → net receive s fun t =>
        queue t m (bridgeQueue f) = queue s m (bridgeQueue f) ++ [⟨{ f with age := 0 }, 0, 0⟩] ∧ counted 0 t ∧
        t.pair (BR_CNT_LO 0) (BR_CNT_HI 0) = (s.pair (BR_CNT_LO 0) (BR_CNT_HI 0) + 1) % 2 ^ 64)

/-- R331, R343 to R357: how a MAC serves its queues, Delay_Req, the loss of a master, the stamp queue, Weft frames, the preview and Muster. -/
def Obligations.NetworkServices : Prop :=
  ∀ (s : State) (w : Requester) (n : Fin 6) (t : Fin 256) (v : Word),
    let net := Does 0x10280000 0x102D0000
    let queue (u : State) (m q : Nat) := (u.mac m).queues.get [] q
    let sends (m ip : Nat) : Prop := s.linkUp m = true ∧ s.macIp m ≠ 0 ∧ (s.resolve ip).isSome = true
    let port := s.rd YS_PTP_CFG_PORT
    let p := s.net.ptp
    let asks : Prop := s.on PTP_CTRL_ENABLE = true ∧ port < 6 ∧ p.parent ≠ none
    let left := p.masters.filter fun x => some (x.1.clock, x.1.port) ≠ p.parent
    let c := s.rdA (WF_CFG_CANVAS t)
    let m := s.rdA (WF_CFG_PORT t)
    let dest := s.rdA (WF_DEST t)
    let seg := max 1 (s.rdA (WF_CFG_SEG t))
    let packets := s.rdA (WF_SIZE_H t) * ((s.rdA (WF_SIZE_W t) + seg - 1) / seg)
    let weft (bs : List Byte) (y : TxFrame) : Prop := ∃ cs, y.frame.body = .udp (s.macIp m) dest 48100 48100 (.bytes cs) ∧ cs.take 5 = bs
    let streams : Prop := s.onA (WF_CFG_EN t) = true ∧ m < 6 ∧ s.macOn m = true
    let pv := s.rd PV_CFG_PORT
    let previews : Prop := s.on PV_CFG_EN = true ∧ pv < 6 ∧ s.macOn pv = true ∧ s.isStandby = false
    let parts := s.pvSize.2 * ((s.pvSize.1 + 319) / 320)
    let told (ty kind : Nat) (u : State) : Prop := u.net.musterSeq = (s.net.musterSeq + 1) % 2 ^ 16 ∧ u.net.musterAt.get 0 n.val = s.now ∧
      let f := s.txFrame n 3 (groupMac 0xEFFF300A) (.udp (s.macIp n) 0xEFFF300A 48101 48101 (.bytes (s.musterMsg n ty)))
      (s.macIp n ≠ 0 → s.queueRoom n 3 f.len = true → queue u n 3 = queue s n 3 ++ [⟨f, kind, 0⟩])
    (∀ q f fs, s.linkUp n = true → (s.mac n).sending = none → q < 8 → (∀ q' < 8, q < q' → queue s n q' = []) → queue s n q = f :: fs → f.kind = 0 →
      let u := (macBegin n).run s
      queue u n q = fs ∧ (u.mac n).sending = some (q, f, s.now + (f.frame.len + 20) * 8 / s.macGbps n)) ∧
    (∀ q f e, (s.mac n).sending = some (q, f, e) → e ≤ s.now → f.kind ≠ kindSoft → let u := (macEnd n).run s
      (u.mac n).sending = none ∧ .eth n f.frame ∈ u.out ∧ u.pair (MAC_CNT_LO n 10) (MAC_CNT_HI n 10) =
        (s.pair (MAC_CNT_LO n 10) (MAC_CNT_HI n 10) + 1) % 2 ^ 64) ∧
    (¬ asks → NoEffect .ptpDelayReq s) ∧
    (asks → net .ptpDelayReq s fun u => u.net.ptp.delaySeq = (p.delaySeq + 1) % 2 ^ 16 ∧ u.net.ptp.delayAt = s.now ∧
      (sends port 0xE0000181 → (s.mac port).sending = none → (∀ q, queue s port q = []) → u.net.ptp.delay = some (p.delaySeq, s.wallNow.toNat) ∧
        ∃ e, (u.mac port).sending = some (7, e, s.now + (e.frame.len + 20) * 8 / s.macGbps port) ∧ e.id = p.delaySeq)) ∧
    (s.parentLate = false → NoEffect .announceReceiptTimeout s) ∧
    (s.parentLate = true → left = [] → net .announceReceiptTimeout s fun u =>
      u.net.ptp = { p with masters := [], parent := none, good := 0, sync := none } ∧ u.rd PTP_STATUS_STATE = 1) ∧
    (∀ b, s.parentLate = true → bestMaster left = some b → net .announceReceiptTimeout s fun u =>
      u.net.ptp.masters = left ∧ u.net.ptp.parent = some (b.clock, b.port) ∧ u.rd PTP_STATUS_STEPS = b.steps % 2 ^ 8 ∧ u.rd PTP_STATUS_STATE = 2) ∧
    (s.macOn n = false → net (.tsqRead w n) s fun u => u.reply = leBytes 4 0 ∧ u.net = s.net) ∧
    (s.macOn n = true → (s.mac n).tsq = [] → net (.tsqRead w n) s fun u => u.reply = leBytes 4 0 ∧ u.latched w (TSQ_INFO_VALID n).addr = 0 ∧ u.net = s.net) ∧
    (∀ e es, s.macOn n = true → (s.mac n).tsq = e :: es → net (.tsqRead w n) s fun u => u.reply = leBytes 4 e.tick ∧
      u.mac n = { (s.mac n) with tsq := es } ∧ u.rd (TSQ_STAT_DEPTH n) = es.length % 2 ^ 7 ∧
      u.latched w (TSQ_INFO_VALID n).addr = (2 ^ 31 + e.queue * 2 ^ 28 + e.kind * 2 ^ 24 + e.id % 2 ^ 16) % 2 ^ 32) ∧
    (s.netOn = true → v.getLsbD 0 = true → net (.wfCommit w v) s fun u => u.net = { s.net with wfPending := true }) ∧
    (s.netOn = false ∨ v.getLsbD 0 = false → NoEffect (.wfCommit w v) s) ∧ (¬ streams → NoEffect (.weftFrameSend t) s) ∧
    (streams → sends m dest → s.isStandby = false ∨ s.on MT_CFG_WEFT_BOTH = true →
      s.queued m 5 + packets * (78 + 32 + seg * 6) ≤ 65536 → s.queued m 6 + 200 ≤ 65536 → Completes (.weftFrameSend t) s fun u => Quiet s u ∧
        (queue u m 5).length = (queue s m 5).length + packets ∧
        (∀ y ∈ (queue u m 5).drop (queue s m 5).length, weft [0x57, 0x46, 1, 1, BitVec.ofNat 8 c] y) ∧
        ∃ y, queue u m 6 = queue s m 6 ++ [y] ∧ weft [0x57, 0x46, 1, 2, BitVec.ofNat 8 c] y ∧ y.kind = 1 ∧ y.id = t) ∧
    (¬ previews → NoEffect .previewFrameSend s) ∧
    (previews → s.net.pvSeq < 2 ^ 32 → net .previewFrameSend s fun u => u.net.pvSeq = (s.net.pvSeq + parts) % 2 ^ 32 ∧
      (sends pv (s.rd PV_DEST) → s.queued pv 2 + parts * 1400 ≤ 65536 → (queue u pv 2).length = (queue s pv 2).length + parts)) ∧
    (s.on (MAC_CTRL_MUSTER n) = true → s.linkUp n = true → net (.musterAnnounce n) s (told 1 4)) ∧
    (s.on (MAC_CTRL_MUSTER n) = false ∨ s.linkUp n = false → NoEffect (.musterAnnounce n) s) ∧
    (s.linkUp n = true → net (.musterWithdraw n) s (told 2 0)) ∧ (s.linkUp n = false → NoEffect (.musterWithdraw n) s) ∧
    ((∀ y, s.partner t = some y → s.now < y.heard + 3 * 10 ^ 9) → NoEffect (.musterPartnerTimeout t) s) ∧
    (∀ y, s.partner t = some y → y.heard + 3 * 10 ^ 9 ≤ s.now → net (.musterPartnerTimeout t) s fun u => u.partner t = none ∧ (∀ j, j ≠ t.val → u.partner j = s.partner j) ∧
      u.on PTP_EVENT_PARTNER = true ∧ (s.roomy → Logged u 0x500A .network warning ((y.port * 2 ^ 24 + t) % 2 ^ 32)))

/-- R361 to R369, R373: the links, the surveys that number devices, and the measurement of link delays. -/
def Obligations.ShuttleEnumeration : Prop :=
  ∀ (s : State) (w : Requester) (link : ShLink) (up : Bool) (seq : Nat) (l : LinkchgFrame) (e : EnumFrame) (r : EnumReplyFrame)
      (a : AssignFrame) (d : DelayTimes) (v : Word),
    let sh := Does 0x10300000 0x10310000
    let flag := match link with | .up => SH_STATUS_UP | .dn => SH_STATUS_DN
    let number : Nat := match link with | .up => 0 | .dn => 1
    let there : Prop := s.has .shuttle = true ∨ s.bootsShuttle = true
    let hears : Prop := s.shHears link = true
    let master : Prop := s.isMaster = true
    let role := s.rd SH_STATUS_ROLE
    let serial := s.pair BT_SERIAL_LO BT_SERIAL_HI
    let onward (c : Instr) (h : ShHead) (f : ShFrame) : Prop := hears → s.shMine h = false → s.shOwn h = false → s.shLink (otherLink link) = true →
      h.hops + 1 < 2048 → Completes c s fun t => Quiet s t ∧ t.regs = s.regs ∧
        t.out = s.out ++ [.shuttle (otherLink link) seq (mapHead (fun x => { x with hops := x.hops + 1 }) f)]
    let crc := match link with | .up => SH_CRC_UP | .dn => SH_CRC_DN
    let delays (x : Sh) := match link with | .up => x.upDelays | .dn => x.dnDelays
    let shown := match link with | .up => SH_UP_DLY | .dn => SH_DN_DLY
    let delay := ((((d.trip - d.turnaround) / 2 : Nat) : Int) + (match link with | .up => s.boot.fuse.asymUp | .dn => s.boot.fuse.asymDn)).toNat
    let free (t : State) : Prop := ∀ n, 1 ≤ n → n < 1024 → t.sticky n = if n ∈ s.sh.present then s.sticky n else 0
    (there → s.shLink link ≠ up → sh (.shuttleLinkChange link up) s fun t => t.on flag = up ∧ t.on SH_EVENT_LINK = true ∧
      t.rd SH_STATUS_RING = t.ringNow ∧ (s.roomy → if up then Logged t 0x6005 .shuttle note number else Logged t 0x6004 .shuttle warning number)) ∧
    (¬ there ∨ s.shLink link = up → NoEffect (.shuttleLinkChange link up) s) ∧
    (hears → sh (.shuttleFrameDrop (some link)) s fun t => t.rd crc = min (2 ^ 16 - 1) (s.rd crc + 1)) ∧
    (¬ hears → NoEffect (.shuttleFrameDrop (some link)) s) ∧
    (s.mtOn = true → s.on MT_STATUS_LINK = true → Completes (.shuttleFrameDrop none) s fun t => t.regs = s.regs ∧ Quiet s t ∧
      (Ailment.link.code, s.now) ∈ t.mt.faults) ∧
    (hears → master → s.shMine l.head = true → sh (.linkchg link seq l) s fun t => t.rd SH_STATUS_RING = t.ringNow ∧
      t.sh.downs = s.sh.downs.filter (fun x => x.1 ≠ l.head.src) ++ (if l.up then [] else [(l.head.src, true)]) ++
        (if l.dn then [] else [(l.head.src, false)])) ∧
    onward (.linkchg link seq l) l.head (.linkchg l) ∧ onward (.enumReply link seq r) r.head (.enumReply r) ∧
    (¬ hears → ∀ c ∈ [Instr.linkchg link seq l, .enumFrame link seq e, .enumReply link seq r, .assign link seq a, .delayReq link seq,
      .delayResp link seq d], NoEffect c s) ∧
    (s.shOn = false ∨ ¬ master → NoEffect .enumSurvey s) ∧
    (s.shOn = true → master → s.boot.session = none → Completes .enumSurvey s fun t => Quiet s t ∧ t.sh.surveying = true ∧ t.sh.heard = [] ∧
      t.sh.unnumbered = false ∧ t.sh.surveyAt = s.now + 10 ^ 9 ∧ (s.sh.surveyed = false → s.rd SH_STATUS_RING < 2 → s.shLink .dn = true →
        t.out = s.out ++ [.shuttle .dn s.sh.seq (.enum ⟨s.shHead .dn 0xFFFF false, 0⟩)])) ∧
    (hears → master → s.shOwn e.head = true → sh (.enumFrame link seq e) s fun t => t.sh = { s.sh with surveying := false }) ∧
    (hears → ¬ master → s.shRepeat seq e.head = false → sh (.enumFrame link seq e) s fun t => t.rd SH_POS_POS = (e.pos + 1) % 2 ^ 11 ∧
      (role ≠ 4 → s.shLink .dn = true → let h := s.shHead .dn e.head.src false
        .shuttle .dn s.sh.seq (.enumReply ⟨h, serial, e.pos + 1, h.src, s.rd SH_GEN_CGEN, s.ys.tick⟩) ∈ t.out)) ∧
    (hears → master → s.shMine r.head = true →
      (1023 < r.pos → sh (.enumReply link seq r) s fun t => t.sh = s.sh ∧ (s.roomy → Logged t 0x6011 .shuttle warning (r.pos % 2 ^ 32))) ∧
      (r.pos ≤ 1023 → r.number ≠ 0xFFFF → sh (.enumReply link seq r) s fun t => t.sh.heard = r.number :: s.sh.heard ∧
        t.sh.gens.get 0 r.number = r.cgen ∧ t.sh.positions.get 0 r.number = r.pos ∧ (r.number ≠ 0 → r.number ∈ t.sh.present) ∧
        t.rd SH_MEMBERS_COUNT = (t.sh.present.length + 1) % 2 ^ 11) ∧
      (∀ m, r.pos ≤ 1023 → r.number = 0xFFFF → memberNumbers.find? (fun n => s.sticky n == r.serial) = some m ∨
        (∀ n, 1 ≤ n → n < 1024 → s.sticky n ≠ r.serial) ∧ memberNumbers.find? (fun n => s.sticky n == 0) = some m →
        Completes (.enumReply link seq r) s fun t => t.sticky m = r.serial % 2 ^ 64 ∧ t.sh.unnumbered = true ∧ t.threads = s.threads ∧
          (s.rd SH_STATUS_RING < 2 → s.shLink .dn = true → .shuttle .dn s.sh.seq (.assign ⟨s.shHead .dn 0xFFFF false, r.serial, m⟩) ∈ t.out))) ∧
    (hears → ¬ master → s.shRepeat seq a.head = false →
      (role = 0 → a.serial = serial → sh (.assign link seq a) s fun t => t.sh.joining = some a.number ∧ t.sh.assignBy = none) ∧
      (role = 2 → 0 < a.number → a.number < 1024 → sh (.assign link seq a) s fun t => t.sticky a.number = a.serial % 2 ^ 64 ∧
        t.sh.joining = s.sh.joining)) ∧
    (∀ x, s.sh.assignBy = some x → x ≤ s.now → Completes .assignWaitExpire s fun t => t = { s with sh := { s.sh with assignBy := none } }) ∧
    ((∀ x, s.sh.assignBy = some x → s.now < x) → NoEffect .assignWaitExpire s) ∧
    (s.shOn = false → NoEffect .linkDelayMeasure s) ∧
    (s.shOn = true → role ≠ 4 → s.shLink .up = true → s.shLink .dn = true → Completes .linkDelayMeasure s fun t => Quiet s t ∧ t.regs = s.regs ∧
      t.sh.measureAt = s.now + 10 ^ 6 ∧
      t.out = s.out ++ [.shuttle .up s.sh.seq .delayReq, .shuttle .dn ((s.sh.seq + 1) % 2 ^ 32) .delayReq]) ∧
    (hears → role ≠ 4 → Completes (.delayReq link seq) s fun t => Quiet s t ∧ t.regs = s.regs ∧
      t.out = s.out ++ [.shuttle link s.sh.seq (.delayResp (Config.freeValue s.freeCount))]) ∧
    (hears → sh (.delayResp link seq d) s fun t => delays t.sh = (delay :: delays s.sh).take 64 ∧ t.rd shown = meanDelay (delays t.sh) % 2 ^ 32) ∧
    (s.has .shuttle = false → NoEffect (.shStickyClr w v) s) ∧
    (s.has .shuttle = true → master → v.getLsbD 31 = false → sh (.shStickyClr w v) s fun t => free t ∧ t.rd SH_STATUS_RESULT = 0) ∧
    (s.has .shuttle = true → ¬ master → v.getLsbD 31 = false → sh (.shStickyClr w v) s fun t => t.rd SH_STATUS_RESULT = 2 ∧
      (∀ n < 1024, t.sticky n = s.sticky n) ∧ (s.roomy → Logged t 0xB003 .shuttle note 0x300000))

/-- R362, R370, R374 to R382, R499: beacons, the loss of the master and its return, messages, records and images. -/
def Obligations.ShuttleTraffic : Prop :=
  ∀ (s : State) (w : Requester) (link : ShLink) (seq : Nat) (b : Beacon) (m : MailboxFrame) (l : LedgerFrame) (r : ReclaimFrame)
      (i : ImageFrame) (v : Word),
    let sh := Does 0x10300000 0x10310000
    let hears : Prop := s.shHears link = true
    let role := s.rd SH_STATUS_ROLE
    let serial := s.pair BT_SERIAL_LO BT_SERIAL_HI
    let fresh (h : ShHead) : Prop := s.shRepeat seq h = false
    let onward (c : Instr) (h : ShHead) (f : ShFrame) : Prop := hears → s.shMine h = false → s.shOwn h = false → s.shLink (otherLink link) = true →
      h.hops + 1 < 2048 → Completes c s fun t => Quiet s t ∧ t.regs = s.regs ∧
        t.out = s.out ++ [.shuttle (otherLink link) seq (mapHead (fun x => { x with hops := x.hops + 1 }) f)]
    let e := m.dstEp
    let x := s.box 10 e
    let expires : Prop := (∃ x, s.sh.lostAt = some x ∧ x + s.freewheelLimit * 10 ^ 9 ≤ s.now) ∧ role = 2 ∧ s.sh.held = false
    let down : Prop := s.rd SH_STATUS_RING < 2 ∧ s.shLink .dn = true
    let slot := s.lgcBase + s.rd SH_LGC_HEAD % s.lgcSize * 64
    let waiting := (s.rd SH_LGC_HEAD + 2 ^ 32 - s.rd SH_LGC_TAIL) % 2 ^ 32
    let ring := RingId.engine 15
    let at_ := s.ringEntry SH_RING_base (s.rd (RING_HEAD SH_RING_base))
    let entry := s.bytesAt at_ 64
    let word := leAt entry 8 4
    let legal : Prop := word < 2 ^ 16 ∧ word / 2 ^ 14 % 2 = 0 ∧ word / 2 ^ 10 % 16 ≤ 9 ∧ leAt entry 0xC 12 = 0 ∧ leAt entry 0x1C 4 = 0
    let ended (st : Status) (P : State → Prop) : Prop := Completes .shuttleRingEntry s fun t => MemOutside s t at_ (at_ + 64) ∧
      t.rd (RING_HEAD SH_RING_base) = (s.rd (RING_HEAD SH_RING_base) + 1) % 2 ^ 16 ∧ t.fenceValue 5 0 = (s.fenceValue 5 0 + 1) % 2 ^ 32 ∧
      leAt (t.bytesAt at_ 64) 0x38 8 = leAt entry 0x18 4 * 2 ^ 32 + 0x8000 + st.code ∧ t.threads = s.threads ∧ P t
    let served : Prop := s.ringHas ring = true ∧ s.writable .shuttle at_ 64 ∧ s.dr.watch = []
    let device := word % 2 ^ 10
    let mail (dst : Nat) : OutMsg := .shuttle .dn s.sh.seq (.mailbox ⟨s.shHead .dn dst false, BitVec.ofNat 64 (leAt entry 0 8), 10, word / 2 ^ 10 % 16,
      s.rd SH_GEN_CGEN⟩)
    let base := s.rd BT_STATUS_SLOT * 0x4000000
    let size := 512 + leAt (s.flashAt base 512) 0x28 4
    let offset := if s.boot.serveAt < size then s.boot.serveAt else 0
    let n := min 252 (size - offset)
    let serves : Prop := s.shOn = true ∧ s.isMaster = true ∧ s.on BT_CFG_SERVE = true ∧ s.boot.fromFlash = true
    (¬ hears → ∀ c ∈ [Instr.beacon link seq b, .shuttleMailbox link seq m, .ledgerFrame link seq l, .reclaim link seq r], NoEffect c s) ∧
    (hears → role = 2 → fresh b.head → Completes (.beacon link seq b) s fun t => t.rd SH_ACC = s.beaconDelay link b % 2 ^ 32 ∧
      t.pair SH_MASTER_LO SH_MASTER_HI = b.serial % 2 ^ 64 ∧ t.sh.misses = 0 ∧ t.sh.masterNo = b.head.src ∧ t.rd SH_DEPUTY_DEVICE = b.deputy % 2 ^ 10 ∧
      t.on SH_DEPUTY_EN = b.deputyValid) ∧
    (∀ k, hears → role = 0 → fresh b.head → s.sh.joining = some k → s.ys.tick ≤ s.beaconTick link b → Completes (.beacon link seq b) s fun t =>
      t.rd SH_STATUS_ROLE = 2 ∧ t.on SH_STATUS_NUMBERED = true ∧ t.rd SH_STATUS_NUMBER = k % 2 ^ 10 ∧ t.on YS_STATUS_MEMBER = true ∧
      t.rd SH_GEN_CGEN = (s.rd SH_GEN_CGEN + 1) % 2 ^ 16) ∧
    (∀ k, hears → role = 0 → fresh b.head → s.sh.joining = some k → s.beaconTick link b < s.ys.tick → sh (.beacon link seq b) s fun t =>
      t.rd SH_STATUS_ROLE = 0 ∧ t.sh.joining = none) ∧
    (hears → role = 1 → b.serial ≠ serial → b.acting = false →
      (b.serial < serial → Completes (.beacon link seq b) s fun t => t.rd SH_STATUS_ROLE = 4 ∧ t.on SH_EVENT_CONFLICT = true) ∧
      (serial < b.serial → sh (.beacon link seq b) s fun t => t.rd SH_STATUS_ROLE = 1 ∧ t.on SH_EVENT_CONFLICT = true)) ∧
    (role = 3 ∨ role = 1 ∧ b.serial = serial → NoEffect (.beacon link seq b) s) ∧
    (¬ expires → NoEffect .freewheelExpire s) ∧
    (expires → Completes .freewheelExpire s fun t => Quiet s t ∧ t.sh = { s.sh with held := true } ∧ t.rd YS_STATUS_STATE = stMemberHold ∧
      t.on SH_EVENT_HOLD = true) ∧
    (hears → s.shMine r.head = true → s.sh.master = true → role = 2 → sh (.reclaim link seq r) s fun t => t.sh = { s.sh with reclaim := some r.pos }) ∧
    onward (.reclaim link seq r) r.head (.reclaim r) ∧ onward (.ledgerFrame link seq l) l.head (.ledger l) ∧
    (m.head.dst ≠ 0xFFFF → onward (.shuttleMailbox link seq m) m.head (.mailbox m)) ∧
    (s.bootsShuttle = false → onward (.imageFrame link seq i) i.head (.image i)) ∧
    (s.has .shuttle = false → NoEffect (.shReclaim w v) s) ∧
    (s.has .shuttle = true → v.getLsbD 30 = false → role = 3 → sh (.shReclaim w v) s fun t => t.rd SH_STATUS_RESULT = 0 ∧
      t.sh.reclaim = some s.reclaimPos) ∧
    (s.has .shuttle = true → v.getLsbD 30 = false → role ≠ 3 → sh (.shReclaim w v) s fun t => t.rd SH_STATUS_RESULT = 2 ∧ t.sh = s.sh) ∧
    (hears → s.shMine m.head = true → s.shOwn m.head = false → fresh m.head → e < 10 → isService e m.message = false → s.endpointOn e = true →
      x.words.length < s.boxSize → Completes (.shuttleMailbox link seq m) s fun t => Quiet s t ∧
        t.box 10 e = { x with words := x.words ++ [⟨m.message, s.rd SH_GEN_CGEN, 0, m.head.src, false⟩] } ∧
        t.rd (SH_SRC_DEVICE e) = m.head.src % 2 ^ 10 ∧ t.rd (SH_SRC_ENDPOINT e) = m.srcEp % 2 ^ 4 ∧ t.rd (SH_SRC_GEN e) = m.cgen % 2 ^ 16) ∧
    (hears → s.shMine l.head = true → s.isMaster = true →
      (s.on SH_LGC_CTRL_EN = false → NoEffect (.ledgerFrame link seq l) s) ∧
      (s.on SH_LGC_CTRL_EN = true → s.lgcSize ≤ waiting → sh (.ledgerFrame link seq l) s fun t =>
        t.rd SH_LGC_DROP = min (2 ^ 32 - 1) (s.rd SH_LGC_DROP + 1) ∧ (s.roomy → Logged t 0x600F .shuttle warning (l.head.src % 2 ^ 32))) ∧
      (s.on SH_LGC_CTRL_EN = true → waiting < s.lgcSize → l.record.length = 32 → s.writable .shuttle slot 64 → s.dr.watch = [] →
        Completes (.ledgerFrame link seq l) s fun t => t.bytesAt slot 32 = l.record ∧ MemOutside s t slot (slot + 64) ∧
          t.rd SH_LGC_HEAD = (s.rd SH_LGC_HEAD + 1) % 2 ^ 32 ∧ t.threads = s.threads)) ∧
    (s.ringHas ring = false → NoEffect .shuttleRingEntry s) ∧ (served → ¬ legal → ended .badarg fun t => t.sh = s.sh) ∧
    (served → legal → s.shOn = false ∨ s.on SH_STATUS_NUMBERED = false → ended .state fun t => t.sh = s.sh) ∧
    (served → legal → s.shOn = true → s.on SH_STATUS_NUMBERED = true → s.isMaster = true → word / 2 ^ 15 = 0 →
      (device = s.rd SH_STATUS_NUMBER ∨ device ∈ s.sh.present → ended .ok fun t => s.shLink .dn = true → mail device ∈ t.out) ∧
      (device ≠ s.rd SH_STATUS_NUMBER → device ∉ s.sh.present → ended .absent fun t => t.sh = s.sh)) ∧
    (served → legal → s.shOn = true → s.on SH_STATUS_NUMBERED = true → s.isMaster = true → word / 2 ^ 15 = 1 → ended .ok fun t =>
      down → mail 0xFFFF ∈ t.out) ∧
    (s.bootsShuttle = true → s.shLink link = true → 0x8000000 ≤ s.extSize → i.offset + i.data.length ≤ 0x4000000 →
      spanTo 512 (spanAdd i.offset (i.offset + i.data.length) s.boot.collected) = false → Completes (.imageFrame link seq i) s fun t =>
        t.bytesAt (s.collectBase + i.offset) i.data.length = i.data ∧ t.threads = s.threads ∧
        t.boot = { s.boot with collected := spanAdd i.offset (i.offset + i.data.length) s.boot.collected }) ∧
    (¬ serves → NoEffect .imageFrameSend s) ∧
    (serves → Completes .imageFrameSend s fun t => Quiet s t ∧ t.regs = s.regs ∧
      t.boot = { s.boot with serveAt := if offset + n < size then offset + n else 0 } ∧
      (down → t.out = s.out ++ [.shuttle .dn s.sh.seq (.image ⟨s.shHead .dn 0xFFFF false, offset, s.flashAt (base + offset) n⟩)]))

/-- R386 to R392, R400, R407, R408, R410 to R413: the claim on the line, roles, pairing, the loss of the peer, and what ends FAULTY and DOUBLE. -/
def Obligations.PairRoles : Prop :=
  ∀ (s : State) (w : Requester) (owning up : Bool) (seq : Nat) (f : HelloFrame) (v : Word),
    let mt := Does 0x10310000 0x10320000
    let m := s.mt
    let role := s.rd MT_STATUS_ROLE
    let has : Prop := s.has .mantle = true
    let linked : Prop := s.mtOn = true ∧ s.on MT_STATUS_LINK = true
    let held (i : Instr) (P : State → Prop) : Prop := Completes i s fun t => Quiet s t ∧ P t
    let double (i : Instr) : Prop := held i fun t => t.rd MT_STATUS_ROLE = 5 ∧ t.on MT_EVENT_DOUBLE = true ∧ t.mt.recovery = m.recovery
    let second : Prop := m.recovery ≠ none ∧ role ≠ 5
    let seen : Mt := { m with low := true, peerOwns := m.peerOwns || owning }
    let waiting : Prop := ∃ x, m.claim = .wait x
    let window : Prop := ∃ x, m.claim = .confirm x
    let backing : Prop := ∃ x, m.claim = .backoff x
    let waited : Prop := ∃ x ≤ s.now, m.claim = .wait x
    let watched : Prop := ∃ x ≤ s.now, m.claim = .confirm x
    let backed : Prop := ∃ x ≤ s.now, m.claim = .backoff x
    let pulsed : Prop := m.killing = true ∧ m.killAt + 20000 ≤ s.now
    let again : Prop := s.mayKill = true ∧ 0 < m.kills ∧ m.killAt + (if m.kills = 1 then 10 ^ 6 else 10 ^ 8) ≤ s.now
    let recovered : Prop := ∃ x, m.recovery = some x ∧ x + min 600 (max 1 (s.rd MT_TIMING_RECOVER)) * 10 ^ 9 ≤ s.now
    let released : Mt := { m with low := false, peerOwns := false, kills := 0, yields := false,
                                  claim := if s.mayClaim then .wait (s.now + s.claimWait) else m.claim }
    let faulted : Prop := second ∧ m.low = true ∧ m.yields = false
    let kills : Prop := s.mtOn = true ∧ role = 3 ∧ m.low = true ∧ m.pulls = false
    let pulses (t : State) : Prop := t.mt.kills = m.kills + 1 ∧ t.mt.killing = true ∧ t.mt.killAt = s.now ∧ .kill true ∈ t.out ∧ t.on MT_EVENT_KILL = true
    let agrees : Prop := f.profile = s.rd SYS_PROFILE_ACTIVE ∧ f.side ≠ s.on MT_CFG_SIDE ∧ f.primary ≠ s.on MT_CFG_PRIMARY
    let may : Prop := role = 2 ∧ s.on MT_STATUS_PAIRED = true ∧ m.peerRole = 3 ∧ ∃ n, m.copied = some n ∧ s.frame ≤ n + 1
    let refuses (i : Instr) : Prop := mt i s fun t => t.rd MT_STATUS_RESULT = 2 ∧ t.rd MT_STATUS_ROLE = role ∧ t.mt = m ∧
      (s.roomy → Logged t 0x7010 .mantle note 2)
    (waiting ∨ backing → s.mtOn = true → role = 1 → held (.pairOwnNLow owning) fun t => t.rd MT_STATUS_ROLE = 3 ∧ t.mt.claim = .none ∧
      t.mt.low = true ∧ t.mt.conflicts = 0 ∧ t.on MT_STATUS_OWNED = true) ∧
    (waiting ∨ backing → s.mtOn = true → role ≠ 1 → mt (.pairOwnNLow owning) s fun t => t.mt = { seen with claim := .none, conflicts := 0 } ∧
      t.rd MT_STATUS_ROLE = role) ∧
    (m.claim = .none ∨ window → mt (.pairOwnNLow owning) s fun t => t.mt = seen ∧ (has → t.on MT_STATUS_OWNED = true)) ∧
    (m.pulls = true → NoEffect .ownLineReleased s) ∧
    (m.pulls = false → ¬ backing → ¬ faulted → mt .ownLineReleased s fun t => t.mt = released ∧ (has → t.on MT_STATUS_OWNED = false)) ∧
    (m.pulls = false → faulted → double .ownLineReleased) ∧
    (waited → s.mayClaim = true → m.low = false → mt .claimWaitExpire s fun t => t.on MT_STATUS_OWNED = true ∧ t.out = s.out ++ [.ownLine true] ∧
      t.mt = { m with pulls := true, low := true, peerOwns := false, claim := .confirm (s.now + 5000) }) ∧
    (¬ waited ∨ s.mayClaim = false ∨ m.low = true → NoEffect .claimWaitExpire s) ∧
    (watched → m.peerOwns = true → mt .confirmWindowExpire s fun t => t.out = s.out ++ [.ownLine false] ∧ t.mt = { m with
      pulls := false, peerOwns := false, conflicts := m.conflicts + 1,
      claim := .backoff (s.now + claimBackoff (s.pair BT_SERIAL_LO BT_SERIAL_HI) m.conflicts) }) ∧
    (watched → m.peerOwns = false → held .confirmWindowExpire fun t => t.rd MT_STATUS_ROLE = 2 ∧ t.mt.claim = .none ∧
      t.mt.selBy = some (s.now + 19000) ∧ t.on MT_EVENT_PROMOTED = true ∧
      (role = 3 → t.rd MT_PGEN_SWITCHES = (s.rd MT_PGEN_SWITCHES + 1) % 2 ^ 16 ∧ t.mt.recovery ≠ none)) ∧
    (¬ watched → NoEffect .confirmWindowExpire s) ∧
    (backed → m.low = false → s.mayClaim = true → mt .claimBackoffExpire s fun t => t.mt = { m with claim := .wait (s.now + s.claimWait) }) ∧
    (backed → m.low = true → role = 3 → mt .claimBackoffExpire s fun t => t.mt = { m with claim := .none, conflicts := 0 }) ∧
    (backed → m.low = true → role = 1 → held .claimBackoffExpire fun t => t.rd MT_STATUS_ROLE = 3 ∧ t.mt.claim = .none ∧ t.mt.conflicts = 0) ∧
    (¬ backed ∨ (m.low = false ∧ s.mayClaim = false) → NoEffect .claimBackoffExpire s) ∧
    (m.selBy ≠ none → m.pulls = true → role = 2 → mt .pairSelDrive s fun t => t.on MT_STATUS_SEL = true ∧ t.mt = { m with selBy := none } ∧
      t.out = s.out ++ [.sel true (s.rd MT_CFG_SIDE)]) ∧
    (m.selBy = none ∨ m.pulls = false ∨ role ≠ 2 → NoEffect .pairSelDrive s) ∧
    (s.mtOn = false → NoEffect .peerLoss s ∧ NoEffect .peerAliveRegained s ∧ NoEffect (.pairLinkChange up) s) ∧
    (s.mtOn = true → held .peerLoss fun t => t.on MT_STATUS_PEER_ALIVE = false ∧ t.mt.peerOwns = false ∧
      (s.roomy → Logged t 0x7009 .mantle warning role)) ∧
    (s.mtOn = true → second → double .peerLoss) ∧ (kills → m.recovery = none → held .peerLoss pulses) ∧
    (s.mtOn = true → mt .peerAliveRegained s fun t => t.on MT_STATUS_PEER_ALIVE = true ∧ t.mt = m) ∧
    (pulsed → mt .killPulseEnd s fun t => t.mt = { m with killing := false } ∧ t.out = s.out ++ [.kill false]) ∧
    (¬ pulsed → NoEffect .killPulseEnd s) ∧
    (again → (m.recovery = none → held .killRetry pulses) ∧ (m.recovery ≠ none → double .killRetry)) ∧ (¬ again → NoEffect .killRetry s) ∧
    (s.mtOn = true → s.on MT_STATUS_LINK = up → NoEffect (.pairLinkChange up) s) ∧
    (s.mtOn = true → s.on MT_STATUS_LINK = false → mt (.pairLinkChange true) s fun t => t.on MT_STATUS_LINK = true ∧ t.on MT_EVENT_LINK = true ∧
      (s.roomy → Logged t 0x7008 .mantle note (s.rd MT_PGEN_PGEN))) ∧
    (linked → held (.pairLinkChange false) fun t => t.on MT_STATUS_LINK = false ∧ t.on MT_STATUS_PAIRED = false ∧ t.on MT_EVENT_LINK = true ∧
      t.mt.hello = none ∧ t.mt.sigs = [] ∧ t.mt.copying = none ∧ (∀ j < 12, t.box j 11 = {}) ∧ (s.roomy → Logged t 0x7007 .mantle warning 0)) ∧
    (linked → second → double (.pairLinkChange false)) ∧
    (¬ linked → NoEffect (.helloFrame seq f) s) ∧
    (linked → mt (.helloFrame seq f) s fun t => t.rd MT_PEER_HEALTH = f.health % 2 ^ 32 ∧
      (m.helloSent = true → s.on MT_STATUS_PAIRED = false → (agrees → t.on MT_STATUS_PAIRED = true ∧ t.mt.hello = some f ∧
        t.rd MT_PGEN_PGEN = (s.rd MT_PGEN_PGEN + 1) % 2 ^ 16) ∧ (¬ agrees → t.on MT_STATUS_PAIRED = false ∧ t.mt.hello = none))) ∧
    (¬ has → NoEffect (.mtClear w v) s ∧ NoEffect (.mtYield w v) s) ∧
    (has → v.getLsbD 30 = false → role = 4 ∨ role = 5 → held (.mtClear w v) fun t => t.rd MT_STATUS_RESULT = 0 ∧ t.mt.recovery = m.recovery ∧
      t.rd MT_STATUS_ROLE = if role = 5 ∧ m.pulls = true then 2 else 3) ∧
    (has → v.getLsbD 30 = false → role ≠ 4 → role ≠ 5 → refuses (.mtClear w v)) ∧
    (has → v.getLsbD 31 = false → may → held (.mtYield w v) fun t => t.rd MT_STATUS_RESULT = 0 ∧ t.rd MT_STATUS_ROLE = 3 ∧ t.mt.pulls = false ∧
      t.on MT_STATUS_SEL = false ∧ t.on MT_EVENT_YIELDED = true) ∧
    (has → v.getLsbD 31 = false → ¬ may → refuses (.mtYield w v)) ∧
    (recovered → mt .recoveryEnd s fun t => t.mt = { m with recovery := none } ∧ t.on MT_STATUS_RECOVERING = false) ∧
    (¬ recovered → NoEffect .recoveryEnd s)

/-- R394, R396, R398, R399, R401 to R406, R411: what goes over the pair link: messages, the beacon, signatures, health and the copy of the
state. -/
def Obligations.PairTraffic : Prop :=
  ∀ (s : State) (w : Requester) (seq : Nat) (f : PairMail) (b : PBeacon) (e : SigEntry) (key v word : Word) (frame : BitVec 40) (c : CopyFrame)
      (k : CommitFrame) (div : Bool) (r : Fin 8),
    let mt := Does 0x10310000 0x10320000
    let m := s.mt
    let role := s.rd MT_STATUS_ROLE
    let linked : Prop := s.mtOn = true ∧ s.on MT_STATUS_LINK = true
    let x := s.box 11 f.dstEp
    let tick := b.tick + (b.acc + Config.pairDelay) / 8
    let compares : Prop := s.mtOn = true ∧ s.on MT_STATUS_PAIRED = true ∧ role = 3
    let other (y : SigEntry) : Bool := !sameSig e y
    let index := e.key / 2 ^ 16
    let second : Prop := m.recovery ≠ none ∧ role ≠ 5
    let double (i : Instr) : Prop := mt i s fun t => t.rd MT_STATUS_ROLE = 5 ∧ t.on MT_EVENT_DOUBLE = true ∧ t.mt.recovery = m.recovery
    let crc := (s.copyData.drop m.sent).foldl crcByte m.copyCrc ^^^ 0xFFFFFFFF
    let health := Instr.health seq word div r
    let peer := word.toNat
    let a := s.halfAt s.nextHalf
    let copy := Instr.copyFrame seq c
    let fits : Prop := c.offset + c.data.length ≤ 0x400000
    let lands : Prop := linked ∧ s.isStandby = true ∧ fits ∧ s.writable .mantle (a + c.offset) c.data.length ∧ s.dr.watch = []
    let data := s.bytesAt a (min k.length 0x400000)
    let sound : Prop := k.length ≤ 0x400000 ∧ s.poisoned a k.length = false ∧ crc32 data = k.crc
    let commit := Instr.pairCommit seq k
    (¬ linked → ∀ i ∈ [Instr.pairMailbox seq f, .pbeacon seq b, .diverge seq key frame, copy, commit, health], NoEffect i s) ∧
    (linked → f.dstEp < 10 → isService f.dstEp f.message = false → s.endpointOn f.dstEp = true → x.words.length < s.boxSize →
      Completes (.pairMailbox seq f) s fun t => Quiet s t ∧ t.box 11 f.dstEp = { x with words := x.words ++ [⟨f.message, f.pgen, 0, 0, false⟩] }) ∧
    (linked → s.followsPair = true → Completes (.pbeacon seq b) s fun t => t.sh.misses = 0 ∧
      (s.ys.tick + 1000 < tick → t.ys.tick = tick % 2 ^ 64) ∧ (tick ≤ s.ys.tick + 1000 → t.ys.tick = s.ys.tick ∧ t.ys.tickDebt = (tick : Int) - s.ys.tick)) ∧
    (s.followsPair = false → NoEffect (.pbeacon seq b) s) ∧ (¬ compares → NoEffect (.sigFrame seq [e]) s) ∧
    (compares → m.sigs.find? (sameSig e) = none → mt (.sigFrame seq [e]) s fun t => t.mt = { m with peerSigs := m.peerSigs ++ [e] }) ∧
    (∀ o, compares → m.sigs.find? (sameSig e) = some o → o.crc = e.crc → mt (.sigFrame seq [e]) s fun t =>
      t.mt = { m with sigs := m.sigs.filter other, streak := m.streak.set 0 (o.key / 2 ^ 16) 0 }) ∧
    (∀ o, compares → m.sigs.find? (sameSig e) = some o → o.crc ≠ e.crc → m.streak.get 0 index + 1 < s.divergeRun → mt (.sigFrame seq [e]) s fun t =>
      t.mt = { m with sigs := m.sigs.filter other, streak := m.streak.set 0 index (m.streak.get 0 index + 1) } ∧
      t.rd MT_DIV_MISMATCH = min (2 ^ 16 - 1) (s.rd MT_DIV_MISMATCH + 1)) ∧
    (∀ o, compares → m.sigs.find? (sameSig e) = some o → o.crc ≠ e.crc → s.divergeRun ≤ m.streak.get 0 index + 1 → mt (.sigFrame seq [e]) s fun t =>
      t.mt.streak.get 0 index = 0 ∧ t.rd MT_DIV_DIVERGE = min (2 ^ 16 - 1) (s.rd MT_DIV_DIVERGE + 1) ∧ t.on MT_EVENT_DIVERGE = true) ∧
    (linked → role ≠ 2 → NoEffect (.diverge seq key frame) s) ∧
    (linked → role = 2 → m.recovery = none → mt (.diverge seq key frame) s fun t => t.mt.recovery = some s.now ∧ t.on MT_STATUS_RECOVERING = true ∧
      t.mt.diverged = some s.healthWord ∧ t.out = s.out ++ [.pair m.seq (.health s.healthWord true 2)]) ∧
    (linked → role = 2 → m.recovery ≠ none → double (.diverge seq key frame)) ∧
    (linked → r.val = 5 → role ≠ 5 → double health) ∧
    (linked → r.val = 5 → role = 5 → mt health s fun t => t.rd MT_PEER_HEALTH = peer ∧ t.mt = { m with peerRole := 5 }) ∧
    (linked → r.val ≠ 5 → div = true → m.diverged = none → mt health s fun t => t.rd MT_PEER_HEALTH = peer ∧ t.mt = { m with peerRole := r.val }) ∧
    (linked → r.val ≠ 5 → div = true → m.diverged = some peer → mt health s fun t => t.on MT_EVENT_EQUAL = true ∧ t.rd MT_STATUS_ROLE = role ∧
      t.mt = { m with peerRole := r.val, diverged := none, yields := false }) ∧
    (∀ own, linked → r.val ≠ 5 → div = true → m.diverged = some own → own < peer → mt health s fun t => t.rd MT_STATUS_ROLE = role ∧
      t.mt = { m with peerRole := r.val, diverged := none, yields := role == 3 }) ∧
    (∀ own, linked → r.val ≠ 5 → div = true → m.diverged = some own → peer < own → role = 3 → mt health s fun t => t.rd MT_STATUS_ROLE = 4 ∧
      t.mt.claim = .none) ∧
    (∀ own, linked → r.val ≠ 5 → div = true → m.diverged = some own → peer < own → role = 2 → Completes health s fun t => Quiet s t ∧
      t.rd MT_STATUS_ROLE = 4 ∧ t.mt.pulls = false ∧ t.on MT_STATUS_SEL = false ∧ t.on MT_EVENT_YIELDED = true) ∧
    (linked → r.val ≠ 5 → div = false → s.rd MT_PEER_HEALTH < peer → second → double health) ∧
    (linked → r.val ≠ 5 → div = false → peer ≤ s.rd MT_PEER_HEALTH ∨ ¬ second → mt health s fun t => t.rd MT_PEER_HEALTH = peer ∧
      t.mt = { m with peerRole := r.val }) ∧
    (s.mtOn = false → NoEffect .healthSend s) ∧
    (s.mtOn = true → ¬ (second ∧ m.wordSent < s.healthWord) → mt .healthSend s fun t => t.mt.healthAt = s.now + 10 ^ 6 ∧ t.mt.wordSent = s.healthWord ∧
      (s.on MT_STATUS_LINK = true → t.out = s.out ++ [.pair m.seq (.health s.healthWord false role)])) ∧
    (s.mtOn = true → second → m.wordSent < s.healthWord → double .healthSend) ∧
    (lands → Completes copy s fun t => t.bytesAt (a + c.offset) c.data.length = c.data ∧ t.threads = s.threads ∧ t.mt.copyFresh = false ∧
      (m.copyFresh = false → MemOutside s t (a + c.offset) (a + c.offset + c.data.length)) ∧
      (m.copyFresh = true → s.writable .mantle (a + 0x40003F) 1 → t.byteAt (a + 0x40003F) = 0)) ∧
    (linked → s.isStandby = false ∨ ¬ fits → NoEffect copy s) ∧ (s.isStandby = false → NoEffect commit s) ∧
    (linked → s.isStandby = true → s.readable .mantle a (min k.length 0x400000) → s.dr.watch = [] →
      (¬ sound → Completes commit s fun t => Quiet s t ∧ t.rd MT_COPY_BAD = min (2 ^ 32 - 1) (s.rd MT_COPY_BAD + 1) ∧ t.on MT_EVENT_COPY_FAIL = true ∧
        t.on MT_COPY_STAT_VALID = s.on MT_COPY_STAT_VALID) ∧
      (sound → s.writable .mantle (a + 0x400000) 64 → Completes commit s fun t => t.threads = s.threads ∧ t.on MT_COPY_STAT_VALID = true ∧
        t.rd MT_COPY_STAT_HALF = s.nextHalf ∧ t.rd MT_COPY_STAT_LENGTH = k.length ∧ t.pair MT_COPY_FRAME_LO MT_COPY_FRAME_HI = k.frame % 2 ^ 40 ∧
        t.mt.adopt = true ∧ (role = 3 → t.mt.recovery = none) ∧ leAt (t.bytesAt (a + 0x400000) 64) 0 4 = 0x4D54434D ∧ t.byteAt (a + 0x40003F) = 0xA5 ∧
        MemOutside s t (a + 0x400000) (a + 0x400040))) ∧
    (m.copying = none → NoEffect .stateCopyDone s) ∧
    (∀ n, m.copying = some n → mt .stateCopyDone s fun t => t.mt.copied = some n ∧ t.mt.copying = none ∧ t.on MT_EVENT_COPIED = true ∧
      (m.peerRole = 3 → t.mt.recovery = none) ∧
      (linked → ∃ q, .pair q (.commit ⟨n, s.copyData.length, crc⟩) ∈ t.out)) ∧
    (s.has .mantle = true → mt (.mtCommit w v) s fun t => t.mt = { m with commit := true }) ∧ (s.has .mantle = false → NoEffect (.mtCommit w v) s)

/-- R31, R416, R418 to R421, R423, R425, R427: reads and writes of Stockroom and of external memory, what a corrected and an uncorrectable word
report, and what symbol errors leave. -/
def Obligations.MemoryTransactions : Prop :=
  ∀ (s : State) (w : Requester) (addr up : BitVec 40) (len n : Nat) (d : List Byte),
    let a := addr.toNat
    let word := a / 32 * 32
    let ask (k : MemKind) (us : List (BitVec 40 × Nat)) : StockReq := ⟨w, addr, len, k, us⟩
    let each (k : MemKind) (us : List (BitVec 40 × Nat)) (P : State → Prop) : Prop :=
      Completes (.stockroomTransaction (ask k us)) s P ∧ Completes (.extMemoryRequest (ask k us)) s P
    let stored (t : State) : Prop := t.bytesAt a d.length = d ∧ MemOutside s t a (a + d.length) ∧ t.threads = s.threads ∧ t.flash = s.flash
    let free : Prop := s.writable w a d.length ∧ s.dr.watch = []
    let one : Prop := s.readable w a len ∧ 0 < len ∧ a % 32 + len ≤ 32
    let g := groupOf word
    let u := up.toNat / 32
    let k := s.ts.symbols.get 0 u + n
    let coded : Prop := inStock up.toNat = true ∨ s.on TS_EXT_STATUS_PROTECT = true
    (s.readable w a len → each .read [] fun t => t.reply = s.bytesAt a len ∧ Quiet s t) ∧
    (¬ s.readable w a len → each .read [] fun t => t.reply = List.replicate len 0 ∧ Quiet s t ∧
      (s.roomy → Logged t 0x8001 (srcOf w) warning (a / 2 ^ 8))) ∧
    (free → each (.write d) [] stored) ∧ (free → s.readable w a len → each (.rmw d) [] fun t => stored t ∧ t.reply = s.bytesAt a len) ∧
    ((∃ i < d.length, s.mayWrite w (a + i) = false) → each (.write d) [] fun t => Quiet s t ∧ (s.roomy → Logged t 0x8001 (srcOf w) warning (a / 2 ^ 8))) ∧
    (one → inStock a = true → s.poisonedAt word = false → 0 < s.ts.symbols.get 0 (a / 32) → each .read [] fun t =>
      t.rd (TS_CORR g) = min (2 ^ 32 - 1) (s.rd (TS_CORR g) + 1) ∧ t.on TS_EVENT_CORR = true ∧ (s.roomy → Logged t 0x8002 .stockroom note word)) ∧
    (one → inStock a = true → s.poisonedAt word = true → each .read [] fun t => t.rd (TS_UNCORR g) = min (2 ^ 32 - 1) (s.rd (TS_UNCORR g) + 1) ∧
      t.rd (TS_ERRADDR g) = word ∧ t.on TS_EVENT_UNCORR = true ∧ (s.roomy → Logged t 0x8003 .stockroom error word)) ∧
    (one → s.inExt a = true → s.poisonedAt word = true → each .read [] fun t => t.rd TS_EXT_UNCORR = min (2 ^ 32 - 1) (s.rd TS_EXT_UNCORR + 1) ∧
      t.on TS_EVENT_EXT_UNCORR = true ∧ (s.roomy → Logged t 0x8009 .external error (word / 2 ^ 8))) ∧
    (free → a % 32 = 0 → d.length = 32 → each (.write d) [] fun t => t.poisonedAt a = false ∧ t.ts.symbols.get 0 (a / 32) = 0) ∧
    (len = 0 → 0 < n → s.inMem up.toNat = true → coded → k ≤ 2 → each .read [(up, n)] fun t => t.ts.symbols.get 0 u = k ∧ Quiet s t) ∧
    (len = 0 → 0 < n → s.inMem up.toNat = true → coded → 2 < k → each .read [(up, n)] fun t => t.threads = s.threads ∧
      (t.poison.get false u = true ∧ t.mem = s.mem ∨ t.ts.symbols.get 0 u = 1 ∧ MemOutside s t (u * 32) (u * 32 + 32))) ∧
    (∀ r, s.ts.running.get none (groupOf a) = some r → Requester.id w = some r.req → Completes (.stockroomTransaction (ask .read [])) s fun t =>
      t.ts.running.get none (groupOf a) = none)

/-- R422, R424 to R426, R428 to R433: the scrubbers, a group's choice of its next transaction, the commit of the slot tables, and the
protection of the next start. -/
def Obligations.TurnstilesAndScrubbing : Prop :=
  ∀ (s : State) (w : Requester) (g : Fin 16) (asks : List TsAsk) (v : Word) (rate : Fin 32),
    let ts := Does 0x100A0000 0x100B0000
    let grant := Instr.turnstileGrant g asks
    let x := s.ts
    let running := x.running.get none g.val
    let choice := s.turnstileChoice g asks
    let grants := x.grants.get 0 g.val + 1
    let i := x.scrubAt
    let j := x.extScrubAt
    let fixed (t : State) (a : Nat) : Prop := s.poisonedAt a = false → t.ts.symbols.get 0 (a / 32) = 0
    let external : Prop := s.on TS_EXT_SCRUB_EN = true ∧ s.on TS_EXT_STATUS_PROTECT = true ∧ 0 < s.extLines
    let effect (t : State) (f : Fld) : Prop := t.rdA f = s.rd f
    (s.on TS_SCRUB_CFG_EN = false → NoEffect .scrubStep s) ∧
    (s.on TS_SCRUB_CFG_EN = true → ts .scrubStep s fun t => t.ts.scrubAt = (i + 1) % 196608 ∧ (∀ h < 16, fixed t (wordAddr h i)) ∧
      (i + 1 = 196608 → t.rd TS_SCRUB_STAT_PASSES = (s.rd TS_SCRUB_STAT_PASSES + 1) % 2 ^ 16 ∧ t.on TS_EVENT_SCRUB_PASS = true)) ∧
    (¬ external → NoEffect .extScrubAccess s) ∧
    (external → ts .extScrubAccess s fun t => t.ts.extScrubAt = (if j + 1 < s.extLines then j + 1 else 0) ∧
      (∀ k < 7, fixed t (0x100000000 + j * 224 + k * 32)) ∧
      (s.extLines ≤ j + 1 → t.rd TS_SCRUB_STAT_EXT_PASSES = (s.rd TS_SCRUB_STAT_EXT_PASSES + 1) % 2 ^ 16)) ∧
    (choice = none → NoEffect grant s) ∧
    (∀ a b, choice = some (a, b) → a.req.val < 16 → running ≠ none → NoEffect grant s) ∧
    (∀ a b, choice = some (a, b) → a.req.val < 16 → running = none → ts grant s fun t =>
      t.ts.running.get none g.val = some ⟨a.req, a.two, s.now, 0, false⟩ ∧ t.ts.parked.get none g.val = some a.req.val ∧ t.ts.grants.get 0 g.val = grants ∧
      t.ts.owed.get false g.val = ((x.owed.get false g.val && !b) || grants % max 1 (s.rdA TS_CTRL_N) == 0) ∧
      (s.rd (TS_WAIT_MAX g) < a.age → t.rd (TS_WAIT_MAX g) = min a.age (2 ^ 16 - 1) ∧ t.rd (TS_WAIT_REQ g) = a.req) ∧
      (a.age ≤ s.rd (TS_WAIT_MAX g) → t.regs = s.regs)) ∧
    (∀ a b r, choice = some (a, b) → 16 ≤ a.req.val → running = some r → r.rmw = false → ts grant s fun t =>
      t.ts = { x with running := x.running.set none g.val (some { r with lost := r.lost + if a.two then 2 else a.words.val }) } ∧
      t.rd (TS_PREEMPT g) = min (2 ^ 32 - 1) (s.rd (TS_PREEMPT g) + 1)) ∧
    (∀ a b, choice = some (a, b) → 16 ≤ a.req.val → (∀ r, running = some r → r.rmw = true) → NoEffect grant s) ∧
    (∀ a, asks.find? (fun y => y.req.val == 16) = some a → choice = some (a, false)) ∧
    (∀ a, s.debugPort = true → asks.find? (fun y => y.req.val == 16) = none → asks.find? (fun y => y.req.val == 17) = some a → choice = some (a, false)) ∧
    (∀ a, (∀ y ∈ asks, y.req.val < 16) → s.protectedSlot g (s.slotPointer + 1) = true → asks.find? (fun y => y.req.val == 9) = some a →
      choice = some (a, false)) ∧
    (ts (.tsCommit w v) s fun t => t.on TS_STATUS_PENDING = true ∧ t.active = s.active) ∧
    (s.on TS_STATUS_PENDING = false → NoEffect (.tableWrap g) s) ∧
    (s.on TS_STATUS_PENDING = true → s.tsLegal = true → ts (.tableWrap g) s fun t => t.on TS_STATUS_PENDING = false ∧ t.rd TS_STATUS_RESULT = 0 ∧
      effect t TS_CTRL_N ∧ (∀ r < 8, effect t (TS_RANK_LO_PRIO r) ∧ effect t (TS_RANK_HI_PRIO r)) ∧
      ∀ h < 16, ∀ k < 16, ∀ m < 4, effect t (TS_SLOT_VALID h k m) ∧ effect t (TS_SLOT_REQ h k m)) ∧
    (s.on TS_STATUS_PENDING = true → s.tsLegal = false → ts (.tableWrap g) s fun t => t.on TS_STATUS_PENDING = false ∧ t.rd TS_STATUS_RESULT = 1 ∧
      t.on TS_EVENT_REFUSED = true ∧ t.active = s.active ∧ (s.roomy → Logged t 0x800A .stockroom note 1)) ∧
    (s.holds0 w = true → ts (.tsExtNextWrite w v) s fun t => t.rd TS_STATUS_RESULT = 0 ∧ t.on TS_EXT_NEXT_VALID = v.getLsbD 1 ∧
      t.on TS_EXT_NEXT_PROTECT = v.getLsbD 0) ∧
    (s.holds0 w = false → ts (.tsExtNextWrite w v) s fun t => t.rd TS_STATUS_RESULT = 2 ∧ t.rd TS_EXT_NEXT_VALID = s.rd TS_EXT_NEXT_VALID ∧
      t.rd TS_EXT_NEXT_PROTECT = s.rd TS_EXT_NEXT_PROTECT ∧ (s.roomy → Logged t 0xB001 .stockroom note (2 * 2 ^ 24 + 0xA0030))) ∧
    (ts (.mr4RefreshRateRead rate) s fun t => t.rd TS_EXT_MR4_RATE = rate)

/-- R440 to R454, R457: samples and what they add to circuits, the end of a period and of a window, faults, the loss of mains, pulse outputs,
what is asked of a snapshot, a save and a commit, and the end of a save. -/
def Obligations.TallyMetering : Prop :=
  ∀ (s : State) (w : Requester) (xs : List (BitVec 24)) (c : Fin 24) (n : Fin 32) (v p : Fin 8) (u : Word),
    let ty := Does 0x10340000 0x10350000
    let held (i : Instr) (P : State → Prop) : Prop := Completes i s fun t => Quiet s t ∧ P t
    let on : Prop := s.tyOn = true
    let has : Prop := s.has .tally = true
    let has1 (i : Instr) : Prop := ¬ has → NoEffect i s
    let top : Int := 8388607
    let raw := (xs.getD n 0).toInt
    let x := clampInt (-top) top (s.tyCorrect n (clampInt (-top) top raw))
    let d := tyDelayed (s.tyPhase n) (s.tyChan n).prev (s.tyChan n).now x
    let y := s.tyCirc c
    let i := s.tyI c
    let apparent := isqrt (y.sv * y.si)
    let units (q : Nat) : Nat := match q with
      | 0 => y.p.toNat | 1 => (-y.p).toNat | 2 => isqrt (apparent * apparent - y.p.natAbs * y.p.natAbs) | _ => apparent
    let total (q : Nat) := s.ty.res.get 0 (c * 4 + q) + units q
    let irms := (isqrt (y.wi / 8000) + 8) / 16
    let mean := y.wm.tdiv 128000
    let power := y.wp.tdiv 2048000000
    let ap := isqrt (y.wv * y.wi) / 2048000000
    let closes : Prop := on ∧ 0 < s.ty.window
    let q := s.tyPulse p
    let asserts : Prop := on ∧ s.on (TY_PULSE_EN p) = true ∧ 0 < s.rd (TY_PULSE_BACK_BACKLOG p) ∧ q.till = none ∧ q.idleAt + s.pulseWidth p ≤ s.now
    let ended : Prop := ∃ t ≤ s.now, q.till = some t
    let present : Prop := s.on (TY_ZX_PRESENT v) = true
    (¬ on → ∀ j ∈ [Instr.tallySample xs, .tallyPeriodEnd c, .tallyWindowEnd, .tallyChannelFault n, .tallyChannelFaultEnd n, .pulseAssert p,
      .tySavePeriod], NoEffect j s) ∧
    (on → s.ty.samples < 3 → ty (.tallySample xs) s fun t => t.ty = { s.ty with samples := s.ty.samples + 1 }) ∧
    (on → 3 ≤ s.ty.samples → held (.tallySample xs) fun t => t.ty.samples = s.ty.samples + 1 ∧ (t.tyChan n).now = x ∧
      (t.tyChan n).prev = (s.tyChan n).now ∧ (t.tyChan n).u = s.tyScale n d ∧ t.rd (TY_CH_SAMPLE n) = ofSigned 24 d ∧
      (top ≤ raw ∨ raw ≤ -top → t.on (TY_CH_SAT n) = true ∧ t.on TY_EVENT_SAT = true)) ∧
    (on → 3 ≤ s.ty.samples → s.onA (TY_CIRC_EN c) = true → s.circFault c = false → s.ty.window + 1 < 8000 → held (.tallySample xs) fun t =>
      let uv := if s.tyPhase i < 0 then (t.tyChan (s.tyV c)).uPrev else (t.tyChan (s.tyV c)).u
      let ui := (t.tyChan i).u
      (t.tyCirc c).wp = y.wp + uv * ui ∧ (t.tyCirc c).wv = y.wv + (uv * uv).toNat ∧ (t.tyCirc c).wi = y.wi + (ui * ui).toNat ∧
      (t.tyCirc c).wm = y.wm + ui) ∧
    (on → y.n = 0 → NoEffect (.tallyPeriodEnd c) s) ∧
    (on → 0 < y.n → ty (.tallyPeriodEnd c) s fun t => t.tyCirc c = { y with n := 0, p := 0, sv := 0, si := 0 } ∧
      ∀ k < 4, t.energy c k = (s.energy c k + total k / 73728000000) % 2 ^ 56 ∧ t.ty.res.get 0 (c * 4 + k) = total k % 73728000000) ∧
    (s.ty.window = 0 → NoEffect .tallyWindowEnd s) ∧
    (closes → ty .tallyWindowEnd s fun t => t.ty.window = 0 ∧ t.rd TY_WIN_SEQ = (s.rd TY_WIN_SEQ + 1) % 2 ^ 32 ∧ t.on TY_EVENT_WINDOW = true ∧
      t.pair TY_WIN_TICK_LO TY_WIN_TICK_HI = s.ys.tick % 2 ^ 64 ∧ (t.tyCirc c).wv = 0 ∧ (t.tyCirc c).fault = false ∧
      (s.onA (TY_CIRC_EN c) = true → y.fault = true → t.on (TY_CSTAT_PUBLISHED c) = false) ∧
      (s.onA (TY_CIRC_EN c) = true → y.fault = false → t.on (TY_CSTAT_PUBLISHED c) = true ∧
        t.rd (TY_VRMS c) = (isqrt (y.wv / 8000) + 8) / 16 % 2 ^ 32 ∧ t.rd (TY_IRMS c) = irms % 2 ^ 32 ∧ t.rd (TY_IMEAN c) = ofSigned 32 mean ∧
        t.rd (TY_P c) = ofSigned 32 power ∧ t.rd (TY_S c) = ap % 2 ^ 32 ∧
        t.rd (TY_PF c) = (if ap = 0 then 0 else ofSigned 16 (clampInt (-32767) 32767 ((power * 32768).tdiv ap))))) ∧
    (closes → s.on TY_STATUS_PENDING = true → ty .tallyWindowEnd s fun t => t.on TY_STATUS_PENDING = false ∧
      (s.tyLegal = true → t.rd TY_STATUS_RESULT = 0 ∧ t.rdA (TY_GAIN n) = s.rd (TY_GAIN n) ∧ t.rdA (TY_OFFSET n) = s.rd (TY_OFFSET n) ∧
        t.rdA (TY_FS n) = s.rd (TY_FS n) ∧ t.rdA (TY_PHASE n) = s.rd (TY_PHASE n) ∧ t.onA (TY_CIRC_EN c) = s.on (TY_CIRC_EN c)) ∧
      (s.tyLegal = false → t.rd TY_STATUS_RESULT = 1 ∧ t.on TY_EVENT_REFUSED = true ∧ t.active = s.active)) ∧
    (on → s.on (TY_CH_FAULT n) = false → ty (.tallyChannelFault n) s fun t => t.on (TY_CH_FAULT n) = true ∧ t.on TY_EVENT_FAULT = true ∧
      (s.roomy → Logged t 0x9003 .tally warning n)) ∧
    (s.on (TY_CH_FAULT n) = true → NoEffect (.tallyChannelFault n) s) ∧
    (on → ty (.tallyChannelFaultEnd n) s fun t => t.on (TY_CH_FAULT n) = false ∧ t.ty = s.ty) ∧
    (¬ present → NoEffect (.mainsLoss v) s) ∧
    (present → held (.mainsLoss v) fun t => t.on (TY_ZX_PRESENT v) = false ∧ t.on TY_EVENT_MAINS = true ∧ (t.tyChan v).run = 0 ∧
      (s.rd YS_MAINS_CFG_VCH = v → t.on (YS_SRC_PRESENT 4) = false) ∧ (s.roomy → Logged t 0x9005 .tally warning v)) ∧
    (asserts → ty (.pulseAssert p) s fun t => t.tyPulse p = { q with till := some (s.now + s.pulseWidth p) } ∧
      t.rd (TY_PULSE_BACK_BACKLOG p) = s.rd (TY_PULSE_BACK_BACKLOG p) - 1 ∧ t.rd (TY_PULSE_COUNT p) = (s.rd (TY_PULSE_COUNT p) + 1) % 2 ^ 32) ∧
    (¬ asserts → NoEffect (.pulseAssert p) s) ∧
    (ended → ty (.pulseEnd p) s fun t => t.tyPulse p = { q with till := none, idleAt := s.now } ∧ t.regs = s.regs) ∧
    (¬ ended → NoEffect (.pulseEnd p) s) ∧ has1 (.tySnap w u) ∧ has1 (.tySaveNow w u) ∧ has1 (.tyCommit w u) ∧
    (has → ty (.tySnap w u) s fun t => t.ty = { s.ty with snap := true, saveNow := s.ty.saveNow || u.getLsbD 1 }) ∧
    (has → ty (.tySaveNow w u) s fun t => t.ty = { s.ty with snap := s.ty.snap || u.getLsbD 0, saveNow := true }) ∧
    (on → ty .tySavePeriod s fun t => t.ty = { s.ty with saveNow := true, saveAt := s.now + s.savePeriod * 10 ^ 9 }) ∧
    (has → ty (.tyCommit w u) s fun t => t.on TY_STATUS_PENDING = true ∧ t.active = s.active) ∧
    (s.ty.save = none → ∀ ok, NoEffect (.tySaveWriteDone ok) s) ∧
    (∀ r, s.ty.save = some r → s.ty.slot < 2048 → Completes (.tySaveWriteDone true) s fun t =>
      let a := 0x11000000 + s.ty.slot * 2048
      let e := 0x11000000 + (s.ty.slot / 32 + 1) % 64 * 65536
      t.ty = { s.ty with save := none, seq := s.ty.seq + 1, slot := (s.ty.slot + 1) % 2048 } ∧ t.rd TY_SAVE_SEQ = (s.ty.seq + 1) % 2 ^ 32 ∧
      (∀ k < 2048, t.flash.get 0xFF (a + k) = r.getD k 0) ∧ t.mem = s.mem ∧ t.threads = s.threads ∧
      ∀ b, b < a ∨ a + 2048 ≤ b → t.flash.get 0xFF b = if s.ty.slot % 32 = 0 ∧ e ≤ b ∧ b < e + 65536 then 0xFF else s.flash.get 0xFF b) ∧
    (s.ty.save ≠ none → ty (.tySaveWriteDone false) s fun t => t.ty = { s.ty with slot := (s.ty.slot + 1) % 2048 } ∧
      t.rd TY_SAVE_FAIL_FAIL = min (2 ^ 16 - 1) (s.rd TY_SAVE_FAIL_FAIL + 1) ∧ t.on TY_EVENT_SAVE_FAIL = true ∧
      (s.roomy → Logged t 0x9007 .tally warning ((s.ty.seq + 1) % 2 ^ 32)))

/-- R464 to R469, R471: records come in, wait, are repeated, held while frozen, and kept until boot step 13; freezes begin and end. R470 to
R472, R476, R477: flushes of the archive and the end of each write, the last-gasp slots, and the export ring. -/
def Obligations.LedgerRecordsAndStores : Prop :=
  (∀ (s : State) (w : Requester) (q r : LogReq) (rest : List LogReq) (o : LRec) (n : Nat) (v : Word),
     let lg := Does 0x10380000 0x10390000
     let l := s.lg
     let into := { s.lg with intake := rest }
     let due : Prop := l.taking = true ∧ l.intake = r :: rest
     let frozen : Prop := s.on LG_STATUS_FROZEN = true
     let running : Prop := due ∧ ¬ frozen ∧ l.restored = true
     let held := l.hold.getLast?
     let new (h : Bool) := s.newRec r h
     let stamped (t : State) : Prop := t.pair LG_LAST_REPEAT_LO LG_LAST_REPEAT_HI = s.ys.tick % 2 ^ 64 ∧ t.lg.lastAt = s.now
     let repeated (t : State) : Prop := t.rd LG_NEXTSEQ = s.rd LG_NEXTSEQ ∧ stamped t
     let numbered (t : State) : Prop := t.rd LG_NEXTSEQ = (s.rd LG_NEXTSEQ + 1) % 2 ^ 24 ∧ t.lg.lastAt = s.now ∧ t.lg.lossNext = false
     let lost (t : State) : Prop := t.rd LG_LOST = min (2 ^ 32 - 1) (s.rd LG_LOST + 1) ∧ t.on LG_EVENT_LOST = true ∧ t.lg.lossNext = true
     let again : Prop := match held, l.openRec with
       | some e, _ => s.repeats r e.record = true | none, some x => s.repeats r x = true | none, none => False
     let slot := 0x5800000 + n * 32
     let good : Prop := s.excludedAt slot = false
     let goesOn : Prop := l.openRec = some o ∧ s.repeats r o = true ∧ l.openSlot = some n ∧ l.retired.contains (n / 32) = false
     let plain : Prop := v.getLsbD 30 = false ∧ v.getLsbD 29 = false
     (l.intake.length < 64 → lg (.ledgerRecordDrop q) s fun t => t.lg = { l with intake := l.intake ++ [q] } ∧ t.regs = s.regs) ∧
     (64 ≤ l.intake.length → lg (.ledgerRecordDrop q) s fun t => lost t ∧ t.lg.intake = l.intake) ∧
     (l.intake = [] ∨ l.taking = false → NoEffect .ledgerRecordTake s) ∧
     (due → frozen → ¬ again → l.hold.length < 16 → lg .ledgerRecordTake s fun t => t.lg =
       { into with hold := l.hold ++ [⟨new true, false⟩], lastAt := s.now, lossNext := false } ∧ numbered t ∧
       t.rd LG_STATUS_HELD = (s.rd LG_STATUS_HELD + 1) % 32) ∧
     (due → frozen → ¬ again → 16 ≤ l.hold.length → lg .ledgerRecordTake s fun t => lost t ∧ t.lg.hold = l.hold ∧ t.lg.lostFrozen = true ∧
       t.rd LG_NEXTSEQ = s.rd LG_NEXTSEQ) ∧
     (∀ e, due → frozen → held = some e → s.repeats r e.record = true → lg .ledgerRecordTake s fun t => repeated t ∧
       t.lg.hold = l.hold.dropLast ++ [{ e with record := e.record.more 1 }]) ∧
     (due → frozen → held = none → l.openRec = some o → s.repeats r o = true → lg .ledgerRecordTake s fun t => repeated t ∧
       t.lg.hold = [⟨{ o with repeats := 0 }, true⟩] ∧ t.rd LG_STATUS_HELD = (s.rd LG_STATUS_HELD + 1) % 32) ∧
     (running → goesOn → good → Completes .ledgerRecordTake s fun t => t.lg = { into with openRec := some (o.more 1), lastAt := s.now } ∧
       repeated t ∧ t.bytesAt slot 32 = (o.more 1).bytes ∧ MemOutside s t slot (slot + 32) ∧ t.threads = s.threads ∧ t.flash = s.flash) ∧
     (running → ¬ (∃ x, l.openRec = some x ∧ s.repeats r x = true ∧ s.openSlotGood = true) → nextSlot l.retired 1025 l.ringNext = some n → good →
       Completes .ledgerRecordTake s fun t => numbered t ∧ t.lg.openRec = some (new false) ∧ t.lg.openSlot = some n ∧
       t.lg.ringNext = (n + 1) % 32768 ∧ .slot n ∈ t.lg.archQueue ∧ t.bytesAt slot 32 = (new false).bytes ∧ MemOutside s t slot (slot + 32) ∧
       t.threads = s.threads ∧ t.flash = s.flash) ∧
     (due → ¬ frozen → l.restored = false → (∀ x, l.pre.getLast? = some x → s.repeats r x = false) → lg .ledgerRecordTake s fun t =>
       t.lg = { into with pre := l.pre ++ [new false], lastAt := s.now, lossNext := false } ∧ t.regs = s.regs) ∧
     (due → ¬ frozen → l.restored = false → l.pre.getLast? = some o → s.repeats r o = true → lg .ledgerRecordTake s fun t =>
       t.lg = { into with pre := l.pre.dropLast ++ [o.more 1], lastAt := s.now } ∧ repeated t) ∧
     (l.openRec = none ∨ frozen → NoEffect .recordClose s) ∧
     (¬ frozen → l.openRec = some o → lg .recordClose s fun t => t.regs = s.regs ∧ t.lg = { l with
       openRec := none, openSlot := none, archRepeats := none
       archQueue := match l.archRepeats with
         | some k => if k < o.repeats then l.archQueue ++ [.copy { o with flags := o.flags ||| 8 }] else l.archQueue | none => l.archQueue }) ∧
     (plain → frozen → NoEffect (.lgFreeze w v) s) ∧ (plain → ¬ frozen → NoEffect (.lgThaw w v) s) ∧
     (¬ frozen → NoEffect .lgFreezeLimit s) ∧
     (plain → ¬ frozen → lg (.lgFreeze w v) s fun t => t.on LG_STATUS_FROZEN = true ∧ t.on LG_CTRL_FREEZE = true ∧
       t.lg = { l with freezeAt := some s.now }) ∧
     (frozen → Completes (.lgThaw w v) s fun t => t.on LG_STATUS_FROZEN = false ∧ t.on LG_CTRL_FREEZE = false ∧ t.rd LG_STATUS_HELD = 0 ∧
       t.lg.hold = [] ∧ t.lg.freezeAt = none ∧ t.lg.lostFrozen = false) ∧
     (frozen → Completes .lgFreezeLimit s fun t => t.on LG_STATUS_FROZEN = false ∧ t.on LG_CTRL_FREEZE = false ∧ t.rd LG_STATUS_HELD = 0 ∧
       t.lg.hold = [] ∧ t.lg.freezeAt = none ∧ t.lg.lostFrozen = false ∧ t.on LG_EVENT_THAW = true ∧
       (l.hold = [] → s.roomy → Logged t 0xF005 .ledger warning 0))) ∧
  (∀ (s : State) (w : Requester) (i : ArchItem) (rest : List ArchItem) (v : Word),
     let lg := Does 0x10380000 0x10390000
     let l := s.lg
     let still : Prop := v.getLsbD 31 = s.on LG_STATUS_FROZEN
     let dead : Prop := s.on LG_STATUS_LEDGER_FAULT = true ∧ s.ringDead = true ∧ l.archDead = true
     let n := l.archNext
     let at0 := 0x9000000 + n * 32
     let e := 0x9000000 + (n / 2048 + 1) % 2048 * 65536
     let bs := s.archRecord i
     let ring := RingId.engine 14
     let b := ringBase ring
     let a := s.ringEntry b (s.rd (RING_HEAD b))
     let entry := s.bytesAt a 64
     let dest := leAt entry 0 8
     let first := leAt entry 8 4
     let word := leAt entry 12 4
     let cnt := bits word 16 1
     let legal : Prop := dest % 64 = 0 ∧ dest < 2 ^ 40 ∧ first < 2 ^ 24 ∧ word < 2 ^ 17 ∧ leAt entry 16 8 = 0 ∧ 0 < cnt ∧ cnt ≤ 32768 ∧
       s.extOrScratch dest (cnt * 32) = true
     let found := if word.testBit 0 then exportRecords s.archSlot (2048 * 2048) n (s.rd LG_NEXTSEQ) first cnt
       else exportRecords s.ringSlot 32768 l.ringNext (s.rd LG_NEXTSEQ) first cnt
     let stale := if word.testBit 0 then exportStale s.archSlot (2048 * 2048) n (s.rd LG_NEXTSEQ) first
       else exportStale s.ringSlot 32768 l.ringNext (s.rd LG_NEXTSEQ) first
     let sound : Prop := s.poisoned a 64 = false
     let next (t : State) : Prop := t.rd (RING_HEAD b) = (s.rd (RING_HEAD b) + 1) % 2 ^ 16 ∧
       t.fenceValue 4 0 = (s.fenceValue 4 0 + 1) % 2 ^ 32
     let apart : Prop := dest + cnt * 32 ≤ a ∨ a + 64 ≤ dest
     (lg .lgArchiveFlush s fun t => t.lg = { l with flushing := !l.archQueue.isEmpty } ∧ t.regs = s.regs) ∧
     (still → v.getLsbD 29 = false → lg (.lgFlush w v) s fun t => t.lg = { l with flushing := !l.archQueue.isEmpty } ∧ t.regs = s.regs) ∧
     (still → v.getLsbD 30 = false → dead → lg (.lgGaspClr w v) s fun t => t.rd LG_STATUS_RESULT = 2 ∧ t.lg = l ∧
       ∀ k < 4, ∀ j < 8, t.rd (LG_GASP k j) = s.rd (LG_GASP k j)) ∧
     (still → v.getLsbD 30 = false → ¬ dead → lg (.lgGaspClr w v) s fun t => t.rd LG_STATUS_RESULT = 0 ∧ t.on LG_STATUS_LEDGER_FAULT = false ∧
       t.lg = { l with gaspNext := 1 } ∧ ∀ k < 4, ∀ j < 8, t.rd (LG_GASP k j) = 0) ∧
     (l.archQueue = [] ∨ l.flushing = false → ∀ ok, NoEffect (.archiveWriteDone ok) s) ∧
     (l.flushing = true → l.archQueue = i :: rest → n < 2 ^ 22 → Completes (.archiveWriteDone true) s fun t => t.rd LG_ARCHSEQ = leAt bs 29 3 ∧
       t.lg.archQueue = rest ∧ t.lg.archNext = (n + 1) % 2 ^ 22 ∧ t.lg.archDead = false ∧ t.lg.flushing = !rest.isEmpty ∧
       (∀ k < 32, t.flash.get 0xFF (at0 + k) = bs.getD k 0) ∧ t.mem = s.mem ∧ t.threads = s.threads ∧
       ∀ x, x < at0 ∨ at0 + 32 ≤ x → t.flash.get 0xFF x = if n % 2048 = 0 ∧ e ≤ x ∧ x < e + 65536 then 0xFF else s.flash.get 0xFF x) ∧
     (l.flushing = true → l.archQueue = i :: rest → lg (.archiveWriteDone false) s fun t => t.on LG_STATUS_ARCH_FAULT = true ∧ t.lg.archNext = (n + 1) % 2 ^ 22 ∧
       t.lg.archDead = true ∧ t.lg.flushing = false ∧ (s.ringDead = false → t.lg.archQueue = l.archQueue) ∧
       (s.roomy → Logged t 0xF003 .ledger error (n / 2048 % 2 ^ 32))) ∧
     (s.ringHas ring = false → NoEffect .lgExportEntry s) ∧
     (s.ringHas ring = true → Completes .lgExportEntry s fun t => t.threads = s.threads ∧ t.flash = s.flash ∧ next t) ∧
     (s.ringHas ring = true → legal → sound → ¬ (word.testBit 0 = true ∧ s.flashFails = true) → apart → s.writable .ledger dest (found.flatten.length) → s.writable .ledger (a + 0x30) 16 →
       Completes .lgExportEntry s fun t => (∀ k < found.flatten.length, t.byteAt (dest + k) = found.flatten.getD k 0) ∧
       t.bytesAt (a + 0x30) 8 = leBytes 8 found.length ∧ t.byteAt (a + 0x38) =
         BitVec.ofNat 8 (if stale then Status.stale else Status.ok).code) ∧
     (s.ringHas ring = true → legal → sound → word.testBit 0 = true → s.flashFails = true → s.writable .ledger (a + 0x30) 16 →
       Completes .lgExportEntry s fun t => t.byteAt (a + 0x38) = BitVec.ofNat 8 Status.corrupt.code ∧ MemOutside s t (a + 0x30) (a + 0x40)) ∧
     (s.ringHas ring = true → ¬ legal → sound → s.writable .ledger (a + 0x30) 16 → Completes .lgExportEntry s fun t =>
       t.byteAt (a + 0x38) = 1 ∧ MemOutside s t (a + 0x30) (a + 0x40)))

/-- R511 to R513, R516, R517: START and ABORT, and the end of a run with its result, its corrections and its records. -/
def Obligations.TrimRuns : Prop :=
  ∀ (s : State) (w : Requester) (v : Word) (r : TrimRun) (m : TrimResult) (flips : List (Fin 64 × List (Option (Fin 64))))
    (vs is : List Int) (lag err : Int) (p : Fin 64) (k : Fin 4),
    let held (i : Instr) (P : State → Prop) : Prop := Completes i s fun t => Quiet s t ∧ P t
    let d := v.toNat / 2 ^ 24 % 4
    let win := v.toNat / 2 ^ 16 % 256
    let target := v.toNat % 256
    let busy : Prop := s.trim ≠ none
    let bad : Prop := d = 3 ∨ v.toNat / 2 ^ 26 % 8 ≠ 0 ∨ v.toNat / 2 ^ 8 % 256 ≠ 0 ∨ win = 0 ∨ 16 < win
    let absent : Prop := (d = 0 ∧ s.has .treadle = false) ∨ (d = 1 ∧ s.has .tally = false) ∨
      (d = 2 ∧ target % 2 = 0 ∧ s.has .trunk = false ∧ s.has .fixports = false)
    let wrong : Prop := (d = 0 ∧ ∃ n < 64, s.trimPorts.testBit n = true ∧ s.onA (CH_CTRL_ENABLE n) = true) ∨
      (d = 1 ∧ ¬ (target < 24 ∧ s.onA (TY_CIRC_EN target) = true ∧ s.on (TY_ZX_PRESENT (s.tyV target)) = true)) ∨
      (d = 2 ∧ target % 2 = 0 ∧ s.rd PTP_STATUS_STATE ≠ ptpSlave)
    let starts (code : Nat) (x : Option TrimRun) : Prop := held (.tmStart w v) fun t => t.rd TM_STATUS_RESULT = code ∧ t.trim = x ∧
      (code = 0 → t.rd TM_CTRL_DOMAIN = d ∧ t.rd TM_CTRL_WIN = win ∧ t.rd TM_CTRL_TARGET = target ∧ t.on TM_CTRL_APPLY = v.getLsbD 29 ∧
        t.on TM_STATUS_BUSY = true) ∧
      (code ≠ 0 → t.rd TM_CTRL_DOMAIN = s.rd TM_CTRL_DOMAIN ∧ t.rd TM_CTRL_WIN = s.rd TM_CTRL_WIN ∧
        t.rd TM_CTRL_TARGET = s.rd TM_CTRL_TARGET ∧ t.rd TM_CTRL_APPLY = s.rd TM_CTRL_APPLY) ∧ (code = 2 → s.roomy → Logged t 0xB003 .trim note 0x3A0000)
    let one : Prop := v.getLsbD 30 = false
    let ends (i : Instr) (code : Nat) (P : State → Prop) : Prop := held i fun t => t.trim = none ∧ t.on TM_STATUS_BUSY = false ∧
      t.rd TM_STATUS_RESULT = code ∧ t.on TM_EVENT_DONE = true ∧ P t
    let entry (t : State) (code n : Nat) : Prop := s.roomy → Logged t code .trim note n
    let stamps (t : State) : Prop := t.rd (TM_D_COUNT r.domain) = (s.rd (TM_D_COUNT r.domain) + 1) % 2 ^ 16 ∧
      t.rd (TM_D_SEC r.domain) = s.rd LG_OPSEC ∧ t.rd (TM_D_PCYC r.domain) = s.rd LG_PCYCLE ∧ t.rd (TM_D_LAST r.domain) = 0
    let ran (n : Nat) : Prop := s.trim = some r ∧ r.domain = n ∧ r.since + (if n = 0 then 3276800 else r.win * 1000000000) ≤ s.now
    let tally (code : Nat) (t : State) : Prop := entry t 0x9101 (code * 2 ^ 24 + r.target % 2 ^ 24)
    let c := r.target
    let cv := s.tyV c
    let ci := s.tyI c
    let fl := flipsOf flips p
    let sel (q : Fin 64) : Prop := r.ports.testBit q = true
    let missed (q : Fin 64) : Prop := ∃ j < 4, (flipsOf flips q).getD j none = none
    let tap (q : Fin 64) (j : Nat) := s.skewTap q j (leastFlip (flipsOf flips q)) ((flipsOf flips q).getD j none)
    let beyond (q : Fin 64) : Prop := ∃ j < 4, tap q j < 0 ∨ 63 < tap q j
    (one → busy → starts 3 s.trim) ∧ (one → ¬ busy → bad → starts 1 none) ∧ (one → ¬ busy → ¬ bad → absent → starts 5 none) ∧
    (one → ¬ busy → ¬ bad → ¬ absent → wrong → starts 2 none) ∧
    (one → ¬ busy → ¬ bad → ¬ absent → ¬ wrong → starts 0 (some ⟨d, v.getLsbD 29, target, win, s.trimPorts, s.now⟩)) ∧
    (v.getLsbD 31 = false → ¬ busy → held (.tmAbort w v) fun t => t.trim = none ∧ t.rd TM_STATUS_RESULT = s.rd TM_STATUS_RESULT ∧
      t.rd TM_CTRL_DOMAIN = d ∧ t.rd TM_CTRL_TARGET = target) ∧
    (v.getLsbD 31 = false → s.trim = some r → ends (.tmAbort w v) 2 fun t => r.domain = 1 → tally 2 t) ∧
    (¬ busy → NoEffect (.trimRunEnd m) s) ∧
    (s.trim = some r → r.domain = 2 → s.now < r.since + r.win * 1000000000 → NoEffect (.trimRunEnd (.clock err)) s) ∧
    (s.trim = some r → r.domain = 1 → s.now < r.since + r.win * 1000000000 → NoEffect (.trimRunEnd (.tally vs is lag)) s) ∧
    (s.trim = some r → r.domain = 0 → s.now < r.since + 3276800 → NoEffect (.trimRunEnd (.skew flips)) s) ∧
    (s.trim = some r → ends (.trimRunEnd .lost) Status.timeout.code fun t => r.domain = 1 → tally Status.timeout.code t) ∧
    (ran 2 → err.natAbs ≤ 200000 → ends (.trimRunEnd (.clock err)) 0 fun t =>
      t.rd TM_CLK_MEAS = ofSigned 32 err ∧ (r.apply = true → t.rd TM_CLK_CORR = ofSigned 32 err ∧ stamps t) ∧
      (r.apply = false → t.rd TM_CLK_CORR = s.rd TM_CLK_CORR ∧ t.rd (TM_D_COUNT 2) = s.rd (TM_D_COUNT 2)) ∧ entry t 0x1101 (ofSigned 24 err)) ∧
    (ran 2 → 200000 < err.natAbs → ends (.trimRunEnd (.clock err)) 1 fun t =>
      t.rd TM_CLK_MEAS = satSigned 32 err ∧ t.rd TM_CLK_CORR = s.rd TM_CLK_CORR ∧ t.rd (TM_D_COUNT 2) = s.rd (TM_D_COUNT 2)) ∧
    (ran 1 → vs = [] ∨ is = [] ∨ s.rd (TY_ZX_FREQ cv) = 0 → ends (.trimRunEnd (.tally vs is lag)) Status.timeout.code
      (tally Status.timeout.code)) ∧
    (ran 1 → vs ≠ [] → is ≠ [] → s.rd (TY_ZX_FREQ cv) ≠ 0 → r.apply = true →
      let gv := trimGain (s.rd TM_VREF) (s.rdA (TY_FS cv)) vs
      let gi := trimGain (s.rd TM_IREF) (s.rdA (TY_FS ci)) is
      let ph := roundInt (256 * (signedOf 16 (s.rd TM_PHI) - lag) * 8000 * 1000) (36000 * s.rd (TY_ZX_FREQ cv))
      (gv < 2 ^ 24 → gi < 2 ^ 24 → -128 ≤ ph → ph ≤ 128 → ends (.trimRunEnd (.tally vs is lag)) 0 fun t => t.rd (TY_GAIN cv) = gv ∧
        t.rd (TY_OFFSET cv) = ofSigned 24 (meanOf vs) ∧ t.rd (TY_GAIN ci) = gi ∧ t.rd (TY_OFFSET ci) = ofSigned 24 (meanOf is) ∧
        t.rd (TY_PHASE ci) = ofSigned 9 ph ∧ t.on TY_STATUS_PENDING = true ∧ stamps t ∧ tally 0 t) ∧
      (2 ^ 24 ≤ gv ∨ 2 ^ 24 ≤ gi ∨ ph < -128 ∨ 128 < ph → ends (.trimRunEnd (.tally vs is lag)) 1 (tally 1))) ∧
    (ran 0 → sel p → held (.trimRunEnd (.skew flips)) fun t =>
      t.rd (TM_FLIP_FLIP p k) = (match fl.getD k none with | some f => f.val | none => 64) ∧
      t.on (TM_EDGE_NOEDGE p k) = (fl.getD k none).isNone ∧ (t.on (TM_EDGE_SAT p k) = true ↔ tap p k < 0 ∨ 63 < tap p k)) ∧
    (ran 0 → (∃ q, sel q ∧ missed q) → ends (.trimRunEnd (.skew flips)) Status.timeout.code fun t =>
      t.rd (TM_TAP_TAP p k) = s.rd (TM_TAP_TAP p k)) ∧
    (ran 0 → (∀ q, sel q → ¬ missed q) → (∃ q, sel q ∧ beyond q) → ends (.trimRunEnd (.skew flips)) 1 fun t =>
      t.rd (TM_TAP_TAP p k) = s.rd (TM_TAP_TAP p k)) ∧
    (ran 0 → (∀ q, sel q → ¬ missed q) → (∀ q, sel q → ¬ beyond q) → ends (.trimRunEnd (.skew flips)) 0 fun t =>
      (r.apply = true → stamps t ∧ (sel p → t.rd (TM_TAP_TAP p k) = (tap p k).toNat)) ∧
      (r.apply = false → t.rd (TM_TAP_TAP p k) = s.rd (TM_TAP_TAP p k)))
end

