-- ==== Sys2Proof/Laws/SMap.lean ====
section
/-!
SUPPORT. Sparse maps: a read after a write, and the operations that keep the canonical form and the order of the keys.
-/

namespace Sys2Proof.Machine

variable {α : Type}

/-! ## Reads after writes -/

@[simp] theorem SMap.get_nil (d : α) (k : Nat) : SMap.get d [] k = d := rfl

theorem SMap.get_del (d : α) (m : SMap α) (k j : Nat) : (m.del k).get d j = if j = k then d else m.get d j := by
  induction m with
  | nil => simp [SMap.del]
  | cons e m ih =>
    obtain ⟨k', v⟩ := e
    by_cases h : k' = k <;> by_cases hj : k' = j <;> simp_all [SMap.del, SMap.get]

theorem SMap.get_ins (d : α) (m : SMap α) (k j : Nat) (v : α) :
    (m.ins k v).get d j = if j = k then v else m.get d j := by
  induction m with
  | nil => simp [SMap.ins, SMap.get, eq_comm]
  | cons e m ih =>
    obtain ⟨k', v'⟩ := e
    simp only [SMap.ins]
    by_cases h : k < k'
    · simp [h, SMap.get, eq_comm]
    · by_cases h2 : k = k'
      · subst h2; simp [SMap.get, eq_comm]; split <;> simp_all
      · simp only [h, h2, if_false, SMap.get, ih]
        split <;> split <;> simp_all

/-- A read after a write. -/
theorem SMap.get_set [DecidableEq α] (d : α) (m : SMap α) (k j : Nat) (v : α) :
    (m.set d k v).get d j = if j = k then v else m.get d j := by
  unfold SMap.set
  split
  · next h => rw [SMap.get_del, h]
  · rw [SMap.get_ins]

@[simp] theorem SMap.get_set_same [DecidableEq α] (d : α) (m : SMap α) (k : Nat) (v : α) :
    (m.set d k v).get d k = v := by simp [SMap.get_set]

theorem SMap.get_set_ne [DecidableEq α] (d : α) (m : SMap α) {k j : Nat} (v : α) (h : j ≠ k) :
    (m.set d k v).get d j = m.get d j := by simp [SMap.get_set, h]

/-- A read of a key that a write with another default leaves alone. -/
theorem SMap.get_set_other [DecidableEq α] (d d' : α) (m : SMap α) {k j : Nat} (v : α) (h : j ≠ k) :
    (m.set d k v).get d' j = m.get d' j := by
  unfold SMap.set
  split <;> simp [SMap.get_del, SMap.get_ins, h]

theorem SMap.get_keep (d : α) (m : SMap α) (p : Nat → Bool) (j : Nat) :
    (m.keep p).get d j = if p j then m.get d j else d := by
  induction m with
  | nil => simp [SMap.keep]
  | cons e m ih =>
    obtain ⟨k, v⟩ := e
    by_cases h : p k <;> by_cases hj : k = j <;> simp_all [SMap.keep, SMap.get]

/-! ## Keys in order -/

/-- The keys rise strictly from `lo` on. -/
theorem SMap.risesFrom_mono {lo lo' : Nat} {m : SMap α} (h : SMap.risesFrom lo m) (hl : lo' ≤ lo) :
    SMap.risesFrom lo' m := by
  cases m with
  | nil => rfl
  | cons e m => obtain ⟨k, v⟩ := e; simp [SMap.risesFrom] at *; exact ⟨by omega, h.2⟩

theorem SMap.risesFrom_del {m : SMap α} (k : Nat) : ∀ {lo : Nat}, SMap.risesFrom lo m → SMap.risesFrom lo (m.del k) := by
  induction m with
  | nil => intro lo h; exact h
  | cons e m ih =>
    obtain ⟨k', v⟩ := e
    intro lo h
    simp [SMap.risesFrom] at h
    simp only [SMap.del]
    split
    · exact SMap.risesFrom_mono (ih h.2) (by omega)
    · simp [SMap.risesFrom, h.1, ih h.2]

theorem SMap.risesFrom_ins {m : SMap α} (k : Nat) (v : α) :
    ∀ {lo : Nat}, lo ≤ k → SMap.risesFrom lo m → SMap.risesFrom lo (m.ins k v) := by
  induction m with
  | nil => intro lo hk h; simp [SMap.ins, SMap.risesFrom, hk]
  | cons e m ih =>
    obtain ⟨k', v'⟩ := e
    intro lo hk h
    simp [SMap.risesFrom] at h
    simp only [SMap.ins]
    split
    · next hlt => simp [SMap.risesFrom, hk, h.2]; omega
    · split
      · next he => subst he; simp [SMap.risesFrom, hk, h.2]
      · next h1 h2 => simp [SMap.risesFrom, h.1]; exact ih (by omega) h.2

theorem SMap.risesFrom_keep {m : SMap α} (p : Nat → Bool) :
    ∀ {lo : Nat}, SMap.risesFrom lo m → SMap.risesFrom lo (m.keep p) := by
  induction m with
  | nil => intro lo h; exact h
  | cons e m ih =>
    obtain ⟨k, v⟩ := e
    intro lo h
    simp [SMap.risesFrom] at h
    simp only [SMap.keep]
    split
    · simp [SMap.risesFrom, h.1, ih h.2]
    · exact SMap.risesFrom_mono (ih h.2) (by omega)

/-- Joining two rising maps whose keys lie below and from `hi` on. -/
theorem SMap.risesFrom_append {m n : SMap α} {hi : Nat} : ∀ {lo : Nat}, SMap.risesFrom lo m →
    (∀ e ∈ m, e.1 < hi) → lo ≤ hi → SMap.risesFrom hi n → SMap.risesFrom lo (m ++ n) := by
  induction m with
  | nil => intro lo _ _ hl hn; exact SMap.risesFrom_mono hn hl
  | cons e m ih =>
    obtain ⟨k, v⟩ := e
    intro lo h hb hl hn
    simp [SMap.risesFrom] at h
    have hk : k < hi := hb (k, v) (by simp)
    simp [SMap.risesFrom, h.1]
    exact ih h.2 (fun e he => hb e (by simp [he])) (by omega) hn

theorem SMap.mem_keep {m : SMap α} {p : Nat → Bool} {e : Nat × α} (h : e ∈ m.keep p) : p e.1 = true ∧ e ∈ m := by
  induction m with
  | nil => simp [SMap.keep] at h
  | cons x m ih =>
    obtain ⟨k, v⟩ := x
    simp only [SMap.keep] at h
    split at h
    · rcases List.mem_cons.1 h with rfl | h
      · next hp => exact ⟨hp, by simp⟩
      · exact ⟨(ih h).1, by simp [(ih h).2]⟩
    · exact ⟨(ih h).1, by simp [(ih h).2]⟩

/-- Entries from `lo` on rise from `lo`. -/
theorem SMap.risesFrom_of_le {m : SMap α} {lo : Nat} (h : SMap.risesFrom 0 m) (hb : ∀ e ∈ m, lo ≤ e.1) :
    SMap.risesFrom lo m := by
  cases m with
  | nil => rfl
  | cons e m =>
    obtain ⟨k, v⟩ := e
    simp [SMap.risesFrom] at *
    exact ⟨hb.1, h⟩

theorem SMap.rises_set [DecidableEq α] {m : SMap α} (d : α) (k : Nat) (v : α) (h : m.rises) : (m.set d k v).rises := by
  unfold SMap.set SMap.rises at *
  split
  · exact SMap.risesFrom_del k h
  · exact SMap.risesFrom_ins k v (Nat.zero_le k) h

theorem SMap.rises_keep {m : SMap α} (p : Nat → Bool) (h : m.rises) : (m.keep p).rises :=
  SMap.risesFrom_keep p h

theorem SMap.rises_splice {m src : SMap α} (lo hi : Nat) (hm : m.rises) (hs : src.rises) : (m.splice lo hi src).rises := by
  have last : SMap.risesFrom (max lo hi) (m.keep fun k => decide (max lo hi ≤ k)) :=
    SMap.risesFrom_of_le (SMap.risesFrom_keep _ hm) fun e he => by simpa using (SMap.mem_keep he).1
  have mid : SMap.risesFrom lo (src.keep fun k => decide (lo ≤ k ∧ k < hi)) :=
    SMap.risesFrom_of_le (SMap.risesFrom_keep _ hs) fun e he => by
      have := (SMap.mem_keep he).1; simp at this; omega
  unfold SMap.splice SMap.rises
  rw [List.append_assoc]
  refine SMap.risesFrom_append (hi := lo) (SMap.risesFrom_keep _ hm) ?_ (Nat.zero_le _) ?_
  · intro e he; have := (SMap.mem_keep he).1; simpa using this
  · refine SMap.risesFrom_append mid ?_ (by omega) last
    intro e he; have := (SMap.mem_keep he).1; simp at this; omega

/-! ## The canonical form -/

/-- The canonical form: keys in order and no entry that an unlisted key reads as. -/
theorem SMap.wf_iff [DecidableEq α] (d : α) (m : SMap α) : m.wf d = true ↔ m.rises ∧ ∀ e ∈ m, e.2 ≠ d := by
  unfold SMap.wf SMap.rises
  generalize 0 = lo
  induction m generalizing lo with
  | nil => simp [SMap.wfFrom, SMap.risesFrom]
  | cons e m ih =>
    obtain ⟨k, v⟩ := e
    simp [SMap.wfFrom, SMap.risesFrom, ih]
    tauto

theorem SMap.mem_del {m : SMap α} {k : Nat} {e : Nat × α} (h : e ∈ m.del k) : e ∈ m := by
  induction m with
  | nil => simp [SMap.del] at h
  | cons x m ih =>
    obtain ⟨k', v⟩ := x
    simp only [SMap.del] at h
    split at h
    · simp [ih h]
    · rcases List.mem_cons.1 h with rfl | h
      · simp
      · simp [ih h]

theorem SMap.mem_ins {m : SMap α} {k : Nat} {v : α} {e : Nat × α} (h : e ∈ m.ins k v) : e = (k, v) ∨ e ∈ m := by
  induction m with
  | nil => simpa [SMap.ins] using h
  | cons x m ih =>
    obtain ⟨k', v'⟩ := x
    simp only [SMap.ins] at h
    split at h
    · simpa using h
    · split at h
      · rcases List.mem_cons.1 h with rfl | h
        · simp
        · simp [h]
      · rcases List.mem_cons.1 h with rfl | h
        · simp
        · rcases ih h with h | h <;> simp [h]

theorem SMap.wf_set [DecidableEq α] {m : SMap α} (d : α) (k : Nat) (v : α) (h : m.wf d = true) : (m.set d k v).wf d = true := by
  rw [SMap.wf_iff] at *
  refine ⟨SMap.rises_set d k v h.1, fun e he => ?_⟩
  unfold SMap.set at he
  split at he
  · exact h.2 e (SMap.mem_del he)
  · rcases SMap.mem_ins he with rfl | he
    · assumption
    · exact h.2 e he

theorem SMap.wf_keep [DecidableEq α] {m : SMap α} (d : α) (p : Nat → Bool) (h : m.wf d = true) : (m.keep p).wf d = true := by
  rw [SMap.wf_iff] at *
  exact ⟨SMap.rises_keep p h.1, fun e he => h.2 e (SMap.mem_keep he).2⟩

end Sys2Proof.Machine
end

