-- ==== Sys2Proof/Laws/State.lean ====
section
/-!
SUPPORT. What each update of the state changes and what it leaves: for every update one theorem whose parts are the
equations of the single fields, so that no later proof unfolds a record update.
-/

namespace Sys2Proof.Machine

/-- What the update `now` leaves and what it sets. -/
@[simp] theorem apply_now (s : State) (t : Nat) :
    (Upd.apply s (.now t)).pending = s.pending ∧ (Upd.apply s (.now t)).now = t ∧
    (Upd.apply s (.now t)).freeCount = s.freeCount ∧ (Upd.apply s (.now t)).regs = s.regs ∧
    (Upd.apply s (.now t)).active = s.active ∧ (Upd.apply s (.now t)).predicted = s.predicted ∧
    (Upd.apply s (.now t)).latches = s.latches ∧ (Upd.apply s (.now t)).reply = s.reply ∧
    (Upd.apply s (.now t)).mem = s.mem ∧ (Upd.apply s (.now t)).poison = s.poison ∧
    (Upd.apply s (.now t)).flash = s.flash ∧ (Upd.apply s (.now t)).ys = s.ys ∧
    (Upd.apply s (.now t)).threads = s.threads ∧ (Upd.apply s (.now t)).cores = s.cores ∧
    (Upd.apply s (.now t)).fm = s.fm ∧ (Upd.apply s (.now t)).lg = s.lg ∧ (Upd.apply s (.now t)).ts = s.ts ∧
    (Upd.apply s (.now t)).dr = s.dr ∧ (Upd.apply s (.now t)).tb = s.tb ∧ (Upd.apply s (.now t)).tl = s.tl ∧
    (Upd.apply s (.now t)).td = s.td ∧ (Upd.apply s (.now t)).net = s.net ∧ (Upd.apply s (.now t)).ll = s.ll ∧
    (Upd.apply s (.now t)).hst = s.hst ∧ (Upd.apply s (.now t)).msix = s.msix ∧ (Upd.apply s (.now t)).boot = s.boot ∧
    (Upd.apply s (.now t)).sh = s.sh ∧ (Upd.apply s (.now t)).mt = s.mt ∧ (Upd.apply s (.now t)).ty = s.ty ∧
    (Upd.apply s (.now t)).trim = s.trim ∧ (Upd.apply s (.now t)).fences = s.fences ∧
    (Upd.apply s (.now t)).out = s.out := 
  ⟨rfl, rfl, rfl, rfl, rfl, rfl, rfl, rfl, rfl, rfl, rfl, rfl, rfl, rfl, rfl, rfl,
    rfl, rfl, rfl, rfl, rfl, rfl, rfl, rfl, rfl, rfl, rfl, rfl, rfl, rfl, rfl,
    rfl⟩

/-- What the update `free` leaves and what it sets. -/
@[simp] theorem apply_free (s : State) (n : Nat) :
    (Upd.apply s (.free n)).pending = s.pending ∧ (Upd.apply s (.free n)).now = s.now ∧
    (Upd.apply s (.free n)).freeCount = n ∧ (Upd.apply s (.free n)).regs = s.regs ∧
    (Upd.apply s (.free n)).active = s.active ∧ (Upd.apply s (.free n)).predicted = s.predicted ∧
    (Upd.apply s (.free n)).latches = s.latches ∧ (Upd.apply s (.free n)).reply = s.reply ∧
    (Upd.apply s (.free n)).mem = s.mem ∧ (Upd.apply s (.free n)).poison = s.poison ∧
    (Upd.apply s (.free n)).flash = s.flash ∧ (Upd.apply s (.free n)).ys = s.ys ∧
    (Upd.apply s (.free n)).threads = s.threads ∧ (Upd.apply s (.free n)).cores = s.cores ∧
    (Upd.apply s (.free n)).fm = s.fm ∧ (Upd.apply s (.free n)).lg = s.lg ∧ (Upd.apply s (.free n)).ts = s.ts ∧
    (Upd.apply s (.free n)).dr = s.dr ∧ (Upd.apply s (.free n)).tb = s.tb ∧ (Upd.apply s (.free n)).tl = s.tl ∧
    (Upd.apply s (.free n)).td = s.td ∧ (Upd.apply s (.free n)).net = s.net ∧ (Upd.apply s (.free n)).ll = s.ll ∧
    (Upd.apply s (.free n)).hst = s.hst ∧ (Upd.apply s (.free n)).msix = s.msix ∧ (Upd.apply s (.free n)).boot = s.boot ∧
    (Upd.apply s (.free n)).sh = s.sh ∧ (Upd.apply s (.free n)).mt = s.mt ∧ (Upd.apply s (.free n)).ty = s.ty ∧
    (Upd.apply s (.free n)).trim = s.trim ∧ (Upd.apply s (.free n)).fences = s.fences ∧
    (Upd.apply s (.free n)).out = s.out := 
  ⟨rfl, rfl, rfl, rfl, rfl, rfl, rfl, rfl, rfl, rfl, rfl, rfl, rfl, rfl, rfl, rfl,
    rfl, rfl, rfl, rfl, rfl, rfl, rfl, rfl, rfl, rfl, rfl, rfl, rfl, rfl, rfl,
    rfl⟩

/-- What the update `reg` leaves and what it sets. -/
@[simp] theorem apply_reg (s : State) (a r : Nat) (v : Word) :
    (Upd.apply s (.reg a r v)).pending = s.pending ∧ (Upd.apply s (.reg a r v)).now = s.now ∧
    (Upd.apply s (.reg a r v)).freeCount = s.freeCount ∧
    (Upd.apply s (.reg a r v)).regs = s.regs.set (BitVec.ofNat 32 r) a v ∧ (Upd.apply s (.reg a r v)).active = s.active ∧
    (Upd.apply s (.reg a r v)).predicted = s.predicted ∧ (Upd.apply s (.reg a r v)).latches = s.latches ∧
    (Upd.apply s (.reg a r v)).reply = s.reply ∧ (Upd.apply s (.reg a r v)).mem = s.mem ∧
    (Upd.apply s (.reg a r v)).poison = s.poison ∧ (Upd.apply s (.reg a r v)).flash = s.flash ∧
    (Upd.apply s (.reg a r v)).ys = s.ys ∧ (Upd.apply s (.reg a r v)).threads = s.threads ∧
    (Upd.apply s (.reg a r v)).cores = s.cores ∧ (Upd.apply s (.reg a r v)).fm = s.fm ∧
    (Upd.apply s (.reg a r v)).lg = s.lg ∧ (Upd.apply s (.reg a r v)).ts = s.ts ∧ (Upd.apply s (.reg a r v)).dr = s.dr ∧
    (Upd.apply s (.reg a r v)).tb = s.tb ∧ (Upd.apply s (.reg a r v)).tl = s.tl ∧ (Upd.apply s (.reg a r v)).td = s.td ∧
    (Upd.apply s (.reg a r v)).net = s.net ∧ (Upd.apply s (.reg a r v)).ll = s.ll ∧
    (Upd.apply s (.reg a r v)).hst = s.hst ∧ (Upd.apply s (.reg a r v)).msix = s.msix ∧
    (Upd.apply s (.reg a r v)).boot = s.boot ∧ (Upd.apply s (.reg a r v)).sh = s.sh ∧
    (Upd.apply s (.reg a r v)).mt = s.mt ∧ (Upd.apply s (.reg a r v)).ty = s.ty ∧
    (Upd.apply s (.reg a r v)).trim = s.trim ∧ (Upd.apply s (.reg a r v)).fences = s.fences ∧
    (Upd.apply s (.reg a r v)).out = s.out := 
  ⟨rfl, rfl, rfl, rfl, rfl, rfl, rfl, rfl, rfl, rfl, rfl, rfl, rfl, rfl, rfl, rfl,
    rfl, rfl, rfl, rfl, rfl, rfl, rfl, rfl, rfl, rfl, rfl, rfl, rfl, rfl, rfl,
    rfl⟩

/-- What the update `active` leaves and what it sets. -/
@[simp] theorem apply_active (s : State) (a r : Nat) (v : Word) :
    (Upd.apply s (.active a r v)).pending = s.pending ∧ (Upd.apply s (.active a r v)).now = s.now ∧
    (Upd.apply s (.active a r v)).freeCount = s.freeCount ∧ (Upd.apply s (.active a r v)).regs = s.regs ∧
    (Upd.apply s (.active a r v)).active = s.active.set (BitVec.ofNat 32 r) a v ∧
    (Upd.apply s (.active a r v)).predicted = s.predicted ∧ (Upd.apply s (.active a r v)).latches = s.latches ∧
    (Upd.apply s (.active a r v)).reply = s.reply ∧ (Upd.apply s (.active a r v)).mem = s.mem ∧
    (Upd.apply s (.active a r v)).poison = s.poison ∧ (Upd.apply s (.active a r v)).flash = s.flash ∧
    (Upd.apply s (.active a r v)).ys = s.ys ∧ (Upd.apply s (.active a r v)).threads = s.threads ∧
    (Upd.apply s (.active a r v)).cores = s.cores ∧ (Upd.apply s (.active a r v)).fm = s.fm ∧
    (Upd.apply s (.active a r v)).lg = s.lg ∧ (Upd.apply s (.active a r v)).ts = s.ts ∧
    (Upd.apply s (.active a r v)).dr = s.dr ∧ (Upd.apply s (.active a r v)).tb = s.tb ∧
    (Upd.apply s (.active a r v)).tl = s.tl ∧ (Upd.apply s (.active a r v)).td = s.td ∧
    (Upd.apply s (.active a r v)).net = s.net ∧ (Upd.apply s (.active a r v)).ll = s.ll ∧
    (Upd.apply s (.active a r v)).hst = s.hst ∧ (Upd.apply s (.active a r v)).msix = s.msix ∧
    (Upd.apply s (.active a r v)).boot = s.boot ∧ (Upd.apply s (.active a r v)).sh = s.sh ∧
    (Upd.apply s (.active a r v)).mt = s.mt ∧ (Upd.apply s (.active a r v)).ty = s.ty ∧
    (Upd.apply s (.active a r v)).trim = s.trim ∧ (Upd.apply s (.active a r v)).fences = s.fences ∧
    (Upd.apply s (.active a r v)).out = s.out := 
  ⟨rfl, rfl, rfl, rfl, rfl, rfl, rfl, rfl, rfl, rfl, rfl, rfl, rfl, rfl, rfl, rfl,
    rfl, rfl, rfl, rfl, rfl, rfl, rfl, rfl, rfl, rfl, rfl, rfl, rfl, rfl, rfl,
    rfl⟩

/-- What the update `predicted` leaves and what it sets. -/
@[simp] theorem apply_predicted (s : State) (a r : Nat) (v : Word) :
    (Upd.apply s (.predicted a r v)).pending = s.pending ∧ (Upd.apply s (.predicted a r v)).now = s.now ∧
    (Upd.apply s (.predicted a r v)).freeCount = s.freeCount ∧ (Upd.apply s (.predicted a r v)).regs = s.regs ∧
    (Upd.apply s (.predicted a r v)).active = s.active ∧
    (Upd.apply s (.predicted a r v)).predicted = s.predicted.set (BitVec.ofNat 32 r) a v ∧
    (Upd.apply s (.predicted a r v)).latches = s.latches ∧ (Upd.apply s (.predicted a r v)).reply = s.reply ∧
    (Upd.apply s (.predicted a r v)).mem = s.mem ∧ (Upd.apply s (.predicted a r v)).poison = s.poison ∧
    (Upd.apply s (.predicted a r v)).flash = s.flash ∧ (Upd.apply s (.predicted a r v)).ys = s.ys ∧
    (Upd.apply s (.predicted a r v)).threads = s.threads ∧ (Upd.apply s (.predicted a r v)).cores = s.cores ∧
    (Upd.apply s (.predicted a r v)).fm = s.fm ∧ (Upd.apply s (.predicted a r v)).lg = s.lg ∧
    (Upd.apply s (.predicted a r v)).ts = s.ts ∧ (Upd.apply s (.predicted a r v)).dr = s.dr ∧
    (Upd.apply s (.predicted a r v)).tb = s.tb ∧ (Upd.apply s (.predicted a r v)).tl = s.tl ∧
    (Upd.apply s (.predicted a r v)).td = s.td ∧ (Upd.apply s (.predicted a r v)).net = s.net ∧
    (Upd.apply s (.predicted a r v)).ll = s.ll ∧ (Upd.apply s (.predicted a r v)).hst = s.hst ∧
    (Upd.apply s (.predicted a r v)).msix = s.msix ∧ (Upd.apply s (.predicted a r v)).boot = s.boot ∧
    (Upd.apply s (.predicted a r v)).sh = s.sh ∧ (Upd.apply s (.predicted a r v)).mt = s.mt ∧
    (Upd.apply s (.predicted a r v)).ty = s.ty ∧ (Upd.apply s (.predicted a r v)).trim = s.trim ∧
    (Upd.apply s (.predicted a r v)).fences = s.fences ∧ (Upd.apply s (.predicted a r v)).out = s.out := 
  ⟨rfl, rfl, rfl, rfl, rfl, rfl, rfl, rfl, rfl, rfl, rfl, rfl, rfl, rfl, rfl, rfl,
    rfl, rfl, rfl, rfl, rfl, rfl, rfl, rfl, rfl, rfl, rfl, rfl, rfl, rfl, rfl,
    rfl⟩

/-- What the update `latch` leaves and what it sets. -/
@[simp] theorem apply_latch (s : State) (k : Nat) (v : Word) :
    (Upd.apply s (.latch k v)).pending = s.pending ∧ (Upd.apply s (.latch k v)).now = s.now ∧
    (Upd.apply s (.latch k v)).freeCount = s.freeCount ∧ (Upd.apply s (.latch k v)).regs = s.regs ∧
    (Upd.apply s (.latch k v)).active = s.active ∧ (Upd.apply s (.latch k v)).predicted = s.predicted ∧
    (Upd.apply s (.latch k v)).latches = s.latches.set 0 k v ∧ (Upd.apply s (.latch k v)).reply = s.reply ∧
    (Upd.apply s (.latch k v)).mem = s.mem ∧ (Upd.apply s (.latch k v)).poison = s.poison ∧
    (Upd.apply s (.latch k v)).flash = s.flash ∧ (Upd.apply s (.latch k v)).ys = s.ys ∧
    (Upd.apply s (.latch k v)).threads = s.threads ∧ (Upd.apply s (.latch k v)).cores = s.cores ∧
    (Upd.apply s (.latch k v)).fm = s.fm ∧ (Upd.apply s (.latch k v)).lg = s.lg ∧ (Upd.apply s (.latch k v)).ts = s.ts ∧
    (Upd.apply s (.latch k v)).dr = s.dr ∧ (Upd.apply s (.latch k v)).tb = s.tb ∧ (Upd.apply s (.latch k v)).tl = s.tl ∧
    (Upd.apply s (.latch k v)).td = s.td ∧ (Upd.apply s (.latch k v)).net = s.net ∧ (Upd.apply s (.latch k v)).ll = s.ll ∧
    (Upd.apply s (.latch k v)).hst = s.hst ∧ (Upd.apply s (.latch k v)).msix = s.msix ∧
    (Upd.apply s (.latch k v)).boot = s.boot ∧ (Upd.apply s (.latch k v)).sh = s.sh ∧
    (Upd.apply s (.latch k v)).mt = s.mt ∧ (Upd.apply s (.latch k v)).ty = s.ty ∧
    (Upd.apply s (.latch k v)).trim = s.trim ∧ (Upd.apply s (.latch k v)).fences = s.fences ∧
    (Upd.apply s (.latch k v)).out = s.out := 
  ⟨rfl, rfl, rfl, rfl, rfl, rfl, rfl, rfl, rfl, rfl, rfl, rfl, rfl, rfl, rfl, rfl,
    rfl, rfl, rfl, rfl, rfl, rfl, rfl, rfl, rfl, rfl, rfl, rfl, rfl, rfl, rfl,
    rfl⟩

/-- What the update `reply` leaves and what it sets. -/
@[simp] theorem apply_reply (s : State) (bs : List Byte) :
    (Upd.apply s (.reply bs)).pending = s.pending ∧ (Upd.apply s (.reply bs)).now = s.now ∧
    (Upd.apply s (.reply bs)).freeCount = s.freeCount ∧ (Upd.apply s (.reply bs)).regs = s.regs ∧
    (Upd.apply s (.reply bs)).active = s.active ∧ (Upd.apply s (.reply bs)).predicted = s.predicted ∧
    (Upd.apply s (.reply bs)).latches = s.latches ∧ (Upd.apply s (.reply bs)).reply = bs ∧
    (Upd.apply s (.reply bs)).mem = s.mem ∧ (Upd.apply s (.reply bs)).poison = s.poison ∧
    (Upd.apply s (.reply bs)).flash = s.flash ∧ (Upd.apply s (.reply bs)).ys = s.ys ∧
    (Upd.apply s (.reply bs)).threads = s.threads ∧ (Upd.apply s (.reply bs)).cores = s.cores ∧
    (Upd.apply s (.reply bs)).fm = s.fm ∧ (Upd.apply s (.reply bs)).lg = s.lg ∧ (Upd.apply s (.reply bs)).ts = s.ts ∧
    (Upd.apply s (.reply bs)).dr = s.dr ∧ (Upd.apply s (.reply bs)).tb = s.tb ∧ (Upd.apply s (.reply bs)).tl = s.tl ∧
    (Upd.apply s (.reply bs)).td = s.td ∧ (Upd.apply s (.reply bs)).net = s.net ∧ (Upd.apply s (.reply bs)).ll = s.ll ∧
    (Upd.apply s (.reply bs)).hst = s.hst ∧ (Upd.apply s (.reply bs)).msix = s.msix ∧
    (Upd.apply s (.reply bs)).boot = s.boot ∧ (Upd.apply s (.reply bs)).sh = s.sh ∧ (Upd.apply s (.reply bs)).mt = s.mt ∧
    (Upd.apply s (.reply bs)).ty = s.ty ∧ (Upd.apply s (.reply bs)).trim = s.trim ∧
    (Upd.apply s (.reply bs)).fences = s.fences ∧ (Upd.apply s (.reply bs)).out = s.out := 
  ⟨rfl, rfl, rfl, rfl, rfl, rfl, rfl, rfl, rfl, rfl, rfl, rfl, rfl, rfl, rfl, rfl,
    rfl, rfl, rfl, rfl, rfl, rfl, rfl, rfl, rfl, rfl, rfl, rfl, rfl, rfl, rfl,
    rfl⟩

/-- What the update `keepRegs` leaves and what it sets. -/
@[simp] theorem apply_keepRegs (s : State) (p : Nat → Bool) :
    (Upd.apply s (.keepRegs p)).pending = s.pending ∧ (Upd.apply s (.keepRegs p)).now = s.now ∧
    (Upd.apply s (.keepRegs p)).freeCount = s.freeCount ∧ (Upd.apply s (.keepRegs p)).regs = s.regs.keep p ∧
    (Upd.apply s (.keepRegs p)).active = s.active.keep p ∧ (Upd.apply s (.keepRegs p)).predicted = s.predicted.keep p ∧
    (Upd.apply s (.keepRegs p)).latches = [] ∧ (Upd.apply s (.keepRegs p)).reply = s.reply ∧
    (Upd.apply s (.keepRegs p)).mem = s.mem ∧ (Upd.apply s (.keepRegs p)).poison = s.poison ∧
    (Upd.apply s (.keepRegs p)).flash = s.flash ∧ (Upd.apply s (.keepRegs p)).ys = s.ys ∧
    (Upd.apply s (.keepRegs p)).threads = s.threads ∧ (Upd.apply s (.keepRegs p)).cores = s.cores ∧
    (Upd.apply s (.keepRegs p)).fm = s.fm ∧ (Upd.apply s (.keepRegs p)).lg = s.lg ∧
    (Upd.apply s (.keepRegs p)).ts = s.ts ∧ (Upd.apply s (.keepRegs p)).dr = s.dr ∧
    (Upd.apply s (.keepRegs p)).tb = s.tb ∧ (Upd.apply s (.keepRegs p)).tl = s.tl ∧
    (Upd.apply s (.keepRegs p)).td = s.td ∧ (Upd.apply s (.keepRegs p)).net = s.net ∧
    (Upd.apply s (.keepRegs p)).ll = s.ll ∧ (Upd.apply s (.keepRegs p)).hst = s.hst ∧
    (Upd.apply s (.keepRegs p)).msix = s.msix ∧ (Upd.apply s (.keepRegs p)).boot = s.boot ∧
    (Upd.apply s (.keepRegs p)).sh = s.sh ∧ (Upd.apply s (.keepRegs p)).mt = s.mt ∧
    (Upd.apply s (.keepRegs p)).ty = s.ty ∧ (Upd.apply s (.keepRegs p)).trim = s.trim ∧
    (Upd.apply s (.keepRegs p)).fences = s.fences ∧ (Upd.apply s (.keepRegs p)).out = s.out := 
  ⟨rfl, rfl, rfl, rfl, rfl, rfl, rfl, rfl, rfl, rfl, rfl, rfl, rfl, rfl, rfl, rfl,
    rfl, rfl, rfl, rfl, rfl, rfl, rfl, rfl, rfl, rfl, rfl, rfl, rfl, rfl, rfl,
    rfl⟩

/-- What the update `mem` leaves and what it sets. -/
@[simp] theorem apply_mem (s : State) (a : Nat) (b : Byte) :
    (Upd.apply s (.mem a b)).pending = s.pending ∧ (Upd.apply s (.mem a b)).now = s.now ∧
    (Upd.apply s (.mem a b)).freeCount = s.freeCount ∧ (Upd.apply s (.mem a b)).regs = s.regs ∧
    (Upd.apply s (.mem a b)).active = s.active ∧ (Upd.apply s (.mem a b)).predicted = s.predicted ∧
    (Upd.apply s (.mem a b)).latches = s.latches ∧ (Upd.apply s (.mem a b)).reply = s.reply ∧
    (Upd.apply s (.mem a b)).mem = s.mem.set memReset a b ∧ (Upd.apply s (.mem a b)).poison = s.poison ∧
    (Upd.apply s (.mem a b)).flash = s.flash ∧ (Upd.apply s (.mem a b)).ys = s.ys ∧
    (Upd.apply s (.mem a b)).threads = s.threads ∧ (Upd.apply s (.mem a b)).cores = s.cores ∧
    (Upd.apply s (.mem a b)).fm = s.fm ∧ (Upd.apply s (.mem a b)).lg = s.lg ∧ (Upd.apply s (.mem a b)).ts = s.ts ∧
    (Upd.apply s (.mem a b)).dr = s.dr ∧ (Upd.apply s (.mem a b)).tb = s.tb ∧ (Upd.apply s (.mem a b)).tl = s.tl ∧
    (Upd.apply s (.mem a b)).td = s.td ∧ (Upd.apply s (.mem a b)).net = s.net ∧ (Upd.apply s (.mem a b)).ll = s.ll ∧
    (Upd.apply s (.mem a b)).hst = s.hst ∧ (Upd.apply s (.mem a b)).msix = s.msix ∧
    (Upd.apply s (.mem a b)).boot = s.boot ∧ (Upd.apply s (.mem a b)).sh = s.sh ∧ (Upd.apply s (.mem a b)).mt = s.mt ∧
    (Upd.apply s (.mem a b)).ty = s.ty ∧ (Upd.apply s (.mem a b)).trim = s.trim ∧
    (Upd.apply s (.mem a b)).fences = s.fences ∧ (Upd.apply s (.mem a b)).out = s.out := 
  ⟨rfl, rfl, rfl, rfl, rfl, rfl, rfl, rfl, rfl, rfl, rfl, rfl, rfl, rfl, rfl, rfl,
    rfl, rfl, rfl, rfl, rfl, rfl, rfl, rfl, rfl, rfl, rfl, rfl, rfl, rfl, rfl,
    rfl⟩

/-- What the update `poison` leaves and what it sets. -/
@[simp] theorem apply_poison (s : State) (w : Nat) (p : Bool) :
    (Upd.apply s (.poison w p)).pending = s.pending ∧ (Upd.apply s (.poison w p)).now = s.now ∧
    (Upd.apply s (.poison w p)).freeCount = s.freeCount ∧ (Upd.apply s (.poison w p)).regs = s.regs ∧
    (Upd.apply s (.poison w p)).active = s.active ∧ (Upd.apply s (.poison w p)).predicted = s.predicted ∧
    (Upd.apply s (.poison w p)).latches = s.latches ∧ (Upd.apply s (.poison w p)).reply = s.reply ∧
    (Upd.apply s (.poison w p)).mem = s.mem ∧ (Upd.apply s (.poison w p)).poison = s.poison.set false w p ∧
    (Upd.apply s (.poison w p)).flash = s.flash ∧ (Upd.apply s (.poison w p)).ys = s.ys ∧
    (Upd.apply s (.poison w p)).threads = s.threads ∧ (Upd.apply s (.poison w p)).cores = s.cores ∧
    (Upd.apply s (.poison w p)).fm = s.fm ∧ (Upd.apply s (.poison w p)).lg = s.lg ∧
    (Upd.apply s (.poison w p)).ts = s.ts ∧ (Upd.apply s (.poison w p)).dr = s.dr ∧
    (Upd.apply s (.poison w p)).tb = s.tb ∧ (Upd.apply s (.poison w p)).tl = s.tl ∧
    (Upd.apply s (.poison w p)).td = s.td ∧ (Upd.apply s (.poison w p)).net = s.net ∧
    (Upd.apply s (.poison w p)).ll = s.ll ∧ (Upd.apply s (.poison w p)).hst = s.hst ∧
    (Upd.apply s (.poison w p)).msix = s.msix ∧ (Upd.apply s (.poison w p)).boot = s.boot ∧
    (Upd.apply s (.poison w p)).sh = s.sh ∧ (Upd.apply s (.poison w p)).mt = s.mt ∧
    (Upd.apply s (.poison w p)).ty = s.ty ∧ (Upd.apply s (.poison w p)).trim = s.trim ∧
    (Upd.apply s (.poison w p)).fences = s.fences ∧ (Upd.apply s (.poison w p)).out = s.out := 
  ⟨rfl, rfl, rfl, rfl, rfl, rfl, rfl, rfl, rfl, rfl, rfl, rfl, rfl, rfl, rfl, rfl,
    rfl, rfl, rfl, rfl, rfl, rfl, rfl, rfl, rfl, rfl, rfl, rfl, rfl, rfl, rfl,
    rfl⟩

/-- What the update `flash` leaves and what it sets. -/
@[simp] theorem apply_flash (s : State) (a : Nat) (b : Byte) :
    (Upd.apply s (.flash a b)).pending = s.pending ∧ (Upd.apply s (.flash a b)).now = s.now ∧
    (Upd.apply s (.flash a b)).freeCount = s.freeCount ∧ (Upd.apply s (.flash a b)).regs = s.regs ∧
    (Upd.apply s (.flash a b)).active = s.active ∧ (Upd.apply s (.flash a b)).predicted = s.predicted ∧
    (Upd.apply s (.flash a b)).latches = s.latches ∧ (Upd.apply s (.flash a b)).reply = s.reply ∧
    (Upd.apply s (.flash a b)).mem = s.mem ∧ (Upd.apply s (.flash a b)).poison = s.poison ∧
    (Upd.apply s (.flash a b)).flash = s.flash.set 0xFF a b ∧ (Upd.apply s (.flash a b)).ys = s.ys ∧
    (Upd.apply s (.flash a b)).threads = s.threads ∧ (Upd.apply s (.flash a b)).cores = s.cores ∧
    (Upd.apply s (.flash a b)).fm = s.fm ∧ (Upd.apply s (.flash a b)).lg = s.lg ∧ (Upd.apply s (.flash a b)).ts = s.ts ∧
    (Upd.apply s (.flash a b)).dr = s.dr ∧ (Upd.apply s (.flash a b)).tb = s.tb ∧ (Upd.apply s (.flash a b)).tl = s.tl ∧
    (Upd.apply s (.flash a b)).td = s.td ∧ (Upd.apply s (.flash a b)).net = s.net ∧ (Upd.apply s (.flash a b)).ll = s.ll ∧
    (Upd.apply s (.flash a b)).hst = s.hst ∧ (Upd.apply s (.flash a b)).msix = s.msix ∧
    (Upd.apply s (.flash a b)).boot = s.boot ∧ (Upd.apply s (.flash a b)).sh = s.sh ∧
    (Upd.apply s (.flash a b)).mt = s.mt ∧ (Upd.apply s (.flash a b)).ty = s.ty ∧
    (Upd.apply s (.flash a b)).trim = s.trim ∧ (Upd.apply s (.flash a b)).fences = s.fences ∧
    (Upd.apply s (.flash a b)).out = s.out := 
  ⟨rfl, rfl, rfl, rfl, rfl, rfl, rfl, rfl, rfl, rfl, rfl, rfl, rfl, rfl, rfl, rfl,
    rfl, rfl, rfl, rfl, rfl, rfl, rfl, rfl, rfl, rfl, rfl, rfl, rfl, rfl, rfl,
    rfl⟩

/-- What the update `clearMem` leaves and what it sets. -/
@[simp] theorem apply_clearMem (s : State) (lo hi : Nat) :
    (Upd.apply s (.clearMem lo hi)).pending = s.pending ∧ (Upd.apply s (.clearMem lo hi)).now = s.now ∧
    (Upd.apply s (.clearMem lo hi)).freeCount = s.freeCount ∧ (Upd.apply s (.clearMem lo hi)).regs = s.regs ∧
    (Upd.apply s (.clearMem lo hi)).active = s.active ∧ (Upd.apply s (.clearMem lo hi)).predicted = s.predicted ∧
    (Upd.apply s (.clearMem lo hi)).latches = s.latches ∧ (Upd.apply s (.clearMem lo hi)).reply = s.reply ∧
    (Upd.apply s (.clearMem lo hi)).flash = s.flash ∧ (Upd.apply s (.clearMem lo hi)).ys = s.ys ∧
    (Upd.apply s (.clearMem lo hi)).threads = s.threads ∧ (Upd.apply s (.clearMem lo hi)).cores = s.cores ∧
    (Upd.apply s (.clearMem lo hi)).fm = s.fm ∧ (Upd.apply s (.clearMem lo hi)).lg = s.lg ∧
    (Upd.apply s (.clearMem lo hi)).ts = s.ts ∧ (Upd.apply s (.clearMem lo hi)).dr = s.dr ∧
    (Upd.apply s (.clearMem lo hi)).tb = s.tb ∧ (Upd.apply s (.clearMem lo hi)).tl = s.tl ∧
    (Upd.apply s (.clearMem lo hi)).td = s.td ∧ (Upd.apply s (.clearMem lo hi)).net = s.net ∧
    (Upd.apply s (.clearMem lo hi)).ll = s.ll ∧ (Upd.apply s (.clearMem lo hi)).hst = s.hst ∧
    (Upd.apply s (.clearMem lo hi)).msix = s.msix ∧ (Upd.apply s (.clearMem lo hi)).boot = s.boot ∧
    (Upd.apply s (.clearMem lo hi)).sh = s.sh ∧ (Upd.apply s (.clearMem lo hi)).mt = s.mt ∧
    (Upd.apply s (.clearMem lo hi)).ty = s.ty ∧ (Upd.apply s (.clearMem lo hi)).trim = s.trim ∧
    (Upd.apply s (.clearMem lo hi)).fences = s.fences ∧ (Upd.apply s (.clearMem lo hi)).out = s.out := 
  ⟨rfl, rfl, rfl, rfl, rfl, rfl, rfl, rfl, rfl, rfl, rfl, rfl, rfl, rfl, rfl, rfl,
    rfl, rfl, rfl, rfl, rfl, rfl, rfl, rfl, rfl, rfl, rfl, rfl, rfl, rfl⟩

/-- What the update `thread` leaves and what it sets. -/
@[simp] theorem apply_thread (s : State) (k : Nat) (t : Thread) :
    (Upd.apply s (.thread k t)).pending = s.pending ∧ (Upd.apply s (.thread k t)).now = s.now ∧
    (Upd.apply s (.thread k t)).freeCount = s.freeCount ∧ (Upd.apply s (.thread k t)).regs = s.regs ∧
    (Upd.apply s (.thread k t)).active = s.active ∧ (Upd.apply s (.thread k t)).predicted = s.predicted ∧
    (Upd.apply s (.thread k t)).latches = s.latches ∧ (Upd.apply s (.thread k t)).reply = s.reply ∧
    (Upd.apply s (.thread k t)).mem = s.mem ∧ (Upd.apply s (.thread k t)).poison = s.poison ∧
    (Upd.apply s (.thread k t)).flash = s.flash ∧ (Upd.apply s (.thread k t)).ys = s.ys ∧
    (Upd.apply s (.thread k t)).threads = s.threads.set {} k t ∧ (Upd.apply s (.thread k t)).cores = s.cores ∧
    (Upd.apply s (.thread k t)).fm = s.fm ∧ (Upd.apply s (.thread k t)).lg = s.lg ∧
    (Upd.apply s (.thread k t)).ts = s.ts ∧ (Upd.apply s (.thread k t)).dr = s.dr ∧
    (Upd.apply s (.thread k t)).tb = s.tb ∧ (Upd.apply s (.thread k t)).tl = s.tl ∧
    (Upd.apply s (.thread k t)).td = s.td ∧ (Upd.apply s (.thread k t)).net = s.net ∧
    (Upd.apply s (.thread k t)).ll = s.ll ∧ (Upd.apply s (.thread k t)).hst = s.hst ∧
    (Upd.apply s (.thread k t)).msix = s.msix ∧ (Upd.apply s (.thread k t)).boot = s.boot ∧
    (Upd.apply s (.thread k t)).sh = s.sh ∧ (Upd.apply s (.thread k t)).mt = s.mt ∧
    (Upd.apply s (.thread k t)).ty = s.ty ∧ (Upd.apply s (.thread k t)).trim = s.trim ∧
    (Upd.apply s (.thread k t)).fences = s.fences ∧ (Upd.apply s (.thread k t)).out = s.out := 
  ⟨rfl, rfl, rfl, rfl, rfl, rfl, rfl, rfl, rfl, rfl, rfl, rfl, rfl, rfl, rfl, rfl,
    rfl, rfl, rfl, rfl, rfl, rfl, rfl, rfl, rfl, rfl, rfl, rfl, rfl, rfl, rfl,
    rfl⟩

/-- What the update `core` leaves and what it sets. -/
@[simp] theorem apply_core (s : State) (k : Nat) (c : Core) :
    (Upd.apply s (.core k c)).pending = s.pending ∧ (Upd.apply s (.core k c)).now = s.now ∧
    (Upd.apply s (.core k c)).freeCount = s.freeCount ∧ (Upd.apply s (.core k c)).regs = s.regs ∧
    (Upd.apply s (.core k c)).active = s.active ∧ (Upd.apply s (.core k c)).predicted = s.predicted ∧
    (Upd.apply s (.core k c)).latches = s.latches ∧ (Upd.apply s (.core k c)).reply = s.reply ∧
    (Upd.apply s (.core k c)).mem = s.mem ∧ (Upd.apply s (.core k c)).poison = s.poison ∧
    (Upd.apply s (.core k c)).flash = s.flash ∧ (Upd.apply s (.core k c)).ys = s.ys ∧
    (Upd.apply s (.core k c)).threads = s.threads ∧ (Upd.apply s (.core k c)).cores = s.cores.set {} k c ∧
    (Upd.apply s (.core k c)).fm = s.fm ∧ (Upd.apply s (.core k c)).lg = s.lg ∧ (Upd.apply s (.core k c)).ts = s.ts ∧
    (Upd.apply s (.core k c)).dr = s.dr ∧ (Upd.apply s (.core k c)).tb = s.tb ∧ (Upd.apply s (.core k c)).tl = s.tl ∧
    (Upd.apply s (.core k c)).td = s.td ∧ (Upd.apply s (.core k c)).net = s.net ∧ (Upd.apply s (.core k c)).ll = s.ll ∧
    (Upd.apply s (.core k c)).hst = s.hst ∧ (Upd.apply s (.core k c)).msix = s.msix ∧
    (Upd.apply s (.core k c)).boot = s.boot ∧ (Upd.apply s (.core k c)).sh = s.sh ∧ (Upd.apply s (.core k c)).mt = s.mt ∧
    (Upd.apply s (.core k c)).ty = s.ty ∧ (Upd.apply s (.core k c)).trim = s.trim ∧
    (Upd.apply s (.core k c)).fences = s.fences ∧ (Upd.apply s (.core k c)).out = s.out := 
  ⟨rfl, rfl, rfl, rfl, rfl, rfl, rfl, rfl, rfl, rfl, rfl, rfl, rfl, rfl, rfl, rfl,
    rfl, rfl, rfl, rfl, rfl, rfl, rfl, rfl, rfl, rfl, rfl, rfl, rfl, rfl, rfl,
    rfl⟩

/-- What the update `intake` leaves and what it sets. -/
@[simp] theorem apply_intake (s : State) (r : LogReq) :
    (Upd.apply s (.intake r)).pending = s.pending ∧ (Upd.apply s (.intake r)).now = s.now ∧
    (Upd.apply s (.intake r)).freeCount = s.freeCount ∧ (Upd.apply s (.intake r)).regs = s.regs ∧
    (Upd.apply s (.intake r)).active = s.active ∧ (Upd.apply s (.intake r)).predicted = s.predicted ∧
    (Upd.apply s (.intake r)).latches = s.latches ∧ (Upd.apply s (.intake r)).reply = s.reply ∧
    (Upd.apply s (.intake r)).mem = s.mem ∧ (Upd.apply s (.intake r)).poison = s.poison ∧
    (Upd.apply s (.intake r)).flash = s.flash ∧ (Upd.apply s (.intake r)).ys = s.ys ∧
    (Upd.apply s (.intake r)).threads = s.threads ∧ (Upd.apply s (.intake r)).cores = s.cores ∧
    (Upd.apply s (.intake r)).fm = s.fm ∧ (Upd.apply s (.intake r)).ts = s.ts ∧ (Upd.apply s (.intake r)).dr = s.dr ∧
    (Upd.apply s (.intake r)).tb = s.tb ∧ (Upd.apply s (.intake r)).tl = s.tl ∧ (Upd.apply s (.intake r)).td = s.td ∧
    (Upd.apply s (.intake r)).net = s.net ∧ (Upd.apply s (.intake r)).ll = s.ll ∧ (Upd.apply s (.intake r)).hst = s.hst ∧
    (Upd.apply s (.intake r)).msix = s.msix ∧ (Upd.apply s (.intake r)).boot = s.boot ∧
    (Upd.apply s (.intake r)).sh = s.sh ∧ (Upd.apply s (.intake r)).mt = s.mt ∧ (Upd.apply s (.intake r)).ty = s.ty ∧
    (Upd.apply s (.intake r)).trim = s.trim ∧ (Upd.apply s (.intake r)).fences = s.fences ∧
    (Upd.apply s (.intake r)).out = s.out := by
  refine ⟨?_, ?_, ?_, ?_, ?_, ?_, ?_, ?_, ?_, ?_, ?_, ?_, ?_, ?_, ?_, ?_, ?_, ?_, ?_, ?_, ?_, ?_, ?_, ?_, ?_, ?_, ?_, ?_, ?_, ?_, ?_⟩ <;> simp only [Upd.apply] <;> split <;> rfl

/-- What the update `ys` leaves and what it sets. -/
@[simp] theorem apply_ys (s : State) (x : Ys) :
    (Upd.apply s (.ys x)).pending = s.pending ∧ (Upd.apply s (.ys x)).now = s.now ∧
    (Upd.apply s (.ys x)).freeCount = s.freeCount ∧ (Upd.apply s (.ys x)).regs = s.regs ∧
    (Upd.apply s (.ys x)).active = s.active ∧ (Upd.apply s (.ys x)).predicted = s.predicted ∧
    (Upd.apply s (.ys x)).latches = s.latches ∧ (Upd.apply s (.ys x)).reply = s.reply ∧
    (Upd.apply s (.ys x)).mem = s.mem ∧ (Upd.apply s (.ys x)).poison = s.poison ∧ (Upd.apply s (.ys x)).flash = s.flash ∧
    (Upd.apply s (.ys x)).ys = x ∧ (Upd.apply s (.ys x)).threads = s.threads ∧ (Upd.apply s (.ys x)).cores = s.cores ∧
    (Upd.apply s (.ys x)).fm = s.fm ∧ (Upd.apply s (.ys x)).lg = s.lg ∧ (Upd.apply s (.ys x)).ts = s.ts ∧
    (Upd.apply s (.ys x)).dr = s.dr ∧ (Upd.apply s (.ys x)).tb = s.tb ∧ (Upd.apply s (.ys x)).tl = s.tl ∧
    (Upd.apply s (.ys x)).td = s.td ∧ (Upd.apply s (.ys x)).net = s.net ∧ (Upd.apply s (.ys x)).ll = s.ll ∧
    (Upd.apply s (.ys x)).hst = s.hst ∧ (Upd.apply s (.ys x)).msix = s.msix ∧ (Upd.apply s (.ys x)).boot = s.boot ∧
    (Upd.apply s (.ys x)).sh = s.sh ∧ (Upd.apply s (.ys x)).mt = s.mt ∧ (Upd.apply s (.ys x)).ty = s.ty ∧
    (Upd.apply s (.ys x)).trim = s.trim ∧ (Upd.apply s (.ys x)).fences = s.fences ∧ (Upd.apply s (.ys x)).out = s.out := 
  ⟨rfl, rfl, rfl, rfl, rfl, rfl, rfl, rfl, rfl, rfl, rfl, rfl, rfl, rfl, rfl, rfl,
    rfl, rfl, rfl, rfl, rfl, rfl, rfl, rfl, rfl, rfl, rfl, rfl, rfl, rfl, rfl,
    rfl⟩

/-- What the update `fm` leaves and what it sets. -/
@[simp] theorem apply_fm (s : State) (x : Fm) :
    (Upd.apply s (.fm x)).pending = s.pending ∧ (Upd.apply s (.fm x)).now = s.now ∧
    (Upd.apply s (.fm x)).freeCount = s.freeCount ∧ (Upd.apply s (.fm x)).regs = s.regs ∧
    (Upd.apply s (.fm x)).active = s.active ∧ (Upd.apply s (.fm x)).predicted = s.predicted ∧
    (Upd.apply s (.fm x)).latches = s.latches ∧ (Upd.apply s (.fm x)).reply = s.reply ∧
    (Upd.apply s (.fm x)).mem = s.mem ∧ (Upd.apply s (.fm x)).poison = s.poison ∧ (Upd.apply s (.fm x)).flash = s.flash ∧
    (Upd.apply s (.fm x)).ys = s.ys ∧ (Upd.apply s (.fm x)).threads = s.threads ∧ (Upd.apply s (.fm x)).cores = s.cores ∧
    (Upd.apply s (.fm x)).fm = x ∧ (Upd.apply s (.fm x)).lg = s.lg ∧ (Upd.apply s (.fm x)).ts = s.ts ∧
    (Upd.apply s (.fm x)).dr = s.dr ∧ (Upd.apply s (.fm x)).tb = s.tb ∧ (Upd.apply s (.fm x)).tl = s.tl ∧
    (Upd.apply s (.fm x)).td = s.td ∧ (Upd.apply s (.fm x)).net = s.net ∧ (Upd.apply s (.fm x)).ll = s.ll ∧
    (Upd.apply s (.fm x)).hst = s.hst ∧ (Upd.apply s (.fm x)).msix = s.msix ∧ (Upd.apply s (.fm x)).boot = s.boot ∧
    (Upd.apply s (.fm x)).sh = s.sh ∧ (Upd.apply s (.fm x)).mt = s.mt ∧ (Upd.apply s (.fm x)).ty = s.ty ∧
    (Upd.apply s (.fm x)).trim = s.trim ∧ (Upd.apply s (.fm x)).fences = s.fences ∧ (Upd.apply s (.fm x)).out = s.out := 
  ⟨rfl, rfl, rfl, rfl, rfl, rfl, rfl, rfl, rfl, rfl, rfl, rfl, rfl, rfl, rfl, rfl,
    rfl, rfl, rfl, rfl, rfl, rfl, rfl, rfl, rfl, rfl, rfl, rfl, rfl, rfl, rfl,
    rfl⟩

/-- What the update `lg` leaves and what it sets. -/
@[simp] theorem apply_lg (s : State) (x : Lg) :
    (Upd.apply s (.lg x)).pending = s.pending ∧ (Upd.apply s (.lg x)).now = s.now ∧
    (Upd.apply s (.lg x)).freeCount = s.freeCount ∧ (Upd.apply s (.lg x)).regs = s.regs ∧
    (Upd.apply s (.lg x)).active = s.active ∧ (Upd.apply s (.lg x)).predicted = s.predicted ∧
    (Upd.apply s (.lg x)).latches = s.latches ∧ (Upd.apply s (.lg x)).reply = s.reply ∧
    (Upd.apply s (.lg x)).mem = s.mem ∧ (Upd.apply s (.lg x)).poison = s.poison ∧ (Upd.apply s (.lg x)).flash = s.flash ∧
    (Upd.apply s (.lg x)).ys = s.ys ∧ (Upd.apply s (.lg x)).threads = s.threads ∧ (Upd.apply s (.lg x)).cores = s.cores ∧
    (Upd.apply s (.lg x)).fm = s.fm ∧ (Upd.apply s (.lg x)).lg = x ∧ (Upd.apply s (.lg x)).ts = s.ts ∧
    (Upd.apply s (.lg x)).dr = s.dr ∧ (Upd.apply s (.lg x)).tb = s.tb ∧ (Upd.apply s (.lg x)).tl = s.tl ∧
    (Upd.apply s (.lg x)).td = s.td ∧ (Upd.apply s (.lg x)).net = s.net ∧ (Upd.apply s (.lg x)).ll = s.ll ∧
    (Upd.apply s (.lg x)).hst = s.hst ∧ (Upd.apply s (.lg x)).msix = s.msix ∧ (Upd.apply s (.lg x)).boot = s.boot ∧
    (Upd.apply s (.lg x)).sh = s.sh ∧ (Upd.apply s (.lg x)).mt = s.mt ∧ (Upd.apply s (.lg x)).ty = s.ty ∧
    (Upd.apply s (.lg x)).trim = s.trim ∧ (Upd.apply s (.lg x)).fences = s.fences ∧ (Upd.apply s (.lg x)).out = s.out := 
  ⟨rfl, rfl, rfl, rfl, rfl, rfl, rfl, rfl, rfl, rfl, rfl, rfl, rfl, rfl, rfl, rfl,
    rfl, rfl, rfl, rfl, rfl, rfl, rfl, rfl, rfl, rfl, rfl, rfl, rfl, rfl, rfl,
    rfl⟩

/-- What the update `ts` leaves and what it sets. -/
@[simp] theorem apply_ts (s : State) (x : Ts) :
    (Upd.apply s (.ts x)).pending = s.pending ∧ (Upd.apply s (.ts x)).now = s.now ∧
    (Upd.apply s (.ts x)).freeCount = s.freeCount ∧ (Upd.apply s (.ts x)).regs = s.regs ∧
    (Upd.apply s (.ts x)).active = s.active ∧ (Upd.apply s (.ts x)).predicted = s.predicted ∧
    (Upd.apply s (.ts x)).latches = s.latches ∧ (Upd.apply s (.ts x)).reply = s.reply ∧
    (Upd.apply s (.ts x)).mem = s.mem ∧ (Upd.apply s (.ts x)).poison = s.poison ∧ (Upd.apply s (.ts x)).flash = s.flash ∧
    (Upd.apply s (.ts x)).ys = s.ys ∧ (Upd.apply s (.ts x)).threads = s.threads ∧ (Upd.apply s (.ts x)).cores = s.cores ∧
    (Upd.apply s (.ts x)).fm = s.fm ∧ (Upd.apply s (.ts x)).lg = s.lg ∧ (Upd.apply s (.ts x)).ts = x ∧
    (Upd.apply s (.ts x)).dr = s.dr ∧ (Upd.apply s (.ts x)).tb = s.tb ∧ (Upd.apply s (.ts x)).tl = s.tl ∧
    (Upd.apply s (.ts x)).td = s.td ∧ (Upd.apply s (.ts x)).net = s.net ∧ (Upd.apply s (.ts x)).ll = s.ll ∧
    (Upd.apply s (.ts x)).hst = s.hst ∧ (Upd.apply s (.ts x)).msix = s.msix ∧ (Upd.apply s (.ts x)).boot = s.boot ∧
    (Upd.apply s (.ts x)).sh = s.sh ∧ (Upd.apply s (.ts x)).mt = s.mt ∧ (Upd.apply s (.ts x)).ty = s.ty ∧
    (Upd.apply s (.ts x)).trim = s.trim ∧ (Upd.apply s (.ts x)).fences = s.fences ∧ (Upd.apply s (.ts x)).out = s.out := 
  ⟨rfl, rfl, rfl, rfl, rfl, rfl, rfl, rfl, rfl, rfl, rfl, rfl, rfl, rfl, rfl, rfl,
    rfl, rfl, rfl, rfl, rfl, rfl, rfl, rfl, rfl, rfl, rfl, rfl, rfl, rfl, rfl,
    rfl⟩

/-- What the update `out` leaves and what it sets. -/
@[simp] theorem apply_out (s : State) (m : OutMsg) :
    (Upd.apply s (.out m)).pending = s.pending ∧ (Upd.apply s (.out m)).now = s.now ∧
    (Upd.apply s (.out m)).freeCount = s.freeCount ∧ (Upd.apply s (.out m)).regs = s.regs ∧
    (Upd.apply s (.out m)).active = s.active ∧ (Upd.apply s (.out m)).predicted = s.predicted ∧
    (Upd.apply s (.out m)).latches = s.latches ∧ (Upd.apply s (.out m)).reply = s.reply ∧
    (Upd.apply s (.out m)).mem = s.mem ∧ (Upd.apply s (.out m)).poison = s.poison ∧
    (Upd.apply s (.out m)).flash = s.flash ∧ (Upd.apply s (.out m)).ys = s.ys ∧
    (Upd.apply s (.out m)).threads = s.threads ∧ (Upd.apply s (.out m)).cores = s.cores ∧
    (Upd.apply s (.out m)).fm = s.fm ∧ (Upd.apply s (.out m)).lg = s.lg ∧ (Upd.apply s (.out m)).ts = s.ts ∧
    (Upd.apply s (.out m)).dr = s.dr ∧ (Upd.apply s (.out m)).tb = s.tb ∧ (Upd.apply s (.out m)).tl = s.tl ∧
    (Upd.apply s (.out m)).td = s.td ∧ (Upd.apply s (.out m)).net = s.net ∧ (Upd.apply s (.out m)).ll = s.ll ∧
    (Upd.apply s (.out m)).hst = s.hst ∧ (Upd.apply s (.out m)).msix = s.msix ∧ (Upd.apply s (.out m)).boot = s.boot ∧
    (Upd.apply s (.out m)).sh = s.sh ∧ (Upd.apply s (.out m)).mt = s.mt ∧ (Upd.apply s (.out m)).ty = s.ty ∧
    (Upd.apply s (.out m)).trim = s.trim ∧ (Upd.apply s (.out m)).fences = s.fences ∧
    (Upd.apply s (.out m)).out = s.out ++ [m] := 
  ⟨rfl, rfl, rfl, rfl, rfl, rfl, rfl, rfl, rfl, rfl, rfl, rfl, rfl, rfl, rfl, rfl,
    rfl, rfl, rfl, rfl, rfl, rfl, rfl, rfl, rfl, rfl, rfl, rfl, rfl, rfl, rfl,
    rfl⟩

/-- What the update `msix` leaves and what it sets. -/
@[simp] theorem apply_msix (s : State) (k : Nat) (x : Msix) :
    (Upd.apply s (.msix k x)).pending = s.pending ∧ (Upd.apply s (.msix k x)).now = s.now ∧
    (Upd.apply s (.msix k x)).freeCount = s.freeCount ∧ (Upd.apply s (.msix k x)).regs = s.regs ∧
    (Upd.apply s (.msix k x)).active = s.active ∧ (Upd.apply s (.msix k x)).predicted = s.predicted ∧
    (Upd.apply s (.msix k x)).latches = s.latches ∧ (Upd.apply s (.msix k x)).reply = s.reply ∧
    (Upd.apply s (.msix k x)).mem = s.mem ∧ (Upd.apply s (.msix k x)).poison = s.poison ∧
    (Upd.apply s (.msix k x)).flash = s.flash ∧ (Upd.apply s (.msix k x)).ys = s.ys ∧
    (Upd.apply s (.msix k x)).threads = s.threads ∧ (Upd.apply s (.msix k x)).cores = s.cores ∧
    (Upd.apply s (.msix k x)).fm = s.fm ∧ (Upd.apply s (.msix k x)).lg = s.lg ∧ (Upd.apply s (.msix k x)).ts = s.ts ∧
    (Upd.apply s (.msix k x)).dr = s.dr ∧ (Upd.apply s (.msix k x)).tb = s.tb ∧ (Upd.apply s (.msix k x)).tl = s.tl ∧
    (Upd.apply s (.msix k x)).td = s.td ∧ (Upd.apply s (.msix k x)).net = s.net ∧ (Upd.apply s (.msix k x)).ll = s.ll ∧
    (Upd.apply s (.msix k x)).hst = s.hst ∧ (Upd.apply s (.msix k x)).msix = s.msix.set {} k x ∧
    (Upd.apply s (.msix k x)).boot = s.boot ∧ (Upd.apply s (.msix k x)).sh = s.sh ∧ (Upd.apply s (.msix k x)).mt = s.mt ∧
    (Upd.apply s (.msix k x)).ty = s.ty ∧ (Upd.apply s (.msix k x)).trim = s.trim ∧
    (Upd.apply s (.msix k x)).fences = s.fences ∧ (Upd.apply s (.msix k x)).out = s.out := 
  ⟨rfl, rfl, rfl, rfl, rfl, rfl, rfl, rfl, rfl, rfl, rfl, rfl, rfl, rfl, rfl, rfl,
    rfl, rfl, rfl, rfl, rfl, rfl, rfl, rfl, rfl, rfl, rfl, rfl, rfl, rfl, rfl,
    rfl⟩

/-- What the update `fence` leaves and what it sets. -/
@[simp] theorem apply_fence (s : State) (k v : Nat) :
    (Upd.apply s (.fence k v)).pending = s.pending ∧ (Upd.apply s (.fence k v)).now = s.now ∧
    (Upd.apply s (.fence k v)).freeCount = s.freeCount ∧ (Upd.apply s (.fence k v)).regs = s.regs ∧
    (Upd.apply s (.fence k v)).active = s.active ∧ (Upd.apply s (.fence k v)).predicted = s.predicted ∧
    (Upd.apply s (.fence k v)).latches = s.latches ∧ (Upd.apply s (.fence k v)).reply = s.reply ∧
    (Upd.apply s (.fence k v)).mem = s.mem ∧ (Upd.apply s (.fence k v)).poison = s.poison ∧
    (Upd.apply s (.fence k v)).flash = s.flash ∧ (Upd.apply s (.fence k v)).ys = s.ys ∧
    (Upd.apply s (.fence k v)).threads = s.threads ∧ (Upd.apply s (.fence k v)).cores = s.cores ∧
    (Upd.apply s (.fence k v)).fm = s.fm ∧ (Upd.apply s (.fence k v)).lg = s.lg ∧ (Upd.apply s (.fence k v)).ts = s.ts ∧
    (Upd.apply s (.fence k v)).dr = s.dr ∧ (Upd.apply s (.fence k v)).tb = s.tb ∧ (Upd.apply s (.fence k v)).tl = s.tl ∧
    (Upd.apply s (.fence k v)).td = s.td ∧ (Upd.apply s (.fence k v)).net = s.net ∧ (Upd.apply s (.fence k v)).ll = s.ll ∧
    (Upd.apply s (.fence k v)).hst = s.hst ∧ (Upd.apply s (.fence k v)).msix = s.msix ∧
    (Upd.apply s (.fence k v)).boot = s.boot ∧ (Upd.apply s (.fence k v)).sh = s.sh ∧
    (Upd.apply s (.fence k v)).mt = s.mt ∧ (Upd.apply s (.fence k v)).ty = s.ty ∧
    (Upd.apply s (.fence k v)).trim = s.trim ∧ (Upd.apply s (.fence k v)).fences = s.fences.set 0 k v ∧
    (Upd.apply s (.fence k v)).out = s.out := 
  ⟨rfl, rfl, rfl, rfl, rfl, rfl, rfl, rfl, rfl, rfl, rfl, rfl, rfl, rfl, rfl, rfl,
    rfl, rfl, rfl, rfl, rfl, rfl, rfl, rfl, rfl, rfl, rfl, rfl, rfl, rfl, rfl,
    rfl⟩

/-- What the update `clearFlash` leaves and what it sets. -/
@[simp] theorem apply_clearFlash (s : State) (lo hi : Nat) :
    (Upd.apply s (.clearFlash lo hi)).pending = s.pending ∧ (Upd.apply s (.clearFlash lo hi)).now = s.now ∧
    (Upd.apply s (.clearFlash lo hi)).freeCount = s.freeCount ∧ (Upd.apply s (.clearFlash lo hi)).regs = s.regs ∧
    (Upd.apply s (.clearFlash lo hi)).active = s.active ∧ (Upd.apply s (.clearFlash lo hi)).predicted = s.predicted ∧
    (Upd.apply s (.clearFlash lo hi)).latches = s.latches ∧ (Upd.apply s (.clearFlash lo hi)).reply = s.reply ∧
    (Upd.apply s (.clearFlash lo hi)).mem = s.mem ∧ (Upd.apply s (.clearFlash lo hi)).poison = s.poison ∧
    (Upd.apply s (.clearFlash lo hi)).ys = s.ys ∧ (Upd.apply s (.clearFlash lo hi)).threads = s.threads ∧
    (Upd.apply s (.clearFlash lo hi)).cores = s.cores ∧ (Upd.apply s (.clearFlash lo hi)).fm = s.fm ∧
    (Upd.apply s (.clearFlash lo hi)).lg = s.lg ∧ (Upd.apply s (.clearFlash lo hi)).ts = s.ts ∧
    (Upd.apply s (.clearFlash lo hi)).dr = s.dr ∧ (Upd.apply s (.clearFlash lo hi)).tb = s.tb ∧
    (Upd.apply s (.clearFlash lo hi)).tl = s.tl ∧ (Upd.apply s (.clearFlash lo hi)).td = s.td ∧
    (Upd.apply s (.clearFlash lo hi)).net = s.net ∧ (Upd.apply s (.clearFlash lo hi)).ll = s.ll ∧
    (Upd.apply s (.clearFlash lo hi)).hst = s.hst ∧ (Upd.apply s (.clearFlash lo hi)).msix = s.msix ∧
    (Upd.apply s (.clearFlash lo hi)).boot = s.boot ∧ (Upd.apply s (.clearFlash lo hi)).sh = s.sh ∧
    (Upd.apply s (.clearFlash lo hi)).mt = s.mt ∧ (Upd.apply s (.clearFlash lo hi)).ty = s.ty ∧
    (Upd.apply s (.clearFlash lo hi)).trim = s.trim ∧ (Upd.apply s (.clearFlash lo hi)).fences = s.fences ∧
    (Upd.apply s (.clearFlash lo hi)).out = s.out := 
  ⟨rfl, rfl, rfl, rfl, rfl, rfl, rfl, rfl, rfl, rfl, rfl, rfl, rfl, rfl, rfl, rfl,
    rfl, rfl, rfl, rfl, rfl, rfl, rfl, rfl, rfl, rfl, rfl, rfl, rfl, rfl, rfl⟩

/-- What the update `activate` leaves and what it sets. -/
@[simp] theorem apply_activate (s : State) (lo hi : Nat) :
    (Upd.apply s (.activate lo hi)).pending = s.pending ∧ (Upd.apply s (.activate lo hi)).now = s.now ∧
    (Upd.apply s (.activate lo hi)).freeCount = s.freeCount ∧ (Upd.apply s (.activate lo hi)).regs = s.regs ∧
    (Upd.apply s (.activate lo hi)).active = s.active.splice lo hi s.regs ∧
    (Upd.apply s (.activate lo hi)).predicted = s.predicted ∧ (Upd.apply s (.activate lo hi)).latches = s.latches ∧
    (Upd.apply s (.activate lo hi)).reply = s.reply ∧ (Upd.apply s (.activate lo hi)).mem = s.mem ∧
    (Upd.apply s (.activate lo hi)).poison = s.poison ∧ (Upd.apply s (.activate lo hi)).flash = s.flash ∧
    (Upd.apply s (.activate lo hi)).ys = s.ys ∧ (Upd.apply s (.activate lo hi)).threads = s.threads ∧
    (Upd.apply s (.activate lo hi)).cores = s.cores ∧ (Upd.apply s (.activate lo hi)).fm = s.fm ∧
    (Upd.apply s (.activate lo hi)).lg = s.lg ∧ (Upd.apply s (.activate lo hi)).ts = s.ts ∧
    (Upd.apply s (.activate lo hi)).dr = s.dr ∧ (Upd.apply s (.activate lo hi)).tb = s.tb ∧
    (Upd.apply s (.activate lo hi)).tl = s.tl ∧ (Upd.apply s (.activate lo hi)).td = s.td ∧
    (Upd.apply s (.activate lo hi)).net = s.net ∧ (Upd.apply s (.activate lo hi)).ll = s.ll ∧
    (Upd.apply s (.activate lo hi)).hst = s.hst ∧ (Upd.apply s (.activate lo hi)).msix = s.msix ∧
    (Upd.apply s (.activate lo hi)).boot = s.boot ∧ (Upd.apply s (.activate lo hi)).sh = s.sh ∧
    (Upd.apply s (.activate lo hi)).mt = s.mt ∧ (Upd.apply s (.activate lo hi)).ty = s.ty ∧
    (Upd.apply s (.activate lo hi)).trim = s.trim ∧ (Upd.apply s (.activate lo hi)).fences = s.fences ∧
    (Upd.apply s (.activate lo hi)).out = s.out := 
  ⟨rfl, rfl, rfl, rfl, rfl, rfl, rfl, rfl, rfl, rfl, rfl, rfl, rfl, rfl, rfl, rfl,
    rfl, rfl, rfl, rfl, rfl, rfl, rfl, rfl, rfl, rfl, rfl, rfl, rfl, rfl, rfl,
    rfl⟩

/-- What the update `predict` leaves and what it sets. -/
@[simp] theorem apply_predict (s : State) (lo hi : Nat) :
    (Upd.apply s (.predict lo hi)).pending = s.pending ∧ (Upd.apply s (.predict lo hi)).now = s.now ∧
    (Upd.apply s (.predict lo hi)).freeCount = s.freeCount ∧ (Upd.apply s (.predict lo hi)).regs = s.regs ∧
    (Upd.apply s (.predict lo hi)).active = s.active ∧
    (Upd.apply s (.predict lo hi)).predicted = s.predicted.splice lo hi s.regs ∧
    (Upd.apply s (.predict lo hi)).latches = s.latches ∧ (Upd.apply s (.predict lo hi)).reply = s.reply ∧
    (Upd.apply s (.predict lo hi)).mem = s.mem ∧ (Upd.apply s (.predict lo hi)).poison = s.poison ∧
    (Upd.apply s (.predict lo hi)).flash = s.flash ∧ (Upd.apply s (.predict lo hi)).ys = s.ys ∧
    (Upd.apply s (.predict lo hi)).threads = s.threads ∧ (Upd.apply s (.predict lo hi)).cores = s.cores ∧
    (Upd.apply s (.predict lo hi)).fm = s.fm ∧ (Upd.apply s (.predict lo hi)).lg = s.lg ∧
    (Upd.apply s (.predict lo hi)).ts = s.ts ∧ (Upd.apply s (.predict lo hi)).dr = s.dr ∧
    (Upd.apply s (.predict lo hi)).tb = s.tb ∧ (Upd.apply s (.predict lo hi)).tl = s.tl ∧
    (Upd.apply s (.predict lo hi)).td = s.td ∧ (Upd.apply s (.predict lo hi)).net = s.net ∧
    (Upd.apply s (.predict lo hi)).ll = s.ll ∧ (Upd.apply s (.predict lo hi)).hst = s.hst ∧
    (Upd.apply s (.predict lo hi)).msix = s.msix ∧ (Upd.apply s (.predict lo hi)).boot = s.boot ∧
    (Upd.apply s (.predict lo hi)).sh = s.sh ∧ (Upd.apply s (.predict lo hi)).mt = s.mt ∧
    (Upd.apply s (.predict lo hi)).ty = s.ty ∧ (Upd.apply s (.predict lo hi)).trim = s.trim ∧
    (Upd.apply s (.predict lo hi)).fences = s.fences ∧ (Upd.apply s (.predict lo hi)).out = s.out := 
  ⟨rfl, rfl, rfl, rfl, rfl, rfl, rfl, rfl, rfl, rfl, rfl, rfl, rfl, rfl, rfl, rfl,
    rfl, rfl, rfl, rfl, rfl, rfl, rfl, rfl, rfl, rfl, rfl, rfl, rfl, rfl, rfl,
    rfl⟩

/-- What the update `scan` leaves and what it sets. -/
@[simp] theorem apply_scan (s : State) (lo hi : Nat) :
    (Upd.apply s (.scan lo hi)).pending = s.pending ∧ (Upd.apply s (.scan lo hi)).now = s.now ∧
    (Upd.apply s (.scan lo hi)).freeCount = s.freeCount ∧ (Upd.apply s (.scan lo hi)).regs = s.regs ∧
    (Upd.apply s (.scan lo hi)).active = s.active.splice lo hi s.predicted ∧
    (Upd.apply s (.scan lo hi)).predicted = s.predicted ∧ (Upd.apply s (.scan lo hi)).latches = s.latches ∧
    (Upd.apply s (.scan lo hi)).reply = s.reply ∧ (Upd.apply s (.scan lo hi)).mem = s.mem ∧
    (Upd.apply s (.scan lo hi)).poison = s.poison ∧ (Upd.apply s (.scan lo hi)).flash = s.flash ∧
    (Upd.apply s (.scan lo hi)).ys = s.ys ∧ (Upd.apply s (.scan lo hi)).threads = s.threads ∧
    (Upd.apply s (.scan lo hi)).cores = s.cores ∧ (Upd.apply s (.scan lo hi)).fm = s.fm ∧
    (Upd.apply s (.scan lo hi)).lg = s.lg ∧ (Upd.apply s (.scan lo hi)).ts = s.ts ∧
    (Upd.apply s (.scan lo hi)).dr = s.dr ∧ (Upd.apply s (.scan lo hi)).tb = s.tb ∧
    (Upd.apply s (.scan lo hi)).tl = s.tl ∧ (Upd.apply s (.scan lo hi)).td = s.td ∧
    (Upd.apply s (.scan lo hi)).net = s.net ∧ (Upd.apply s (.scan lo hi)).ll = s.ll ∧
    (Upd.apply s (.scan lo hi)).hst = s.hst ∧ (Upd.apply s (.scan lo hi)).msix = s.msix ∧
    (Upd.apply s (.scan lo hi)).boot = s.boot ∧ (Upd.apply s (.scan lo hi)).sh = s.sh ∧
    (Upd.apply s (.scan lo hi)).mt = s.mt ∧ (Upd.apply s (.scan lo hi)).ty = s.ty ∧
    (Upd.apply s (.scan lo hi)).trim = s.trim ∧ (Upd.apply s (.scan lo hi)).fences = s.fences ∧
    (Upd.apply s (.scan lo hi)).out = s.out := 
  ⟨rfl, rfl, rfl, rfl, rfl, rfl, rfl, rfl, rfl, rfl, rfl, rfl, rfl, rfl, rfl, rfl,
    rfl, rfl, rfl, rfl, rfl, rfl, rfl, rfl, rfl, rfl, rfl, rfl, rfl, rfl, rfl,
    rfl⟩

/-- What the update `dr` leaves and what it sets. -/
@[simp] theorem apply_dr (s : State) (x : Dr) :
    (Upd.apply s (.dr x)).pending = s.pending ∧ (Upd.apply s (.dr x)).now = s.now ∧
    (Upd.apply s (.dr x)).freeCount = s.freeCount ∧ (Upd.apply s (.dr x)).regs = s.regs ∧
    (Upd.apply s (.dr x)).active = s.active ∧ (Upd.apply s (.dr x)).predicted = s.predicted ∧
    (Upd.apply s (.dr x)).latches = s.latches ∧ (Upd.apply s (.dr x)).reply = s.reply ∧
    (Upd.apply s (.dr x)).mem = s.mem ∧ (Upd.apply s (.dr x)).poison = s.poison ∧ (Upd.apply s (.dr x)).flash = s.flash ∧
    (Upd.apply s (.dr x)).ys = s.ys ∧ (Upd.apply s (.dr x)).threads = s.threads ∧ (Upd.apply s (.dr x)).cores = s.cores ∧
    (Upd.apply s (.dr x)).fm = s.fm ∧ (Upd.apply s (.dr x)).lg = s.lg ∧ (Upd.apply s (.dr x)).ts = s.ts ∧
    (Upd.apply s (.dr x)).dr = x ∧ (Upd.apply s (.dr x)).tb = s.tb ∧ (Upd.apply s (.dr x)).tl = s.tl ∧
    (Upd.apply s (.dr x)).td = s.td ∧ (Upd.apply s (.dr x)).net = s.net ∧ (Upd.apply s (.dr x)).ll = s.ll ∧
    (Upd.apply s (.dr x)).hst = s.hst ∧ (Upd.apply s (.dr x)).msix = s.msix ∧ (Upd.apply s (.dr x)).boot = s.boot ∧
    (Upd.apply s (.dr x)).sh = s.sh ∧ (Upd.apply s (.dr x)).mt = s.mt ∧ (Upd.apply s (.dr x)).ty = s.ty ∧
    (Upd.apply s (.dr x)).trim = s.trim ∧ (Upd.apply s (.dr x)).fences = s.fences ∧ (Upd.apply s (.dr x)).out = s.out := 
  ⟨rfl, rfl, rfl, rfl, rfl, rfl, rfl, rfl, rfl, rfl, rfl, rfl, rfl, rfl, rfl, rfl,
    rfl, rfl, rfl, rfl, rfl, rfl, rfl, rfl, rfl, rfl, rfl, rfl, rfl, rfl, rfl,
    rfl⟩

/-- What the update `tb` leaves and what it sets. -/
@[simp] theorem apply_tb (s : State) (x : Tb) :
    (Upd.apply s (.tb x)).pending = s.pending ∧ (Upd.apply s (.tb x)).now = s.now ∧
    (Upd.apply s (.tb x)).freeCount = s.freeCount ∧ (Upd.apply s (.tb x)).regs = s.regs ∧
    (Upd.apply s (.tb x)).active = s.active ∧ (Upd.apply s (.tb x)).predicted = s.predicted ∧
    (Upd.apply s (.tb x)).latches = s.latches ∧ (Upd.apply s (.tb x)).reply = s.reply ∧
    (Upd.apply s (.tb x)).mem = s.mem ∧ (Upd.apply s (.tb x)).poison = s.poison ∧ (Upd.apply s (.tb x)).flash = s.flash ∧
    (Upd.apply s (.tb x)).ys = s.ys ∧ (Upd.apply s (.tb x)).threads = s.threads ∧ (Upd.apply s (.tb x)).cores = s.cores ∧
    (Upd.apply s (.tb x)).fm = s.fm ∧ (Upd.apply s (.tb x)).lg = s.lg ∧ (Upd.apply s (.tb x)).ts = s.ts ∧
    (Upd.apply s (.tb x)).dr = s.dr ∧ (Upd.apply s (.tb x)).tb = x ∧ (Upd.apply s (.tb x)).tl = s.tl ∧
    (Upd.apply s (.tb x)).td = s.td ∧ (Upd.apply s (.tb x)).net = s.net ∧ (Upd.apply s (.tb x)).ll = s.ll ∧
    (Upd.apply s (.tb x)).hst = s.hst ∧ (Upd.apply s (.tb x)).msix = s.msix ∧ (Upd.apply s (.tb x)).boot = s.boot ∧
    (Upd.apply s (.tb x)).sh = s.sh ∧ (Upd.apply s (.tb x)).mt = s.mt ∧ (Upd.apply s (.tb x)).ty = s.ty ∧
    (Upd.apply s (.tb x)).trim = s.trim ∧ (Upd.apply s (.tb x)).fences = s.fences ∧ (Upd.apply s (.tb x)).out = s.out := 
  ⟨rfl, rfl, rfl, rfl, rfl, rfl, rfl, rfl, rfl, rfl, rfl, rfl, rfl, rfl, rfl, rfl,
    rfl, rfl, rfl, rfl, rfl, rfl, rfl, rfl, rfl, rfl, rfl, rfl, rfl, rfl, rfl,
    rfl⟩

/-- What the update `tl` leaves and what it sets. -/
@[simp] theorem apply_tl (s : State) (x : Tl) :
    (Upd.apply s (.tl x)).pending = s.pending ∧ (Upd.apply s (.tl x)).now = s.now ∧
    (Upd.apply s (.tl x)).freeCount = s.freeCount ∧ (Upd.apply s (.tl x)).regs = s.regs ∧
    (Upd.apply s (.tl x)).active = s.active ∧ (Upd.apply s (.tl x)).predicted = s.predicted ∧
    (Upd.apply s (.tl x)).latches = s.latches ∧ (Upd.apply s (.tl x)).reply = s.reply ∧
    (Upd.apply s (.tl x)).mem = s.mem ∧ (Upd.apply s (.tl x)).poison = s.poison ∧ (Upd.apply s (.tl x)).flash = s.flash ∧
    (Upd.apply s (.tl x)).ys = s.ys ∧ (Upd.apply s (.tl x)).threads = s.threads ∧ (Upd.apply s (.tl x)).cores = s.cores ∧
    (Upd.apply s (.tl x)).fm = s.fm ∧ (Upd.apply s (.tl x)).lg = s.lg ∧ (Upd.apply s (.tl x)).ts = s.ts ∧
    (Upd.apply s (.tl x)).dr = s.dr ∧ (Upd.apply s (.tl x)).tb = s.tb ∧ (Upd.apply s (.tl x)).tl = x ∧
    (Upd.apply s (.tl x)).td = s.td ∧ (Upd.apply s (.tl x)).net = s.net ∧ (Upd.apply s (.tl x)).ll = s.ll ∧
    (Upd.apply s (.tl x)).hst = s.hst ∧ (Upd.apply s (.tl x)).msix = s.msix ∧ (Upd.apply s (.tl x)).boot = s.boot ∧
    (Upd.apply s (.tl x)).sh = s.sh ∧ (Upd.apply s (.tl x)).mt = s.mt ∧ (Upd.apply s (.tl x)).ty = s.ty ∧
    (Upd.apply s (.tl x)).trim = s.trim ∧ (Upd.apply s (.tl x)).fences = s.fences ∧ (Upd.apply s (.tl x)).out = s.out := 
  ⟨rfl, rfl, rfl, rfl, rfl, rfl, rfl, rfl, rfl, rfl, rfl, rfl, rfl, rfl, rfl, rfl,
    rfl, rfl, rfl, rfl, rfl, rfl, rfl, rfl, rfl, rfl, rfl, rfl, rfl, rfl, rfl,
    rfl⟩

/-- What the update `td` leaves and what it sets. -/
@[simp] theorem apply_td (s : State) (x : Td) :
    (Upd.apply s (.td x)).pending = s.pending ∧ (Upd.apply s (.td x)).now = s.now ∧
    (Upd.apply s (.td x)).freeCount = s.freeCount ∧ (Upd.apply s (.td x)).regs = s.regs ∧
    (Upd.apply s (.td x)).active = s.active ∧ (Upd.apply s (.td x)).predicted = s.predicted ∧
    (Upd.apply s (.td x)).latches = s.latches ∧ (Upd.apply s (.td x)).reply = s.reply ∧
    (Upd.apply s (.td x)).mem = s.mem ∧ (Upd.apply s (.td x)).poison = s.poison ∧ (Upd.apply s (.td x)).flash = s.flash ∧
    (Upd.apply s (.td x)).ys = s.ys ∧ (Upd.apply s (.td x)).threads = s.threads ∧ (Upd.apply s (.td x)).cores = s.cores ∧
    (Upd.apply s (.td x)).fm = s.fm ∧ (Upd.apply s (.td x)).lg = s.lg ∧ (Upd.apply s (.td x)).ts = s.ts ∧
    (Upd.apply s (.td x)).dr = s.dr ∧ (Upd.apply s (.td x)).tb = s.tb ∧ (Upd.apply s (.td x)).tl = s.tl ∧
    (Upd.apply s (.td x)).td = x ∧ (Upd.apply s (.td x)).net = s.net ∧ (Upd.apply s (.td x)).ll = s.ll ∧
    (Upd.apply s (.td x)).hst = s.hst ∧ (Upd.apply s (.td x)).msix = s.msix ∧ (Upd.apply s (.td x)).boot = s.boot ∧
    (Upd.apply s (.td x)).sh = s.sh ∧ (Upd.apply s (.td x)).mt = s.mt ∧ (Upd.apply s (.td x)).ty = s.ty ∧
    (Upd.apply s (.td x)).trim = s.trim ∧ (Upd.apply s (.td x)).fences = s.fences ∧ (Upd.apply s (.td x)).out = s.out := 
  ⟨rfl, rfl, rfl, rfl, rfl, rfl, rfl, rfl, rfl, rfl, rfl, rfl, rfl, rfl, rfl, rfl,
    rfl, rfl, rfl, rfl, rfl, rfl, rfl, rfl, rfl, rfl, rfl, rfl, rfl, rfl, rfl,
    rfl⟩

/-- What the update `net` leaves and what it sets. -/
@[simp] theorem apply_net (s : State) (x : Net) :
    (Upd.apply s (.net x)).pending = s.pending ∧ (Upd.apply s (.net x)).now = s.now ∧
    (Upd.apply s (.net x)).freeCount = s.freeCount ∧ (Upd.apply s (.net x)).regs = s.regs ∧
    (Upd.apply s (.net x)).active = s.active ∧ (Upd.apply s (.net x)).predicted = s.predicted ∧
    (Upd.apply s (.net x)).latches = s.latches ∧ (Upd.apply s (.net x)).reply = s.reply ∧
    (Upd.apply s (.net x)).mem = s.mem ∧ (Upd.apply s (.net x)).poison = s.poison ∧
    (Upd.apply s (.net x)).flash = s.flash ∧ (Upd.apply s (.net x)).ys = s.ys ∧
    (Upd.apply s (.net x)).threads = s.threads ∧ (Upd.apply s (.net x)).cores = s.cores ∧
    (Upd.apply s (.net x)).fm = s.fm ∧ (Upd.apply s (.net x)).lg = s.lg ∧ (Upd.apply s (.net x)).ts = s.ts ∧
    (Upd.apply s (.net x)).dr = s.dr ∧ (Upd.apply s (.net x)).tb = s.tb ∧ (Upd.apply s (.net x)).tl = s.tl ∧
    (Upd.apply s (.net x)).td = s.td ∧ (Upd.apply s (.net x)).net = x ∧ (Upd.apply s (.net x)).ll = s.ll ∧
    (Upd.apply s (.net x)).hst = s.hst ∧ (Upd.apply s (.net x)).msix = s.msix ∧ (Upd.apply s (.net x)).boot = s.boot ∧
    (Upd.apply s (.net x)).sh = s.sh ∧ (Upd.apply s (.net x)).mt = s.mt ∧ (Upd.apply s (.net x)).ty = s.ty ∧
    (Upd.apply s (.net x)).trim = s.trim ∧ (Upd.apply s (.net x)).fences = s.fences ∧
    (Upd.apply s (.net x)).out = s.out := 
  ⟨rfl, rfl, rfl, rfl, rfl, rfl, rfl, rfl, rfl, rfl, rfl, rfl, rfl, rfl, rfl, rfl,
    rfl, rfl, rfl, rfl, rfl, rfl, rfl, rfl, rfl, rfl, rfl, rfl, rfl, rfl, rfl,
    rfl⟩

/-- What the update `ll` leaves and what it sets. -/
@[simp] theorem apply_ll (s : State) (x : Ll) :
    (Upd.apply s (.ll x)).pending = s.pending ∧ (Upd.apply s (.ll x)).now = s.now ∧
    (Upd.apply s (.ll x)).freeCount = s.freeCount ∧ (Upd.apply s (.ll x)).regs = s.regs ∧
    (Upd.apply s (.ll x)).active = s.active ∧ (Upd.apply s (.ll x)).predicted = s.predicted ∧
    (Upd.apply s (.ll x)).latches = s.latches ∧ (Upd.apply s (.ll x)).reply = s.reply ∧
    (Upd.apply s (.ll x)).mem = s.mem ∧ (Upd.apply s (.ll x)).poison = s.poison ∧ (Upd.apply s (.ll x)).flash = s.flash ∧
    (Upd.apply s (.ll x)).ys = s.ys ∧ (Upd.apply s (.ll x)).threads = s.threads ∧ (Upd.apply s (.ll x)).cores = s.cores ∧
    (Upd.apply s (.ll x)).fm = s.fm ∧ (Upd.apply s (.ll x)).lg = s.lg ∧ (Upd.apply s (.ll x)).ts = s.ts ∧
    (Upd.apply s (.ll x)).dr = s.dr ∧ (Upd.apply s (.ll x)).tb = s.tb ∧ (Upd.apply s (.ll x)).tl = s.tl ∧
    (Upd.apply s (.ll x)).td = s.td ∧ (Upd.apply s (.ll x)).net = s.net ∧ (Upd.apply s (.ll x)).ll = x ∧
    (Upd.apply s (.ll x)).hst = s.hst ∧ (Upd.apply s (.ll x)).msix = s.msix ∧ (Upd.apply s (.ll x)).boot = s.boot ∧
    (Upd.apply s (.ll x)).sh = s.sh ∧ (Upd.apply s (.ll x)).mt = s.mt ∧ (Upd.apply s (.ll x)).ty = s.ty ∧
    (Upd.apply s (.ll x)).trim = s.trim ∧ (Upd.apply s (.ll x)).fences = s.fences ∧ (Upd.apply s (.ll x)).out = s.out := 
  ⟨rfl, rfl, rfl, rfl, rfl, rfl, rfl, rfl, rfl, rfl, rfl, rfl, rfl, rfl, rfl, rfl,
    rfl, rfl, rfl, rfl, rfl, rfl, rfl, rfl, rfl, rfl, rfl, rfl, rfl, rfl, rfl,
    rfl⟩

/-- What the update `hst` leaves and what it sets. -/
@[simp] theorem apply_hst (s : State) (x : Hst) :
    (Upd.apply s (.hst x)).pending = s.pending ∧ (Upd.apply s (.hst x)).now = s.now ∧
    (Upd.apply s (.hst x)).freeCount = s.freeCount ∧ (Upd.apply s (.hst x)).regs = s.regs ∧
    (Upd.apply s (.hst x)).active = s.active ∧ (Upd.apply s (.hst x)).predicted = s.predicted ∧
    (Upd.apply s (.hst x)).latches = s.latches ∧ (Upd.apply s (.hst x)).reply = s.reply ∧
    (Upd.apply s (.hst x)).mem = s.mem ∧ (Upd.apply s (.hst x)).poison = s.poison ∧
    (Upd.apply s (.hst x)).flash = s.flash ∧ (Upd.apply s (.hst x)).ys = s.ys ∧
    (Upd.apply s (.hst x)).threads = s.threads ∧ (Upd.apply s (.hst x)).cores = s.cores ∧
    (Upd.apply s (.hst x)).fm = s.fm ∧ (Upd.apply s (.hst x)).lg = s.lg ∧ (Upd.apply s (.hst x)).ts = s.ts ∧
    (Upd.apply s (.hst x)).dr = s.dr ∧ (Upd.apply s (.hst x)).tb = s.tb ∧ (Upd.apply s (.hst x)).tl = s.tl ∧
    (Upd.apply s (.hst x)).td = s.td ∧ (Upd.apply s (.hst x)).net = s.net ∧ (Upd.apply s (.hst x)).ll = s.ll ∧
    (Upd.apply s (.hst x)).hst = x ∧ (Upd.apply s (.hst x)).msix = s.msix ∧ (Upd.apply s (.hst x)).boot = s.boot ∧
    (Upd.apply s (.hst x)).sh = s.sh ∧ (Upd.apply s (.hst x)).mt = s.mt ∧ (Upd.apply s (.hst x)).ty = s.ty ∧
    (Upd.apply s (.hst x)).trim = s.trim ∧ (Upd.apply s (.hst x)).fences = s.fences ∧
    (Upd.apply s (.hst x)).out = s.out := 
  ⟨rfl, rfl, rfl, rfl, rfl, rfl, rfl, rfl, rfl, rfl, rfl, rfl, rfl, rfl, rfl, rfl,
    rfl, rfl, rfl, rfl, rfl, rfl, rfl, rfl, rfl, rfl, rfl, rfl, rfl, rfl, rfl,
    rfl⟩

/-- What the update `boot` leaves and what it sets. -/
@[simp] theorem apply_boot (s : State) (x : Boot) :
    (Upd.apply s (.boot x)).pending = s.pending ∧ (Upd.apply s (.boot x)).now = s.now ∧
    (Upd.apply s (.boot x)).freeCount = s.freeCount ∧ (Upd.apply s (.boot x)).regs = s.regs ∧
    (Upd.apply s (.boot x)).active = s.active ∧ (Upd.apply s (.boot x)).predicted = s.predicted ∧
    (Upd.apply s (.boot x)).latches = s.latches ∧ (Upd.apply s (.boot x)).reply = s.reply ∧
    (Upd.apply s (.boot x)).mem = s.mem ∧ (Upd.apply s (.boot x)).poison = s.poison ∧
    (Upd.apply s (.boot x)).flash = s.flash ∧ (Upd.apply s (.boot x)).ys = s.ys ∧
    (Upd.apply s (.boot x)).threads = s.threads ∧ (Upd.apply s (.boot x)).cores = s.cores ∧
    (Upd.apply s (.boot x)).fm = s.fm ∧ (Upd.apply s (.boot x)).lg = s.lg ∧ (Upd.apply s (.boot x)).ts = s.ts ∧
    (Upd.apply s (.boot x)).dr = s.dr ∧ (Upd.apply s (.boot x)).tb = s.tb ∧ (Upd.apply s (.boot x)).tl = s.tl ∧
    (Upd.apply s (.boot x)).td = s.td ∧ (Upd.apply s (.boot x)).net = s.net ∧ (Upd.apply s (.boot x)).ll = s.ll ∧
    (Upd.apply s (.boot x)).hst = s.hst ∧ (Upd.apply s (.boot x)).msix = s.msix ∧ (Upd.apply s (.boot x)).boot = x ∧
    (Upd.apply s (.boot x)).sh = s.sh ∧ (Upd.apply s (.boot x)).mt = s.mt ∧ (Upd.apply s (.boot x)).ty = s.ty ∧
    (Upd.apply s (.boot x)).trim = s.trim ∧ (Upd.apply s (.boot x)).fences = s.fences ∧
    (Upd.apply s (.boot x)).out = s.out := 
  ⟨rfl, rfl, rfl, rfl, rfl, rfl, rfl, rfl, rfl, rfl, rfl, rfl, rfl, rfl, rfl, rfl,
    rfl, rfl, rfl, rfl, rfl, rfl, rfl, rfl, rfl, rfl, rfl, rfl, rfl, rfl, rfl,
    rfl⟩

/-- What the update `sh` leaves and what it sets. -/
@[simp] theorem apply_sh (s : State) (x : Sh) :
    (Upd.apply s (.sh x)).pending = s.pending ∧ (Upd.apply s (.sh x)).now = s.now ∧
    (Upd.apply s (.sh x)).freeCount = s.freeCount ∧ (Upd.apply s (.sh x)).regs = s.regs ∧
    (Upd.apply s (.sh x)).active = s.active ∧ (Upd.apply s (.sh x)).predicted = s.predicted ∧
    (Upd.apply s (.sh x)).latches = s.latches ∧ (Upd.apply s (.sh x)).reply = s.reply ∧
    (Upd.apply s (.sh x)).mem = s.mem ∧ (Upd.apply s (.sh x)).poison = s.poison ∧ (Upd.apply s (.sh x)).flash = s.flash ∧
    (Upd.apply s (.sh x)).ys = s.ys ∧ (Upd.apply s (.sh x)).threads = s.threads ∧ (Upd.apply s (.sh x)).cores = s.cores ∧
    (Upd.apply s (.sh x)).fm = s.fm ∧ (Upd.apply s (.sh x)).lg = s.lg ∧ (Upd.apply s (.sh x)).ts = s.ts ∧
    (Upd.apply s (.sh x)).dr = s.dr ∧ (Upd.apply s (.sh x)).tb = s.tb ∧ (Upd.apply s (.sh x)).tl = s.tl ∧
    (Upd.apply s (.sh x)).td = s.td ∧ (Upd.apply s (.sh x)).net = s.net ∧ (Upd.apply s (.sh x)).ll = s.ll ∧
    (Upd.apply s (.sh x)).hst = s.hst ∧ (Upd.apply s (.sh x)).msix = s.msix ∧ (Upd.apply s (.sh x)).boot = s.boot ∧
    (Upd.apply s (.sh x)).sh = x ∧ (Upd.apply s (.sh x)).mt = s.mt ∧ (Upd.apply s (.sh x)).ty = s.ty ∧
    (Upd.apply s (.sh x)).trim = s.trim ∧ (Upd.apply s (.sh x)).fences = s.fences ∧ (Upd.apply s (.sh x)).out = s.out := 
  ⟨rfl, rfl, rfl, rfl, rfl, rfl, rfl, rfl, rfl, rfl, rfl, rfl, rfl, rfl, rfl, rfl,
    rfl, rfl, rfl, rfl, rfl, rfl, rfl, rfl, rfl, rfl, rfl, rfl, rfl, rfl, rfl,
    rfl⟩

/-- What the update `mt` leaves and what it sets. -/
@[simp] theorem apply_mt (s : State) (x : Mt) :
    (Upd.apply s (.mt x)).pending = s.pending ∧ (Upd.apply s (.mt x)).now = s.now ∧
    (Upd.apply s (.mt x)).freeCount = s.freeCount ∧ (Upd.apply s (.mt x)).regs = s.regs ∧
    (Upd.apply s (.mt x)).active = s.active ∧ (Upd.apply s (.mt x)).predicted = s.predicted ∧
    (Upd.apply s (.mt x)).latches = s.latches ∧ (Upd.apply s (.mt x)).reply = s.reply ∧
    (Upd.apply s (.mt x)).mem = s.mem ∧ (Upd.apply s (.mt x)).poison = s.poison ∧ (Upd.apply s (.mt x)).flash = s.flash ∧
    (Upd.apply s (.mt x)).ys = s.ys ∧ (Upd.apply s (.mt x)).threads = s.threads ∧ (Upd.apply s (.mt x)).cores = s.cores ∧
    (Upd.apply s (.mt x)).fm = s.fm ∧ (Upd.apply s (.mt x)).lg = s.lg ∧ (Upd.apply s (.mt x)).ts = s.ts ∧
    (Upd.apply s (.mt x)).dr = s.dr ∧ (Upd.apply s (.mt x)).tb = s.tb ∧ (Upd.apply s (.mt x)).tl = s.tl ∧
    (Upd.apply s (.mt x)).td = s.td ∧ (Upd.apply s (.mt x)).net = s.net ∧ (Upd.apply s (.mt x)).ll = s.ll ∧
    (Upd.apply s (.mt x)).hst = s.hst ∧ (Upd.apply s (.mt x)).msix = s.msix ∧ (Upd.apply s (.mt x)).boot = s.boot ∧
    (Upd.apply s (.mt x)).sh = s.sh ∧ (Upd.apply s (.mt x)).mt = x ∧ (Upd.apply s (.mt x)).ty = s.ty ∧
    (Upd.apply s (.mt x)).trim = s.trim ∧ (Upd.apply s (.mt x)).fences = s.fences ∧ (Upd.apply s (.mt x)).out = s.out := 
  ⟨rfl, rfl, rfl, rfl, rfl, rfl, rfl, rfl, rfl, rfl, rfl, rfl, rfl, rfl, rfl, rfl,
    rfl, rfl, rfl, rfl, rfl, rfl, rfl, rfl, rfl, rfl, rfl, rfl, rfl, rfl, rfl,
    rfl⟩

/-- What the update `ty` leaves and what it sets. -/
@[simp] theorem apply_ty (s : State) (x : Ty) :
    (Upd.apply s (.ty x)).pending = s.pending ∧ (Upd.apply s (.ty x)).now = s.now ∧
    (Upd.apply s (.ty x)).freeCount = s.freeCount ∧ (Upd.apply s (.ty x)).regs = s.regs ∧
    (Upd.apply s (.ty x)).active = s.active ∧ (Upd.apply s (.ty x)).predicted = s.predicted ∧
    (Upd.apply s (.ty x)).latches = s.latches ∧ (Upd.apply s (.ty x)).reply = s.reply ∧
    (Upd.apply s (.ty x)).mem = s.mem ∧ (Upd.apply s (.ty x)).poison = s.poison ∧ (Upd.apply s (.ty x)).flash = s.flash ∧
    (Upd.apply s (.ty x)).ys = s.ys ∧ (Upd.apply s (.ty x)).threads = s.threads ∧ (Upd.apply s (.ty x)).cores = s.cores ∧
    (Upd.apply s (.ty x)).fm = s.fm ∧ (Upd.apply s (.ty x)).lg = s.lg ∧ (Upd.apply s (.ty x)).ts = s.ts ∧
    (Upd.apply s (.ty x)).dr = s.dr ∧ (Upd.apply s (.ty x)).tb = s.tb ∧ (Upd.apply s (.ty x)).tl = s.tl ∧
    (Upd.apply s (.ty x)).td = s.td ∧ (Upd.apply s (.ty x)).net = s.net ∧ (Upd.apply s (.ty x)).ll = s.ll ∧
    (Upd.apply s (.ty x)).hst = s.hst ∧ (Upd.apply s (.ty x)).msix = s.msix ∧ (Upd.apply s (.ty x)).boot = s.boot ∧
    (Upd.apply s (.ty x)).sh = s.sh ∧ (Upd.apply s (.ty x)).mt = s.mt ∧ (Upd.apply s (.ty x)).ty = x ∧
    (Upd.apply s (.ty x)).trim = s.trim ∧ (Upd.apply s (.ty x)).fences = s.fences ∧ (Upd.apply s (.ty x)).out = s.out := 
  ⟨rfl, rfl, rfl, rfl, rfl, rfl, rfl, rfl, rfl, rfl, rfl, rfl, rfl, rfl, rfl, rfl,
    rfl, rfl, rfl, rfl, rfl, rfl, rfl, rfl, rfl, rfl, rfl, rfl, rfl, rfl, rfl,
    rfl⟩

/-- What the update `trim` leaves and what it sets. -/
@[simp] theorem apply_trim (s : State) (x : Option TrimRun) :
    (Upd.apply s (.trim x)).pending = s.pending ∧ (Upd.apply s (.trim x)).now = s.now ∧
    (Upd.apply s (.trim x)).freeCount = s.freeCount ∧ (Upd.apply s (.trim x)).regs = s.regs ∧
    (Upd.apply s (.trim x)).active = s.active ∧ (Upd.apply s (.trim x)).predicted = s.predicted ∧
    (Upd.apply s (.trim x)).latches = s.latches ∧ (Upd.apply s (.trim x)).reply = s.reply ∧
    (Upd.apply s (.trim x)).mem = s.mem ∧ (Upd.apply s (.trim x)).poison = s.poison ∧
    (Upd.apply s (.trim x)).flash = s.flash ∧ (Upd.apply s (.trim x)).ys = s.ys ∧
    (Upd.apply s (.trim x)).threads = s.threads ∧ (Upd.apply s (.trim x)).cores = s.cores ∧
    (Upd.apply s (.trim x)).fm = s.fm ∧ (Upd.apply s (.trim x)).lg = s.lg ∧ (Upd.apply s (.trim x)).ts = s.ts ∧
    (Upd.apply s (.trim x)).dr = s.dr ∧ (Upd.apply s (.trim x)).tb = s.tb ∧ (Upd.apply s (.trim x)).tl = s.tl ∧
    (Upd.apply s (.trim x)).td = s.td ∧ (Upd.apply s (.trim x)).net = s.net ∧ (Upd.apply s (.trim x)).ll = s.ll ∧
    (Upd.apply s (.trim x)).hst = s.hst ∧ (Upd.apply s (.trim x)).msix = s.msix ∧ (Upd.apply s (.trim x)).boot = s.boot ∧
    (Upd.apply s (.trim x)).sh = s.sh ∧ (Upd.apply s (.trim x)).mt = s.mt ∧ (Upd.apply s (.trim x)).ty = s.ty ∧
    (Upd.apply s (.trim x)).trim = x ∧ (Upd.apply s (.trim x)).fences = s.fences ∧ (Upd.apply s (.trim x)).out = s.out := 
  ⟨rfl, rfl, rfl, rfl, rfl, rfl, rfl, rfl, rfl, rfl, rfl, rfl, rfl, rfl, rfl, rfl,
    rfl, rfl, rfl, rfl, rfl, rfl, rfl, rfl, rfl, rfl, rfl, rfl, rfl, rfl, rfl,
    rfl⟩

end Sys2Proof.Machine
end

