-- ==== Sys2Proof/Laws/Ops.lean ====
section
/-!
SUPPORT. What running an action does: the actions that put others together, what one field of a register reads as after
another is written, and how to show that an action keeps a part of the state.
-/

namespace Sys2Proof.Machine

/-! ## Running actions -/

@[simp] theorem applyAll_nil (s : State) : applyAll [] s = s := rfl
@[simp] theorem applyAll_cons (u : Upd) (us : List Upd) (s : State) : applyAll (u :: us) s = applyAll us (u.apply s) := rfl

theorem applyAll_append (us vs : List Upd) (s : State) : applyAll (us ++ vs) s = applyAll vs (applyAll us s) := by
  induction us generalizing s with
  | nil => rfl
  | cons u us ih => simp [ih]

@[simp] theorem run_skip (s : State) : Act.run skip s = s := rfl
@[simp] theorem run_acts_nil (s : State) : (acts []).run s = s := rfl
@[simp] theorem run_acts_cons (a : Act) (as : List Act) (s : State) : (acts (a :: as)).run s = (acts as).run (a.run s) := by
  simp [Act.run, acts, applyAll_append]
@[simp] theorem run_withS (f : State → Act) (s : State) : (withS f).run s = (f s).run s := rfl
@[simp] theorem run_whenDo (c : Bool) (a : Act) (s : State) : (whenDo c a).run s = if c then a.run s else s := by
  cases c <;> rfl
@[simp] theorem run_list (us : List Upd) (s : State) : Act.run (fun _ => us) s = applyAll us s := rfl
theorem run_fun (f : State → List Upd) (s : State) : Act.run (fun t => f t) s = applyAll (f s) s := rfl
theorem forN_eq (n : Nat) (f : Nat → Act) : forN n f = forEach (List.range n) f := rfl
@[simp] theorem run_forEach_nil {α : Type} (f : α → Act) (s : State) : (forEach [] f).run s = s := rfl
@[simp] theorem run_forEach_cons {α : Type} (x : α) (l : List α) (f : α → Act) (s : State) :
    (forEach (x :: l) f).run s = (forEach l f).run ((f x).run s) := by
  simp [forEach]
@[simp] theorem run_ite (p : Prop) [Decidable p] (a b : Act) (s : State) :
    Act.run (if p then a else b) s = if p then a.run s else b.run s := by split <;> rfl

/-- What holds before a loop and is kept by each of its turns holds after it. -/
theorem run_forEach_induct {α : Type} {P : State → Prop} (l : List α) (f : α → Act) (s : State) (h0 : P s)
    (h : ∀ x ∈ l, ∀ t, P t → P ((f x).run t)) : P ((forEach l f).run s) := by
  induction l generalizing s with
  | nil => exact h0
  | cons x l ih =>
    rw [run_forEach_cons]
    exact ih _ (h x (by simp) s h0) fun y hy => h y (by simp [hy])

/-! ## Basic actions as updates -/

@[simp] theorem run_wr (f : Fld) (n : Nat) (s : State) : (wr f n).run s = Upd.apply s (.reg f.addr f.reset (f.put (regOf s.regs f) n)) := rfl
@[simp] theorem run_wrA (f : Fld) (n : Nat) (s : State) : (wrA f n).run s = Upd.apply s (.active f.addr f.reset (f.put (regOf s.active f) n)) := rfl
@[simp] theorem run_apply1 (f : Fld) (s : State) : (apply1 f).run s = Upd.apply s (.active f.addr f.reset (regOf s.regs f)) := rfl
@[simp] theorem run_result (f : Fld) (st : Status) (s : State) : (result f st).run s = (wr f st.code).run s := rfl
@[simp] theorem run_count (f : Fld) (n : Nat) (s : State) : (count f n).run s = (wr f (satAdd (2 ^ f.width - 1) (s.rd f) n)).run s := rfl
@[simp] theorem run_bump (f : Fld) (n : Nat) (s : State) : (bump f n).run s = (wr f (s.rd f + n)).run s := rfl
@[simp] theorem run_wrPair (lo hi : Fld) (n : Nat) (s : State) : (wrPair lo hi n).run s = (wr hi (n / 2 ^ 32)).run ((wr lo n).run s) := by
  simp [wrPair]
@[simp] theorem run_updYs (f : Ys → Ys) (s : State) : (updYs f).run s = Upd.apply s (.ys (f s.ys)) := rfl
@[simp] theorem run_updFm (f : Fm → Fm) (s : State) : (updFm f).run s = Upd.apply s (.fm (f s.fm)) := rfl
@[simp] theorem run_updLg (f : Lg → Lg) (s : State) : (updLg f).run s = Upd.apply s (.lg (f s.lg)) := rfl
@[simp] theorem run_updTs (f : Ts → Ts) (s : State) : (updTs f).run s = Upd.apply s (.ts (f s.ts)) := rfl
@[simp] theorem run_updDr (f : Dr → Dr) (s : State) : (updDr f).run s = Upd.apply s (.dr (f s.dr)) := rfl
@[simp] theorem run_updTl (f : Tl → Tl) (s : State) : (updTl f).run s = Upd.apply s (.tl (f s.tl)) := rfl
@[simp] theorem run_updTd (f : Td → Td) (s : State) : (updTd f).run s = Upd.apply s (.td (f s.td)) := rfl
@[simp] theorem run_updNet (f : Net → Net) (s : State) : (updNet f).run s = Upd.apply s (.net (f s.net)) := rfl
@[simp] theorem run_updLl (f : Ll → Ll) (s : State) : (updLl f).run s = Upd.apply s (.ll (f s.ll)) := rfl
@[simp] theorem run_updSh (f : Sh → Sh) (s : State) : (updSh f).run s = Upd.apply s (.sh (f s.sh)) := rfl
@[simp] theorem run_updMt (f : Mt → Mt) (s : State) : (updMt f).run s = Upd.apply s (.mt (f s.mt)) := rfl
@[simp] theorem run_updTy (f : Ty → Ty) (s : State) : (updTy f).run s = Upd.apply s (.ty (f s.ty)) := rfl
@[simp] theorem run_updTb (f : Tb → Tb) (s : State) : (updTb f).run s = Upd.apply s (.tb (f s.tb)) := rfl
@[simp] theorem run_setTrim (x : Option TrimRun) (s : State) : (setTrim x).run s = Upd.apply s (.trim x) := rfl
@[simp] theorem run_updBoot (f : Boot → Boot) (s : State) : (updBoot f).run s = Upd.apply s (.boot (f s.boot)) := rfl
@[simp] theorem run_updHst (f : Hst → Hst) (s : State) : (updHst f).run s = Upd.apply s (.hst (f s.hst)) := rfl
@[simp] theorem run_emit (m : OutMsg) (s : State) : (emit m).run s = Upd.apply s (.out m) := rfl
@[simp] theorem run_updCore (c : Nat) (f : Core → Core) (s : State) : (updCore c f).run s = Upd.apply s (.core c (f (s.core c))) := rfl
@[simp] theorem run_updThread (c t : Nat) (f : Thread → Thread) (s : State) :
    (updThread c t f).run s = Upd.apply s (.thread (tkey c t) (f (s.thread c t))) := rfl
@[simp] theorem run_reply (bs : List Byte) (s : State) : (reply bs).run s = Upd.apply s (.reply bs) := rfl
@[simp] theorem run_withFree (f : Nat → Act) (s : State) :
    (withFree f).run s = applyAll (f (Config.freeValue s.freeCount) s) (Upd.apply s (.free (s.freeCount + 1))) := rfl
theorem done_eq (a : Act) (s : State) : done a s = .next (a.run s) := rfl

/-! ## Threads and cores -/

@[simp] theorem thread_apply (s : State) (u : Upd) (c t : Nat) (h : (u.apply s).threads = s.threads) :
    (u.apply s).thread c t = s.thread c t := by simp [State.thread, h]
@[simp] theorem core_apply (s : State) (u : Upd) (c : Nat) (h : (u.apply s).cores = s.cores) :
    (u.apply s).core c = s.core c := by simp [State.core, h]
@[simp] theorem thread_set (s : State) (c t : Nat) (x : Thread) :
    (Upd.apply s (.thread (tkey c t) x)).thread c t = x := by simp [State.thread]
theorem thread_set_ne (s : State) (c t k : Nat) (x : Thread) (h : tkey c t ≠ k) :
    (Upd.apply s (.thread k x)).thread c t = s.thread c t := by simp [State.thread, SMap.get_set_ne _ _ _ h]
@[simp] theorem core_set (s : State) (c : Nat) (x : Core) : (Upd.apply s (.core c x)).core c = x := by simp [State.core]
theorem core_set_ne (s : State) (c k : Nat) (x : Core) (h : c ≠ k) :
    (Upd.apply s (.core k x)).core c = s.core c := by simp [State.core, SMap.get_set_ne _ _ _ h]

/-! ## Fields of registers -/

theorem Fld.of_put (f : Fld) (v : Word) (n : Nat) (h : f.lo + f.width ≤ 32) : f.of (f.put v n) = n % 2 ^ f.width := by
  have hm : (2 ^ f.width - 1) * 2 ^ f.lo < 2 ^ 32 := by
    calc (2 ^ f.width - 1) * 2 ^ f.lo < 2 ^ f.width * 2 ^ f.lo :=
          Nat.mul_lt_mul_of_pos_right (Nat.sub_lt (by positivity) one_pos) (by positivity)
      _ = 2 ^ (f.lo + f.width) := by rw [← pow_add, Nat.add_comm]
      _ ≤ 2 ^ 32 := Nat.pow_le_pow_right (by norm_num) h
  have hn : n % 2 ^ f.width * 2 ^ f.lo < 2 ^ 32 := by
    calc n % 2 ^ f.width * 2 ^ f.lo < 2 ^ f.width * 2 ^ f.lo :=
          Nat.mul_lt_mul_of_pos_right (Nat.mod_lt _ (by positivity)) (by positivity)
      _ = 2 ^ (f.lo + f.width) := by rw [← pow_add, Nat.add_comm]
      _ ≤ 2 ^ 32 := Nat.pow_le_pow_right (by norm_num) h
  unfold Fld.of Fld.put Fld.mask
  apply Nat.eq_of_testBit_eq
  intro i
  rw [← Nat.shiftRight_eq_div_pow]
  simp only [Nat.testBit_mod_two_pow, Nat.testBit_shiftRight, BitVec.toNat_or, BitVec.toNat_and, Nat.testBit_or, Nat.testBit_and,
    BitVec.toNat_ofNat, Nat.mod_eq_of_lt hn]
  by_cases hi : i < f.width
  · have h1 : (~~~(BitVec.ofNat 32 ((2 ^ f.width - 1) * 2 ^ f.lo))).toNat.testBit (f.lo + i) = false := by
      rw [BitVec.testBit_toNat, BitVec.getLsbD_not, BitVec.getLsbD_ofNat, Nat.testBit_mul_two_pow]
      simp [hi, Nat.testBit_two_pow_sub_one]
    rw [h1, Nat.testBit_mul_two_pow]
    simp [hi]
  · simp [hi]

theorem Fld.of_put_other (f g : Fld) (v : Word) (n : Nat) (h : f.lo + f.width ≤ 32) (hg : g.lo + g.width ≤ 32)
    (hd : f.lo + f.width ≤ g.lo ∨ g.lo + g.width ≤ f.lo) : g.of (f.put v n) = g.of v := by
  have hn : n % 2 ^ f.width * 2 ^ f.lo < 2 ^ 32 := by
    calc n % 2 ^ f.width * 2 ^ f.lo < 2 ^ f.width * 2 ^ f.lo :=
          Nat.mul_lt_mul_of_pos_right (Nat.mod_lt _ (by positivity)) (by positivity)
      _ = 2 ^ (f.lo + f.width) := by rw [← pow_add, Nat.add_comm]
      _ ≤ 2 ^ 32 := Nat.pow_le_pow_right (by norm_num) h
  unfold Fld.of Fld.put Fld.mask
  apply Nat.eq_of_testBit_eq
  intro i
  rw [← Nat.shiftRight_eq_div_pow, ← Nat.shiftRight_eq_div_pow]
  simp only [Nat.testBit_mod_two_pow, Nat.testBit_shiftRight, BitVec.toNat_or, BitVec.toNat_and, Nat.testBit_or, Nat.testBit_and,
    BitVec.toNat_ofNat, Nat.mod_eq_of_lt hn]
  by_cases hi : i < g.width
  · have h2 : (n % 2 ^ f.width * 2 ^ f.lo).testBit (g.lo + i) = false := by
      rw [Nat.testBit_mul_two_pow]
      by_cases hl : f.lo ≤ g.lo + i
      · have : f.width ≤ g.lo + i - f.lo := by omega
        simp [Nat.testBit_mod_two_pow]; omega
      · simp [hl]
    have h1 : (~~~(BitVec.ofNat 32 ((2 ^ f.width - 1) * 2 ^ f.lo))).toNat.testBit (g.lo + i) = true := by
      rw [BitVec.testBit_toNat, BitVec.getLsbD_not, BitVec.getLsbD_ofNat, Nat.testBit_mul_two_pow]
      simp [Nat.testBit_two_pow_sub_one]; omega
    rw [h1, h2]; simp
  · simp [hi]

/-- A register reads the same after an update that keeps the registers. -/
theorem rd_of_regs {s t : State} (f : Fld) (h : t.regs = s.regs) : t.rd f = s.rd f := by simp [State.rd, h]

theorem regOf_set (m : SMap Word) (f : Fld) (r a : Nat) (v : Word) :
    regOf (m.set (BitVec.ofNat 32 r) a v) f =
      if f.addr = a then (if f.reset = r ∨ v ≠ BitVec.ofNat 32 r then v else BitVec.ofNat 32 f.reset) else regOf m f := by
  unfold regOf
  by_cases h : f.addr = a
  · subst h
    simp only [if_true]
    split
    · next hc =>
      rcases hc with hc | hc
      · rw [hc, SMap.get_set_same]
      · unfold SMap.set; rw [if_neg hc, SMap.get_ins, if_pos rfl]
    · next hc =>
      push Not at hc
      unfold SMap.set; rw [if_pos hc.2, SMap.get_del, if_pos rfl]
  · rw [if_neg h, SMap.get_set_other _ _ _ _ h]

/-- The field just written. -/
theorem rd_wr_same (s : State) (f : Fld) (n : Nat) (h : f.lo + f.width ≤ 32) :
    (Upd.apply s (.reg f.addr f.reset (f.put (regOf s.regs f) n))).rd f = n % 2 ^ f.width := by
  simp [State.rd, regOf_set, Fld.of_put f _ _ h]

/-- A field of another register. -/
theorem rd_wr_ne (s : State) (g : Fld) (a r : Nat) (v : Word) (h : g.addr ≠ a) :
    (Upd.apply s (.reg a r v)).rd g = s.rd g := by
  simp [State.rd, regOf_set, h]

/-- Another field of the register. -/
theorem rd_wr_word (s : State) (f g : Fld) (n : Nat) (ha : g.addr = f.addr) (hr : g.reset = f.reset)
    (h : f.lo + f.width ≤ 32) (hg : g.lo + g.width ≤ 32) (hd : f.lo + f.width ≤ g.lo ∨ g.lo + g.width ≤ f.lo) :
    (Upd.apply s (.reg f.addr f.reset (f.put (regOf s.regs f) n))).rd g = s.rd g := by
  have he : regOf s.regs g = regOf s.regs f := by simp [regOf, ha, hr]
  simp [State.rd, regOf_set, ha, hr, Fld.of_put_other f g _ _ h hg hd, he]

theorem rd_run_wr_same {s : State} {f : Fld} {n : Nat} (h : f.lo + f.width ≤ 32) : ((wr f n).run s).rd f = n % 2 ^ f.width :=
  rd_wr_same s f n h
theorem rd_run_wr_ne {s : State} {f g : Fld} {n : Nat} (h : g.addr ≠ f.addr) : ((wr f n).run s).rd g = s.rd g := rd_wr_ne s g _ _ _ h
theorem rd_run_wr_word {s : State} {f g : Fld} {n : Nat} (ha : g.addr = f.addr) (hr : g.reset = f.reset)
    (h : f.lo + f.width ≤ 32 ∧ g.lo + g.width ≤ 32 ∧ (f.lo + f.width ≤ g.lo ∨ g.lo + g.width ≤ f.lo)) :
    ((wr f n).run s).rd g = s.rd g := rd_wr_word s f g n ha hr h.1 h.2.1 h.2.2

/-! ## What an action may do -/

/-- Every update that the action makes satisfies `P`. -/
def Only (P : Upd → Prop) (a : Act) : Prop := ∀ s, ∀ u ∈ a s, P u

theorem only_skip (P : Upd → Prop) : Only P skip := by intro s u h; simp [skip] at h
theorem only_nil (P : Upd → Prop) : Only P (acts []) := by intro s u h; simp [acts] at h
theorem only_cons {P : Upd → Prop} {a : Act} {as : List Act} (ha : Only P a) (hs : Only P (acts as)) : Only P (acts (a :: as)) := by
  intro s u h
  simp only [acts, List.mem_append] at h
  rcases h with h | h
  · exact ha s u h
  · exact hs _ u h
theorem only_withS {P : Upd → Prop} {f : State → Act} (h : ∀ s, Only P (f s)) : Only P (withS f) := fun s => h s s
theorem only_whenDo {P : Upd → Prop} {c : Bool} {a : Act} (h : Only P a) : Only P (whenDo c a) := by
  cases c
  · exact only_skip P
  · exact h
theorem only_ite {P : Upd → Prop} {p : Prop} [Decidable p] {a b : Act} (ha : Only P a) (hb : Only P b) :
    Only P (if p then a else b) := by split <;> assumption
theorem only_forEach {P : Upd → Prop} {α : Type} (l : List α) {f : α → Act} (h : ∀ x ∈ l, Only P (f x)) : Only P (forEach l f) := by
  induction l with
  | nil => exact only_nil P
  | cons x l ih => exact only_cons (h x (by simp)) (ih fun y hy => h y (by simp [hy]))
theorem only_forN {P : Upd → Prop} (n : Nat) {f : Nat → Act} (h : ∀ k < n, Only P (f k)) : Only P (forN n f) :=
  only_forEach _ fun k hk => h k (by simpa using hk)
theorem only_withFree {P : Upd → Prop} {f : Nat → Act} (h0 : ∀ n, P (.free n)) (h : ∀ n, Only P (f n)) : Only P (withFree f) := by
  intro s u hu
  simp only [withFree, List.mem_cons] at hu
  rcases hu with rfl | hu
  · exact h0 _
  · exact h _ s u hu
theorem only_one {P : Upd → Prop} {f : State → Upd} (h : ∀ s, P (f s)) : Only P (fun s => [f s]) := by
  intro s u hu; simp at hu; subst hu; exact h s
theorem Only.mono {P Q : Upd → Prop} {a : Act} (h : Only P a) (hq : ∀ u, P u → Q u) : Only Q a := fun s u hu => hq u (h s u hu)

/-- A part of the state that each allowed update keeps is kept by the action. -/
theorem Only.keeps {P : Upd → Prop} {a : Act} {β : Type} (h : Only P a) (g : State → β)
    (hg : ∀ u, P u → ∀ t, g (u.apply t) = g t) (s : State) : g (a.run s) = g s := by
  unfold Act.run
  have : ∀ us : List Upd, (∀ u ∈ us, P u) → ∀ t, g (applyAll us t) = g t := by
    intro us
    induction us with
    | nil => intro _ t; rfl
    | cons u us ih =>
      intro hus t
      rw [applyAll_cons, ih (fun v hv => hus v (by simp [hv])), hg u (hus u (by simp))]
  exact this _ (h s) s

/-- What each allowed update keeps true stays true. -/
theorem Only.invariant {P : Upd → Prop} {a : Act} {I : State → Prop} (h : Only P a)
    (hi : ∀ u, P u → ∀ t, I t → I (u.apply t)) (s : State) (h0 : I s) : I (a.run s) := by
  unfold Act.run
  have : ∀ us : List Upd, (∀ u ∈ us, P u) → ∀ t, I t → I (applyAll us t) := by
    intro us
    induction us with
    | nil => intro _ t ht; exact ht
    | cons u us ih => intro hus t ht; exact ih (fun v hv => hus v (by simp [hv])) _ (hi u (hus u (by simp)) t ht)
  exact this _ (h s) s h0

/-- The action keeps a part of the state. -/
def Keeps {β : Type} (g : State → β) (a : Act) : Prop := ∀ s, g (a.run s) = g s

section
variable {β : Type} {g : State → β}
theorem keeps_skip : Keeps g skip := fun _ => rfl
theorem keeps_nil : Keeps g (acts []) := fun _ => rfl
theorem keeps_cons {a : Act} {as : List Act} (ha : Keeps g a) (hs : Keeps g (acts as)) : Keeps g (acts (a :: as)) := by
  intro s; rw [run_acts_cons, hs, ha]
theorem keeps_withS {f : State → Act} (h : ∀ s, Keeps g (f s)) : Keeps g (withS f) := fun s => h s s
theorem keeps_whenDo {c : Bool} {a : Act} (h : Keeps g a) : Keeps g (whenDo c a) := by
  cases c
  · exact keeps_skip
  · exact h
theorem keeps_ite {p : Prop} [Decidable p] {a b : Act} (ha : Keeps g a) (hb : Keeps g b) : Keeps g (if p then a else b) := by
  split <;> assumption
theorem keeps_forEach {α : Type} (l : List α) {f : α → Act} (h : ∀ x ∈ l, Keeps g (f x)) : Keeps g (forEach l f) := by
  induction l with
  | nil => exact keeps_nil
  | cons x l ih => exact keeps_cons (h x (by simp)) (ih fun y hy => h y (by simp [hy]))
theorem keeps_forN (n : Nat) {f : Nat → Act} (h : ∀ k < n, Keeps g (f k)) : Keeps g (forN n f) :=
  keeps_forEach _ fun k hk => h k (by simpa using hk)
theorem keeps_one {f : State → Upd} (h : ∀ s, g (Upd.apply s (f s)) = g s) : Keeps g (fun s => [f s]) := h
theorem Only.toKeeps {P : Upd → Prop} {a : Act} (h : Only P a) (hg : ∀ u, P u → ∀ t, g (u.apply t) = g t) : Keeps g a :=
  fun s => h.keeps g hg s
end

/-- Whatever every update keeps, every action keeps. -/
theorem run_invariant {I : State → Prop} (hi : ∀ u t, I t → I (Upd.apply t u)) (a : Act) (s : State) (h0 : I s) : I (a.run s) :=
  Only.invariant (P := fun _ => True) (fun _ _ _ => trivial) (fun u _ t => hi u t) s h0

end Sys2Proof.Machine
end

