-- ==== Sys2Proof/Laws/Events.lean ====
section
/-!
SUPPORT. What setting an event bit, handing a record to Ledger and waking a thread can do.
-/

namespace Sys2Proof.Machine

theorem signalReg_pend {p h : Nat} (hp : p < 2) (hh : h < 2) : signalReg (HP_PEND p h).addr := by
  interval_cases p <;> interval_cases h <;> decide

theorem signalReg_peak {c : Nat} (h : c < 8) : signalReg (FM_PWQ_PEAK c).addr := by
  interval_cases c <;> decide

theorem signalReg_full {c : Nat} (h : c < 8) : signalReg (FM_PWQ_FULL c).addr := by
  interval_cases c <;> decide

/-- A register outside three short windows is changed by no signal. -/
theorem not_signalReg {a : Nat} (h1 : a < 0x10010014 ∨ 0x10010018 < a) (h2 : a < 0x10020014 ∨ 0x10020018 < a)
    (h3 : a < 0x1008100C ∨ 0x10081E10 < a) : ¬ signalReg a := by
  have : ∀ b ∈ signalRegs, (0x10010014 ≤ b ∧ b ≤ 0x10010018) ∨ (0x10020014 ≤ b ∧ b ≤ 0x10020018) ∨
      (0x1008100C ≤ b ∧ b ≤ 0x10081E10) := by decide
  intro hm
  have := this a hm
  omega

/-- The updates that signals and vectors make: their registers, core queues, records of a full queue, and vectors sent or
held. -/
def signalUpd : Upd → Prop
  | .reg a _ _ => signalReg a
  | .core _ _ | .intake _ | .out _ | .msix _ _ => True
  | _ => False

/-- Signals, vectors and one register. -/
def eventUpd (a : Nat) (u : Upd) : Prop := signalUpd u ∨ ∃ r v, u = .reg a r v

theorem only_raiseVector (p v : Nat) (hp : p < 2) (hv : v < 64) : Only signalUpd (raiseVector p v) := by
  refine only_withS fun s => only_ite ?_ ?_
  · refine only_one fun t => signalReg_pend hp (by omega)
  · exact only_ite (only_one fun _ => trivial) (only_one fun _ => trivial)

theorem only_raiseFor (a k : Nat) : Only signalUpd (raiseFor a k) :=
  only_forN 2 fun p hp => only_forN 59 fun v hv => only_withS fun s => only_whenDo (only_raiseVector p (v + 5) hp (by omega))

/-- A wake that is queued changes its core and the queue's peak. -/
theorem only_queueWake {c : Nat} (h : c < 8) (e : WakeEntry) : Only signalUpd (queueWake c e) :=
  only_withS fun _ => only_cons (only_one fun _ => trivial) (only_cons (only_one fun _ => signalReg_peak h) (only_nil _))

theorem only_pushCore (c : Nat) (e : WakeEntry) (o : HeldIn) : Only signalUpd (pushCore c e o) := by
  refine only_withS fun s => ?_
  by_cases hc : s.coreOn c
  · have h8 : c < 8 := by simp [State.coreOn] at hc; exact hc.1
    have core (f : Core → Core) : Only signalUpd (updCore c f) := only_one fun _ => trivial
    have reg (f : Fld) (n : Nat) (h : signalReg f.addr) : Only signalUpd (wr f n) := only_one fun _ => h
    simp only [hc, Bool.not_true, Bool.false_eq_true, if_false]
    refine only_ite ?_ (core _)
    refine only_cons (only_queueWake h8 e) (only_cons (only_whenDo ?_) (only_nil _))
    · refine only_cons (only_withS fun _ => reg _ _ ?_) (only_cons (only_whenDo ?_) (only_nil _))
      · exact signalReg_full h8
      · exact only_cons (core _) (only_cons (only_one fun _ => trivial) (only_nil _))
  · simp only [hc, Bool.not_false, if_true]
    exact only_skip _

theorem only_notify (n : Nat) : Only signalUpd (notify n) := only_withS fun _ => only_whenDo (only_pushCore _ _ _)

/-- Setting an event bit changes its register, and what signals and vectors may change. -/
theorem only_setEvent (f : Fld) : Only (eventUpd f.addr) (setEvent f) := by
  refine only_withS fun s => only_whenDo (only_cons (only_one fun t => Or.inr ⟨_, _, rfl⟩)
    (only_cons ?_ (only_cons ?_ (only_nil _))))
  · exact (only_raiseFor _ _).mono fun _ h => Or.inl h
  · exact (only_notify _).mono fun _ h => Or.inl h

theorem only_setBit (f : Fld) : Only (eventUpd f.addr) (setBit f) := by
  refine only_withS fun s => only_whenDo (only_cons (only_one fun t => Or.inr ⟨_, _, rfl⟩) (only_cons ?_ (only_nil _)))
  exact (only_raiseFor _ _).mono fun _ h => Or.inl h

theorem signalUpd_rd {u : Upd} (h : signalUpd u) (g : Fld) (hs : ¬ signalReg g.addr) (t : State) : (u.apply t).rd g = t.rd g := by
  cases u with
  | reg a r v => exact rd_wr_ne _ _ _ _ _ fun he => hs (he ▸ h)
  | core k c => rfl
  | intake r => exact rd_of_regs g (by simp only [apply_intake])
  | out m => rfl
  | msix k v => rfl
  | _ => exact h.elim

/-- What an event leaves alone in a register other than its own. -/
theorem eventUpd_rd {a : Nat} {u : Upd} (h : eventUpd a u) (g : Fld) (hg : g.addr ≠ a) (hs : ¬ signalReg g.addr) (t : State) :
    (u.apply t).rd g = t.rd g := by
  rcases h with h | ⟨r, v, rfl⟩
  · exact signalUpd_rd h g hs t
  · exact rd_wr_ne _ _ _ _ _ hg

/-- A register other than the event's reads as before. -/
theorem rd_setEvent (f g : Fld) (s : State) (hg : g.addr ≠ f.addr) (hs : ¬ signalReg g.addr) : ((setEvent f).run s).rd g = s.rd g :=
  (only_setEvent f).keeps (fun t => t.rd g) (fun _ hu t => eventUpd_rd hu g hg hs t) s

theorem rd_setBit (f g : Fld) (s : State) (hg : g.addr ≠ f.addr) (hs : ¬ signalReg g.addr) : ((setBit f).run s).rd g = s.rd g :=
  (only_setBit f).keeps (fun t => t.rd g) (fun _ hu t => eventUpd_rd hu g hg hs t) s

/-- An event bit set reads as 1. -/
theorem on_setEvent (f : Fld) (s : State) (hs : ¬ signalReg f.addr) (hw : f.width = 1) (hl : f.lo < 32) :
    ((setEvent f).run s).on f = true := by
  unfold setEvent
  rw [run_withS, run_whenDo]
  split
  · simp only [run_acts_cons, run_acts_nil, run_wr]
    rw [State.on, (only_notify _).keeps (fun t => t.rd f) (fun _ hu t => signalUpd_rd hu f hs t),
      (only_raiseFor _ _).keeps (fun t => t.rd f) (fun _ hu t => signalUpd_rd hu f hs t), rd_wr_same _ _ _ (by omega), hw]
    rfl
  · next h => simpa using h

theorem on_setBit (f : Fld) (s : State) (hs : ¬ signalReg f.addr) (hw : f.width = 1) (hl : f.lo < 32) :
    ((setBit f).run s).on f = true := by
  unfold setBit
  rw [run_withS, run_whenDo]
  split
  · simp only [run_acts_cons, run_acts_nil, run_wr]
    rw [State.on, (only_raiseFor _ _).keeps (fun t => t.rd f) (fun _ hu t => signalUpd_rd hu f hs t), rd_wr_same _ _ _ (by omega), hw]
    rfl
  · next h => simpa using h

/-- An event's updates keep every part of the state beside the registers, the core queues, the intake queue and what is sent. -/
theorem eventUpd_keeps {a : Nat} {u : Upd} (h : eventUpd a u) (t : State) :
    (u.apply t).mem = t.mem ∧ (u.apply t).poison = t.poison ∧ (u.apply t).flash = t.flash ∧ (u.apply t).active = t.active ∧
    (u.apply t).predicted = t.predicted ∧ (u.apply t).threads = t.threads ∧ (u.apply t).ys = t.ys ∧ (u.apply t).fm = t.fm ∧
    (u.apply t).ts = t.ts ∧ (u.apply t).dr = t.dr ∧ (u.apply t).tb = t.tb ∧ (u.apply t).tl = t.tl ∧ (u.apply t).td = t.td ∧
    (u.apply t).net = t.net ∧ (u.apply t).ll = t.ll ∧ (u.apply t).hst = t.hst ∧ (u.apply t).boot = t.boot ∧
    (u.apply t).sh = t.sh ∧ (u.apply t).mt = t.mt ∧ (u.apply t).ty = t.ty ∧ (u.apply t).trim = t.trim ∧
    (u.apply t).fences = t.fences ∧ (u.apply t).reply = t.reply ∧ (u.apply t).now = t.now ∧ (u.apply t).latches = t.latches := by
  rcases h with h | ⟨r, v, rfl⟩
  · cases u with
    | reg | core | out | msix => exact ⟨rfl, rfl, rfl, rfl, rfl, rfl, rfl, rfl, rfl, rfl, rfl, rfl, rfl, rfl, rfl, rfl, rfl, rfl, rfl, rfl,
        rfl, rfl, rfl, rfl, rfl⟩
    | intake r => simp only [apply_intake, and_self]
    | _ => exact h.elim
  · exact ⟨rfl, rfl, rfl, rfl, rfl, rfl, rfl, rfl, rfl, rfl, rfl, rfl, rfl, rfl, rfl, rfl, rfl, rfl, rfl, rfl, rfl, rfl, rfl, rfl, rfl⟩

/-- The parts of the state that an action of event updates keeps. -/
theorem event_frame {a : Nat} {x : Act} (h : Only (eventUpd a) x) (s : State) :
    (x.run s).mem = s.mem ∧ (x.run s).poison = s.poison ∧ (x.run s).flash = s.flash ∧ (x.run s).active = s.active ∧
    (x.run s).predicted = s.predicted ∧ (x.run s).threads = s.threads ∧ (x.run s).ys = s.ys ∧ (x.run s).fm = s.fm ∧
    (x.run s).ts = s.ts ∧ (x.run s).dr = s.dr ∧ (x.run s).tb = s.tb ∧ (x.run s).tl = s.tl ∧ (x.run s).td = s.td ∧
    (x.run s).net = s.net ∧ (x.run s).ll = s.ll ∧ (x.run s).hst = s.hst ∧ (x.run s).boot = s.boot ∧
    (x.run s).sh = s.sh ∧ (x.run s).mt = s.mt ∧ (x.run s).ty = s.ty ∧ (x.run s).trim = s.trim ∧
    (x.run s).fences = s.fences ∧ (x.run s).reply = s.reply ∧ (x.run s).now = s.now ∧ (x.run s).latches = s.latches := by
  have k {β : Type} (g : State → β) (hg : ∀ u, eventUpd a u → ∀ t, g (u.apply t) = g t) := h.keeps g hg s
  refine ⟨k _ ?_, k _ ?_, k _ ?_, k _ ?_, k _ ?_, k _ ?_, k _ ?_, k _ ?_, k _ ?_, k _ ?_, k _ ?_, k _ ?_, k _ ?_, k _ ?_, k _ ?_,
    k _ ?_, k _ ?_, k _ ?_, k _ ?_, k _ ?_, k _ ?_, k _ ?_, k _ ?_, k _ ?_, k _ ?_⟩ <;>
  · intro u hu t
    have := eventUpd_keeps hu t
    tauto

@[simp] theorem setEvent_frame (f : Fld) (s : State) :
    ((setEvent f).run s).mem = s.mem ∧ ((setEvent f).run s).poison = s.poison ∧ ((setEvent f).run s).flash = s.flash ∧
    ((setEvent f).run s).active = s.active ∧ ((setEvent f).run s).predicted = s.predicted ∧ ((setEvent f).run s).threads = s.threads ∧
    ((setEvent f).run s).ys = s.ys ∧ ((setEvent f).run s).fm = s.fm ∧ ((setEvent f).run s).ts = s.ts ∧
    ((setEvent f).run s).dr = s.dr ∧ ((setEvent f).run s).tb = s.tb ∧ ((setEvent f).run s).tl = s.tl ∧
    ((setEvent f).run s).td = s.td ∧ ((setEvent f).run s).net = s.net ∧ ((setEvent f).run s).ll = s.ll ∧
    ((setEvent f).run s).hst = s.hst ∧ ((setEvent f).run s).boot = s.boot ∧ ((setEvent f).run s).sh = s.sh ∧
    ((setEvent f).run s).mt = s.mt ∧ ((setEvent f).run s).ty = s.ty ∧ ((setEvent f).run s).trim = s.trim ∧
    ((setEvent f).run s).fences = s.fences ∧ ((setEvent f).run s).reply = s.reply ∧ ((setEvent f).run s).now = s.now ∧
    ((setEvent f).run s).latches = s.latches := event_frame (only_setEvent f) s

@[simp] theorem setBit_frame (f : Fld) (s : State) :
    ((setBit f).run s).mem = s.mem ∧ ((setBit f).run s).poison = s.poison ∧ ((setBit f).run s).flash = s.flash ∧
    ((setBit f).run s).active = s.active ∧ ((setBit f).run s).predicted = s.predicted ∧ ((setBit f).run s).threads = s.threads ∧
    ((setBit f).run s).ys = s.ys ∧ ((setBit f).run s).fm = s.fm ∧ ((setBit f).run s).ts = s.ts ∧
    ((setBit f).run s).dr = s.dr ∧ ((setBit f).run s).tb = s.tb ∧ ((setBit f).run s).tl = s.tl ∧
    ((setBit f).run s).td = s.td ∧ ((setBit f).run s).net = s.net ∧ ((setBit f).run s).ll = s.ll ∧
    ((setBit f).run s).hst = s.hst ∧ ((setBit f).run s).boot = s.boot ∧ ((setBit f).run s).sh = s.sh ∧
    ((setBit f).run s).mt = s.mt ∧ ((setBit f).run s).ty = s.ty ∧ ((setBit f).run s).trim = s.trim ∧
    ((setBit f).run s).fences = s.fences ∧ ((setBit f).run s).reply = s.reply ∧ ((setBit f).run s).now = s.now ∧
    ((setBit f).run s).latches = s.latches := event_frame (only_setBit f) s

/-! ## Records (R464) -/

/-- A record of Ledger while there is room: it joins the intake queue, and nothing else changes. -/
theorem run_ledger_room (code sev p : Nat) (src : Src) (s : State) (ht : s.lg.taking = true) (hr : s.lg.intake.length < intakeSize) :
    (ledger code src sev p).run s = Upd.apply s (.intake ⟨code, src.code, sev, p % 2 ^ 32⟩) := by
  simp only [ledger, run_withS, ht, Bool.not_true, Bool.false_eq_true, if_false, hr, if_true, run_list, applyAll_cons, applyAll_nil]

/-- Before Ledger takes records, a record is not made. -/
theorem run_ledger_off (code sev p : Nat) (src : Src) (s : State) (ht : s.lg.taking = false) : (ledger code src sev p).run s = s := by
  simp only [ledger, run_withS, ht, Bool.not_false, if_true, run_skip]

/-- What a record can change: Ledger's intake, its count of lost records and the event of their loss. -/
def ledgerUpd (u : Upd) : Prop := eventUpd LG_EVENT_LOST.addr u ∨ (∃ r v, u = .reg LG_LOST.addr r v) ∨ ∃ x, u = .lg x

theorem only_ledger (code sev p : Nat) (src : Src) : Only ledgerUpd (ledger code src sev p) := by
  refine only_withS fun s => only_ite (only_skip _) (only_ite (only_one fun _ => Or.inl (Or.inl trivial)) ?_)
  refine only_cons (only_withS fun _ => only_one fun _ => Or.inr (Or.inl ⟨_, _, rfl⟩)) (only_cons ?_ (only_cons ?_ (only_nil _)))
  · exact (only_setEvent _).mono fun _ h => Or.inl h
  · exact only_one fun _ => Or.inr (Or.inr ⟨_, rfl⟩)

theorem ledgerUpd_rd {u : Upd} (h : ledgerUpd u) (g : Fld) (hs : ¬ signalReg g.addr) (h1 : g.addr ≠ LG_EVENT_LOST.addr)
    (h2 : g.addr ≠ LG_LOST.addr) (t : State) : (u.apply t).rd g = t.rd g := by
  rcases h with h | ⟨r, v, rfl⟩ | ⟨x, rfl⟩
  · exact eventUpd_rd h g h1 hs t
  · exact rd_wr_ne _ _ _ _ _ h2
  · rfl

/-- A record leaves the registers beside Ledger's loss count and event alone. -/
theorem rd_ledger (code sev p : Nat) (src : Src) (s : State) (g : Fld) (hs : ¬ signalReg g.addr)
    (h1 : g.addr ≠ LG_EVENT_LOST.addr) (h2 : g.addr ≠ LG_LOST.addr) : ((ledger code src sev p).run s).rd g = s.rd g :=
  (only_ledger code sev p src).keeps (fun t => t.rd g) (fun _ hu t => ledgerUpd_rd hu g hs h1 h2 t) s

theorem ledgerUpd_keeps {u : Upd} (h : ledgerUpd u) (t : State) :
    (u.apply t).mem = t.mem ∧ (u.apply t).poison = t.poison ∧ (u.apply t).flash = t.flash ∧ (u.apply t).active = t.active ∧
    (u.apply t).predicted = t.predicted ∧ (u.apply t).threads = t.threads ∧ (u.apply t).ys = t.ys ∧ (u.apply t).fm = t.fm ∧
    (u.apply t).ts = t.ts ∧ (u.apply t).dr = t.dr ∧ (u.apply t).tb = t.tb ∧ (u.apply t).tl = t.tl ∧ (u.apply t).td = t.td ∧
    (u.apply t).net = t.net ∧ (u.apply t).ll = t.ll ∧ (u.apply t).hst = t.hst ∧ (u.apply t).boot = t.boot ∧
    (u.apply t).sh = t.sh ∧ (u.apply t).mt = t.mt ∧ (u.apply t).ty = t.ty ∧ (u.apply t).trim = t.trim ∧
    (u.apply t).fences = t.fences ∧ (u.apply t).reply = t.reply ∧ (u.apply t).now = t.now ∧ (u.apply t).latches = t.latches := by
  rcases h with h | ⟨r, v, rfl⟩ | ⟨x, rfl⟩
  · exact eventUpd_keeps h t
  · exact ⟨rfl, rfl, rfl, rfl, rfl, rfl, rfl, rfl, rfl, rfl, rfl, rfl, rfl, rfl, rfl, rfl, rfl, rfl, rfl, rfl, rfl, rfl, rfl, rfl, rfl⟩
  · exact ⟨rfl, rfl, rfl, rfl, rfl, rfl, rfl, rfl, rfl, rfl, rfl, rfl, rfl, rfl, rfl, rfl, rfl, rfl, rfl, rfl, rfl, rfl, rfl, rfl, rfl⟩

@[simp] theorem ledger_frame (c v p : Nat) (src : Src) (s : State) :
    ((ledger c src v p).run s).mem = s.mem ∧ ((ledger c src v p).run s).poison = s.poison ∧
    ((ledger c src v p).run s).flash = s.flash ∧ ((ledger c src v p).run s).active = s.active ∧
    ((ledger c src v p).run s).predicted = s.predicted ∧ ((ledger c src v p).run s).threads = s.threads ∧
    ((ledger c src v p).run s).ys = s.ys ∧ ((ledger c src v p).run s).fm = s.fm ∧ ((ledger c src v p).run s).ts = s.ts ∧
    ((ledger c src v p).run s).dr = s.dr ∧ ((ledger c src v p).run s).tb = s.tb ∧ ((ledger c src v p).run s).tl = s.tl ∧
    ((ledger c src v p).run s).td = s.td ∧ ((ledger c src v p).run s).net = s.net ∧ ((ledger c src v p).run s).ll = s.ll ∧
    ((ledger c src v p).run s).hst = s.hst ∧ ((ledger c src v p).run s).boot = s.boot ∧ ((ledger c src v p).run s).sh = s.sh ∧
    ((ledger c src v p).run s).mt = s.mt ∧ ((ledger c src v p).run s).ty = s.ty ∧ ((ledger c src v p).run s).trim = s.trim ∧
    ((ledger c src v p).run s).fences = s.fences ∧ ((ledger c src v p).run s).reply = s.reply ∧
    ((ledger c src v p).run s).now = s.now ∧ ((ledger c src v p).run s).latches = s.latches := by
  have k {β : Type} (g : State → β) (hg : ∀ u, ledgerUpd u → ∀ t, g (u.apply t) = g t) := (only_ledger c v p src).keeps g hg s
  refine ⟨k _ ?_, k _ ?_, k _ ?_, k _ ?_, k _ ?_, k _ ?_, k _ ?_, k _ ?_, k _ ?_, k _ ?_, k _ ?_, k _ ?_, k _ ?_, k _ ?_, k _ ?_,
    k _ ?_, k _ ?_, k _ ?_, k _ ?_, k _ ?_, k _ ?_, k _ ?_, k _ ?_, k _ ?_, k _ ?_⟩ <;>
  · intro u hu t
    have := ledgerUpd_keeps hu t
    tauto

end Sys2Proof.Machine
end

