-- ==== Sys2Proof/Laws/Loom.lean ====
section
/-!
SUPPORT. What carrying out an instruction does before the instruction's own effect, and the effects that instructions share.
-/

namespace Sys2Proof.Machine

/-! ## What signals and reports keep of a core -/

/-- The parts of a core that wakes leave alone. -/
def coreRest (k : Nat) (s : State) : Cache × SMap (List Nat) × Option Nat × Option Nat :=
  ((s.core k).dcache, (s.core k).ready, (s.core k).running, (s.core k).incoming)

/-- What a fetch leaves alone: threads, memory and every core but for its caches and wakes. -/
def fetchRest (k : Nat) (s : State) :=
  (coreRest k s, s.threads, s.mem, s.poison, s.flash, s.ts, s.ys, s.fm, s.now, s.pending)

theorem coreRest_updCore (k c : Nat) (f : Core → Core)
    (h : ∀ x : Core, (f x).dcache = x.dcache ∧ (f x).ready = x.ready ∧ (f x).running = x.running ∧ (f x).incoming = x.incoming) :
    Keeps (fetchRest k) (updCore c f) := by
  intro s
  have hc : coreRest k ((updCore c f).run s) = coreRest k s := by
    rw [run_updCore]
    by_cases he : k = c
    · subst he; simp only [coreRest, core_set]; have := h (s.core k); simp only [this.1, this.2.1, this.2.2.1, this.2.2.2]
    · simp only [coreRest, core_set_ne _ _ _ _ he]
  simp only [fetchRest, hc]
  rfl

theorem fetchRest_wr (k : Nat) (f : Fld) (n : Nat) : Keeps (fetchRest k) (wr f n) := fun _ => rfl

theorem fetchRest_intake (k : Nat) (r : State → LogReq) : Keeps (fetchRest k) (fun s => [.intake (r s)]) := by
  intro s
  simp only [run_fun, applyAll_cons, applyAll_nil, fetchRest, coreRest, State.core, apply_intake]

theorem fetchRest_pushCore (k c : Nat) (e : WakeEntry) (o : HeldIn) : Keeps (fetchRest k) (pushCore c e o) := by
  refine keeps_withS fun _ => keeps_ite keeps_skip (keeps_ite ?_ ?_)
  · refine keeps_cons (keeps_withS fun _ => keeps_cons (coreRest_updCore _ _ _ fun x => ⟨rfl, rfl, rfl, rfl⟩)
      (keeps_cons (fetchRest_wr _ _ _) keeps_nil)) (keeps_cons (keeps_whenDo ?_) keeps_nil)
    refine keeps_cons (keeps_withS fun _ => fetchRest_wr _ _ _) (keeps_cons (keeps_whenDo ?_) keeps_nil)
    exact keeps_cons (coreRest_updCore _ _ _ fun x => ⟨rfl, rfl, rfl, rfl⟩) (keeps_cons (fetchRest_intake k _) keeps_nil)
  · exact coreRest_updCore _ _ _ fun x => ⟨rfl, rfl, rfl, rfl⟩

theorem fetchRest_raiseVector (k p v : Nat) : Keeps (fetchRest k) (raiseVector p v) :=
  keeps_withS fun _ => keeps_ite (fetchRest_wr _ _ _) (keeps_ite (fun _ => rfl) fun _ => rfl)

theorem fetchRest_raiseFor (k a b : Nat) : Keeps (fetchRest k) (raiseFor a b) :=
  keeps_forN _ fun _ _ => keeps_forN _ fun _ _ => keeps_withS fun _ => keeps_whenDo (fetchRest_raiseVector _ _ _)

theorem fetchRest_setEvent (k : Nat) (f : Fld) : Keeps (fetchRest k) (setEvent f) :=
  keeps_withS fun _ => keeps_whenDo (keeps_cons (fetchRest_wr _ _ _) (keeps_cons (fetchRest_raiseFor _ _ _)
    (keeps_cons (keeps_withS fun _ => keeps_whenDo (fetchRest_pushCore _ _ _ _)) keeps_nil)))

theorem fetchRest_ledger (k code sev p : Nat) (src : Src) : Keeps (fetchRest k) (ledger code src sev p) :=
  keeps_withS fun _ => keeps_ite keeps_skip (keeps_ite (fetchRest_intake k _)
    (keeps_cons (keeps_withS fun _ => fetchRest_wr _ _ _) (keeps_cons (fetchRest_setEvent _ _) (keeps_cons (fun _ => rfl) keeps_nil))))

/-! ## What reading memory reports (R420, R421, R425) -/

/-- What a report of an error in memory may do. -/
def reportUpd (u : Upd) : Prop :=
  ledgerUpd u ∨ eventUpd TS_EVENT_CORR.addr u ∨ (∃ a r v, u = .reg a r v ∧ reportReg a) ∨ ∃ x, u = .mt x

theorem groupOf_lt {a : Nat} (h : inStock a = true) : groupOf a < 16 := by
  simp only [inStock, decide_eq_true_eq] at h
  unfold groupOf
  have hb : bits a 11 8 < 16 := Nat.mod_lt _ (by decide)
  split
  · exact hb
  · split
    · omega
    · split
      · exact hb
      · split <;> omega

theorem only_ail (k : Ailment) : Only reportUpd (ail k) :=
  only_withS fun _ => only_whenDo (only_one fun _ => Or.inr (Or.inr (Or.inr ⟨_, rfl⟩)))

theorem only_report_wr (f : Fld) (n : Nat) (h : reportReg f.addr) : Only reportUpd (wr f n) :=
  only_one fun _ => Or.inr (Or.inr (Or.inl ⟨_, _, _, rfl, h⟩))

theorem only_report_event (f : Fld) (h : f.addr = TS_EVENT_CORR.addr) : Only reportUpd (setEvent f) :=
  (only_setEvent f).mono fun _ hu => Or.inr (Or.inl (h ▸ hu))

theorem only_report_ledger (c v p : Nat) (src : Src) : Only reportUpd (ledger c src v p) :=
  (only_ledger c v p src).mono fun _ hu => Or.inl hu

theorem only_reportCorrected (a : Nat) : Only reportUpd (reportCorrected a) := by
  unfold reportCorrected
  split
  · next h =>
    have := groupOf_lt h
    refine only_cons (only_withS fun _ => only_report_wr _ _ (Or.inr ?_)) (only_cons (only_report_event _ rfl)
      (only_cons (only_report_ledger _ _ _ _) (only_nil _)))
    simp only [TS_CORR, TS_EXT_CORR]; omega
  · exact only_cons (only_withS fun _ => only_report_wr _ _ (Or.inr (by decide))) (only_cons (only_report_event _ rfl)
      (only_cons (only_report_ledger _ _ _ _) (only_nil _)))

theorem only_reportPoison (a : Nat) : Only reportUpd (reportPoison a) := by
  unfold reportPoison
  split
  · next h =>
    have := groupOf_lt h
    refine only_cons (only_ail _) (only_cons (only_withS fun _ => only_report_wr _ _ (Or.inr ?_)) (only_cons (only_report_wr _ _ (Or.inr ?_))
      (only_cons (only_report_event _ rfl) (only_cons (only_report_ledger _ _ _ _) (only_nil _)))))
    · simp only [TS_UNCORR, TS_EXT_CORR]; omega
    · simp only [TS_ERRADDR, TS_EXT_CORR]; omega
  · exact only_cons (only_ail _) (only_cons (only_withS fun _ => only_report_wr _ _ (Or.inr (by decide))) (only_cons
      (only_cons (only_report_wr _ _ (Or.inr (by decide))) (only_cons (only_report_wr _ _ (Or.inr (by decide))) (only_nil _)))
      (only_cons (only_report_event _ rfl) (only_cons (only_report_ledger _ _ _ _) (only_nil _)))))

theorem only_touchWord (a : Nat) : Only reportUpd (touchWord a) :=
  only_withS fun _ => only_ite (only_reportPoison a) (only_whenDo (only_reportCorrected a))

/-- The state after the reports of a read. -/
def touched (s : State) (a n : Nat) : State := (forEach (wordsOf a n) touchWord).run s

theorem withMem_run (a n : Nat) (f : List Byte → Bool → Act) (s : State) :
    (withMem a n f).run s = (f (s.bytesAt a n) (s.poisoned a n)).run (touched s a n) := by
  simp only [withMem, run_withS, run_acts_cons, run_acts_nil, touched, State.poisoned]

theorem only_touched (a n : Nat) : Only reportUpd (forEach (wordsOf a n) touchWord) := only_forEach _ fun _ _ => only_touchWord _

theorem reportUpd_rd {u : Upd} (h : reportUpd u) (g : Fld) (hq : quietReg g.addr) (t : State) : (u.apply t).rd g = t.rd g := by
  obtain ⟨h1, h2, h3, h4⟩ := hq
  rcases h with h | h | ⟨a, r, v, rfl, ha⟩ | ⟨x, rfl⟩
  · exact ledgerUpd_rd h g h1 h3 h4 t
  · exact eventUpd_rd h g (fun he => h2 (Or.inl he)) h1 t
  · exact rd_wr_ne _ _ _ _ _ fun he => h2 (he ▸ ha)
  · rfl

theorem rd_touched (s : State) (a n : Nat) (g : Fld) (hq : quietReg g.addr) : (touched s a n).rd g = s.rd g :=
  (only_touched a n).keeps (fun t => t.rd g) (fun _ hu t => reportUpd_rd hu g hq t) s

/-- What a reading of memory leaves as it was. -/
theorem touched_frame (s : State) (a n : Nat) :
    (touched s a n).mem = s.mem ∧ (touched s a n).poison = s.poison ∧ (touched s a n).flash = s.flash ∧
    (touched s a n).active = s.active ∧ (touched s a n).predicted = s.predicted ∧ (touched s a n).threads = s.threads ∧
    (touched s a n).ys = s.ys ∧ (touched s a n).fm = s.fm ∧ (touched s a n).ts = s.ts ∧ (touched s a n).dr = s.dr ∧
    (touched s a n).tb = s.tb ∧ (touched s a n).tl = s.tl ∧ (touched s a n).td = s.td ∧ (touched s a n).net = s.net ∧
    (touched s a n).ll = s.ll ∧ (touched s a n).hst = s.hst ∧ (touched s a n).boot = s.boot ∧ (touched s a n).sh = s.sh ∧
    (touched s a n).ty = s.ty ∧ (touched s a n).trim = s.trim ∧ (touched s a n).fences = s.fences ∧
    (touched s a n).reply = s.reply ∧ (touched s a n).now = s.now := by
  have k {β : Type} (g : State → β) (hg : ∀ u, reportUpd u → ∀ t, g (u.apply t) = g t) : g (touched s a n) = g s :=
    (only_touched a n).keeps g hg s
  refine ⟨k _ ?_, k _ ?_, k _ ?_, k _ ?_, k _ ?_, k _ ?_, k _ ?_, k _ ?_, k _ ?_, k _ ?_, k _ ?_, k _ ?_, k _ ?_, k _ ?_, k _ ?_,
    k _ ?_, k _ ?_, k _ ?_, k _ ?_, k _ ?_, k _ ?_, k _ ?_, k _ ?_⟩ <;>
  · rintro u (h | h | ⟨a, r, v, rfl, -⟩ | ⟨x, rfl⟩) t
    · have := ledgerUpd_keeps h t; tauto
    · have := eventUpd_keeps h t; tauto
    · rfl
    · rfl

theorem fetchRest_ail (k : Nat) (x : Ailment) : Keeps (fetchRest k) (ail x) := keeps_withS fun _ => keeps_whenDo fun _ => rfl

theorem fetchRest_touchWord (k a : Nat) : Keeps (fetchRest k) (touchWord a) := by
  refine keeps_withS fun _ => keeps_ite ?_ (keeps_whenDo ?_)
  · unfold reportPoison
    split
    · exact keeps_cons (fetchRest_ail _ _) (keeps_cons (keeps_withS fun _ => fetchRest_wr _ _ _) (keeps_cons (fetchRest_wr _ _ _)
        (keeps_cons (fetchRest_setEvent _ _) (keeps_cons (fetchRest_ledger _ _ _ _ _) keeps_nil))))
    · exact keeps_cons (fetchRest_ail _ _) (keeps_cons (keeps_withS fun _ => fetchRest_wr _ _ _) (keeps_cons
        (keeps_cons (fetchRest_wr _ _ _) (keeps_cons (fetchRest_wr _ _ _) keeps_nil))
        (keeps_cons (fetchRest_setEvent _ _) (keeps_cons (fetchRest_ledger _ _ _ _ _) keeps_nil))))
  · unfold reportCorrected
    split
    · exact keeps_cons (keeps_withS fun _ => fetchRest_wr _ _ _) (keeps_cons (fetchRest_setEvent _ _)
        (keeps_cons (fetchRest_ledger _ _ _ _ _) keeps_nil))
    · exact keeps_cons (keeps_withS fun _ => fetchRest_wr _ _ _) (keeps_cons (fetchRest_setEvent _ _)
        (keeps_cons (fetchRest_ledger _ _ _ _ _) keeps_nil))

theorem fetchRest_touched (k : Nat) (s : State) (a n : Nat) : fetchRest k (touched s a n) = fetchRest k s :=
  keeps_forEach (wordsOf a n) (fun x _ => fetchRest_touchWord k x) s

/-! ## The fetch -/

/-- The state in which an instruction's own effect begins. -/
structure AfterFetch (s u : State) : Prop where
  rest : ∀ k, fetchRest k u = fetchRest k s
  read : ∀ g : Fld, quietReg g.addr → u.rd g = s.rd g
  act : u.active = s.active ∧ u.dr = s.dr ∧ u.hst = s.hst ∧ u.boot = s.boot ∧ u.fences = s.fences ∧ u.reply = s.reply

theorem AfterFetch.threads {s u : State} (h : AfterFetch s u) : u.threads = s.threads := congrArg (·.2.1) (h.rest 0)
theorem AfterFetch.mem {s u : State} (h : AfterFetch s u) : u.mem = s.mem := congrArg (·.2.2.1) (h.rest 0)
theorem AfterFetch.poison {s u : State} (h : AfterFetch s u) : u.poison = s.poison := congrArg (·.2.2.2.1) (h.rest 0)
theorem AfterFetch.flash {s u : State} (h : AfterFetch s u) : u.flash = s.flash := congrArg (·.2.2.2.2.1) (h.rest 0)
theorem AfterFetch.ts {s u : State} (h : AfterFetch s u) : u.ts = s.ts := congrArg (·.2.2.2.2.2.1) (h.rest 0)
theorem AfterFetch.ys {s u : State} (h : AfterFetch s u) : u.ys = s.ys := congrArg (·.2.2.2.2.2.2.1) (h.rest 0)
theorem AfterFetch.fm {s u : State} (h : AfterFetch s u) : u.fm = s.fm := congrArg (·.2.2.2.2.2.2.2.1) (h.rest 0)
theorem AfterFetch.now {s u : State} (h : AfterFetch s u) : u.now = s.now := congrArg (·.2.2.2.2.2.2.2.2.1) (h.rest 0)
theorem AfterFetch.dcache {s u : State} (h : AfterFetch s u) (k : Nat) : (u.core k).dcache = (s.core k).dcache :=
  congrArg (·.1.1) (h.rest k)
theorem AfterFetch.ready {s u : State} (h : AfterFetch s u) (k : Nat) : (u.core k).ready = (s.core k).ready :=
  congrArg (·.1.2.1) (h.rest k)
theorem AfterFetch.running {s u : State} (h : AfterFetch s u) (k : Nat) : (u.core k).running = (s.core k).running :=
  congrArg (·.1.2.2.1) (h.rest k)
theorem AfterFetch.thread {s u : State} (h : AfterFetch s u) (c t : Nat) : u.thread c t = s.thread c t := by
  simp only [State.thread, h.threads]
theorem AfterFetch.sameMemory {s u : State} (h : AfterFetch s u) : SameMemory s u := ⟨h.mem, h.poison, h.flash⟩

theorem AfterFetch.core {s u : State} (h : AfterFetch s u) (c : Nat) (f : Core → Core)
    (hf : ∀ x : Core, (f x).dcache = x.dcache ∧ (f x).ready = x.ready ∧ (f x).running = x.running ∧ (f x).incoming = x.incoming) :
    AfterFetch s ((updCore c f).run u) :=
  ⟨fun k => (coreRest_updCore k c f hf u).trans (h.rest k), fun g hg => (rd_of_regs g rfl).trans (h.read g hg), h.act⟩

theorem afterFetch_touched (s : State) (a n : Nat) : AfterFetch s (touched s a n) :=
  ⟨fun k => fetchRest_touched k s a n, fun g hg => rd_touched s a n g hg, by have := touched_frame s a n; tauto⟩

/-- An instruction that can be fetched does what it does to its thread, from the state that the fetch leaves. -/
theorem loom_fetched {s : State} {c t : Nat} (h : s.canRun c t) :
    AfterFetch s (s.fetched c t) ∧ ∀ body : Nat → Thread → Act, (loom c body).run s = (body t (s.thread c t)).run (s.fetched c t) := by
  obtain ⟨hr, ha, hf, hp⟩ := h
  have hn : ¬ ((s.thread c t).pc.toNat % 4 ≠ 0 ∨ (!s.fetchable (s.thread c t).pc.toNat) = true) := by
    rintro (h4 | h4)
    · exact h4 ha
    · rw [hf] at h4; cases h4
  unfold State.fetched loom
  simp only [run_withS, hr, fetch, if_neg hn]
  split
  · next hx =>
    simp only [hx, if_true] at hp
    simp only [cached, run_withS]
    split
    · next w l hl =>
      have hu := AfterFetch.core (s := s) (u := s) ⟨fun _ => rfl, fun _ _ => rfl, by simp⟩ c
        (fun x => { x with icache := x.icache.touch (s.thread c t).pc.toNat w }) (fun _ => ⟨rfl, rfl, rfl, rfl⟩)
      simp only [run_acts_cons, run_acts_nil, run_skip, run_withS, hu.thread]
      exact ⟨hu, fun _ => trivial⟩
    · next hl =>
      rw [hl] at hp
      simp at hp
      have hu := (afterFetch_touched s ((s.thread c t).pc.toNat / 64 * 64) 64).core c
        (fun x => { x with icache := x.icache.fill (s.thread c t).pc.toNat (s.bytesAt ((s.thread c t).pc.toNat / 64 * 64) 64) })
        (fun _ => ⟨rfl, rfl, rfl, rfl⟩)
      simp only [withMem_run, hp, Bool.false_eq_true, if_false, run_acts_cons, run_acts_nil, run_withS, run_skip, hu.thread]
      exact ⟨hu, fun _ => trivial⟩
  · next hx =>
    simp only [hx, Bool.false_eq_true, if_false] at hp
    have hu := afterFetch_touched s (s.thread c t).pc.toNat 4
    simp only [withMem_run, hp, Bool.false_eq_true, if_false, run_withS, run_skip, hu.thread]
    exact ⟨hu, fun _ => trivial⟩

/-- The same, for a claim that does not name that state. -/
theorem loom_run {s : State} {c t : Nat} (h : s.canRun c t) (body : Nat → Thread → Act) :
    ∃ u, AfterFetch s u ∧ (loom c body).run s = (body t (s.thread c t)).run u :=
  ⟨_, (loom_fetched h).1, (loom_fetched h).2 body⟩

/-! ## How instructions end -/

theorem ends_zero (x : Thread) (rd : Fin 32) (v : DWord) : (x.ends rd v).reg 0 = 0 := rfl

/-- An instruction that ends with a value for a register, in a state with the threads and the memory of `s`. -/
theorem finishReg_of {s u : State} {c t : Nat} (ht : u.threads = s.threads) (hm : SameMemory s u) (rd : Fin 32) (v : DWord) :
    ThreadOnly s ((finishReg c t rd v).run u) c t ((s.thread c t).ends rd v) := by
  simp only [finishReg, finish, run_updThread]
  refine ⟨?_, ?_, hm⟩
  · rw [thread_set]
    simp only [Thread.ends, State.thread, ht]
  · intro k hk
    simp only [apply_thread, SMap.get_set_ne _ _ _ hk, ht]

/-- An instruction that ends with a value for a register. -/
theorem finishReg_run {s u : State} {c t : Nat} (h : AfterFetch s u) (rd : Fin 32) (v : DWord) :
    ThreadOnly s ((finishReg c t rd v).run u) c t ((s.thread c t).ends rd v) := finishReg_of h.threads h.sameMemory rd v

/-- An instruction that ends without a result. -/
theorem finish_run {s u : State} {c t : Nat} (h : AfterFetch s u) :
    ThreadOnly s ((finish c t id).run u) c t ((s.thread c t).ends 0 0) := finishReg_run h 0 0

/-- A trap of a thread that has a handler and is in no trap. -/
theorem trap_run {s u : State} {c t : Nat} (h : AfterFetch s u) (hx : (s.thread c t).canTrap) (cause eaddr : Nat) :
    ThreadOnly s ((trap c t cause eaddr).run u) c t
      ((s.thread c t).trapped cause eaddr (if cause = trapSoft then (s.thread c t).pc + 4 else (s.thread c t).pc)) := by
  have hc : ((u.thread c t).intrap || (u.thread c t).tvec == 0) = false := by
    rw [h.thread, hx.1]; simpa using hx.2
  simp only [trap, run_withS, run_acts_cons, run_acts_nil, run_updThread, hc, Bool.false_eq_true, if_false]
  refine ⟨?_, ?_, ?_⟩
  · rw [thread_set, thread_set, h.thread]
    rfl
  · intro k hk
    simp only [apply_thread, SMap.get_set_ne _ _ _ hk, h.threads]
  · exact h.sameMemory

/-- A jump to where code may lie. -/
theorem jump_run {s u : State} {c t : Nat} (h : AfterFetch s u) (target : DWord) (rd : Fin 32) (v : DWord) (f : Thread → Thread)
    (hf : f (s.thread c t) = (s.thread c t).setReg rd v) (hc : target.toNat % 4 = 0 ∧ u.fetchable target.toNat = true) :
    ThreadOnly s ((jump c t target f).run u) c t ((s.thread c t).lands target rd v) := by
  have hn : ¬ (target.toNat % 4 ≠ 0 ∨ (!u.fetchable target.toNat) = true) := by
    rintro (h4 | h4)
    · exact h4 hc.1
    · rw [hc.2] at h4; cases h4
  unfold jump
  rw [run_withS, if_neg hn, run_updThread]
  refine ⟨?_, ?_, ?_⟩
  · rw [thread_set, h.thread, hf]; rfl
  · intro k hk
    simp only [apply_thread, SMap.get_set_ne _ _ _ hk, h.threads]
  · exact h.sameMemory

/-- A jump to where no code may lie raises FETCH. -/
theorem jump_trap {s u : State} {c t : Nat} (h : AfterFetch s u) (hx : (s.thread c t).canTrap) (target : DWord) (f : Thread → Thread)
    (hc : ¬ (target.toNat % 4 = 0 ∧ u.fetchable target.toNat = true)) :
    ThreadOnly s ((jump c t target f).run u) c t ((s.thread c t).trapped trapFetch target.toNat (s.thread c t).pc) := by
  have : target.toNat % 4 ≠ 0 ∨ (!u.fetchable target.toNat) = true := by
    by_cases h4 : target.toNat % 4 = 0
    · right; simpa [h4] using hc
    · exact Or.inl h4
  unfold jump
  rw [run_withS, if_pos this]
  exact trap_run h hx trapFetch target.toNat

theorem quietReg_ext (g : Fld) (h : g.addr = TS_EXT_STATUS_USABLE.addr) : quietReg g.addr := by
  rw [h]; unfold quietReg reportReg; decide

theorem quietReg_bt : quietReg BT_STATUS_DEBUG.addr := by
  unfold quietReg reportReg; decide

/-- A fetch leaves the layout of memory as it was. -/
theorem AfterFetch.inExt {s u : State} (h : AfterFetch s u) (a : Nat) : u.inExt a = s.inExt a := by
  unfold State.inExt State.extSize
  rw [h.read _ (quietReg_ext TS_EXT_STATUS_USABLE rfl)]

theorem AfterFetch.fetchable {s u : State} (h : AfterFetch s u) (a : Nat) : u.fetchable a = s.fetchable a := by
  simp only [State.fetchable, h.inExt]

theorem AfterFetch.poisonedAt {s u : State} (h : AfterFetch s u) (a : Nat) : u.poisonedAt a = s.poisonedAt a := by
  simp only [State.poisonedAt, State.excludedAt, State.on, h.ts, h.poison, h.read _ (quietReg_ext TS_EXT_STATUS_PROTECT rfl)]

theorem AfterFetch.poisoned {s u : State} (h : AfterFetch s u) (a n : Nat) : u.poisoned a n = s.poisoned a n := by
  simp only [State.poisoned]
  congr 1; funext x; exact h.poisonedAt x

theorem AfterFetch.bytesAt {s u : State} (h : AfterFetch s u) (a n : Nat) : u.bytesAt a n = s.bytesAt a n := by
  simp only [State.bytesAt, State.byteAt, h.mem]

theorem AfterFetch.mayRead {s u : State} (h : AfterFetch s u) (w : Requester) (a : Nat) : u.mayRead w a = s.mayRead w a := by
  have hd : u.debugPort = s.debugPort := by
    unfold State.debugPort
    rw [h.read _ quietReg_bt]
  simp only [State.mayRead, State.inMem, h.inExt, hd]

/-- Reports of a further read change nothing that the fetch did not. -/
theorem AfterFetch.touched {s u : State} (h : AfterFetch s u) (a n : Nat) : AfterFetch s (touched u a n) := by
  have := touched_frame u a n
  have ha := h.act
  refine ⟨fun k => (fetchRest_touched k u a n).trans (h.rest k), fun g hg => (rd_touched u a n g hg).trans (h.read g hg), ?_⟩
  simp only [this, ha, and_self]

end Sys2Proof.Machine
end

