-- ==== Sys2Proof/Laws/LoomInt.lean ====
section
/-!
SUPPORT. The integer instructions: an instruction that gives a value or a trap, branch offsets, and the lanes of packed values.
-/

namespace Sys2Proof.Machine

/-- An instruction whose own effect is to end with a value for a register gives that value. -/
theorem gives_of {s : State} {c : Fin 8} {t : Nat} {rd : Fin 32} {i : Instr} {v w : DWord} (h : s.canRun c t)
    (body : Nat → Thread → Act) (hi : exec i s = done (loom c body) s) (hb : body t (s.thread c t) = finishReg c t rd w) (hv : w = v) :
    Gives s c t rd i v := by
  subst hv
  obtain ⟨u, hu, hr⟩ := loom_run h body
  exact ⟨_, by rw [hi, done_eq, hr, hb], finishReg_run hu rd w⟩

/-- An instruction whose own effect is to trap raises that trap. -/
theorem traps_of {s : State} {c : Fin 8} {t : Nat} {i : Instr} {cause e : Nat} (h : s.canRun c t) (hx : (s.thread c t).canTrap)
    (body : Nat → Thread → Act) (hi : exec i s = done (loom c body) s) (hb : body t (s.thread c t) = trap c t cause e) (hc : cause ≠ 9) :
    Traps s c t i cause e (s.thread c t).pc := by
  obtain ⟨u, hu, hr⟩ := loom_run h body
  have := trap_run hu hx cause e
  rw [if_neg (show cause ≠ trapSoft from hc)] at this
  exact ⟨_, by rw [hi, done_eq, hr, hb], this⟩

/-! ## Lanes (R244) -/

theorem lane_eq (v : DWord) (k : Nat) : lane v k = v.toNat / 2 ^ (16 * k) % 65536 := by
  unfold lane bits
  rw [show 16 * k + 15 + 1 - 16 * k = 16 by omega, show 2 ^ 16 = 65536 by norm_num]

theorem lane_lt (v : DWord) (k : Nat) : lane v k < 65536 := by
  rw [lane_eq]; exact Nat.mod_lt _ (by decide)

theorem pack_lanes (y0 y1 y2 y3 : Nat) (h0 : y0 < 65536) (h1 : y1 < 65536) (h2 : y2 < 65536) (h3 : y3 < 65536) :
    lane (BitVec.ofNat 64 (y0 + y1 * 65536 + y2 * 4294967296 + y3 * 281474976710656)) 0 = y0 ∧
    lane (BitVec.ofNat 64 (y0 + y1 * 65536 + y2 * 4294967296 + y3 * 281474976710656)) 1 = y1 ∧
    lane (BitVec.ofNat 64 (y0 + y1 * 65536 + y2 * 4294967296 + y3 * 281474976710656)) 2 = y2 ∧
    lane (BitVec.ofNat 64 (y0 + y1 * 65536 + y2 * 4294967296 + y3 * 281474976710656)) 3 = y3 := by
  simp only [lane_eq, BitVec.toNat_ofNat]
  norm_num
  omega

theorem packed_eq (f : Nat → Nat → Nat → Nat) (a b d : DWord) :
    packed f a b d = BitVec.ofNat 64 (f (lane a 0) (lane b 0) (lane d 0) % 65536 + f (lane a 1) (lane b 1) (lane d 1) % 65536 * 65536
    + f (lane a 2) (lane b 2) (lane d 2) % 65536 * 4294967296 + f (lane a 3) (lane b 3) (lane d 3) % 65536 * 281474976710656) := rfl

theorem lane_packed (f : Nat → Nat → Nat → Nat) (a b d : DWord) (k : Nat) (hk : k < 4) :
    lane (packed f a b d) k = f (lane a k) (lane b k) (lane d k) % 65536 := by
  have m : ∀ n, n % 65536 < 65536 := fun n => Nat.mod_lt _ (by decide)
  rw [packed_eq]
  obtain ⟨h0, h1, h2, h3⟩ := pack_lanes _ _ _ _ (m (f (lane a 0) (lane b 0) (lane d 0))) (m (f (lane a 1) (lane b 1) (lane d 1)))
    (m (f (lane a 2) (lane b 2) (lane d 2))) (m (f (lane a 3) (lane b 3) (lane d 3)))
  interval_cases k
  · exact h0
  · exact h1
  · exact h2
  · exact h3

/-! ## Displacements (R243) -/

theorem away_eq (x : Thread) {w : Nat} (v : BitVec w) (hw : w ≤ 64) : x.away w v.toNat = x.pc + 4 * v.signExtend 64 := by
  unfold Thread.away
  congr 1
  apply BitVec.eq_of_toInt_eq
  have : signedOf w v.toNat = v.toInt := by
    unfold signedOf; rw [Nat.mod_eq_of_lt v.isLt, BitVec.toInt_eq_toNat_cond]; push_cast; rfl
  rw [this, BitVec.toInt_ofInt, BitVec.toInt_mul, BitVec.toInt_signExtend_of_le hw]
  rfl

end Sys2Proof.Machine
end

