-- ==== Sys2Proof/Laws/LoomMem.lean ====
section
/-!
SUPPORT. Loads, stores and atomics: what an access checks, what a load finds, and what a store within one word of memory writes.
-/

namespace Sys2Proof.Machine

/-! ## Bytes of memory -/

theorem leBytes_length (n v : Nat) : (leBytes n v).length = n := by
  induction n generalizing v with
  | zero => rfl
  | succ n ih => simp [leBytes, ih]

theorem leBytes_get (n v i : Nat) (h : i < n) : (leBytes n v).getD i 0 = BitVec.ofNat 8 (v / 256 ^ i) := by
  induction n generalizing v i with
  | zero => omega
  | succ n ih =>
    cases i with
    | zero => simp [leBytes]
    | succ i =>
      simp only [leBytes, List.getD_cons_succ]
      rw [ih _ _ (by omega), Nat.div_div_eq_div_mul, pow_succ, Nat.mul_comm]

theorem ofLe_lt (bs : List Byte) : ofLe bs < 256 ^ bs.length := by
  induction bs with
  | nil => simp [ofLe]
  | cons b bs ih =>
    have := b.isLt
    simp only [ofLe, List.length_cons, pow_succ]
    omega

/-- The bytes that a list of updates stores. -/
theorem byteAt_storeBytes (a : Nat) (bs : List Byte) (s : State) (x : Nat) :
    ((storeBytes a bs).run s).byteAt x = if a ≤ x ∧ x < a + bs.length then bs.getD (x - a) 0 else s.byteAt x := by
  induction bs generalizing a s with
  | nil =>
    have : ¬ (a ≤ x ∧ x < a + ([] : List Byte).length) := by simp
    rw [if_neg this]; rfl
  | cons b bs ih =>
    have hr : (storeBytes a (b :: bs)).run s = applyAll (storeBytes (a + 1) bs s) (Upd.apply s (.mem a b)) := rfl
    have hs : ∀ (l : List Byte) (a : Nat) (s t : State), storeBytes a l s = storeBytes a l t := by
      intro l
      induction l with
      | nil => intro _ _ _; rfl
      | cons c l il => intro a s t; simp only [storeBytes]; rw [il (a + 1) s t]
    rw [hr, hs bs (a + 1) s (Upd.apply s (.mem a b))]
    have := ih (a + 1) (Upd.apply s (.mem a b))
    rw [Act.run] at this
    rw [this]
    have hb : (Upd.apply s (.mem a b)).byteAt x = if x = a then b else s.byteAt x := by
      simp only [State.byteAt, apply_mem, SMap.get_set]
    rw [hb]
    by_cases h1 : x = a
    · subst h1; simp
    · by_cases h2 : a ≤ x ∧ x < a + (b :: bs).length
      · have h3 : a + 1 ≤ x ∧ x < a + 1 + bs.length := by simp at h2; omega
        rw [if_pos h2, if_pos h3, show x - a = (x - (a + 1)) + 1 by omega, List.getD_cons_succ]
      · have h3 : ¬ (a + 1 ≤ x ∧ x < a + 1 + bs.length) := by simp at h2; omega
        rw [if_neg h2, if_neg h3, if_neg h1]

theorem only_storeBytes (a : Nat) (bs : List Byte) : Only (fun u => ∃ x b, u = .mem x b) (storeBytes a bs) := by
  induction bs generalizing a with
  | nil => exact only_skip _
  | cons b bs ih =>
    intro s u hu
    simp only [storeBytes, List.mem_cons] at hu
    rcases hu with rfl | hu
    · exact ⟨_, _, rfl⟩
    · exact ih (a + 1) s u hu

/-- A part of a word lies in one word. -/
theorem wordsOf_one (a n : Nat) (h0 : 0 < n) (h : a / 32 = (a + n - 1) / 32) : wordsOf a n = [a / 32 * 32] := by
  unfold wordsOf
  rw [if_neg (by omega), ← h, Nat.sub_self]
  rfl

/-- What a write of part of one word does: the bytes are stored, the others stay, and nothing beside registers, records, wakes and
symbol errors changes. -/
structure WroteWord (s u : State) (a : Nat) (data : List Byte) : Prop where
  bytes : ∀ x, u.byteAt x = if a ≤ x ∧ x < a + data.length then data.getD (x - a) 0 else s.byteAt x
  rest : u.threads = s.threads ∧ u.poison = s.poison ∧ u.flash = s.flash

theorem writeWord_run (s : State) (a : Nat) (data : List Byte) (h0 : 0 < data.length) (hl : data.length < 32)
    (h : a / 32 = (a + data.length - 1) / 32) (hx : s.excludedAt (a / 32 * 32) = false) :
    WroteWord s ((writeWord a data (a / 32 * 32)).run s) a data := by
  have hlo : max a (a / 32 * 32) = a := by omega
  have hhi : min (a + data.length) (a / 32 * 32 + 32) = a + data.length := by omega
  have hpart : (data.drop (a - a)).take (a + data.length - a) = data := by simp
  have h1 : decide (a + data.length - a < 32) = true := by simp; omega
  have h2 : (a + data.length - a == 32) = false := by simp; omega
  simp only [writeWord, run_withS, hlo, hhi, hpart, h1, h2, hx, Bool.false_eq_true, if_false, run_acts_cons, run_acts_nil,
    run_whenDo, if_true, run_updTs]
  have ht : (touchWord (a / 32 * 32)).run s = touched s (a / 32 * 32) 1 := by
    unfold touched
    rw [wordsOf_one _ 1 (by decide) (by omega)]
    rw [show a / 32 * 32 / 32 * 32 = a / 32 * 32 by omega]
    simp only [run_forEach_cons, run_forEach_nil]
  rw [ht]
  have hf := touched_frame s (a / 32 * 32) 1
  generalize touched s (a / 32 * 32) 1 = w at hf
  have hk {β : Type} (g : State → β) (hg : ∀ x b t, g (Upd.apply t (.mem x b)) = g t) : g ((storeBytes a data).run w) = g w :=
    (only_storeBytes a data).keeps g (fun u hu t => by obtain ⟨x, b, rfl⟩ := hu; exact hg x b t) w
  refine ⟨fun x => ?_, (hk State.threads fun _ _ _ => rfl).trans hf.2.2.2.2.2.1, (hk State.poison fun _ _ _ => rfl).trans hf.2.1,
    (hk State.flash fun _ _ _ => rfl).trans hf.2.2.1⟩
  have := byteAt_storeBytes a data w x
  rw [show s.byteAt x = w.byteAt x by simp only [State.byteAt, hf.1]]
  exact this

/-- The updates of a report of the lists in use. -/
theorem only_watchWrite (w : Requester) (a n : Nat) :
    Only (fun u => ledgerUpd u ∨ eventUpd DR_EVENT_LATE_FREE.addr u ∨ ∃ r v, u = .reg DR_LATE_FREE.addr r v) (watchWrite w a n) := by
  refine only_withS fun s => ?_
  split
  · refine only_whenDo (only_cons (only_withS fun _ => only_one fun _ => Or.inr (Or.inr ⟨_, _, rfl⟩)) (only_cons ?_ (only_cons ?_ (only_nil _))))
    · exact (only_setEvent _).mono fun _ h => Or.inr (Or.inl h)
    · exact (only_ledger _ _ _ _).mono fun _ h => Or.inl h
  · exact only_skip _

theorem only_ctxDeny (a : Nat) :
    Only (fun u => ledgerUpd u ∨ eventUpd FM_EVENT_CTX_DENY.addr u ∨ ∃ r v, u = .reg FM_CTX_DENY.addr r v) (ctxDeny a) := by
  refine only_cons (only_withS fun _ => only_one fun _ => Or.inr (Or.inr ⟨_, _, rfl⟩)) (only_cons ?_ (only_cons ?_ (only_nil _)))
  · exact (only_setEvent _).mono fun _ h => Or.inr (Or.inl h)
  · exact (only_ledger _ _ _ _).mono fun _ h => Or.inl h

theorem report_keeps {β : Type} (g : State → β) (a b : Nat) {u : Upd}
    (h : ledgerUpd u ∨ eventUpd a u ∨ ∃ r v, u = .reg b r v) (t : State)
    (hk : ∀ u : State, u.mem = t.mem → u.threads = t.threads → u.poison = t.poison → u.flash = t.flash → g u = g t) :
    g (u.apply t) = g t := by
  rcases h with h | h | ⟨r, v, rfl⟩
  · have := ledgerUpd_keeps h t; exact hk _ this.1 this.2.2.2.2.2.1 this.2.1 this.2.2.1
  · have := eventUpd_keeps h t; exact hk _ this.1 this.2.2.2.2.2.1 this.2.1 this.2.2.1
  · exact hk _ rfl rfl rfl rfl

theorem WroteWord.after {s u v : State} {a : Nat} {data : List Byte} (h : WroteWord s u a data) (hm : v.mem = u.mem)
    (ht : v.threads = u.threads) (hp : v.poison = u.poison) (hf : v.flash = u.flash) : WroteWord s v a data :=
  ⟨fun x => by rw [← h.bytes x]; simp only [State.byteAt, hm], by rw [ht, hp, hf]; exact h.rest⟩

/-- The requester may write every byte of the part of a word. -/
theorem mayWrite_word (s : State) (w : Requester) (a n : Nat) (h : a / 32 = (a + n - 1) / 32) (hm : s.mayWrite w a = true) :
    ((List.range n).all fun i => s.mayWrite w (a + i)) = true := by
  rw [List.all_eq_true]
  intro i hi
  have hi : i < n := by simpa using hi
  have key : s.mayWrite w (a + i) = s.mayWrite w a := by
    unfold State.mayWrite State.mayRead State.inMem inStock State.inExt inTile inRing extBase State.extSize
    have e1 : (a + i < 0x6000000) = (a < 0x6000000) := by apply propext; omega
    have e2 : (0x100000000 ≤ a + i ∧ a + i < 0x100000000 + s.rd TS_EXT_STATUS_USABLE * 2 ^ 20) =
        (0x100000000 ≤ a ∧ a < 0x100000000 + s.rd TS_EXT_STATUS_USABLE * 2 ^ 20) := by apply propext; omega
    have e3 : (0x4C00000 ≤ a + i ∧ a + i < 0x5800000) = (0x4C00000 ≤ a ∧ a < 0x5800000) := by apply propext; omega
    have e4 : (0x5800000 ≤ a + i ∧ a + i < 0x5900000) = (0x5800000 ≤ a ∧ a < 0x5900000) := by apply propext; omega
    simp only [e1, e2, e3, e4]
  rw [key]; exact hm

/-- A permitted write of part of a word that no context area locks. -/
theorem memWriteFor_run (s : State) (w : Requester) (a : Nat) (data : List Byte) (h0 : 0 < data.length) (hl : data.length < 32)
    (h : a / 32 = (a + data.length - 1) / 32) (hx : s.excludedAt (a / 32 * 32) = false) (hm : s.mayWrite w a = true)
    (hc : s.ctxLocked (a / 32 * 32) = false) : WroteWord s ((memWriteFor w a data).run s) a data := by
  have hw := wordsOf_one a data.length h0 h
  have h1 : ([a / 32 * 32].filter fun x => !s.ctxLocked x) = [a / 32 * 32] := by simp [hc]
  have h2 : [a / 32 * 32].any s.ctxLocked = false := by simp [hc]
  unfold memWriteFor
  rw [run_withS, if_pos (mayWrite_word s w a _ h hm), hw]
  dsimp only
  rw [h1, h2, run_acts_cons, run_acts_cons, run_acts_cons, run_acts_nil,
    run_forEach_cons, run_forEach_nil, run_whenDo, run_whenDo, if_neg Bool.false_ne_true]
  have hww := writeWord_run s a data h0 hl h hx
  split
  · have k {β : Type} (g : State → β) (hk : ∀ t u : State, u.mem = t.mem → u.threads = t.threads → u.poison = t.poison → u.flash = t.flash → g u = g t) :=
      (only_watchWrite w a data.length).keeps g (fun u hu t => report_keeps g _ _ hu t (hk t))
        ((writeWord a data (a / 32 * 32)).run s)
    exact hww.after (k _ fun _ _ h _ _ _ => h) (k _ fun _ _ _ h _ _ => h) (k _ fun _ _ _ _ h _ => h) (k _ fun _ _ _ _ _ h => h)
  · exact hww

/-- A write into a locked context area stores nothing. -/
theorem memWriteFor_locked (s : State) (w : Requester) (a : Nat) (data : List Byte) (h0 : 0 < data.length)
    (h : a / 32 = (a + data.length - 1) / 32) (hm : s.mayWrite w a = true) (hc : s.ctxLocked (a / 32 * 32) = true) :
    let u := (memWriteFor w a data).run s
    u.mem = s.mem ∧ u.threads = s.threads ∧ u.poison = s.poison ∧ u.flash = s.flash := by
  have hw := wordsOf_one a data.length h0 h
  have h1 : ([a / 32 * 32].filter fun x => !s.ctxLocked x) = [] := by simp [hc]
  have h2 : [a / 32 * 32].any s.ctxLocked = true := by simp [hc]
  unfold memWriteFor
  rw [run_withS, if_pos (mayWrite_word s w a _ h hm), hw]
  dsimp only
  rw [h1, h2, run_acts_cons, run_acts_cons, run_acts_cons, run_acts_nil,
    run_forEach_nil, run_whenDo, run_whenDo, if_pos rfl]
  have k1 {β : Type} (g : State → β) (hk : ∀ t u : State, u.mem = t.mem → u.threads = t.threads → u.poison = t.poison → u.flash = t.flash → g u = g t) (t : State) :=
    (only_ctxDeny a).keeps g (fun u hu t => report_keeps g _ _ hu t (hk t)) t
  have k2 {β : Type} (g : State → β) (hk : ∀ t u : State, u.mem = t.mem → u.threads = t.threads → u.poison = t.poison → u.flash = t.flash → g u = g t) (t : State) :=
    (only_watchWrite w a data.length).keeps g (fun u hu t => report_keeps g _ _ hu t (hk t)) t
  have both {β : Type} (g : State → β) (hk : ∀ t u : State, u.mem = t.mem → u.threads = t.threads → u.poison = t.poison → u.flash = t.flash → g u = g t) :
      g (if (!s.dr.watch.isEmpty) = true then (watchWrite w a data.length).run ((ctxDeny a).run s) else (ctxDeny a).run s) = g s := by
    split
    · rw [k2 g hk, k1 g hk]
    · rw [k1 g hk]
  exact ⟨both _ fun _ _ h _ _ _ => h, both _ fun _ _ _ h _ _ => h, both _ fun _ _ _ _ h _ => h, both _ fun _ _ _ _ _ h => h⟩

/-! ## What accesses check, and what loads find -/

/-- A part of the bytes at an address. -/
theorem bytesAt_slice (s : State) (p m o n : Nat) (h : o + n ≤ m) : ((s.bytesAt p m).drop o).take n = s.bytesAt (p + o) n := by
  apply List.ext_getElem
  · simp [State.bytesAt]; omega
  · intro i h1 h2
    simp [State.bytesAt] at h1 h2 ⊢
    rw [Nat.add_assoc]

/-- A load that may be made goes to external memory or to Stockroom. -/
theorem place_load {s u : State} (h : AfterFetch s u) {c t a n : Nat} (hl : s.loadable c t a n) (k : Place → Act) :
    (place c t a n false k).run u = (k (if s.inExt a then .ext else .stock)).run u := by
  obtain ⟨ha, hb, hr, hm⟩ := hl
  unfold place
  rw [run_withS]
  dsimp only
  rw [if_neg (not_not.2 ha), if_neg (by omega), hr, Bool.false_and, if_neg Bool.false_ne_true,
    if_neg (by rw [State.isUnmapped, hr, h.mayRead, hm]; simp only [Bool.false_eq_true, if_false, Bool.not_true, not_false_iff]), if_neg Bool.false_ne_true, h.inExt]
  split <;> rfl

/-- A store that may be made goes to external memory or to Stockroom. -/
theorem place_store {s u : State} (h : AfterFetch s u) {c t a n : Nat} (hl : s.storable c t a n) (k : Place → Act) :
    (place c t a n true k).run u = (k (if s.inExt a then .ext else .stock)).run u := by
  obtain ⟨ha, hb, hr, hm, -⟩ := hl
  have hw : u.mayWrite (threadReq c t) a = true := by rw [State.mayWrite, h.mayRead]; exact hm
  unfold place
  rw [run_withS]
  dsimp only
  rw [if_neg (not_not.2 ha), if_neg (by omega), hr, Bool.false_and, if_neg Bool.false_ne_true,
    if_neg (by rw [State.isUnmapped, hr, hw]; simp only [Bool.false_eq_true, if_false, if_true, Bool.not_true, not_false_iff]), if_neg Bool.false_ne_true, h.inExt]
  split <;> rfl

/-- An access of a part of a line lies in that line. -/
theorem line_fits {a n : Nat} (hn : n = 1 ∨ n = 2 ∨ n = 4 ∨ n = 8) (ha : a % n = 0) : a % 64 + n ≤ 64 := by
  rcases hn with rfl | rfl | rfl | rfl <;> omega

theorem word_fits {a n : Nat} (hn : n = 1 ∨ n = 2 ∨ n = 4 ∨ n = 8) (ha : a % n = 0) : a / 32 = (a + n - 1) / 32 := by
  rcases hn with rfl | rfl | rfl | rfl <;> omega

/-- A load of memory that is not poisoned gives what it finds. -/
theorem loadAt_run {s u : State} (h : AfterFetch s u) {c t a n : Nat} (hn : n = 1 ∨ n = 2 ∨ n = 4 ∨ n = 8) (hl : s.loadable c t a n)
    {bs : List Byte} (hv : s.loadView c a n = some bs) (rd : Fin 32) (sg : Bool) :
    ThreadOnly s ((loadAt c t a n rd sg).run u) c t ((s.thread c t).ends rd (loaded n sg bs)) := by
  have hf := line_fits hn hl.1
  unfold loadAt
  dsimp only
  rw [place_load h hl]
  unfold State.loadView at hv
  by_cases hx : s.inExt a
  · rw [if_pos hx] at hv ⊢
    unfold cached
    rw [run_withS, h.dcache]
    split at hv
    · next w l hw =>
      try rw [hw]
      simp only [Option.some.injEq] at hv
      dsimp only
      rw [run_acts_cons, run_acts_cons, run_acts_nil, hv]
      exact finishReg_of h.threads h.sameMemory rd _
    · next hw =>
      try rw [hw]
      split at hv
      · cases hv
      · next hp =>
        simp only [Option.some.injEq] at hv
        dsimp only
        rw [withMem_run, h.poisoned, Bool.eq_false_iff.2 hp, if_neg Bool.false_ne_true, run_acts_cons, run_acts_cons, run_acts_nil,
          bytesAt_slice _ _ _ _ _ hf, h.bytesAt, show a / 64 * 64 + a % 64 = a by omega, hv]
        have hu := h.touched (a / 64 * 64) 64
        exact finishReg_of hu.threads hu.sameMemory rd _
  · rw [if_neg hx] at hv ⊢
    split at hv
    · cases hv
    · next hp =>
      simp only [Option.some.injEq] at hv
      dsimp only
      rw [withMem_run, h.poisoned, Bool.eq_false_iff.2 hp, if_neg Bool.false_ne_true, h.bytesAt, hv]
      exact finishReg_run (h.touched _ _) rd _

/-- A load of poisoned memory raises POISON. -/
theorem loadAt_poison {s u : State} (h : AfterFetch s u) {c t a n : Nat} (hl : s.loadable c t a n)
    (hv : s.loadView c a n = none) (hx : (s.thread c t).canTrap) (rd : Fin 32) (sg : Bool) :
    ThreadOnly s ((loadAt c t a n rd sg).run u) c t ((s.thread c t).trapped trapPoison a (s.thread c t).pc) := by
  have tr {v : State} (hv : AfterFetch s v) := trap_run hv hx trapPoison a
  rw [if_neg (by decide)] at tr
  unfold loadAt
  dsimp only
  rw [place_load h hl]
  unfold State.loadView at hv
  by_cases he : s.inExt a
  · rw [if_pos he] at hv ⊢
    unfold cached
    rw [run_withS, h.dcache]
    split at hv
    · cases hv
    · next hw =>
      try rw [hw]
      split at hv
      · next hp =>
        dsimp only
        rw [withMem_run, h.poisoned, hp, if_pos rfl]
        exact tr (h.touched _ _)
      · cases hv
  · rw [if_neg he] at hv ⊢
    split at hv
    · next hp =>
      dsimp only
      rw [withMem_run, h.poisoned, hp, if_pos rfl]
      exact tr (h.touched _ _)
    · cases hv

/-! ## Stores -/

/-- An instruction that ends changes no thread's state, so no context area becomes locked or free. -/
theorem finish_ctxLocked {s u : State} (h : AfterFetch s u) (c t a : Nat) (f : Thread → Thread) (hf : ∀ x, (f x).st = x.st) :
    ((finish c t f).run u).ctxLocked a = s.ctxLocked a := by
  have hst : ∀ c' t', (((finish c t f).run u).thread c' t').st = (s.thread c' t').st := by
    intro c' t'
    simp only [finish, run_updThread]
    by_cases hk : tkey c' t' = tkey c t
    · simp only [State.thread, apply_thread, hk, SMap.get_set_same, h.threads]
      exact hf _
    · rw [thread_set_ne _ _ _ _ _ hk, h.thread]
  unfold State.ctxLocked
  split
  · rw [hst]
  · rfl

/-- The state after an instruction has ended and before its store: what a store checks stands as before. -/
theorem finish_store {s u : State} (h : AfterFetch s u) (c t : Nat) (f : Thread → Thread) :
    let w := (finish c t f).run u
    (∀ r a, w.mayWrite r a = s.mayWrite r a) ∧ (∀ a, w.excludedAt a = s.excludedAt a) ∧ (∀ a, w.byteAt a = s.byteAt a) ∧
    w.poison = s.poison ∧ w.flash = s.flash := by
  refine ⟨fun r a => ?_, fun a => ?_, fun a => ?_, h.poison, h.flash⟩
  · show State.mayWrite u r a = _
    rw [State.mayWrite, h.mayRead]; rfl
  · show State.excludedAt u a = _
    rw [State.excludedAt, h.ts]; rfl
  · show u.byteAt a = _
    simp only [State.byteAt, h.mem]

/-- The thread, the other threads and the bytes after an instruction that ends with `v` for `rd` and stores within one word. -/
theorem finish_then_store {s u : State} (h : AfterFetch s u) {c t a n : Nat} (hn : n = 1 ∨ n = 2 ∨ n = 4 ∨ n = 8)
    (hs : s.storable c t a n) (hc : s.ctxLocked (a / 32 * 32) = false) (rd : Fin 32) (v w : DWord) (z : State)
    (hz : z.mem = ((memWriteFor (threadReq c t) a (leBytes n w.toNat)).run ((finishReg c t rd v).run u)).mem ∧
      z.threads = ((memWriteFor (threadReq c t) a (leBytes n w.toNat)).run ((finishReg c t rd v).run u)).threads ∧
      z.poison = ((memWriteFor (threadReq c t) a (leBytes n w.toNat)).run ((finishReg c t rd v).run u)).poison ∧
      z.flash = ((memWriteFor (threadReq c t) a (leBytes n w.toNat)).run ((finishReg c t rd v).run u)).flash) :
    z.thread c t = (s.thread c t).ends rd v ∧ (∀ k, k ≠ tkey c t → z.threads.get {} k = s.threads.get {} k) ∧ Stored s z a n w := by
  have hw := word_fits hn hs.1
  have hl := leBytes_length n w.toNat
  have hd := finishReg_run (c := c) (t := t) h rd v
  obtain ⟨h1, h2, h3, h4, h5⟩ := finish_store h c t fun x => x.setReg rd v
  have hlk := finish_ctxLocked h c t (a / 32 * 32) (fun x => x.setReg rd v) (by intro x; unfold Thread.setReg; split <;> rfl)
  have ww := memWriteFor_run ((finishReg c t rd v).run u) (threadReq c t) a (leBytes n w.toNat) (by omega) (by omega) (by rw [hl]; exact hw)
    (by unfold finishReg; rw [h2]; exact hs.2.2.2.2) (by unfold finishReg; rw [h1]; exact hs.2.2.2.1)
    (by unfold finishReg; rw [hlk]; exact hc)
  have ww := ww.after hz.1 hz.2.1 hz.2.2.1 hz.2.2.2
  obtain ⟨rt, rp, rf⟩ := ww.rest
  refine ⟨?_, ?_, ?_, ?_, ?_, ?_⟩
  · rw [← hd.1]; simp only [State.thread, rt]
  · intro k hk; rw [rt]; exact hd.2.1 k hk
  · intro i hi
    rw [ww.bytes, if_pos (by omega), show a + i - a = i by omega, leBytes_get _ _ _ hi]
  · intro x hx
    rw [ww.bytes, if_neg (by omega)]; exact h3 x
  · rw [rp]; exact h4
  · rw [rf]; exact h5

/-- A store that may be made. -/
theorem storeAt_run {s u : State} (h : AfterFetch s u) {c t a n : Nat} (hn : n = 1 ∨ n = 2 ∨ n = 4 ∨ n = 8)
    (hs : s.storable c t a n) (hc : s.ctxLocked (a / 32 * 32) = false) (v : DWord) :
    let z := (storeAt c t a n v).run u
    z.thread c t = (s.thread c t).ends 0 0 ∧ (∀ k, k ≠ tkey c t → z.threads.get {} k = s.threads.get {} k) ∧ Stored s z a n v := by
  intro z
  refine finish_then_store h hn hs hc 0 0 v z ?_
  simp only [z]
  unfold storeAt
  dsimp only
  rw [place_store h hs]
  by_cases hx : s.inExt a = true
  all_goals first | rw [if_pos hx] | rw [if_neg hx]
  all_goals dsimp only
  all_goals exact ⟨by simp only [run_acts_cons, run_acts_nil]; rfl, by simp only [run_acts_cons, run_acts_nil]; rfl,
    by simp only [run_acts_cons, run_acts_nil]; rfl, by simp only [run_acts_cons, run_acts_nil]; rfl⟩

/-- A store into a locked context area ends the instruction and writes nothing. -/
theorem storeAt_locked {s u : State} (h : AfterFetch s u) {c t a n : Nat} (hn : n = 1 ∨ n = 2 ∨ n = 4 ∨ n = 8)
    (hs : s.storable c t a n) (hc : s.ctxLocked (a / 32 * 32) = true) (v : DWord) :
    ((storeAt c t a n v).run u).thread c t = (s.thread c t).ends 0 0 ∧ SameMemory s ((storeAt c t a n v).run u) := by
  have hw := word_fits hn hs.1
  have hl := leBytes_length n v.toNat
  have hd := finishReg_run (c := c) (t := t) h 0 0
  obtain ⟨h1, -, -, -, -⟩ := finish_store h c t id
  have hlk := finish_ctxLocked h c t (a / 32 * 32) id (fun _ => rfl)
  obtain ⟨e1, e2, e3, e4⟩ := memWriteFor_locked ((finish c t id).run u) (threadReq c t) a (leBytes n v.toNat) (by omega) (by rw [hl]; exact hw)
    (by rw [h1]; exact hs.2.2.2.1) (by rw [hlk]; exact hc)
  have key : ∀ z : State, z.mem = ((memWriteFor (threadReq c t) a (leBytes n v.toNat)).run ((finish c t id).run u)).mem →
      z.threads = ((memWriteFor (threadReq c t) a (leBytes n v.toNat)).run ((finish c t id).run u)).threads →
      z.poison = ((memWriteFor (threadReq c t) a (leBytes n v.toNat)).run ((finish c t id).run u)).poison →
      z.flash = ((memWriteFor (threadReq c t) a (leBytes n v.toNat)).run ((finish c t id).run u)).flash →
      z.thread c t = (s.thread c t).ends 0 0 ∧ SameMemory s z := by
    intro z z1 z2 z3 z4
    refine ⟨?_, z1.trans (e1.trans hd.2.2.1), z3.trans (e3.trans hd.2.2.2.1), z4.trans (e4.trans hd.2.2.2.2)⟩
    rw [← hd.1]; simp only [State.thread, z2, e2]; rfl
  unfold storeAt
  dsimp only
  rw [place_store h hs]
  by_cases hx : s.inExt a = true
  all_goals first | rw [if_pos hx] | rw [if_neg hx]
  all_goals dsimp only
  all_goals apply key <;> simp only [run_acts_cons, run_acts_nil] <;> rfl

/-- An atomic access that may be made reads 8 bytes of Stockroom. -/
theorem atomicAt_run {s u : State} (h : AfterFetch s u) {c t a : Nat} (hs : s.storable c t a 8) (hi : inStock a = true)
    (hp : s.poisoned a 8 = false) (k : DWord → Act) :
    (atomicAt c t a k).run u = (k (BitVec.ofNat 64 (ofLe (s.bytesAt a 8)))).run (touched u a 8) := by
  obtain ⟨ha, hb, hr, hm, -⟩ := hs
  have hw : u.mayWrite (threadReq c t) a = true := by rw [State.mayWrite, h.mayRead]; exact hm
  unfold atomicAt
  rw [run_withS]
  dsimp only
  rw [if_neg (not_not.2 ha), if_neg (by omega), hr, Bool.false_and, if_neg Bool.false_ne_true,
    if_neg (by rw [State.isUnmapped, hr, hw]; simp only [Bool.false_eq_true, if_false, if_true, Bool.not_true, not_false_iff]), hi]
  rw [if_neg (by decide), withMem_run, h.poisoned, hp, if_neg Bool.false_ne_true, h.bytesAt]

end Sys2Proof.Machine
end

