-- ==== Sys2Proof/Laws/LoomSys.lean ====
section
/-!
SUPPORT. The system instructions: leaving the core, waits, and wakes handed to a core.
-/

namespace Sys2Proof.Machine

/-! ## What writing memory keeps -/

/-- What a write of memory may do. -/
def memUpd (u : Upd) : Prop :=
  reportUpd u ∨ (∃ a b, u = .mem a b) ∨ (∃ x, u = .ts x) ∨ ∃ w p, u = .poison w p

theorem only_writeWord (a : Nat) (data : List Byte) (w : Nat) : Only memUpd (writeWord a data w) := by
  refine only_withS fun _ => only_ite ?_ ?_
  · exact only_whenDo ((only_reportPoison w).mono fun _ h => Or.inl h)
  · refine only_cons (only_whenDo ((only_touchWord w).mono fun _ h => Or.inl h)) (only_cons ((only_storeBytes _ _).mono fun _ h => Or.inr (Or.inl h))
      (only_cons (only_one fun _ => Or.inr (Or.inr (Or.inl ⟨_, rfl⟩))) (only_cons (only_whenDo (only_one fun _ => Or.inr (Or.inr (Or.inr ⟨_, _, rfl⟩)))) (only_nil _))))

theorem only_memWrite (a : Nat) (data : List Byte) : Only memUpd (memWrite a data) := only_forEach _ fun _ _ => only_writeWord a data _

theorem memUpd_rd {u : Upd} (h : memUpd u) (g : Fld) (hq : quietReg g.addr) (t : State) : (u.apply t).rd g = t.rd g := by
  rcases h with h | ⟨a, b, rfl⟩ | ⟨x, rfl⟩ | ⟨w, p, rfl⟩
  · exact reportUpd_rd h g hq t
  · rfl
  · rfl
  · rfl

/-- What a write of memory leaves as it was. -/
theorem memUpd_keeps {u : Upd} (h : memUpd u) (t : State) :
    (u.apply t).flash = t.flash ∧ (u.apply t).active = t.active ∧
    (u.apply t).predicted = t.predicted ∧ (u.apply t).threads = t.threads ∧ (u.apply t).ys = t.ys ∧ (u.apply t).fm = t.fm ∧
    (u.apply t).dr = t.dr ∧ (u.apply t).tb = t.tb ∧ (u.apply t).tl = t.tl ∧ (u.apply t).td = t.td ∧
    (u.apply t).net = t.net ∧ (u.apply t).ll = t.ll ∧ (u.apply t).hst = t.hst ∧ (u.apply t).boot = t.boot ∧
    (u.apply t).sh = t.sh ∧ (u.apply t).ty = t.ty ∧ (u.apply t).trim = t.trim ∧
    (u.apply t).fences = t.fences ∧ (u.apply t).reply = t.reply ∧ (u.apply t).now = t.now := by
  rcases h with (h | h | ⟨a, r, v, rfl, -⟩ | ⟨x, rfl⟩) | ⟨a, b, rfl⟩ | ⟨x, rfl⟩ | ⟨w, p, rfl⟩
  · have := ledgerUpd_keeps h t; tauto
  · have := eventUpd_keeps h t; tauto
  all_goals exact ⟨rfl, rfl, rfl, rfl, rfl, rfl, rfl, rfl, rfl, rfl, rfl, rfl, rfl, rfl, rfl, rfl, rfl, rfl, rfl, rfl⟩

theorem mem_frame {x : Act} (h : Only memUpd x) (s : State) :
    (x.run s).flash = s.flash ∧ (x.run s).active = s.active ∧
    (x.run s).predicted = s.predicted ∧ (x.run s).threads = s.threads ∧ (x.run s).ys = s.ys ∧ (x.run s).fm = s.fm ∧
    (x.run s).dr = s.dr ∧ (x.run s).tb = s.tb ∧ (x.run s).tl = s.tl ∧ (x.run s).td = s.td ∧
    (x.run s).net = s.net ∧ (x.run s).ll = s.ll ∧ (x.run s).hst = s.hst ∧ (x.run s).boot = s.boot ∧
    (x.run s).sh = s.sh ∧ (x.run s).ty = s.ty ∧ (x.run s).trim = s.trim ∧
    (x.run s).fences = s.fences ∧ (x.run s).reply = s.reply ∧ (x.run s).now = s.now := by
  have k {β : Type} (g : State → β) (hg : ∀ u, memUpd u → ∀ t, g (u.apply t) = g t) := h.keeps g hg s
  refine ⟨k _ ?_, k _ ?_, k _ ?_, k _ ?_, k _ ?_, k _ ?_, k _ ?_, k _ ?_, k _ ?_, k _ ?_, k _ ?_, k _ ?_, k _ ?_, k _ ?_, k _ ?_,
    k _ ?_, k _ ?_, k _ ?_, k _ ?_, k _ ?_⟩ <;>
  · intro u hu t
    have := memUpd_keeps hu t
    tauto

@[simp] theorem memWrite_frame (a : Nat) (d : List Byte) (s : State) :
    ((memWrite a d).run s).flash = s.flash ∧ ((memWrite a d).run s).active = s.active ∧
    ((memWrite a d).run s).predicted = s.predicted ∧ ((memWrite a d).run s).threads = s.threads ∧
    ((memWrite a d).run s).ys = s.ys ∧ ((memWrite a d).run s).fm = s.fm ∧ ((memWrite a d).run s).dr = s.dr ∧
    ((memWrite a d).run s).tb = s.tb ∧ ((memWrite a d).run s).tl = s.tl ∧ ((memWrite a d).run s).td = s.td ∧
    ((memWrite a d).run s).net = s.net ∧ ((memWrite a d).run s).ll = s.ll ∧ ((memWrite a d).run s).hst = s.hst ∧
    ((memWrite a d).run s).boot = s.boot ∧ ((memWrite a d).run s).sh = s.sh ∧ ((memWrite a d).run s).ty = s.ty ∧
    ((memWrite a d).run s).trim = s.trim ∧ ((memWrite a d).run s).fences = s.fences ∧ ((memWrite a d).run s).reply = s.reply ∧
    ((memWrite a d).run s).now = s.now := mem_frame (only_memWrite a d) s

theorem coreRest_of {k : Nat} {a : Act} (h : Keeps (fetchRest k) a) : Keeps (coreRest k) a := fun s => congrArg Prod.fst (h s)

theorem coreRest_writeWord (k a : Nat) (data : List Byte) (w : Nat) : Keeps (coreRest k) (writeWord a data w) := by
  have hp : Keeps (coreRest k) (reportPoison w) := by
    intro s
    have h1 := fetchRest_touchWord k w
    unfold reportPoison
    split
    · exact coreRest_of (keeps_cons (fetchRest_ail _ _) (keeps_cons (keeps_withS fun _ => fetchRest_wr _ _ _) (keeps_cons (fetchRest_wr _ _ _)
        (keeps_cons (fetchRest_setEvent _ _) (keeps_cons (fetchRest_ledger _ _ _ _ _) keeps_nil))))) s
    · exact coreRest_of (keeps_cons (fetchRest_ail _ _) (keeps_cons (keeps_withS fun _ => fetchRest_wr _ _ _) (keeps_cons
        (keeps_cons (fetchRest_wr _ _ _) (keeps_cons (fetchRest_wr _ _ _) keeps_nil))
        (keeps_cons (fetchRest_setEvent _ _) (keeps_cons (fetchRest_ledger _ _ _ _ _) keeps_nil))))) s
  refine keeps_withS fun _ => keeps_ite (keeps_whenDo hp) ?_
  refine keeps_cons (keeps_whenDo (coreRest_of (fetchRest_touchWord k w))) (keeps_cons ?_ (keeps_cons (fun _ => rfl) (keeps_cons (keeps_whenDo fun _ => rfl) keeps_nil)))
  exact (only_storeBytes _ _).toKeeps fun u hu t => by obtain ⟨x, b, rfl⟩ := hu; rfl

theorem coreRest_memWrite (k a : Nat) (data : List Byte) : Keeps (coreRest k) (memWrite a data) :=
  keeps_forEach _ fun _ _ => coreRest_writeWord k a data _

theorem running_memWrite (a : Nat) (d : List Byte) (s : State) (k : Nat) :
    (((memWrite a d).run s).core k).running = (s.core k).running := congrArg (·.2.2.1) (coreRest_memWrite k a d s)
theorem ready_memWrite (a : Nat) (d : List Byte) (s : State) (k : Nat) :
    (((memWrite a d).run s).core k).ready = (s.core k).ready := congrArg (·.2.1) (coreRest_memWrite k a d s)

/-! ## Leaving the core -/

/-- What an action may do to the run of a core: nothing to threads and the time. -/
structure CoreStep (s u : State) (c : Nat) (k : Core) : Prop where
  core : u.core c = k
  threads : u.threads = s.threads
  now : u.now = s.now

theorem CoreStep.upd {s u : State} {c : Nat} {k : Core} (h : CoreStep s u c k) (f : Core → Core) :
    CoreStep s ((updCore c f).run u) c (f k) :=
  ⟨by rw [run_updCore, core_set, h.core], h.threads, h.now⟩

theorem CoreStep.busy {s u : State} {c : Nat} {k : Core} (h : CoreStep s u c k) :
    ∃ k' : Core, CoreStep s ((endBusy c).run u) c k' ∧ k'.running = k.running ∧ k'.ready = k.ready ∧ k'.incoming = k.incoming := by
  unfold endBusy
  rw [run_withS]
  exact ⟨_, h.upd _, rfl, rfl, rfl⟩

/-- Taking a thread off the core it runs on: the core is free, the thread is on no ready list of its level. -/
theorem unseat_run (s : State) (c t : Nat) (h : (s.core c).running = some t) :
    ∃ k : Core, CoreStep s ((unseat c t).run s) c k ∧ k.running = none ∧
      k.ready = (s.core c).ready.set [] (s.thread c t).pri (((s.core c).ready.get [] (s.thread c t).pri).filter (· ≠ t)) := by
  have hr : ((s.core c).running == some t) = true := by rw [h]; simp
  have h0 : CoreStep s s c (s.core c) := ⟨rfl, rfl, rfl⟩
  have h1 := h0.upd fun k => { k with
    ready := k.ready.set [] (s.thread c t).pri ((k.ready.get [] (s.thread c t).pri).filter (· ≠ t)), idleSince := s.now }
  have h2 := h1.upd fun k => { k with running := none }
  obtain ⟨k3, h3, r3, q3, -⟩ := h2.busy
  unfold unseat
  rw [run_withS]
  dsimp only
  rw [run_acts_cons, run_acts_cons, run_acts_cons, run_acts_nil, run_whenDo, run_whenDo, if_pos hr, run_acts_cons, run_acts_cons, run_acts_nil]
  split
  · rw [run_acts_cons, run_acts_cons, run_acts_nil]
    obtain ⟨k5, h5, r5, q5, -⟩ := (h3.upd fun k => { k with incoming := none }).busy
    exact ⟨k5, h5, r5.trans r3, q5.trans q3⟩
  · exact ⟨k3, h3, r3, q3⟩

/-- A thread leaves its core: its context is saved and nothing else of it changes. -/
theorem leaveCore_run (s : State) (c t : Nat) (h : (s.core c).running = some t) :
    (((leaveCore c t).run s).core c).running = none ∧ ((leaveCore c t).run s).thread c t = { s.thread c t with fresh := false } ∧
    ((leaveCore c t).run s).now = s.now ∧
    (∀ k, k ≠ tkey c t → ((leaveCore c t).run s).threads.get {} k = s.threads.get {} k) ∧
    (((leaveCore c t).run s).core c).ready =
      (s.core c).ready.set [] (s.thread c t).pri (((s.core c).ready.get [] (s.thread c t).pri).filter (· ≠ t)) := by
  unfold leaveCore saveCtx
  rw [run_acts_cons, run_acts_cons, run_acts_nil, run_withS, run_acts_cons, run_acts_cons, run_acts_nil, run_updThread]
  generalize hm : (memWrite (ctxBase c t) (s.thread c t).context).run s = m
  have ht : m.threads = s.threads := by rw [← hm]; exact (memWrite_frame _ _ _).2.2.2.1
  have hn : m.now = s.now := by rw [← hm]; exact (memWrite_frame _ _ _).2.2.2.2.2.2.2.2.2.2.2.2.2.2.2.2.2.2.2
  have hru : (m.core c).running = some t := by rw [← hm, running_memWrite]; exact h
  have hre : (m.core c).ready = (s.core c).ready := by rw [← hm, ready_memWrite]
  have hth : m.thread c t = s.thread c t := by simp only [State.thread, ht]
  rw [hth]
  generalize hx : ({ s.thread c t with fresh := false } : Thread) = x
  have hp : x.pri = (s.thread c t).pri := by rw [← hx]
  have hv : (Upd.apply m (.thread (tkey c t) x)).threads = m.threads.set {} (tkey c t) x := rfl
  have hvt : (Upd.apply m (.thread (tkey c t) x)).thread c t = x := thread_set m c t x
  have hvc : (Upd.apply m (.thread (tkey c t) x)).core c = m.core c := rfl
  have hvn : (Upd.apply m (.thread (tkey c t) x)).now = m.now := rfl
  generalize Upd.apply m (.thread (tkey c t) x) = v at hv hvt hvc hvn
  obtain ⟨k, hk, r, q⟩ := unseat_run v c t (by rw [hvc]; exact hru)
  refine ⟨by rw [hk.core]; exact r, ?_, hk.now.trans (hvn.trans hn), ?_, ?_⟩
  · rw [State.thread, hk.threads, hv, SMap.get_set_same]
  · intro j hj; rw [hk.threads, hv, SMap.get_set_ne _ _ _ hj, ht]
  · rw [hk.core, q, hvc, hvt, hre, hp]

/-- A wait: the instruction ends, the thread is BLOCKED and the core is free. -/
theorem blockOn_run {s u : State} {c t : Nat} (h : AfterFetch s u) (hr : (s.core c).running = some t) (w : Wait) (d : Option Nat) :
    (((blockOn c t w d).run u).core c).running = none ∧ (∀ k, k ≠ tkey c t → ((blockOn c t w d).run u).threads.get {} k = s.threads.get {} k) ∧
    ((blockOn c t w d).run u).thread c t =
      { (s.thread c t).ends 0 0 with st := .blocked, wait := w, deadline := d, matched := false, timed := false, fresh := false } := by
  have hf := finish_run (c := c) (t := t) h
  have hru : (((finish c t id).run u).core c).running = some t := (h.running c).trans hr
  unfold blockOn
  rw [run_acts_cons, run_acts_cons, run_acts_cons, run_acts_nil]
  generalize (finish c t id).run u = v at hf hru
  rw [run_updThread, hf.1]
  generalize hx : ({ (s.thread c t).ends 0 0 with st := .blocked, wait := w, deadline := d, matched := false, timed := false } : Thread) = x
  have hv : (Upd.apply v (.thread (tkey c t) x)).threads = v.threads.set {} (tkey c t) x := rfl
  have hvt : (Upd.apply v (.thread (tkey c t) x)).thread c t = x := thread_set v c t x
  have hvc : (Upd.apply v (.thread (tkey c t) x)).core c = v.core c := rfl
  generalize Upd.apply v (.thread (tkey c t) x) = y at hv hvt hvc
  obtain ⟨h1, h2, -, h4, -⟩ := leaveCore_run y c t (by rw [hvc]; exact hru)
  refine ⟨h1, ?_, ?_⟩
  · intro k hk
    rw [h4 k hk, hv, SMap.get_set_ne _ _ _ hk]
    exact hf.2.1 k hk
  · rw [h2, hvt, ← hx]

end Sys2Proof.Machine
end

