-- ==== Sys2Proof/Laws/Spare.lean ====
section
/-!
SUPPORT. Two questions that most claims need answered of an action: does it leave a register alone (`spares`), and does it leave the
threads, memory and flash alone (`calm`)? Each operation that units share answers both once here.
-/

namespace Sys2Proof.Machine

/-- The update leaves the register at `a` alone. -/
def spares (a : Nat) : Upd → Prop
  | .reg b _ _ => b ≠ a
  | .keepRegs _ => False
  | _ => True

/-- The update leaves threads, memory and flash alone. -/
def calm : Upd → Prop
  | .thread _ _ | .mem _ _ | .poison _ _ | .flash _ _ | .clearMem _ _ | .clearFlash _ _ => False
  | _ => True

theorem spares_rd {u : Upd} (g : Fld) (h : spares g.addr u) (t : State) : (u.apply t).rd g = t.rd g := by
  cases u with
  | reg a r v => exact rd_wr_ne _ _ _ _ _ (Ne.symm h)
  | keepRegs p => exact h.elim
  | intake r => exact rd_of_regs g (by simp only [apply_intake])
  | _ => rfl

/-- A register that an action spares reads as before. -/
theorem Only.rd {x : Act} (g : Fld) (h : Only (spares g.addr) x) (s : State) : (x.run s).rd g = s.rd g :=
  h.keeps (fun t => t.rd g) (fun _ hu t => spares_rd g hu t) s

theorem Only.on {x : Act} (g : Fld) (h : Only (spares g.addr) x) (s : State) : (x.run s).on g = s.on g := by
  simp only [State.on, h.rd g s]

theorem calm_keeps {u : Upd} (h : calm u) (t : State) :
    (u.apply t).threads = t.threads ∧ (u.apply t).mem = t.mem ∧ (u.apply t).poison = t.poison ∧ (u.apply t).flash = t.flash := by
  cases u with
  | thread | mem | poison | flash | clearMem | clearFlash => exact h.elim
  | intake r => simp only [apply_intake, and_self]
  | _ => exact ⟨rfl, rfl, rfl, rfl⟩

/-- A calm action keeps threads, memory and flash. -/
theorem Only.calm {x : Act} (h : Only calm x) (s : State) : (x.run s).threads = s.threads ∧ SameMemory s (x.run s) := by
  have k {β : Type} (g : State → β) (hg : ∀ u, Sys2Proof.Machine.calm u → ∀ t, g (u.apply t) = g t) := h.keeps g hg s
  exact ⟨k _ fun u hu t => (calm_keeps hu t).1, k _ fun u hu t => (calm_keeps hu t).2.1, k _ fun u hu t => (calm_keeps hu t).2.2.1,
    k _ fun u hu t => (calm_keeps hu t).2.2.2⟩

theorem Only.thread {x : Act} (h : Only Machine.calm x) (s : State) (c t : Nat) : (x.run s).thread c t = s.thread c t := by
  simp only [State.thread, (h.calm s).1]

theorem signalUpd_spares {a : Nat} (h : ¬ signalReg a) {u : Upd} (hu : signalUpd u) : spares a u := by
  cases u with
  | reg b r v => exact fun he => h (he ▸ hu)
  | core | intake | out | msix => trivial
  | _ => exact hu.elim

theorem eventUpd_spares {a b : Nat} (h : ¬ signalReg a) (hb : b ≠ a) {u : Upd} (hu : eventUpd b u) : spares a u := by
  rcases hu with hu | ⟨r, v, rfl⟩
  · exact signalUpd_spares h hu
  · exact hb

theorem signalUpd_calm {u : Upd} (hu : signalUpd u) : calm u := by
  cases u with
  | reg | core | intake | out | msix => trivial
  | _ => exact hu.elim

theorem eventUpd_calm {b : Nat} {u : Upd} (hu : eventUpd b u) : calm u := by
  rcases hu with hu | ⟨r, v, rfl⟩
  · exact signalUpd_calm hu
  · trivial

theorem ledgerUpd_calm {u : Upd} (hu : ledgerUpd u) : calm u := by
  rcases hu with hu | ⟨r, v, rfl⟩ | ⟨x, rfl⟩
  · exact eventUpd_calm hu
  · trivial
  · trivial

/-! ## Registers -/

section
variable {a : Nat}

theorem wr_spares {f : Fld} {n : Nat} (h : f.addr ≠ a) : Only (spares a) (wr f n) := only_one fun _ => h
theorem result_spares {f : Fld} {st : Status} (h : f.addr ≠ a) : Only (spares a) (result f st) := wr_spares h
theorem count_spares {f : Fld} {n : Nat} (h : f.addr ≠ a) : Only (spares a) (count f n) := only_withS fun _ => wr_spares h
theorem bump_spares {f : Fld} {n : Nat} (h : f.addr ≠ a) : Only (spares a) (bump f n) := only_withS fun _ => wr_spares h
theorem wrPair_spares {f g : Fld} {n : Nat} (h : f.addr ≠ a) (h' : g.addr ≠ a) : Only (spares a) (wrPair f g n) :=
  only_cons (wr_spares h) (only_cons (wr_spares h') (only_nil _))
theorem setEvent_spares {f : Fld} (hs : ¬ signalReg a) (h : f.addr ≠ a) : Only (spares a) (setEvent f) :=
  (only_setEvent f).mono fun _ hu => eventUpd_spares hs h hu
theorem setBit_spares {f : Fld} (hs : ¬ signalReg a) (h : f.addr ≠ a) : Only (spares a) (setBit f) :=
  (only_setBit f).mono fun _ hu => eventUpd_spares hs h hu
theorem pushCore_spares {c : Nat} {e : WakeEntry} {o : HeldIn} (hs : ¬ signalReg a) : Only (spares a) (pushCore c e o) :=
  (only_pushCore c e o).mono fun _ hu => signalUpd_spares hs hu
theorem noteFull_spares {c : Nat} (hs : ¬ signalReg a) (h : FM_EVENT_QFULL.addr ≠ a) : Only (spares a) (noteFull c) :=
  only_withS fun _ => only_whenDo (setEvent_spares hs h)
theorem pushWake_spares {c : Nat} {e : WakeEntry} {o : HeldIn} (hs : ¬ signalReg a) (h : FM_EVENT_QFULL.addr ≠ a) :
    Only (spares a) (pushWake c e o) := only_cons (pushCore_spares hs) (only_cons (noteFull_spares hs h) (only_nil _))
theorem raiseVector_spares {p v : Nat} (hp : p < 2) (hv : v < 64) (hs : ¬ signalReg a) : Only (spares a) (raiseVector p v) :=
  (only_raiseVector p v hp hv).mono fun _ hu => signalUpd_spares hs hu
theorem ledger_spares {c v p : Nat} {src : Src} (hs : ¬ signalReg a) (h1 : LG_LOST.addr ≠ a) (h2 : LG_EVENT_LOST.addr ≠ a) :
    Only (spares a) (ledger c src v p) := (only_ledger c v p src).mono fun u hu => by
  rcases hu with hu | ⟨r, w, rfl⟩ | ⟨x, rfl⟩
  · exact eventUpd_spares hs h2 hu
  · exact h1
  · trivial
theorem ail_spares {k : Ailment} : Only (spares a) (ail k) := only_withS fun _ => only_whenDo (only_one fun _ => trivial)
theorem powerUp_spares {c : Nat} (h : (FM_PWR_STATE c).addr ≠ a) : Only (spares a) (powerUp c) :=
  only_withS fun _ => only_whenDo (wr_spares h)
theorem fenceWake_spares {e f : Nat} (hs : ¬ signalReg a) (h : FM_EVENT_QFULL.addr ≠ a) : Only (spares a) (fenceWake e f) :=
  only_forN _ fun _ _ => only_withS fun _ => only_whenDo (pushWake_spares hs h)
theorem updYs_spares {f : Ys → Ys} : Only (spares a) (updYs f) := only_one fun _ => trivial
theorem updFm_spares {f : Fm → Fm} : Only (spares a) (updFm f) := only_one fun _ => trivial
theorem updLg_spares {f : Lg → Lg} : Only (spares a) (updLg f) := only_one fun _ => trivial
theorem updTs_spares {f : Ts → Ts} : Only (spares a) (updTs f) := only_one fun _ => trivial
theorem updDr_spares {f : Dr → Dr} : Only (spares a) (updDr f) := only_one fun _ => trivial
theorem updTl_spares {f : Tl → Tl} : Only (spares a) (updTl f) := only_one fun _ => trivial
theorem updTd_spares {f : Td → Td} : Only (spares a) (updTd f) := only_one fun _ => trivial
theorem updNet_spares {f : Net → Net} : Only (spares a) (updNet f) := only_one fun _ => trivial
theorem updLl_spares {f : Ll → Ll} : Only (spares a) (updLl f) := only_one fun _ => trivial
theorem updSh_spares {f : Sh → Sh} : Only (spares a) (updSh f) := only_one fun _ => trivial
theorem updMt_spares {f : Mt → Mt} : Only (spares a) (updMt f) := only_one fun _ => trivial
theorem updTy_spares {f : Ty → Ty} : Only (spares a) (updTy f) := only_one fun _ => trivial
theorem updTb_spares {f : Tb → Tb} : Only (spares a) (updTb f) := only_one fun _ => trivial
theorem updBoot_spares {f : Boot → Boot} : Only (spares a) (updBoot f) := only_one fun _ => trivial
theorem updHst_spares {f : Hst → Hst} : Only (spares a) (updHst f) := only_one fun _ => trivial
theorem updCore_spares {c : Nat} {f : Core → Core} : Only (spares a) (updCore c f) := only_one fun _ => trivial
theorem updThread_spares {c t : Nat} {f : Thread → Thread} : Only (spares a) (updThread c t f) := only_one fun _ => trivial
theorem emit_spares {m : OutMsg} : Only (spares a) (emit m) := only_one fun _ => trivial
theorem reply_spares {bs : List Byte} : Only (spares a) (reply bs) := only_one fun _ => trivial
theorem memWrite_spares {p : Nat} {d : List Byte} (hq : quietReg a) : Only (spares a) (memWrite p d) :=
  (only_memWrite p d).mono fun u hu => by
    obtain ⟨h1, h2, h3, h4⟩ := hq
    rcases hu with (hu | hu | ⟨b, r, v, rfl, hb⟩ | ⟨x, rfl⟩) | ⟨b, v, rfl⟩ | ⟨x, rfl⟩ | ⟨w, v, rfl⟩
    · rcases hu with hu | ⟨r, v, rfl⟩ | ⟨x, rfl⟩
      · exact eventUpd_spares h1 (Ne.symm h3) hu
      · exact Ne.symm h4
      · trivial
    · exact eventUpd_spares h1 (fun he => h2 (Or.inl he.symm)) hu
    · exact fun he => h2 (he ▸ hb)
    all_goals trivial
theorem withStamp_spares {f : Stamp → Act} (h : ∀ t, Only (spares a) (f t)) : Only (spares a) (withStamp f) := by
  intro s u hu
  exact only_cons (updYs_spares) (only_cons (h _) (only_nil _)) s u hu
end

/-! ## Threads, memory and flash -/

theorem wr_calm {f : Fld} {n : Nat} : Only calm (wr f n) := only_one fun _ => trivial
theorem result_calm {f : Fld} {st : Status} : Only calm (result f st) := wr_calm
theorem count_calm {f : Fld} {n : Nat} : Only calm (count f n) := only_withS fun _ => wr_calm
theorem bump_calm {f : Fld} {n : Nat} : Only calm (bump f n) := only_withS fun _ => wr_calm
theorem wrPair_calm {f g : Fld} {n : Nat} : Only calm (wrPair f g n) := only_cons wr_calm (only_cons wr_calm (only_nil _))
theorem setEvent_calm {f : Fld} : Only calm (setEvent f) := (only_setEvent f).mono fun _ => eventUpd_calm
theorem setBit_calm {f : Fld} : Only calm (setBit f) := (only_setBit f).mono fun _ => eventUpd_calm
theorem pushCore_calm {c : Nat} {e : WakeEntry} {o : HeldIn} : Only calm (pushCore c e o) :=
  (only_pushCore c e o).mono fun _ => signalUpd_calm
theorem noteFull_calm {c : Nat} : Only calm (noteFull c) := only_withS fun _ => only_whenDo setEvent_calm
theorem pushWake_calm {c : Nat} {e : WakeEntry} {o : HeldIn} : Only calm (pushWake c e o) :=
  only_cons pushCore_calm (only_cons noteFull_calm (only_nil _))
theorem raiseVector_calm {p v : Nat} : Only calm (raiseVector p v) :=
  only_withS fun _ => only_ite wr_calm (only_ite (only_one fun _ => trivial) (only_one fun _ => trivial))
theorem ledger_calm {c v p : Nat} {src : Src} : Only calm (ledger c src v p) := (only_ledger c v p src).mono fun _ => ledgerUpd_calm
theorem ail_calm {k : Ailment} : Only calm (ail k) := only_withS fun _ => only_whenDo (only_one fun _ => trivial)
theorem powerUp_calm {c : Nat} : Only calm (powerUp c) := only_withS fun _ => only_whenDo wr_calm
theorem fenceWake_calm {e f : Nat} : Only calm (fenceWake e f) :=
  only_forN _ fun _ _ => only_withS fun _ => only_whenDo pushWake_calm
theorem updYs_calm {f : Ys → Ys} : Only calm (updYs f) := only_one fun _ => trivial
theorem updFm_calm {f : Fm → Fm} : Only calm (updFm f) := only_one fun _ => trivial
theorem updLg_calm {f : Lg → Lg} : Only calm (updLg f) := only_one fun _ => trivial
theorem updTs_calm {f : Ts → Ts} : Only calm (updTs f) := only_one fun _ => trivial
theorem updDr_calm {f : Dr → Dr} : Only calm (updDr f) := only_one fun _ => trivial
theorem updTl_calm {f : Tl → Tl} : Only calm (updTl f) := only_one fun _ => trivial
theorem updTd_calm {f : Td → Td} : Only calm (updTd f) := only_one fun _ => trivial
theorem updNet_calm {f : Net → Net} : Only calm (updNet f) := only_one fun _ => trivial
theorem updLl_calm {f : Ll → Ll} : Only calm (updLl f) := only_one fun _ => trivial
theorem updSh_calm {f : Sh → Sh} : Only calm (updSh f) := only_one fun _ => trivial
theorem updMt_calm {f : Mt → Mt} : Only calm (updMt f) := only_one fun _ => trivial
theorem updTy_calm {f : Ty → Ty} : Only calm (updTy f) := only_one fun _ => trivial
theorem updTb_calm {f : Tb → Tb} : Only calm (updTb f) := only_one fun _ => trivial
theorem updBoot_calm {f : Boot → Boot} : Only calm (updBoot f) := only_one fun _ => trivial
theorem updHst_calm {f : Hst → Hst} : Only calm (updHst f) := only_one fun _ => trivial
theorem updCore_calm {c : Nat} {f : Core → Core} : Only calm (updCore c f) := only_one fun _ => trivial
theorem emit_calm {m : OutMsg} : Only calm (emit m) := only_one fun _ => trivial
theorem reply_calm {bs : List Byte} : Only calm (reply bs) := only_one fun _ => trivial
theorem withStamp_calm {f : Stamp → Act} (h : ∀ t, Only calm (f t)) : Only calm (withStamp f) := by
  intro s u hu
  exact only_cons (updYs_calm) (only_cons (h _) (only_nil _)) s u hu

end Sys2Proof.Machine
end

