-- ==== Sys2Proof/Laws/Yardstick.lean ====
section
/-!
SUPPORT. Yardstick's arm slots: what arming a slot leaves in its registers (R70).
-/

namespace Sys2Proof.Machine

theorem Status.code_lt (st : Status) : st.code < 256 := by cases st <;> decide

/-- The registers that arming writes, in order, from a state `y`. -/
theorem armRegs_run (y : State) (k a target period action mode : Nat) :
    let u := (acts [wrPair (YS_SLOT_POS_LO k) (YS_SLOT_POS_HI k) a, wr (YS_SLOT_TARGET k) target,
      wr (YS_SLOT_CTRL_PERIOD k) period, wr (YS_SLOT_CTRL_ACTION k) action, wr (YS_SLOT_CTRL_MODE k) mode,
      wr (YS_SLOT_CTRL_ARMED k) 1]).run y
    u.on (YS_SLOT_CTRL_ARMED k) = true ∧ u.rd (YS_SLOT_CTRL_MODE k) = mode % 4 ∧ u.rd (YS_SLOT_CTRL_ACTION k) = action % 16 ∧
    u.rd (YS_SLOT_CTRL_PERIOD k) = period % 2 ^ 16 ∧ u.rd (YS_SLOT_TARGET k) = target % 2 ^ 32 ∧
    u.rd (YS_SLOT_POS_HI k) = a / 2 ^ 32 % 2 ^ 32 ∧ u.rd (YS_SLOT_POS_LO k) = a % 2 ^ 32 := by
  intro u
  obtain ⟨y1, h1⟩ : ∃ z, z = (wr (YS_SLOT_POS_LO k) a).run y := ⟨_, rfl⟩
  obtain ⟨y2, h2⟩ : ∃ z, z = (wr (YS_SLOT_POS_HI k) (a / 2 ^ 32)).run y1 := ⟨_, rfl⟩
  obtain ⟨y3, h3⟩ : ∃ z, z = (wr (YS_SLOT_TARGET k) target).run y2 := ⟨_, rfl⟩
  obtain ⟨y4, h4⟩ : ∃ z, z = (wr (YS_SLOT_CTRL_PERIOD k) period).run y3 := ⟨_, rfl⟩
  obtain ⟨y5, h5⟩ : ∃ z, z = (wr (YS_SLOT_CTRL_ACTION k) action).run y4 := ⟨_, rfl⟩
  obtain ⟨y6, h6⟩ : ∃ z, z = (wr (YS_SLOT_CTRL_MODE k) mode).run y5 := ⟨_, rfl⟩
  have hu : u = (wr (YS_SLOT_CTRL_ARMED k) 1).run y6 := by
    rw [h6, h5, h4, h3, h2, h1]
    show Act.run (acts _) y = _
    rw [run_acts_cons, run_wrPair, run_acts_cons, run_acts_cons, run_acts_cons, run_acts_cons, run_acts_cons, run_acts_nil]
  rw [hu]
  refine ⟨?_, ?_, ?_, ?_, ?_, ?_, ?_⟩
  · rw [State.on, rd_run_wr_same (by exact Nat.le_of_ble_eq_true rfl)]; simp [YS_SLOT_CTRL_ARMED]
  · rw [rd_run_wr_word (f := YS_SLOT_CTRL_ARMED k) (g := YS_SLOT_CTRL_MODE k) rfl rfl (by refine ⟨?_, ?_, ?_⟩ <;> simp [YS_SLOT_CTRL_ARMED, YS_SLOT_CTRL_MODE]), h6, rd_run_wr_same (by exact Nat.le_of_ble_eq_true rfl)]; simp [YS_SLOT_CTRL_MODE]
  · rw [rd_run_wr_word (f := YS_SLOT_CTRL_ARMED k) (g := YS_SLOT_CTRL_ACTION k) rfl rfl (by refine ⟨?_, ?_, ?_⟩ <;> simp [YS_SLOT_CTRL_ARMED, YS_SLOT_CTRL_ACTION]), h6, rd_run_wr_word (f := YS_SLOT_CTRL_MODE k) (g := YS_SLOT_CTRL_ACTION k) rfl rfl (by refine ⟨?_, ?_, ?_⟩ <;> simp [YS_SLOT_CTRL_MODE, YS_SLOT_CTRL_ACTION]), h5, rd_run_wr_same (by exact Nat.le_of_ble_eq_true rfl)]; simp [YS_SLOT_CTRL_ACTION]
  · rw [rd_run_wr_word (f := YS_SLOT_CTRL_ARMED k) (g := YS_SLOT_CTRL_PERIOD k) rfl rfl (by refine ⟨?_, ?_, ?_⟩ <;> simp [YS_SLOT_CTRL_ARMED, YS_SLOT_CTRL_PERIOD]), h6, rd_run_wr_word (f := YS_SLOT_CTRL_MODE k) (g := YS_SLOT_CTRL_PERIOD k) rfl rfl (by refine ⟨?_, ?_, ?_⟩ <;> simp [YS_SLOT_CTRL_MODE, YS_SLOT_CTRL_PERIOD]), h5, rd_run_wr_word (f := YS_SLOT_CTRL_ACTION k) (g := YS_SLOT_CTRL_PERIOD k) rfl rfl (by refine ⟨?_, ?_, ?_⟩ <;> simp [YS_SLOT_CTRL_ACTION, YS_SLOT_CTRL_PERIOD]), h4, rd_run_wr_same (by exact Nat.le_of_ble_eq_true rfl)]; simp [YS_SLOT_CTRL_PERIOD]
  · rw [rd_run_wr_ne (f := YS_SLOT_CTRL_ARMED k) (g := YS_SLOT_TARGET k) (by simp only [YS_SLOT_CTRL_ARMED, YS_SLOT_TARGET]; omega), h6, rd_run_wr_ne (f := YS_SLOT_CTRL_MODE k) (g := YS_SLOT_TARGET k) (by simp only [YS_SLOT_CTRL_MODE, YS_SLOT_TARGET]; omega), h5, rd_run_wr_ne (f := YS_SLOT_CTRL_ACTION k) (g := YS_SLOT_TARGET k) (by simp only [YS_SLOT_CTRL_ACTION, YS_SLOT_TARGET]; omega), h4, rd_run_wr_ne (f := YS_SLOT_CTRL_PERIOD k) (g := YS_SLOT_TARGET k) (by simp only [YS_SLOT_CTRL_PERIOD, YS_SLOT_TARGET]; omega), h3, rd_run_wr_same (by exact Nat.le_of_ble_eq_true rfl)]; simp [YS_SLOT_TARGET]
  · rw [rd_run_wr_ne (f := YS_SLOT_CTRL_ARMED k) (g := YS_SLOT_POS_HI k) (by simp only [YS_SLOT_CTRL_ARMED, YS_SLOT_POS_HI]; omega), h6, rd_run_wr_ne (f := YS_SLOT_CTRL_MODE k) (g := YS_SLOT_POS_HI k) (by simp only [YS_SLOT_CTRL_MODE, YS_SLOT_POS_HI]; omega), h5, rd_run_wr_ne (f := YS_SLOT_CTRL_ACTION k) (g := YS_SLOT_POS_HI k) (by simp only [YS_SLOT_CTRL_ACTION, YS_SLOT_POS_HI]; omega), h4, rd_run_wr_ne (f := YS_SLOT_CTRL_PERIOD k) (g := YS_SLOT_POS_HI k) (by simp only [YS_SLOT_CTRL_PERIOD, YS_SLOT_POS_HI]; omega), h3, rd_run_wr_ne (f := YS_SLOT_TARGET k) (g := YS_SLOT_POS_HI k) (by simp only [YS_SLOT_TARGET, YS_SLOT_POS_HI]; omega), h2, rd_run_wr_same (by exact Nat.le_of_ble_eq_true rfl)]; simp [YS_SLOT_POS_HI]
  · rw [rd_run_wr_ne (f := YS_SLOT_CTRL_ARMED k) (g := YS_SLOT_POS_LO k) (by simp only [YS_SLOT_CTRL_ARMED, YS_SLOT_POS_LO]; omega), h6, rd_run_wr_ne (f := YS_SLOT_CTRL_MODE k) (g := YS_SLOT_POS_LO k) (by simp only [YS_SLOT_CTRL_MODE, YS_SLOT_POS_LO]; omega), h5, rd_run_wr_ne (f := YS_SLOT_CTRL_ACTION k) (g := YS_SLOT_POS_LO k) (by simp only [YS_SLOT_CTRL_ACTION, YS_SLOT_POS_LO]; omega), h4, rd_run_wr_ne (f := YS_SLOT_CTRL_PERIOD k) (g := YS_SLOT_POS_LO k) (by simp only [YS_SLOT_CTRL_PERIOD, YS_SLOT_POS_LO]; omega), h3, rd_run_wr_ne (f := YS_SLOT_TARGET k) (g := YS_SLOT_POS_LO k) (by simp only [YS_SLOT_TARGET, YS_SLOT_POS_LO]; omega), h2, rd_run_wr_ne (f := YS_SLOT_POS_HI k) (g := YS_SLOT_POS_LO k) (by simp only [YS_SLOT_POS_HI, YS_SLOT_POS_LO]; omega), h1, rd_run_wr_same (by exact Nat.le_of_ble_eq_true rfl)]; simp [YS_SLOT_POS_LO]

/-- ARMAT's arm: the status of the check, and on OK the slot's settings (R70, R247). -/
theorem armAt_run (s : State) (k a target period action mode : Nat) :
    let st := s.armCheck k a target period action mode
    let u := (armAt k a target period action mode).run s
    u.threads = s.threads ∧ SameMemory s u ∧ u.rd YS_STATUS_RESULT = st.code ∧
    (st = .ok → u.on (YS_SLOT_CTRL_ARMED k) = true ∧ u.rd (YS_SLOT_CTRL_MODE k) = mode % 4 ∧ u.rd (YS_SLOT_CTRL_ACTION k) = action % 16 ∧
      u.rd (YS_SLOT_CTRL_PERIOD k) = period % 2 ^ 16 ∧ u.rd (YS_SLOT_TARGET k) = target % 2 ^ 32 ∧
      u.rd (YS_SLOT_POS_HI k) = a / 2 ^ 32 % 2 ^ 32 ∧ u.rd (YS_SLOT_POS_LO k) = a % 2 ^ 32) ∧
    (st ≠ .ok → ∀ g : Fld, g.addr ≠ YS_STATUS_RESULT.addr → u.rd g = s.rd g) := by
  intro st u
  have hc : Only calm (armAt k a target period action mode) :=
    only_withS fun _ => only_cons result_calm (only_cons (only_whenDo (only_cons wrPair_calm (only_cons wr_calm (only_cons wr_calm
      (only_cons wr_calm (only_cons wr_calm (only_cons wr_calm (only_nil _)))))))) (only_nil _))
  obtain ⟨y, hy⟩ : ∃ z, z = (result YS_STATUS_RESULT st).run s := ⟨_, rfl⟩
  have hres : y.rd YS_STATUS_RESULT = st.code := by
    rw [hy, run_result, run_wr, rd_wr_same _ _ _ (by decide)]; exact Nat.mod_eq_of_lt (Status.code_lt st)
  have hu : u = Act.run (whenDo (st == .ok) (acts [wrPair (YS_SLOT_POS_LO k) (YS_SLOT_POS_HI k) a, wr (YS_SLOT_TARGET k) target,
      wr (YS_SLOT_CTRL_PERIOD k) period, wr (YS_SLOT_CTRL_ACTION k) action, wr (YS_SLOT_CTRL_MODE k) mode,
      wr (YS_SLOT_CTRL_ARMED k) 1])) y := by
    rw [hy]
    show Act.run (armAt k a target period action mode) s = _
    unfold armAt
    rw [run_withS]
    dsimp only
    rw [run_acts_cons, run_acts_cons, run_acts_nil]
  have hsp : Only (spares YS_STATUS_RESULT.addr) (acts [wrPair (YS_SLOT_POS_LO k) (YS_SLOT_POS_HI k) a, wr (YS_SLOT_TARGET k) target,
      wr (YS_SLOT_CTRL_PERIOD k) period, wr (YS_SLOT_CTRL_ACTION k) action, wr (YS_SLOT_CTRL_MODE k) mode, wr (YS_SLOT_CTRL_ARMED k) 1]) := by
    refine only_cons (wrPair_spares ?_ ?_) (only_cons (wr_spares ?_) (only_cons (wr_spares ?_) (only_cons (wr_spares ?_) (only_cons (wr_spares ?_) (only_cons (wr_spares ?_) (only_nil _))))))
    all_goals simp only [YS_STATUS_RESULT, YS_SLOT_POS_LO, YS_SLOT_POS_HI, YS_SLOT_TARGET, YS_SLOT_CTRL_PERIOD, YS_SLOT_CTRL_ACTION, YS_SLOT_CTRL_MODE, YS_SLOT_CTRL_ARMED]; omega
  refine ⟨(hc.calm s).1, (hc.calm s).2, ?_, fun hok => ?_, fun hne g hg => ?_⟩
  · rw [hu]; exact ((only_whenDo hsp).rd YS_STATUS_RESULT y).trans hres
  · rw [hu, run_whenDo, if_pos (by rw [hok]; rfl)]
    exact armRegs_run y k a target period action mode
  · rw [hu, run_whenDo, if_neg (by simpa using hne), hy]
    exact (result_spares (Ne.symm hg)).rd g s

end Sys2Proof.Machine
end

