-- ==== Sys2Proof/Tests/Slice0.lean ====
section
/-!
SUPPORT. Tests: an ill-formed command for each check of `Instr.wf`; for the statements, small states and operands that meet their
hypotheses, at boundary values where a range has any; and some steps whose results are worked out by hand from the rules.
-/

namespace Sys2Proof.Tests

open Sys2Proof Sys2Proof.Machine

/-! ## Small states -/

/-- The part with a configuration word in SYS_UNITS and these values in its registers; everything else is as at reset. -/
def part (units : Nat) (l : List (Fld × Nat)) : State :=
  Act.run (acts (((SYS_UNITS_WORD, units) :: l).map fun p => wr p.1 p.2)) State.reset

/-- A state with these values in effect in its RWS registers. -/
def inEffect (l : List (Fld × Nat)) (s : State) : State := Act.run (acts (l.map fun p => wrA p.1 p.2)) s

/-- A state with these bytes in memory. -/
def holding (a : Nat) (bs : List Byte) (s : State) : State :=
  { s with mem := bs.zipIdx.foldl (fun m b => m.set memReset (a + b.2) b.1) s.mem }

/-- A state in which thread 0 of core 0 runs at the first word of the core's local memory. -/
def running (x : Thread) (s : State) : State :=
  { s with cores := [(0, { running := some 0 })], threads := [(0, { x with st := .running, pc := 0x4400000 })] }

/-- A thread with these general registers. -/
def thread (g : List (Nat × DWord)) : Thread := { g := g }

/-! ## Commands that are not well formed -/

def env : BootEnv := ⟨true, true, [], true, true, true, true, 0⟩
def head : ShHead := ⟨false, false, false, 0, 0, 0, 0⟩
def beacon : Beacon := ⟨head, 0, 0, 0, 1, 0, 0, false, false, false, 0, 0⟩
def ep : Endpoint := ⟨2, 0, 0, 0⟩
def eth : EthFrame := ⟨0, 0, none, 64, false, false, 0, .other, []⟩
def ask : TsAsk := ⟨0, 1, false, 0⟩

theorem test_wf_boot : Instr.wf (.warmReset []) = false ∧ Instr.wf (.warmReset [.wrst]) = true ∧
    Instr.wf (.bootRomStart { env with badRows := [(0, 6144)] }) = false ∧
    Instr.wf (.bootRomStart { env with badRows := [(0, 6143)] }) = true := by decide

theorem test_wf_register_space : Instr.wf (.registerWrite .hostA 0x10000000 3 0) = false ∧
    Instr.wf (.registerWrite .hostA 0xFFFFFFFFFF 2 0) = false ∧ Instr.wf (.rcRegisterRead .hostA 0x10000018 0) = false ∧
    Instr.wf (.loWordReadLatch .hostA 0x10090029) = false ∧ Instr.wf (.xnAccess .hostA 0x10400000 16 false 0) = false ∧
    Instr.wf (.contextAreaWrite .hostA 0x5900000 []) = false ∧ Instr.wf (.contextAreaWrite .hostA 0xFFFFFFFFFF [1, 2]) = false := by decide

/-- Ten octets of an LTC codeword. -/
def code : List Byte := List.replicate 10 0

theorem test_wf_references : Instr.wf (.referenceEvent (.ltc 24 0 0 0 code)) = false ∧
    Instr.wf (.referenceEvent (.ltc 0 0 0 30 code)) = false ∧ Instr.wf (.referenceEvent (.ltc 0 0 0 0 [0])) = false ∧
    Instr.wf (.referenceEvent (.wclk 0)) = false ∧ Instr.wf (.referenceEvent (.ltc 23 59 59 29 code)) = true := by decide

theorem test_wf_lamps : Instr.wf (.scanoutPixel 0 16384 0 (.chain 0)) = false ∧ Instr.wf (.scanoutPixel 0 0 16384 (.weft 0)) = false ∧
    Instr.wf (.scanoutPixel 0 16383 16383 (.weft 0)) = true := by decide

theorem test_wf_detect : Instr.wf (.tdDetect 0 [(0, List.replicate 1048847 false)]) = false := by
  show (decide ((List.replicate 1048847 false).length ≤ 1048846) && true) = false
  rw [List.length_replicate]
  decide

theorem test_wf_dmx : Instr.wf (.dmxInputPacket 0 0 (List.replicate 513 0) false) = false ∧
    Instr.wf (.rdmResponse 0 ⟨.ack (List.replicate 232 0) 0, []⟩) = false ∧
    Instr.wf (.rdmResponse 0 ⟨.bad, List.replicate 514 0⟩) = false ∧
    Instr.wf (.rdmResponse 0 ⟨.nack (List.replicate 231 0) 0, []⟩) = true := by
  decide +kernel

theorem test_wf_host : Instr.wf (.hostLinkUp 0 5 1) = false ∧ Instr.wf (.hostLinkUp 0 4 3) = false ∧ Instr.wf (.bar0Access 0 0 false [] 0) = false ∧
    Instr.wf (.bar0Access 0 0xFFFFFF false [] 2) = false ∧ Instr.wf (.bar0Access 0 0 true [1] 4) = false ∧ Instr.wf (.xspiRead 0 0 0) = false ∧
    Instr.wf (.xspiWrite 0 0 []) = false ∧ Instr.wf (.xspiStream 0 []) = false ∧ Instr.wf (.serviceUnknownOp ep 1 0 0) = false ∧
    Instr.wf (.serviceUnknownOp ep 8 0 0) = false ∧ Instr.wf (.serviceUnknownOp ep 9 0 0) = true := by decide

theorem test_wf_network : Instr.wf (.ethFrameReceive 0 { eth with octets := List.replicate 65 0 }) = false := by decide +kernel

theorem test_wf_shuttle_headers : Instr.wf (.delayReq .up (2 ^ 32)) = false ∧ Instr.wf (.delayResp .up (2 ^ 32) ⟨0, 0⟩) = false ∧
    Instr.wf (.beacon .up (2 ^ 32) beacon) = false ∧ Instr.wf (.beacon .up 0 { beacon with tick := 2 ^ 64 }) = false ∧
    Instr.wf (.beacon .up 0 { beacon with head := { head with hops := 2048 } }) = false ∧
    Instr.wf (.linkchg .up 0 ⟨{ head with src := 0x10000 }, true, true⟩) = false ∧ Instr.wf (.delayReq .dn (2 ^ 32 - 1)) = true := by decide

theorem test_wf_shuttle_fields : Instr.wf (.enumFrame .up 0 ⟨head, 0x10000⟩) = false ∧
    Instr.wf (.enumReply .up 0 ⟨head, 0, 0, 0x10000, 0, 0⟩) = false ∧ Instr.wf (.assign .up 0 ⟨head, 0, 0x10000⟩) = false ∧
    Instr.wf (.shuttleMailbox .up 0 ⟨head, 0, 16, 0, 0⟩) = false ∧ Instr.wf (.ledgerFrame .up 0 ⟨head, List.replicate 31 0⟩) = false ∧
    Instr.wf (.imageFrame .up 0 ⟨head, 0, []⟩) = false ∧ Instr.wf (.imageFrame .up 0 ⟨head, 0, List.replicate 253 0⟩) = false ∧
    Instr.wf (.reclaim .up 0 ⟨head, 2 ^ 64⟩) = false := by decide +kernel

theorem test_wf_pair : Instr.wf (.pairMailbox 0 ⟨0, 0, 16, 0⟩) = false ∧ Instr.wf (.pbeacon (2 ^ 32) beacon) = false ∧ Instr.wf (.sigFrame 0 []) = false ∧
    Instr.wf (.sigFrame 0 (List.replicate 22 ⟨0, 0, 0⟩)) = false ∧ Instr.wf (.sigFrame 0 [⟨2 ^ 32, 0, 0⟩]) = false ∧
    Instr.wf (.diverge (2 ^ 32) 0 0) = false ∧ Instr.wf (.copyFrame 0 ⟨0, []⟩) = false ∧ Instr.wf (.pairCommit 0 ⟨2 ^ 40, 0, 0⟩) = false ∧
    Instr.wf (.helloFrame 0 ⟨0, false, false, 4, 0, 0⟩) = false ∧ Instr.wf (.health 0 0 false 6) = false ∧ Instr.wf (.health 0 0 false 5) = true ∧
    Instr.wf (.profileFrame (2 ^ 32) 0 0) = false := by decide +kernel

theorem test_wf_memory : Instr.wf (.stockroomTransaction ⟨.hostA, 0, 4, .write [1], []⟩) = false ∧
    Instr.wf (.extMemoryRequest ⟨.hostA, 0x100000000, 2, .rmw [1], []⟩) = false ∧ Instr.wf (.turnstileGrant 0 [ask, ask]) = false ∧
    Instr.wf (.turnstileGrant 0 [{ ask with words := 0 }]) = false ∧ Instr.wf (.turnstileGrant 0 [ask]) = true := by decide

theorem test_wf_tally_ledger_trim : Instr.wf (.tallySample (List.replicate 31 0)) = false ∧ Instr.wf (.ledgerRecordDrop ⟨0x10000, 0, 1, 0⟩) = false ∧
    Instr.wf (.ledgerRecordDrop ⟨0, 31, 1, 0⟩) = false ∧ Instr.wf (.ledgerRecordDrop ⟨0, 0, 0, 0⟩) = false ∧
    Instr.wf (.ledgerRecordDrop ⟨0, 0, 5, 0⟩) = false ∧ Instr.wf (.trimRunEnd (.skew [(0, [none])])) = false ∧
    Instr.wf (.trimRunEnd (.skew [(0, [none, none, none, none]), (0, [none, none, none, none])])) = false := by decide

/-! ## Witnesses: the instructions of Loom -/

/-- The state in which thread 0 of core 0 runs `x`, with the units of a configuration word. -/
def runner (units : Nat) (x : Thread) : State := running x (part units [])

/-- The same with a trap handler. -/
def trapper (x : Thread) : State := runner 1 { x with tvec := 0x4400100 }

/-- A running thread that can trap, a shift by 63 and one by 64, a LUI whose ra is not zero. -/
theorem test_witness_LoomIntegerResults : let s := trapper (thread [])
    (s.canRun 0 0 ∧ (s.thread 0 0).canTrap) ∧ (63 : BitVec 16).toNat < 64 ∧ 64 ≤ (64 : BitVec 16).toNat ∧ 2 ^ 16 ≤ (0x10000 : BitVec 21).toNat := by
  delta State.canRun State.canFetch Thread.canTrap; decide +kernel

/-- A divisor of 0, the most negative number divided by -1, and another divisor. -/
theorem test_witness_LoomMultiplyDivideResults : let s := runner 1 (thread [(1, BitVec.intMin 64), (2, -1)])
    s.canRun 0 0 ∧ (s.thread 0 0).reg (3 : Fin 32) = 0 ∧ (s.thread 0 0).reg (1 : Fin 32) = BitVec.intMin 64 ∧ (s.thread 0 0).reg (2 : Fin 32) = -1 := by
  delta State.canRun State.canFetch; decide +kernel

theorem test_witness_LoomPackedResults : (runner 1 (thread [(1, 0xFFFF0001)])).canRun 0 0 := by
  delta State.canRun State.canFetch; decide +kernel

/-- Branches that are taken and not, to the last word of the core's memory and to the address after it. -/
theorem test_witness_LoomJumps : let s := trapper (thread [(1, 1), (2, -1), (3, 0x4BFFFFC), (4, 0x4C00000)])
    let x := s.thread 0 0
    (s.canRun 0 0 ∧ x.canTrap) ∧ x.reg (0 : Fin 32) = 0 ∧ x.reg (1 : Fin 32) ≠ 0 ∧ (x.reg (2 : Fin 32)).toInt < 0 ∧ s.codeAt (x.pc + 4 * (1 : BitVec 21).signExtend 64) ∧
    ¬ s.codeAt (x.pc + 4 * (-1 : BitVec 21).signExtend 64) ∧ s.codeAt (x.reg (3 : Fin 32)) ∧ ¬ s.codeAt (x.reg (4 : Fin 32)) ∧ ¬ s.codeAt (x.reg (1 : Fin 32)) := by
  delta State.canRun State.canFetch Thread.canTrap State.codeAt; decide +kernel

/-- Loads of each size, from scratch and at the last address of Stockroom; a store into a context area that is locked and elsewhere. -/
theorem test_witness_LoomMemoryResults : let s := runner 1 (thread [])
    s.canRun 0 0 ∧ (s.loadable 0 0 0x5FFFFFF 1 ∧ s.loadView 0 0x5FFFFFF 1 = some [0]) ∧ (s.loadable 0 0 0x5FFFFF8 8 ∧
      s.loadView 0 0x5FFFFF8 8 = some [0, 0, 0, 0, 0, 0, 0, 0]) ∧ (s.loadable 0 0 0x5900002 2 ∧ s.loadView 0 0x5900002 2 = some [0, 0]) ∧
    (s.loadable 0 0 4 4 ∧ s.loadView 0 4 4 = some [0, 0, 0, 0]) ∧ (s.storable 0 0 0x5900000 8 ∧ s.ctxLocked 0x5900000 = true) ∧
    (s.storable 0 0 0x5940000 1 ∧ s.ctxLocked 0x5940000 = false) ∧ (s.storable 0 0 0x5FFFFFE 2 ∧ s.ctxLocked 0x5FFFFE0 = false) := by
  delta State.canRun State.canFetch State.loadable State.storable; decide +kernel

/-- The cases of an access that traps, and the ways of SWAP and CAS. -/
theorem test_witness_LoomAccessesAndAtomics : let s := { trapper (thread [(1, 7), (2, 0x5940000), (3, 0x100000000)]) with poison := [(0x2CA001, true)] }
    let e := running { (thread [(3, 0x100000000)]) with tvec := 4 } (part 1 [(TS_EXT_STATUS_USABLE, 1)])
    let x := s.thread 0 0
    (s.canRun 0 0 ∧ x.canTrap) ∧ 7 % 2 ≠ 0 ∧ (0xFFFFFFFFFF : Nat) % 1 = 0 ∧ 2 ^ 40 ≤ (2 ^ 40 : Nat) ∧ (inRegs 0x10000000 = true ∧ x.sys = false) ∧
    (0x10090048 % 8 = 0 ∧ inRegs 0x10090048 = true ∧ (findRow 0x10090048).isSome) ∧ (s.loadable 0 0 0x5940020 8 ∧ s.loadView 0 0x5940020 8 = none) ∧
    (s.storable 0 0 0x5940000 8 ∧ inStock 0x5940000 = true ∧ s.poisoned 0x5940000 8 = false ∧ s.ctxLocked 0x5940000 = false) ∧
    (BitVec.ofNat 64 (ofLe (s.bytesAt 0x5940000 8)) = x.reg (4 : Fin 32) ∧ BitVec.ofNat 64 (ofLe (s.bytesAt 0x5940000 8)) ≠ x.reg (1 : Fin 32)) ∧
    (e.canRun 0 0 ∧ (e.thread 0 0).canTrap ∧ e.inExt ((e.thread 0 0).reg (3 : Fin 32)).toNat = true ∧ e.inExt 0x1000FFFF8 = true) := by
  delta State.canRun State.canFetch Thread.canTrap State.loadable State.storable; decide +kernel

/-- A position at and after the present one; ARMAT's words that are refused, late and taken. -/
theorem test_witness_LoomTimelineResults : let s := { runner 1 (thread [(1, 100), (2, 101), (3, 0x100), (4, 0x00000000000001FF), (5, 0x700000)]) with ys := { pos := 100 } }
    let x := s.thread 0 0
    s.canRun 0 0 ∧ (x.reg (1 : Fin 32)).toNat ≤ s.ys.pos ∧ s.ys.pos < (x.reg (2 : Fin 32)).toNat ∧
    ((3 * 32 : BitVec 10).toNat % 32 = 0 ∧ (x.reg (3 : Fin 32)).toNat / 2 ^ 8 % 4 ≠ 0) ∧ (x.reg (5 : Fin 32)).toNat / 2 ^ 8 % 4 = 0 ∧
    (s.fetched 0 0).armCheck 0 101 0 0 0 0 = .ok ∧ (s.fetched 0 0).armCheck 255 100 0 0 0 0 = .late := by
  delta State.canRun State.canFetch; decide +kernel

/-- Numbers of control registers that are defined and are not, values of CSRW at their limits, and the cases of LOG, TRAP and ERET. -/
theorem test_witness_LoomSystemResults :
    let s := { trapper { (thread [(1, 2 ^ 40 - 4), (2, 2 ^ 40), (3, 63), (4, 64), (5, 0xFFFF0004), (6, 0xD0000001), (7, 0x00010005)]) with sys := true } with lg := { taking := true } }
    let u := trapper (thread [])
    let h := runner 1 { (thread []) with sys := true, intrap := true }
    let x := s.thread 0 0
    (s.canRun 0 0 ∧ 0 < 64 ∧ x.canTrap) ∧ (u.canRun 0 0 ∧ (u.thread 0 0).sys = false) ∧ (h.canRun 0 0 ∧ (h.thread 0 0).intrap = true ∧ ¬ (h.thread 0 0).canTrap) ∧
    ((x.reg (1 : Fin 32)).toNat < 2 ^ 40 ∧ (x.reg (1 : Fin 32)).toNat % 4 = 0) ∧ 2 ^ 40 ≤ (x.reg (2 : Fin 32)).toNat ∧ (x.reg (3 : Fin 32)).toNat < 64 ∧
    64 ≤ (x.reg (4 : Fin 32)).toNat ∧ (x.reg (5 : Fin 32)).toNat / 2 ^ 28 % 16 = 15 ∧
    ((x.reg (6 : Fin 32)).toNat / 2 ^ 28 % 16 = 13 ∧ (x.reg (6 : Fin 32)).toNat / 2 ^ 8 % 256 = 0 ∧ (x.reg (6 : Fin 32)).toNat % 256 = 1) ∧
    ((x.reg (7 : Fin 32)).toNat / 2 ^ 28 % 16 ≠ 15 ∧ 4 < (x.reg (7 : Fin 32)).toNat % 256) ∧
    ((s.fetched 0 0).lg.taking = true ∧ (s.fetched 0 0).lg.intake.length < 64) ∧ (u.thread 0 0).tvec ≠ 0 := by
  delta State.canRun State.canFetch Thread.canTrap; decide +kernel

/-- Registers of the witness for the scheduling instructions: times at their limits, names of thread 0 of cores 1 and 2, signal bits,
priorities, and the name that means the thread itself. -/
def schedRegs : List (Nat × DWord) :=
  [(1, 2 ^ 48 - 1), (2, 2 ^ 48), (3, 0x10000), (4, 0x20000), (5, 0xFFFF), (6, 0x80000000), (7, 63), (8, 64), (9, 0x100), (10, 0x300)]

/-- Cores 0 and 1 are on; thread 1 of core 0 is READY at priority 5. -/
def sched (x : Thread) (q : List WakeEntry) : State :=
  { runner 3 x with cores := [(0, { running := some 0, ready := [(5, [1])] }), (1, { queue := q })]
                    threads := [(0, { x with st := .running, pc := 0x4400000 }), (1, { st := .ready, pri := 5 })] }

def schedSys : State := sched { (thread schedRegs) with pri := 5, sys := true, sigpend := 1 } []
def schedUser : State := sched { (thread schedRegs) with pri := 6, priMax := 5 } (List.replicate 64 (.timer 0))
/-- What a register of thread 0 of core 0 holds there. -/
def held (i : Fin 32) : Nat := ((schedSys.thread 0 0).reg i).toNat

theorem test_witness_LoomScheduling_waits :
    let x := schedSys.thread 0 0
    let y := schedUser.thread 0 0
    (schedSys.canRun 0 0 ∧ 0 < 64 ∧ schedSys.coreOn 0 = true) ∧ (schedUser.canRun 0 0 ∧ schedUser.coreOn 0 = true) ∧
    ((5 ≤ 5 ∧ (schedSys.core 0).ready.get [] 5 ≠ []) ∧ ∀ q < 64, 6 ≤ q → (schedUser.core 0).ready.get [] q = []) ∧ x.reg (0 : Fin 32) = 0 ∧
    (0 < held 1 ∧ held 1 < 2 ^ 48) ∧ 2 ^ 48 ≤ held 2 ∧ held 1 % 2 ^ 16 ≠ 0 ∧ held 2 % 2 ^ 16 = 0 ∧ x.sigpend &&& (held 5 % 2 ^ 16) ≠ 0 ∧
    y.sigpend &&& (held 5 % 2 ^ 16) = 0 ∧ schedSys.boot.session = none := by
  delta State.canRun State.canFetch; decide +kernel

theorem test_witness_LoomScheduling_threads :
    let s0 := schedSys.fetched 0 0
    let x := schedSys.thread 0 0
    let y := schedUser.thread 0 0
    (∀ tc < 8, ∀ tt < 64, held 6 ≠ tc * 2 ^ 16 + tt * 2 ^ 8) ∧ (0 < held 5 ∧ held 5 < 2 ^ 16) ∧ held 3 = 1 * 2 ^ 16 + 0 * 2 ^ 8 ∧ held 4 = 2 * 2 ^ 16 + 0 * 2 ^ 8 ∧
    schedSys.coreOn 2 = false ∧ (schedSys.coreOn 1 = true ∧ (s0.core 1).queue.length < 64 ∧ (s0.core 1).held = []) ∧
    (schedUser.coreOn 1 = true ∧ 64 ≤ ((schedUser.fetched 0 0).core 1).queue.length) ∧
    (x.st ≠ .dormant ∧ x.reg (6 : Fin 32) = 2 ^ 31 ∧ held 7 < 64 ∧ ∀ q < 64, held 7 + 1 ≤ q → (schedSys.core 0).ready.get [] q = []) ∧
    (y.sys = false ∧ held 9 < 2 ^ 31 ∧ y.reg (9 : Fin 32) ≠ BitVec.ofNat 64 0 ∧ y.priMax.toNat % 64 < 6) ∧ 64 ≤ held 8 ∧
    (schedSys.thread 1 0).st = .dormant ∧ (held 9 = 0 * 2 ^ 16 + 1 * 2 ^ 8 ∧ (schedSys.thread 0 1).st ≠ .dormant) := by
  decide +kernel

/-- Mailbox partners that do not exist, are off, empty and full, at the edges of their ranges. -/
theorem test_witness_LoomMessages :
    let s := { runner 3 (thread [(1, 11), (2, 12), (3, 9), (4, 15)]) with hst := { boxes := [(3 * 12 + 2, { words := [⟨7, 0, 0, 0, false⟩] }), (2 * 12 + 3, { words := [⟨8, 0, 0, 0, false⟩] })] } }
    let c := runner 0x40000003 (thread [])
    let a (i : Fin 32) := ((s.thread 0 0).reg i).toNat
    (s.canRun 0 0 ∧ (0 : BitVec 10).toNat % 32 = 0) ∧ 12 ≤ a 2 ∧ (a 1 < 12 ∧ a 1 ≠ 0 + 2 ∧ s.endpointOn (a 1) = false) ∧
    (3 < 10 ∧ 3 ≠ 0 + 2 ∧ s.endpointOn 3 = true ∧ s.boxSize ≤ (s.box 2 3).words.length) ∧ (s.boxSize = 1 ∧ (s.box 2 0).words.length < s.boxSize) ∧
    (c.boxSize = 8 ∧ c.endpointOn 3 = true ∧ c.endpointOn 4 = false) ∧ a 3 / 16 % 2 ^ 12 = 0 ∧ (12 ≤ a 2 % 16 ∧ a 2 % 16 < 15) ∧
    (a 1 % 16 < 12 ∧ a 1 % 16 ≠ 2 ∧ s.endpointOn (a 1 % 16) = false) ∧ (s.endpointOn 0 = true ∧ (s.box 0 2).words = []) ∧
    (s.endpointOn 3 = true ∧ (s.box 3 (0 + 2)).words = ⟨7, 0, 0, 0, false⟩ :: [] ∧ (1 : Fin 32) ≠ 0) := by
  delta State.canRun State.canFetch; decide +kernel

/-- An adopted list that names the buffer at 0x100000000. -/
def namesBuf : DrList := ⟨false, 0, 0, 0, [⟨0x100000000, 64, 0, 0, 0, false, false, 0, 0, 255, 0, 0, 1, 1, 0, 0, 1, 1, 65536, 65536, [], []⟩]⟩

/-- SUBMIT to rings that are absent, disabled, full and free; fences that are reached and not; and RELEASE with and without a name. -/
theorem test_witness_LoomEngines :
    let on := [(BT_UCODE_LOADED 2, 1), (RING_CTRL_ENABLE 0x10100108, 1), (RING_CTRL_LOG2SIZE 0x10100108, 4), (RING_LO 0x10100108, 0x5940000)]
    let at0 (l : List (Fld × Nat)) := running (thread [(1, 15), (2, 16), (3, 0x5940000), (4, 0x5FFFFC0), (5, 0x005), (6, 0x500), (7, 0x100000000)]) (part 0x101 (on ++ l))
    let s := { at0 [] with dr := { adopted := [(0, some namesBuf)] }, poison := [(0x5FFFFC0 / 32, true)] }
    let full := { at0 [(RING_TAIL 0x10100108, 16)] with dr := { adopted := [(0, some namesBuf)], held := List.replicate 32 (1, 0) } }
    let off := runner 1 (thread [(1, 15)])
    let a (i : Fin 32) := ((s.thread 0 0).reg i).toNat
    (s.canRun 0 0 ∧ full.canRun 0 0 ∧ off.canRun 0 0) ∧ 15 < a 2 ∧ (a 1 ≤ 15 ∧ s.ringUnit (.engine 15) = false) ∧
    (a 3 % 64 = 0 ∧ s.entrySource (a 3) = true ∧ s.ringUnit (.engine 0) = true ∧ s.on (RING_CTRL_ENABLE 0x10100108) = true ∧ s.poisoned (a 3) 64 = false) ∧
    (s.entrySource (a 4) = true ∧ s.poisoned (a 4) 64 = true) ∧ s.entrySource 0x4BFFFC0 = true ∧ s.entrySource 0x4C00000 = false ∧
    (full.ringSize 0x10100108 ≤ full.ringCount 0x10100108 ∧ s.ringCount 0x10100108 < s.ringSize 0x10100108) ∧ s.on (RING_CTRL_ENABLE (0x10100108 + 0x80)) = false ∧
    fenceExists 5 0 = true ∧ fenceExists 5 1 = false ∧ (s.engineOn 5 = false ∧ s.engineOn 0 = true) ∧ (reached (s.fenceValue 0 8) 0 = true ∧ reached (s.fenceValue 0 8) 1 = false) ∧
    (off.has .draper = false ∧ s.has .draper = true ∧ a 2 % 16 = 0 ∧ a 1 % 16 ≠ 0) ∧ (s.bufNamed (a 7) = true ∧ s.dr.held.length < 32 ∧ s.bufNamed (a 2) = false) ∧
    (full.bufNamed (a 7) = true ∧ 32 ≤ full.dr.held.length) ∧ s.ringRegs (.engine 15) = false ∧ s.ringRegs (.engine 0) = true := by
  delta State.canRun State.canFetch; decide +kernel

/-- The first word of an instruction that is not one, of the first system instruction and of the last one that is none. -/
theorem test_witness_LoomWordsAndRegisters : let s := trapper (thread [])
    let code (w : Nat) := holding 0x4400000 (leBytes 4 w) s
    let u := runner 1 { (thread [(1, 0x10090044)]) with sys := true }
    (s.canRun 0 0 ∧ (s.thread 0 0).canTrap) ∧ ((code 0x0C).canRun 0 0 ∧ ((code 0x0C).thread 0 0).canTrap) ∧
    (∀ w ∈ [0, 0x0C, 0x3C000000, 0xA0000000, 0xFC000000, 0xFD500000, 0xFFFFFFFF], (code w).wordAt 0 ((code w).thread 0 0).pc.toNat = w) ∧
    (0x0C ≤ 0x0C % 2 ^ 11 ∧ 0xA0000000 / 2 ^ 26 = 0x28 ∧ 0x15 ≤ 0xFD500000 / 2 ^ 20 % 64) ∧ (1 : BitVec 10) ≠ 0 ∧ (31 : BitVec 10).toNat % 32 ≠ 0 ∧ (u.canRun 0 0 ∧ (u.thread 0 0).sys = true ∧
      (u.thread 0 0).reg (1 : Fin 32) + (0 : BitVec 16).signExtend 64 = 0x10090044 ∧ u.latches.get 0 (latchDue (threadReq 0 0) 0x10090044) = 0) := by
  delta State.canRun State.canFetch Thread.canTrap; decide +kernel

/-! ## Witnesses: threads and cores -/

/-- Core 0 is on; its threads 0 to 4 are DORMANT, READY, RUNNING, BLOCKED on a sleep, and SUSPENDED. -/
def threads5 : State :=
  { part 1 [] with cores := [(0, { running := some 2, ready := [(0, [1])] })]
                   threads := [(1, { st := .ready }), (2, { st := .running }), (3, { st := .blocked, wait := .sleep 1, deadline := some 0 }),
                               (4, { st := .suspended }), (5, { st := .suspended, wait := .sleep 1 })] }

/-- Each state of a thread; start parameters that are legal (all zero), not legal, and poisoned; commands that name no thread and a core that is off. -/
theorem test_witness_ThreadCommands : let s := threads5
    let bad := holding (0x5900000 + 0x180 + 0x20) [0, 2] s
    let hurt := { s with poison := [((0x5900000 + 0x180) / 32, true)] }
    let p (y : State) (off : Nat) := leAt (y.bytesAt (ctxBase 0 0 + 0x180) 0x80) off 8
    let legal (y : State) : Prop := p y 0x20 < 2 ^ 9 ∧ p y 0x20 / 2 ^ 6 % 4 = 0 ∧ leAt (y.bytesAt (ctxBase 0 0 + 0x180) 0x80) 0x28 0x58 = 0
    (s.coreOn 0 = true ∧ (0x40000400 : Word).toNat % 2 ^ 30 = 0 * 2 ^ 16 + 4 * 2 ^ 8) ∧ ((s.thread 0 0).st = .dormant ∧ s.poisoned (ctxBase 0 0 + 0x180) 0x80 = false ∧ legal s) ∧
    ((bad.thread 0 0).st = .dormant ∧ bad.poisoned (ctxBase 0 0 + 0x180) 0x80 = false ∧ ¬ legal bad) ∧ hurt.poisoned (ctxBase 0 0 + 0x180) 0x80 = true ∧
    ((s.thread 0 2).st ≠ .dormant ∧ (s.thread 0 2).st ≠ .suspended ∧ s.boot.session = none ∧ ∀ n < 64, (s.hasp n).owner ≠ some (s.threadIdent 0 2)) ∧
    ((s.core 0).running = some 2 ∧ s.dr.watch = [] ∧ (s.core 0).held = [] ∧ ∀ i < 12, s.excludedAt (ctxBase 0 2 + 32 * i) = false) ∧
    ((s.thread 0 4).st = .suspended ∧ (s.thread 0 4).wait = .none ∧ (s.thread 0 5).st = .suspended ∧ (s.thread 0 5).wait ≠ .none) ∧
    (∀ c < 8, ∀ t < 64, (1 : Word).toNat % 2 ^ 30 ≠ c * 2 ^ 16 + t * 2 ^ 8) ∧ ((0x10000 : Word).toNat % 2 ^ 30 = 1 * 2 ^ 16 + 0 * 2 ^ 8 ∧
      s.coreOn ((0x10000 : Word).toNat / 2 ^ 16 % 8) = false) := by
  decide +kernel

/-- Writes beside, at the edges of and inside context areas; a core with nothing ready, one that is free, one that is taken from a lower
thread and not from an equal one; and a switch to a fresh thread, to a saved one and to one whose area is poisoned. -/
theorem test_witness_ThreadSwitching : let s := threads5
    let idle := { part 1 [] with cores := [(0, { ready := [(63, [1])] })], threads := [(1, { st := .ready, pri := 63 })] }
    let above := { s with cores := [(0, { running := some 2, ready := [(1, [1])] })] }
    let comes (x : Thread) := { part 1 [] with cores := [(0, { incoming := some 0 })], threads := [(0, x)] }
    let hurt := { comes { st := .ready } with poison := [(0x5900000 / 32, true)] }
    let open_ (y : State) : Prop := y.coreOn 0 = true ∧ y.rd (FM_PWR_STATE 0) = 0 ∧ (y.core 0).incoming = none
    (0x58FFFFF < 0x5900000 ∧ 0x5940000 ≤ 0x5940000) ∧ (0x593FFFF % 32 + 1 ≤ 32 ∧ s.excludedAt (0x593FFFF / 32 * 32) = false ∧ s.dr.watch = [] ∧
      s.ctxLocked (0x593FFFF / 32 * 32) = false) ∧ s.ctxLocked 0x5900200 = true ∧ (threads5.coreOn 1 = false) ∧
    (open_ s ∧ s.nextReady 0 = some (0, 1) ∧ (s.core 0).running = some 2 ∧ 0 ≤ (s.thread 0 2).pri) ∧
    (open_ idle ∧ idle.nextReady 0 = some (63, 1) ∧ (idle.core 0).running = none) ∧
    (open_ above ∧ above.nextReady 0 = some (1, 1) ∧ (above.core 0).running = some 2 ∧ 2 ≠ 1 ∧ (above.thread 0 2).pri < 1) ∧
    (((comes { fresh := true }).core 0).incoming = some 0 ∧ ((comes { fresh := true }).thread 0 0).fresh = true) ∧
    (((comes {}).thread 0 0).fresh = false ∧ (comes {}).poisoned (ctxBase 0 0) 0x160 = false) ∧
    ((hurt.core 0).incoming = some 0 ∧ (hurt.thread 0 0).fresh = false ∧ hurt.poisoned (ctxBase 0 0) 0x160 = true) := by
  decide +kernel

/-- Threads that wait on what the head of the queue brings; held wakes of a source and of an issuer, with room for one; a deadline and a
position that have just come. -/
theorem test_witness_PendingWakes :
    let blocked (w : Wait) : Thread := { st := .blocked, wait := w, timed := true, matched := true }
    let one (x : Thread) (q : List WakeEntry) (h : List Held) : State :=
      { part 1 [] with now := 5, ys := { pos := 7, tick := 5 }, cores := [(0, { queue := q, held := h })], threads := [(1, x)] }
    let room := List.replicate 62 (.timer 0)
    let issuer := one (blocked (.room 0 0 1 2)) room [⟨.signal 0 1, .issuer 0 1⟩]
    let due := one { st := .blocked, wait := .signal 3 2, deadline := some 5 } [] []
    let pos := one { st := .blocked, wait := .position 7 2 } [] []
    (∀ e ∈ [WakeEntry.signal 1 2, .position 1 true, .timeline 1, .timer 1], let s := one (blocked (.sleep 2)) [e] []; s.coreOn 0 = true ∧ (s.core 0).incoming = none ∧ (s.core 0).queue = e :: [] ∧ (s.thread 0 1).st = .blocked) ∧
    ((0 ||| 2) &&& 3 ≠ 0 ∧ 0 &&& 3 = 0) ∧ (blocked (.sleep 2)).timed = true ∧ (one {} [] []).coreOn 1 = false ∧
    (let s := one {} (.signal 1 3 :: room) [⟨.mailbox 3, .source⟩]; (s.core 0).queue = .signal 1 3 :: room ∧ room.length < 64 ∧
      (s.core 0).held = ⟨.mailbox 3, .source⟩ :: [] ∧ (∀ e ∈ (s.core 0).held, e.origin = .source) ∧ (s.thread 0 1).wait = .none) ∧
    (let s := one {} room [⟨.mailbox 3, .source⟩]; (s.core 0).held = ⟨.mailbox 3, .source⟩ :: [] ∧ (s.core 0).queue.length < 63) ∧
    ((issuer.core 0).held = ⟨.signal 0 1, .issuer 0 1⟩ :: [] ∧ (issuer.thread 0 1).wait = .room 0 0 1 2 ∧ (issuer.thread 0 1).st = .blocked ∧
      (issuer.core 0).queue.length < 63) ∧ 64 ≤ (List.replicate 64 (WakeEntry.timer 0)).length ∧
    (due.coreOn 0 = true ∧ (due.core 0).queue = [] ∧ (due.core 0).held = [] ∧ (due.thread 0 1).deadline = some 5 ∧ 5 ≤ due.ys.tick ∧ (due.thread 0 1).timed = false ∧
      due.waiting 0 1 = true ∧ due.on (NOTIFY_ENABLE FM_NOTIFY_addr) = false) ∧
    ((pos.thread 0 1).wait = .position 7 2 ∧ (pos.thread 0 1).matched = false ∧ 7 ≤ pos.ys.pos) := by
  decide +kernel

/-- Core 1 may sleep; cores 0, 2 and 3 are on, gated and powering up; a kick with the key, with a stuck group, and without the key; a
watchdog that runs, has warned, and is stopped. -/
theorem test_witness_CoresAndWatchdog :
    let stuck : State := { part 1 [] with now := 10001, ts := { running := [(15, some { req := 0, rmw := false, since := 0 })] } }
    let s := { part 0xF [(FM_PWR_MODE 1, 1), (FM_PWR_STATE 2, 2), (FM_PWR_STATE 3, 3), (FM_WDOG_CFG_RUNNING, 1), (FM_PWR_IDLE 1, 0)] with now := 1000 }
    (0 < (1 : Fin 8).val ∧ s.coreOn 1 = true ∧ s.on (FM_PWR_MODE 1) = true ∧ s.rd (FM_PWR_STATE 1) = 0 ∧ (s.core 1).running = none ∧
      (s.core 1).incoming = none ∧ s.nextReady 1 = none ∧ max (s.core 1).idleSince s.fm.resetAt + max 1 (s.rd (FM_PWR_IDLE 1)) * 1000 ≤ s.now) ∧ (s.rd (FM_PWR_STATE 2) = 2 ∧ s.rd (FM_PWR_STATE 3) = 3 ∧ s.rd (FM_PWR_STATE 0) = 0) ∧
    ((0x12344B1C : Word).toNat % 2 ^ 16 = 0x4B1C ∧ s.stuckGroups = []) ∧ (stuck.stuckGroups = [15] ∧ 60000 + 5 * 0 < 6 * (10001 - 0)) ∧
    (0x4B1D : Word).toNat % 2 ^ 16 ≠ 0x4B1C ∧ (s.on FM_WDOG_CFG_RUNNING = true ∧ s.fm.wdogWarned = false) ∧ (part 1 []).on FM_WDOG_CFG_RUNNING = false := by
  decide +kernel

/-! ## Witnesses: reset, start and security -/

/-- Two causes of which the watchdog ranks higher; a running watchdog; boot steps 7 and 13 STARTED; sensors that are armed. -/
theorem test_witness_Resets :
    let s := { part 1 [(FM_WDOG_CFG_RUNNING, 1), (BT_JOURNAL_STEP 3, 2), (BT_JOURNAL_STEP 7, 1), (BT_JOURNAL_STEP 13, 1)] with now := 60 * 10 ^ 9 }
    (WarmCause.watchdog ∈ [WarmCause.service, .watchdog] ∧ (∀ d ∈ [WarmCause.service, .watchdog], warmRank .watchdog ≤ warmRank d) ∧ s.boot.session = none) ∧
    s.on FM_WDOG_CFG_RUNNING = true ∧ (s.rd (BT_JOURNAL_STEP (7 : Fin 15)) = 1 ∧ s.rd (BT_JOURNAL_STEP (13 : Fin 15)) = 1) ∧
    (∀ k ∈ [TamperSensor.supply, .clock, .temperature], s.armed k = true ∧ bit s.boot.tamperHeld (sensorBit k) = false) ∧ s.boot.tamperHeld < 8 ∧
    s.boot.tapHeld = false ∧ s.boot.stepAt + 60 * 10 ^ 9 ≤ s.now ∧ ({ s with now := 60 * 10 ^ 9 - 1 } : State).now < s.boot.stepAt + 60 * 10 ^ 9 := by decide +kernel

/-- A start from a host with and without REFCLK_25M, and one that waited for it; firmware's reports of steps 6, 7 and 14. -/
theorem test_witness_StartSteps : let e := { env with flash := false }
    let s := { part 0 [(BT_STATUS_SOURCE, 1)] with boot := { cold := false } }
    let w := { s with boot := { s.boot with waits := some 3, env := some e } }
    let j := part 0 [(BT_JOURNAL_STEP 6, 1), (BT_JOURNAL_STEP 8, 2), (BT_JOURNAL_STEP 7, 1), (BT_JOURNAL_STEP 13, 3)]
    (e.trains = true ∧ e.flash = false ∧ e.ladderOk = true ∧ s.boot.cold = false ∧ s.rd BT_STATUS_SOURCE ≠ 0) ∧
    (s.boot.atStart = true ∧ s.boot.halted = false ∧ s.heldInReset = false ∧ ∀ k < 15, s.rd (BT_JOURNAL_STEP k) ≠ 1 ∧ s.rd (BT_JOURNAL_STEP k) ≠ 3) ∧
    (({ e with romOk := false }).romOk = false ∧ ({ e with refclk := false }).refclk = false ∧ e.romOk = true ∧ e.refclk = true) ∧
    (w.boot.waits = some 3 ∧ w.boot.env = some e ∧ w.on (BT_FALLBACK_STEP 4) = false) ∧
    ((6 : Fin 16).val < 7 ∧ 7 ≤ (7 : Fin 16).val ∧ j.rd (BT_JOURNAL_STEP (7 - 1)) ≠ 2 ∧ j.rd (BT_JOURNAL_STEP (7 - 1)) ≠ 3) ∧
    (j.rd (BT_JOURNAL_STEP 14) ≠ 1 ∧ j.rd (BT_JOURNAL_STEP (9 - 1)) = 2 ∧ j.rd (BT_JOURNAL_STEP (14 - 1)) = 3) ∧
    (j.rd (BT_JOURNAL_STEP 7) = 1 ∧ j.lacksUcode = false) := by decide +kernel

/-- A host's image without its magic; microcode at the ends of the staging area and beside it; a load that ends; step 11 and BT_RERUN. -/
theorem test_witness_BootRequests :
    let s := { holding 0x5940000 [1] (part 0 [(BT_STATUS_SOURCE, 1), (BT_HOSTBOOT_LO, 0x5940000)]) with boot := { waits := some 5 } }
    let u := part 0x10000 [(TS_EXT_STATUS_USABLE, 64), (BT_UCODE_ADDR_LO, 0x03FFFFC0), (BT_UCODE_ADDR_HI, 1), (BT_UCODE_LEN, 64), (BT_JOURNAL_STEP 14, 2)]
    let low := part 0 [(TS_EXT_STATUS_USABLE, 128), (BT_UCODE_ADDR_LO, 0x03FFFFFF), (BT_UCODE_ADDR_HI, 1), (BT_UCODE_LEN, 1)]
    let busy := { part 0 [] with boot := { ucode := some (3, 0, 64) } }
    let step11 := { part 0x10000 [(MT_STATUS_ROLE, 1), (BT_JOURNAL_STEP 11, 1)] with now := 9, mt := { stepEnd := some 9 } }
    (s.boot.waits = some 5 ∧ s.rd BT_STATUS_SOURCE = 1 ∧ s.rd BT_HOSTBOOT_LO + (0 : Word).toNat % 256 * 2 ^ 32 = 0x5940000 ∧
      leAt (s.bytesAt 0x5940000 512) 0 4 ≠ 0x4D494E5A ∧ ((List.range 512).all fun i => s.mayRead .boot (0x5940000 + i)) = true) ∧ u.boot.waits ≠ some 5 ∧
    (u.on BT_UCODE_BUSY = false ∧ (0x10000000 : Word).toNat / 2 ^ 28 % 4 ≠ 0 ∧ u.staging ≤ u.pair BT_UCODE_ADDR_LO BT_UCODE_ADDR_HI ∧
      u.pair BT_UCODE_ADDR_LO BT_UCODE_ADDR_HI + u.rd BT_UCODE_LEN = u.staging + stagingSize) ∧ (0 : Word).toNat / 2 ^ 28 % 4 = 0 ∧
    low.pair BT_UCODE_ADDR_LO BT_UCODE_ADDR_HI + 1 = low.staging ∧
    (busy.boot.ucode = some (3, 0, 64) ∧ 3 < 4 ∧ busy.poisoned 0 64 = false) ∧
    (step11.mt.stepEnd = some 9 ∧ 9 ≤ step11.now ∧ step11.rd MT_STATUS_ROLE = 1 ∧ step11.rd (BT_JOURNAL_STEP 11) = 1) ∧ s.booted = false ∧
    (u.booted = true ∧ (0x800 : Word).toNat / 2 ^ 10 % 2 = 0 ∧ (0x800 : Word).toNat / 2 ^ 11 % 2 = 1 ∧ u.has .mantle = true ∧ u.mt.alive = false) := by
  decide +kernel

/-- Firmware in SYS mode on core 0 after boot, other requesters, an owned part, and a block on submissions that ends now. -/
theorem test_witness_SecurityRequests :
    let s := { running { (thread []) with sys := true } (part 1 [(BT_JOURNAL_STEP 14, 2)]) with boot := { fromFlash := true, blockedTo := 5 }, now := 5 }
    (s.booted = true ∧ s.boot.fromFlash = true) ∧ s.sysOnCore0 (.thread 0 0) = true ∧ (s.sysOnCore0 .hostA = false ∧ s.sysOnCore0 (.thread 1 0) = false) ∧
    (s.boot.keysel = 0 ∧ s.on BT_STATUS_OWNED = false) ∧ (part 0 [(BT_STATUS_OWNED, 1)]).on BT_STATUS_OWNED = true ∧ s.boot.blockedTo ≤ s.now ∧
    ({ s with now := 4 } : State).now < s.boot.blockedTo := by decide +kernel

/-! ## Witnesses: SYS and the register space -/

/-- The holder of Hasp 0 writes words that are legal and not; profile requests of a lone part and of a pair. -/
theorem test_witness_ProfileAndConfiguration :
    let s := { part 0x10000 [(MT_STATUS_LINK, 1), (MT_STATUS_PAIRED, 1)] with hst := { hasps := [(0, { owner := some ⟨0, 0, 0⟩ })] }, mt := { alive := true } }
    let own := { s with now := 10 ^ 9, mt := { s.mt with own := some (3, 1, 0) } }
    let legal (n : Nat) : Prop := n % 2 = 1 ∧ (n / 2 ^ 30 % 2 = 1 → n / 2 ^ 4 % 16 = 0 ∧ n / 2 ^ 15 % 2 = 0 ∧ n / 2 ^ 16 % 2 = 0) ∧
      (n / 2 ^ 12 % 2 = 1 → n / 2 ^ 11 % 2 = 1)
    (part 0 [(SYS_STATUS_PENDING, 1)]).on SYS_STATUS_PENDING = true ∧ (part 0 []).on MT_STATUS_PAIRED = false ∧
    (s.on SYS_STATUS_PENDING = false ∧ s.on MT_STATUS_PAIRED = true ∧ s.mt.peer = none) ∧ (s.mtOn = true ∧ s.on MT_STATUS_LINK = true ∧ s.mt.decideAt = none ∧ s.mt.own = none) ∧
    (own.mt.own = some (3, 1, 0) ∧ own.mt.decideAt = none ∧ 0 + 10 ^ 9 ≤ own.now ∧ s.now < 0 + 10 ^ 9 ∧ 1 = (1 : Fin 4).val ∧ 1 ≠ (2 : Fin 4).val) ∧ s.holds0 .hostB = false ∧
    (s.holds0 .hostA = true ∧ 2 ^ 31 ≤ (0xC0008001 : Word).toNat ∧ ¬ legal (0xC0008001 : Word).toNat) ∧ legal (0x80001801 : Word).toNat ∧ (0x7FFFFFFE : Word).toNat < 2 ^ 31 := by
  decide +kernel

theorem test_witness_DieTemperature : let s := { part 0x10000 [] with lg := { taking := true, intake := List.replicate 31 ⟨0, 0, 1, 0⟩ } }
    s.roomy ∧ (s.has .mantle = true ∧ s.on SYS_TEMP_ABOVE = false ∧ (420 : Int) ≤ (420 : BitVec 12).toInt) := by
  delta State.roomy; decide +kernel

/-- Widths of a write, a read that nothing has latched, and addresses that no block decodes. -/
theorem test_witness_RegisterAccess : let s := { part 0 [] with lg := { taking := true } }
    (0 < 3 ∧ 3 < 4) ∧ s.latches.get 0 (latchDue .hostA 0x10000018) = 0 ∧ s.latches.get 0 (latchDue .hostA 0x10090028) = 0 ∧
    (s.isUnmapped .hostA (0x6000000 : BitVec 40).toNat false = true ∧ s.isUnmapped .hostA (0x6000000 : BitVec 40).toNat true = true ∧ s.roomy) ∧
    (∀ c k, Requester.hostA = .thread c k → (s.core c).running ≠ some k.val) ∧
    (let u := runner 1 { (thread []) with tvec := 4 }; u.isUnmapped (.thread 0 0) (0x6000000 : BitVec 40).toNat true = true ∧
      (u.core 0).running = some 0 ∧ (u.thread 0 0).canTrap) ∧ s.isUnmapped .hostA (0x5FFFFFF : BitVec 40).toNat false = false := by
  refine ⟨by decide, by decide +kernel, by decide +kernel, ?_, by simp, ?_, by decide +kernel⟩
  · delta State.roomy; decide +kernel
  · delta Thread.canTrap; decide +kernel

/-! ## Witnesses: Yardstick -/

/-- An event that is valid and one that is not; the source whose events steer; expected events of a source that is present and is not. -/
theorem test_witness_YardstickReferences :
    let s := inEffect [(YS_SLEW_MAX, 1000)] { part 0 [(YS_STATUS_SOURCE, 1), (YS_SRC_PRESENT 3, 1), (YS_SRC_PRESENT 4, 1), (YS_LOSS_QUAL_COUNT, 1)] with now := 10 ^ 9 + 1, ys := { sources := [(4, { lastTick := some 1 })] } }
    (s.spacing (.wclk 48000) = some (48000 * 10 ^ 9, 48000) ∧ (s.source 4).lastTick = some 1 ∧ gapValid (s.rdA YS_SLEW_MAX) (s.now - 1) (48000 * 10 ^ 9) 48000 = true) ∧
    s.rd YS_LOSS_QUAL_COUNT ≤ (s.source 4).valid + 1 ∧ (s.spacing .genlock).isSome ∧ (s.source 2).lastTick = none ∧ s.rd YS_STATUS_SOURCE = 1 ∧
    s.on (YS_SRC_PRESENT 4) = true ∧ (s.on (YS_SRC_PRESENT ((4 : Fin 7) - 1)) = true ∧ s.rd YS_STATUS_SOURCE ≠ (4 : Fin 7).val) ∧
    s.on (YS_SRC_PRESENT ((6 : Fin 7) - 1)) = false := by decide +kernel

theorem test_witness_YardstickTimeline :
    let s := part 0 [(YS_STATUS_PENDING, 1)]
    let bad := part 0 [(YS_STATUS_PENDING, 1), (YS_RATE_DEN, 0)]
    ((1 : Word).getLsbD 0 = true ∧ (2 : Word).getLsbD 0 = false) ∧ (s.ys.rebase = none ∧ s.ys.snap = none) ∧
    (s.on YS_STATUS_PENDING = true ∧ ysCommitLegal s = true ∧ s.on SYS_STATUS_PENDING = false ∧
      rateWithin (s.rd SYS_PROFILE_ACTIVE) (s.rd YS_RATE_NUM) (s.rd YS_RATE_DEN) = true) ∧
    (bad.on YS_STATUS_PENDING = true ∧ ysCommitLegal bad = false) := by decide +kernel

/-- A slot that is free, one that is busy with these settings and with others, and slots that wake a thread and raise a trigger. -/
theorem test_witness_ArmSlots :
    let s := part 2 [(YS_SLOT_CTRL_ARMED 255, 1), (YS_SLOT_CTRL_ACTION 255, 7), (YS_SLOT_TARGET 255, 0x13F00), (YS_SLOT_CTRL_ARMED 1, 1),
      (YS_SLOT_CTRL_ACTION 1, 4), (YS_SLOT_TARGET 1, 3), (YS_TRIG_CFG_ENABLE 3, 1)]
    ((0x60000000 : Word).getLsbD 29 = true ∧ (0x40000000 : Word).getLsbD 29 = false ∧ (0x20000000 : Word).getLsbD 30 = false) ∧ s.slotBusy 0 = false ∧ s.slotBusy 1 = true ∧
    ((0x40400000 : Word).toNat / 2 ^ 20 % 16 = s.rd (YS_SLOT_CTRL_ACTION 1) ∧ (0x40400000 : Word).toNat / 2 ^ 18 % 4 = s.rd (YS_SLOT_CTRL_MODE 1) ∧
      (0x40400000 : Word).toNat % 2 ^ 16 = s.rd (YS_SLOT_CTRL_PERIOD 1)) ∧ (0x40000000 : Word).toNat / 2 ^ 20 % 16 ≠ s.rd (YS_SLOT_CTRL_ACTION 1) ∧
    (s.armCheck 0 (s.slotPos 0) (s.rd (YS_SLOT_TARGET 0)) 1 4 1 = .ok ∧ s.armCheck 0 (s.slotPos 0) (s.rd (YS_SLOT_TARGET 0)) 0 4 0 = .late) ∧
    s.on (YS_SLOT_CTRL_ARMED 0) = false ∧ (s.on (YS_SLOT_CTRL_ARMED 255) = true ∧ s.rd (YS_SLOT_CTRL_ACTION 255) = 7 ∧ s.rd (YS_SLOT_TARGET 255) / 2 ^ 16 % 8 = (1 : Fin 8) ∧
      s.coreOn 1 = true ∧ (s.core 1).queue.length < 64 ∧ (s.core 1).held = []) ∧
    (s.on (YS_SLOT_CTRL_ARMED 1) = true ∧ s.rd (YS_SLOT_CTRL_ACTION 1) = 4 ∧ s.ys.trig = [] ∧ s.on (YS_TRIG_CFG_ENABLE (s.rd (YS_SLOT_TARGET 1) % 4)) = true) := by
  decide +kernel

/-- A slot to take up; two actions of which the earlier is next; a pulse; edges that are captured, too close, and not looked for. -/
theorem test_witness_TriggersAndCaptures :
    let x : Takeup := ⟨3, 1, 6, 8, 20, false⟩
    let z : Takeup := ⟨4, 1, 4, 0, 21, false⟩
    let s := { part 0 [(YS_SLOT_CTRL_ARMED 0, 1), (YS_SLOT_CTRL_ACTION 0, 6), (YS_TRIG_CFG_ENABLE 1, 1), (YS_CAP_CFG_ENABLE 2, 1), (YS_CAP_CFG_EDGE 2, 1)] with
      now := 200, ys := { trig := [z, x], pulseEnd := [(1, 30)], lastCapture := [(2, some 800)] } }
    (s.on (YS_SLOT_CTRL_ARMED 0) = true ∧ 4 ≤ s.rd (YS_SLOT_CTRL_ACTION 0) ∧ s.rd (YS_SLOT_CTRL_ACTION 0) ≤ 6 ∧ ∀ y ∈ s.ys.trig, y.slot ≠ 0) ∧
    (x ∈ s.ys.trig ∧ x.out = 1 ∧ x.made = false ∧ s.on (YS_TRIG_CFG_ENABLE 1) = true ∧
      ∀ y ∈ s.ys.trig, y.out = 1 → y.made = false → y = x ∨ x.due < y.due ∨ (x.due = y.due ∧ x.slot < y.slot)) ∧ s.ys.pulseEnd.get 0 1 ≠ 0 ∧
    (s.on (YS_CAP_CFG_ENABLE 2) = true ∧ bit (s.rd (YS_CAP_CFG_EDGE 2)) 0 = true ∧ s.ys.lastCapture.get none 2 = some 800 ∧ 800 + 800 ≤ s.now * 8 + 0 ∧
      s.on (YS_CAP_CFG_BOBBIN 2) = false) ∧ ({ s with now := 199 } : State).now * 8 + 7 < 800 + 800 ∧ bit (s.rd (YS_CAP_CFG_EDGE 2)) 1 = false := by decide +kernel

/-! ## Witnesses: rings and Draper -/

/-- Tails that take back no entry, fill the ring, and go beyond it; sizes and addresses at and outside their limits; rings that are on and absent. -/
theorem test_witness_RingsAndStreams :
    let b := ringBase (.engine 14)
    let s := part 0 [(RING_LO b, 0x5FFC000), (RING_CTRL_LOG2SIZE b, 4), (RING_HEAD b, 0xFFFF), (RING_TAIL b, 0), (HP_STATUS_MODE 0, 1)]
    let on := part 0x100 [(BT_UCODE_LOADED 2, 1), (RING_CTRL_ENABLE b, 1), (DR_ING_CFG_ENABLE 3, 1)]
    let after (v : Nat) := (v % 2 ^ 16 + 2 ^ 16 - s.rd (RING_HEAD b)) % 2 ^ 16
    s.ringUnit (.engine 0) = false ∧ (s.ringUnit (.engine 14) = true ∧ s.ringCount b ≤ after 15 ∧ after 15 = s.ringSize b) ∧ s.ringSize b < after 16 ∧
    after 0xFFFF < s.ringCount b ∧ (s.on (RING_CTRL_ENABLE b) = false ∧ 4 ≤ (8 : Word).toNat % 16 ∧ (8 : Word).toNat % 16 ≤ 8 ∧ s.ringAddr b % 64 = 0 ∧
      s.extOrScratch (s.ringAddr b) (2 ^ 8 * 64) = true) ∧ ¬ (4 ≤ (3 : Word).toNat % 16) ∧ ¬ ((9 : Word).toNat % 16 ≤ 8) ∧
    (s.ringRegs (.engine 6) = true ∧ s.ringUnit (.engine 6) = false) ∧ (on.ringRegs (.engine 14) = true ∧ on.on (RING_CTRL_ENABLE b) = true) ∧
    (s.has .draper = false ∧ on.has .draper = true ∧ on.on (DR_ING_CFG_ENABLE 0) = false ∧ on.on (DR_ING_CFG_ENABLE 3) = true) := by decide +kernel

/-- The first composition in line: of this canvas, of another, begun and abandoned; a ring whose one entry names a list without layers; and
a canvas of one pixel. -/
theorem test_witness_Compositions :
    let k : Comp := { canvas := 3, frame := 7 }
    let b := ringBase (.engine 3)
    let base := [(BT_UCODE_LOADED 2, 1), (TS_EXT_STATUS_USABLE, 1), (RING_CTRL_LOG2SIZE b, 4), (RING_LO b, 0x5940000), (RING_TAIL b, 1)]
    let s := { part 0x100 base with dr := { order := [k] } }
    let on := holding 0x5940000 [0, 0, 0, 0, 1, 0, 0, 0, 0, 0, 0, 0, 0, 0, 0, 0, 1] (holding 0x100000000 [0, 1, 0x52, 0x44]
      { part 0x100 ((RING_CTRL_ENABLE b, 1) :: base) with dr := { order := [k] } })
    let l := leAt (on.bytesAt 0x5940000 32) 0 8 % 2 ^ 40
    let run := inEffect [(DR_CAN_SIZE_WIDTH 3, 1), (DR_CAN_SIZE_HEIGHT 3, 1)] { part 0x100 [] with dr := { order := [{ k with phase := .running }] } }
    (s.has .draper = true ∧ (part 0 []).has .draper = false) ∧ (s.dr.order = k :: [] ∧ k.canvas = (3 : Fin 4) ∧ k.phase = .queued ∧ s.on (RING_CTRL_ENABLE b) = false ∧
      k.canvas ≠ (0 : Fin 4)) ∧
    (on.has .draper = true ∧ on.dr.order = k :: [] ∧ on.on (RING_CTRL_ENABLE b) = true ∧ on.ringCount b = 1 ∧ on.ringEntry b (on.rd (RING_HEAD b)) = 0x5940000 ∧
      on.poisoned 0x5940000 32 = false ∧ leAt (on.bytesAt 0x5940000 32) 0x10 4 % 2 = 1 ∧ l % 64 = 0 ∧ min 16 (leAt (on.bytesAt l 64) 0 4 % 256) = 0 ∧
      on.extRange l (64 + 64 * 0) = true ∧ on.poisoned l 64 = false ∧ on.poisoned (l + 64) (64 * 0) = false ∧
      (on.validate (on.bytesAt l 64 ++ on.bytesAt (l + 64) (64 * 0)) false) = (.ok, some ⟨false, 0, 0, 0, []⟩)) ∧
    (run.dr.order.find? fun x => x.canvas == 3 && x.phase == .running && decide (x.endsAt ≤ run.now)) = some { k with phase := .running } ∧
    (run.dr.order.find? fun x => x.canvas == 3 && x.phase == .draining) = none ∧
    (([{ k with phase := .draining }] : List Comp).find? fun x => x.canvas == 3 && x.phase == .draining) = some { k with phase := .draining } ∧
    (k.entry = none ∧ run.ts.excluded = [] ∧ run.rdA (DR_CAN_BASE 3) + 6 * (run.canW 3 * run.canH 3) ≤ 0x1800000 ∧ 0 < run.canW 3 ∧ 0 < run.canH 3) := by
  decide +kernel

/-- A plain header for this part: one section that fills core 0's first 64 bytes, where it also starts. -/
def imgHead : List Byte :=
  leBytes 4 0x4D494E5A ++ leBytes 2 1 ++ leBytes 2 (State.reset.rd SYS_ID_PART) ++ leBytes 1 (State.reset.rd SYS_ID_STEPPING)
  ++ List.replicate 31 0 ++ leBytes 4 64 ++ leBytes 4 0 ++ leBytes 8 0x4400000 ++ List.replicate 232 0
  ++ [1] ++ List.replicate 7 0 ++ leBytes 4 64 ++ List.replicate 212 0

/-- A host's image that passes: its three values of cryptography are the part's, which the model leaves open (log 22), and are taken here. -/
theorem test_witness_BootRequests_image (hk : Config.sha384 (List.replicate 96 0) = 0) (hb : Config.sha384 (List.replicate 64 0) = 0)
    (he : Config.ecdsa 0 (Config.sha384 (imgHead.take 0x1A0)) (List.replicate 96 0) = true)
    (hd : Config.decrypt 0 imgHead (List.replicate 64 0) = some []) :
    let s := { holding 0x5940000 imgHead (part 0 [(BT_STATUS_SOURCE, 1), (BT_HOSTBOOT_LO, 0x5940000)]) with boot := { waits := some 5 } }
    let body := s.bytesAt (0x5940000 + 512) (min (leAt imgHead 0x28 4) 0x4000000)
    (s.boot.waits = some 5 ∧ s.rd BT_STATUS_SOURCE = 1 ∧ s.rd BT_HOSTBOOT_LO + (0 : Word).toNat % 256 * 2 ^ 32 = 0x5940000 ∧
      s.bytesAt 0x5940000 512 = imgHead ∧ body = List.replicate 64 0 ∧ s.poisoned 0x5940000 (512 + body.length) = false) ∧
    (∀ i < 576, s.mayRead .boot (0x5940000 + i) = true) ∧ s.imgCheck imgHead (List.replicate 64 0) = .ok ∧
    s.imgDecrypt imgHead (List.replicate 64 0) = (.ok, []) := by
  refine ⟨by decide +kernel, by decide +kernel, ?_, ?_⟩
  · have key : (imgHead.drop 0xC0).take 96 = List.replicate 96 0 := by decide +kernel
    have sig : (imgHead.drop 0x1A0).take 96 = List.replicate 96 0 := by decide +kernel
    delta State.imgCheck State.imgHeadCheck
    simp only [key, sig, hk, hb, he]
    decide +kernel
  · have vendor : imgKeysel imgHead ≠ 1 := by decide +kernel
    delta State.imgDecrypt
    simp only [vendor, hd, if_false]
    rfl

/-! ## Witnesses: Tailor, Treadles and Thimble -/

/-- A pixel of a port that is on, on a blank canvas and on a good one; a pixel beyond the lamp map and a poisoned one. -/
theorem test_witness_TailorScanOut :
    let s := inEffect [(CH_CTRL_ENABLE 63, 1), (CH_ORIGIN_X 63, 3), (CH_SIZE_W 63, 1), (CH_SIZE_H 63, 1), (DR_CAN_SIZE_WIDTH 0, 4), (DR_CAN_SIZE_HEIGHT 0, 1),
      (TL_GRP_OUT_WIN 15, 0)] (part 0 [(TL_FRONT_BLANK 0, 0)])
    let blank := { s with regs := (part 0 [(TL_FRONT_BLANK 0, 1)]).regs }
    let beyond := inEffect [(TL_CAN_MAP_MAPBASE 0, mapSize - 3)] s
    let hurt := { s with poison := [((s.boltAddr 0 0 3 0) / 32, true)] }
    let rect := s.portRect 63
    let damaged (y : State) := (y.scanWords 0 3 0).filter fun d => (y.poisonedAt d || decide (0 < y.ts.symbols.get 0 (d / 32))) && !y.tl.seen.contains d
    (s.leader 15 = 15 ∧ s.onA (CH_CTRL_ENABLE 63) = true ∧ s.rdA (TD_CTRL_CANVAS 15) = (0 : Fin 4) ∧ rect = (3, 0, 1, 1) ∧ 3 < s.canW 0 ∧ 0 < s.canH 0) ∧
    (∀ i < 3, s.tl.carry.get 0 (lampKey 63 0 * 4 + i) = 0) ∧ blank.on (TL_FRONT_BLANK 0) = true ∧
    (s.rdA (TL_GRP_OUT_WIN 15) = 0 ∧ damaged s = [] ∧ (s.scanSource 0 3 0).isSome = true ∧ s.mapIndex 0 3 0 < mapSize ∧ s.canW 0 ≤ 4) ∧
    s.onA (CH_CTRL_ENABLE 62) = false ∧ (3 < beyond.canW 0 ∧ beyond.scanSource 0 3 0 = none ∧ mapSize ≤ beyond.mapIndex 0 3 0) ∧
    (hurt.scanSource 0 3 0 = none ∧ damaged hurt = [s.boltAddr 0 0 3 0 / 32 * 32] ∧ hurt.poisonedAt (s.boltAddr 0 0 3 0 / 32 * 32) = true) := by decide +kernel

/-- Commits; a Swatch copy that has ended and one that has not; temperature sources that have been silent for a second; and a recomputation
that a latch waits for, with Purse on and off. -/
theorem test_witness_TailorScanOut_control :
    let s := inEffect [(TL_DRT_A_SRC 0, 0), (TL_DRT_A_SRC 1, 1), (TL_DRT_A_SRC 2, 2)] { part 0 [] with now := 10 ^ 9, tl := { running := true, calcEnds := 10 ^ 9, copyEnds := 10 ^ 9 + 1 } }
    let waits := { s with regs := (part 0 [(PU_CTRL_ENABLE, 1)]).regs, tl := { s.tl with toAdopt := some {} } }
    ((1 : Word).getLsbD 0 = true ∧ (2 : Word).getLsbD 0 = false) ∧ (s.now < s.tl.copyEnds ∧ State.reset.tl.copyEnds ≤ State.reset.now) ∧
    (s.tl.sourceAt.get 0 0 + 1000000000 ≤ s.now ∧ s.rdA (TL_DRT_A_SRC 0) = 0 ∧ s.retTemp 0 = none ∧ s.on (TL_DRT_STAT_STALE 0) = false) ∧
    (s.rdA (TL_DRT_A_SRC 1) = 1 ∧ s.weftTemp 1 = none) ∧ s.rdA (TL_DRT_A_SRC 2) = 2 ∧
    (s.tl.running = true ∧ s.tl.calcEnds ≤ s.now ∧ s.tl.toAdopt = none) ∧ (waits.tl.toAdopt = some {} ∧ waits.tl.running = true ∧ waits.on PU_CTRL_ENABLE = true) ∧
    s.on PU_CTRL_ENABLE = false := by decide +kernel

/-- A program that runs, at a word in its middle and at its last; the loop's last pass and one before; bit-plane mode. -/
theorem test_witness_WaveProgram :
    let s := inEffect [(TD_CTRL_MODE 2, 1), (TD_CTRL_MULT 2, 2), (TD_WAVE 2 510, 0x8FFFFFFF), (TD_WAVE 3 511, 0x80000000)] { part 0x200 [(BT_UCODE_LOADED 0, 1), (TD_STATUS_STATE 2, tdRunning), (TD_STATUS_PC 2, 510), (TD_STATUS_STATE 3, tdRunning), (TD_STATUS_PC 3, 511)] with
      td := { runs := [(2, { ended := false, counters := [0, 1, 0, 0] }), (3, { ended := false })] } }
    (s.has .treadle = true ∧ s.tdRuns 2 = true ∧ (s.tdRun 2).ended = false ∧ s.rd (TD_STATUS_PC 2) < 511) ∧
    (s.tdRuns 3 = true ∧ (s.tdRun 3).ended = false ∧ s.rd (TD_STATUS_PC 3) = 511 ∧ s.on (TD_STATUS_PENDING 3) = false) ∧ s.tdRuns 0 = false ∧
    s.on MT_STATUS_PAIRED = false ∧ s.planes 2 = true ∧ (s.waveWord 2 = some 0x8FFFFFFF ∧ s.waveWord 3 = some (8 * 2 ^ 28) ∧ s.waveWord 0 = none) ∧ ((s.tdRun 2).lines + 1 ≠ s.rd (TD_APPLY 2) ∨ s.on (TD_STATUS_PENDING 2) = false) ∧
    ((s.tdRun 2).counters.getD 0 0 + 1 < s.mult 2 ∧ s.mult 2 ≤ (s.tdRun 2).counters.getD 1 0 + 1) := by decide +kernel

/-- A commit whose settings are legal and one whose are not; reads that are whole, short, and of bad parity; discoveries of every outcome. -/
theorem test_witness_TreadleCommitsAndDiscovery :
    let base := [(BT_UCODE_LOADED 0, 1), (TD_STATUS_PENDING 0, 1), (TD_STATUS_PENDING 1, 1), (TD_CTRL_SCAN 0, 1), (TD_CTRL_MULT 0, 1), (TD_UNIT 0, 1), (TD_CTRL_SCAN 1, 33)]
    let s := inEffect [(CH_CTRL_ENABLE 0, 1), (CH_CTRL_RB_EN 0, 1), (CH_SIZE_W 0, 1), (CH_SIZE_H 0, 1), (TL_GRP_OUT_DEPTH 0, 16), (TD_CTRL_SCAN 0, 1)]
      { part 0x200 ((TD_STATUS_STATE 0, tdRunning) :: base) with now := 10 ^ 9, td := { runs := [(0, { ended := false })], ports := [(0, { fails := 1 }), (1, { absent := true }), (3, { absent := true, absentAt := 1 }), (2, { runs := some .absent })] } }
    let bits := s.lampBits 0
    let fixed := s.rdA (CH_RET_DLY 0) + s.rdA (CH_RET_RET_ADJ 0)
    (s.has .treadle = true ∧ s.on (TD_STATUS_PENDING 0) = true ∧ s.tdCheck 0 = .ok ∧ (s.tdRun 0).lines = s.rd (TD_APPLY 0)) ∧ (s.on (TD_STATUS_PENDING 1) = true ∧ s.tdCheck 1 ≠ .ok ∧ (s.tdRun 1).lines = s.rd (TD_APPLY 1)) ∧
    s.on (TD_STATUS_PENDING 2) = false ∧ (s.tdRuns 0 = true ∧ (s.tdRun 0).ended = false ∧ s.rd (TD_STATUS_PC 0) < 511 ∧ ((s.tdPorts 0).filter fun q => s.onA (CH_CTRL_RB_EN q)) = [0] ∧
      (s.port 0).out = false ∧ (s.port 0).absent = false ∧ s.onA (CH_CTRL_RB16 0) = false) ∧
    (s.lineLamps 0 = 1 ∧ oddParity 8 0x80 = true ∧ oddParity 8 0x00 = false ∧ 1 ≤ (s.port 0).fails) ∧ (s.onA (CH_CTRL_ENABLE 0) = true ∧ s.on (CH_DISC_BUSY 0) = false) ∧ ((s.port 1).absent = true ∧ (s.port 1).absentAt + 1000000000 ≤ s.now ∧
      s.on (CH_DISC_BUSY 1) = false ∧ s.now < (s.port 3).absentAt + 1000000000) ∧
    (s.port 0).runs = none ∧ (s.port 2).runs = some .absent ∧ (s.discOutcome 0 (some (fixed + bits, true)) = (1, 2) ∧ s.discOutcome 0 (some (fixed + 1, true)) = (3, 0) ∧
      s.discOutcome 0 (some (fixed + bits, false)) = (4, 0) ∧ s.discOutcome 0 (some (fixed + 16384 * bits + 17, true)) = (2, 0) ∧ s.discOutcome 0 none = (2, 0)) := by
  decide +kernel

/-- Engine 0 executes a step, engine 1 has used its 4,096 instructions, engine 2 is in a block, and engine 3 executes none. -/
theorem test_witness_ThimbleInstructions :
    let x : TbStep := { pos := 0, since := 0, pc := 254, done := 4095 }
    let s := inEffect [(TB_OUT_EN 0 7, 1), (TB_OUT_COUNT 0 7, 1), (TB_OUT_COUNT 2 7, 2), (TB_PROG 0 254, 0xEFFF)] { part 0x400 [(TB_Q 0 1, 0xFFFFFFFF), (TB_SEED 0, 1)] with
      ys := { tick := 4096 }, tb := { engines := [(0, { step := some x }), (1, { step := some { x with done := 4096 } }), (2, { step := some { x with block := some (7, 0, 255) } })] } }
    ((s.engine 0).step = some x ∧ x.done < 4096 ∧ x.pc < 255 ∧ x.writes = [] ∧ s.on (TB_STAT_PENDING 0) = false ∧ x.block = none) ∧
    ((s.engine 1).step = some { x with done := 4096 } ∧ 4096 ≤ ({ x with done := 4096 } : TbStep).done) ∧ (s.engine 3).step = none ∧ (s.thimbleWord 0 = some 0xEFFF ∧ s.thimbleWord 1 = some 0) ∧
    ((s.engine 2).step = some { x with block := some (7, 0, 255) } ∧ 255 ≤ 255 ∧ 0 < 1024 ∧ 0 + 1 < s.rdA (TB_OUT_COUNT 2 7) ∧ s.rdA (TB_OUT_COUNT 2 6) ≤ 0 + 1) ∧
    (s.onA (TB_OUT_EN 0 7) = true ∧ 0 < s.rdA (TB_OUT_COUNT 0 7)) ∧ ¬ (s.onA (TB_OUT_EN 0 6) = true) ∧ (s.q 0 1 < 0 ∧ s.q 0 0 = 0) ∧
    (((x.pc : Int) + 1 + (0 : BitVec 8).toInt).toNat = 255 ∧ ((x.pc : Int) + 1 + (0xFF : BitVec 8).toInt).toNat = 254) := by decide +kernel

/-- Of the four command bits of an engine's control register, the word sets none but `b`. -/
def only (v : Word) (b : Nat) : Bool := (List.range 32).all fun j => decide (j < 28) || j == b || !v.getLsbD j

/-- Engines that are stopped, run, load, and have a set to publish; programs and addresses that are legal and not. -/
theorem test_witness_ThimbleCommands :
    let outs : SMap (Option Nat) := [(3, some 5)]
    let s := inEffect [(TB_OUT_EN 1 0, 1), (TB_OUT_COUNT 1 0, 4)] { part 0x400 [(BT_UCODE_LOADED 1, 1), (TB_STAT_STATE 1, 1), (TB_STAT_BUSY 2, 1), (TB_LOAD_LO 3, 0x5FFFE00), (TB_LOAD_LO 4, 0x5FFFE40), (TB_PROG 5 0, 0xFFFF)] with
      tb := { engines := [(1, { step := some ⟨0, 0, 0, 0, none, [], [], []⟩, set := some (9, outs) })] }, poison := [] }
    let hurt := { s with poison := [(0, true)] }
    (s.has .thimble = true ∧ (part 0 []).has .thimble = false) ∧ ((s.engine 0).set = none ∧ (s.engine 1).set = some (9, outs) ∧ outs.wf none = true) ∧
    ((s.ys.tick < 9 ∧ 9 ≤ ({ s with ys := { tick := 9 } } : State).ys.tick) ∧ (s.driven 3 = true ∧ s.tb.source.get none 3 = none)) ∧
    (only 0x80000000 31 && only 0x40000000 30 && only 0x20000000 29 && only 0x10000000 28) = true ∧ (s.rd (TB_STAT_STATE 0) ≠ 1 ∧ s.rd (TB_STAT_STATE 1) = 1) ∧
    (s.on (TB_STAT_PENDING 1) = false ∧ (s.engine 1).step = some ⟨0, 0, 0, 0, none, [], [], []⟩ ∧ (s.engine 0).step = none) ∧
    (s.on (TB_STAT_BUSY 2) = true ∧ s.on (TB_STAT_BUSY 0) = false) ∧ (s.tbLegal 0 = true ∧ s.tbLegal 5 = false) ∧
    ((s.pair (TB_LOAD_LO 3) (TB_LOAD_HI 3)) % 64 = 0 ∧ s.extOrScratch (s.pair (TB_LOAD_LO 3) (TB_LOAD_HI 3)) 512 = true) ∧
    s.extOrScratch (s.pair (TB_LOAD_LO 4) (TB_LOAD_HI 4)) 512 = false ∧ (s.poisoned (s.engine 2).image 512 = false ∧ hurt.poisoned (s.engine 2).image 512 = true) := by decide +kernel

/-! ## Witnesses: Lamplighter and DMX -/

/-- The word of Lamplighter's tables at this address has a shadow. -/
def shadowed (a : Nat) : Bool := decide ((a < 0x2000 ∨ (0x10000 ≤ a ∧ a < 0x30000) ∨ (0x40000 ≤ a ∧ a < 0x51000)) ∧
  ¬ (0x40000 ≤ a ∧ a < 0x50000 ∧ a % 16 = 12) ∧ ¬ (0x50000 ≤ a ∧ a % 8 = 4))

/-- Table addresses at the edges of the shadowed tables; an assembly that is done and one that is not; sources of an input row. -/
theorem test_witness_LamplighterCycle :
    let s := { part 0x800 [(LL_STATUS_BUSY, 1), (LL_IADDR_ADDR, 0x50FF8)] with now := 1250000000, ll := { sources := [(2047, some ⟨.dmx 31, 100, 0, [], 0⟩), (3, some ⟨.cid [7], 100, 0, [], 0⟩)], tabA := [(0x10000, 0x04010001)] } }
    s.has .lamplighter = true ∧ (shadowed (s.rd LL_IADDR_ADDR / 4 * 4) && shadowed 0x1FFC && shadowed 0x2FFFC) = true ∧ (shadowed 0x2000 || shadowed 0x50FFC || shadowed 0x4000C) = false ∧
    (s.on LL_STATUS_BUSY = true ∧ s.ll.assembled = false ∧ s.ll.due ≤ s.now) ∧ s.ll.copyAt ≤ s.now ∧ ({ s with ll := { copyAt := 1250000001 } } : State).now < 1250000001 ∧ ((s.outRow 0).number ≠ 0 ∧ (s.outRow 0).keep = false ∧ (s.outRow 1).number = 0) ∧
    (s.ll.sources.get none ((511 : Fin 512).val * 4 + (3 : Fin 4).val) = some ⟨.dmx 31, 100, 0, [], 0⟩ ∧ 0 + 1250000000 ≤ s.now ∧
      s.ll.sources.get none ((0 : Fin 512).val * 4 + (3 : Fin 4).val) = some ⟨.cid [7], 100, 0, [], 0⟩ ∧ s.now < 0 + 2500000000 ∧ s.ll.sources.get none 0 = none) := by decide +kernel

/-- A row's packet that is owed to MAC 0 and not to MAC 5, with room in the queue; keep-alives and discovery that go and do not. -/
theorem test_witness_E131Output :
    let s := { part 0x2800 [(MAC_STATUS_LINK 0, 1), (MAC_IP 0, 1), (LL_CTRL_DISCOVERY, 1)] with
      ll := { adopted := true, tabA := [(0x10000, 0x04010001)], rows := [(0, { owed := [0] })] } }
    let idle := { s with now := 10 ^ 10, ll := { s.ll with rows := [(0, { sentAt := some 0 })] } }
    let rows := ((List.range 4096).map s.outRow).filter (·.number ≠ 0)
    s.has .lamplighter = true ∧ (s.ll.held = [] ∧ (5 : Fin 6).val ∉ (s.llRow 0).owed ∧ (0 : Fin 6).val ∈ (s.llRow 0).owed) ∧
    s.queueRoom 0 4 (s.udpFrameLen 0 (.e131 [] [] 0 0 0 false false 1 0 (List.replicate 512 0))) = true ∧ (s.isStandby = false ∧ s.linkUp 0 = true ∧ s.macIp 0 ≠ 0) ∧
    (idle.ll.adopted = true ∧ (idle.outRow 0).number ≠ 0 ∧ (idle.llRow 0).owed = [] ∧ 0 + max 800 (min 1000 (idle.rd LL_KEEPALIVE_MS)) * 1000000 ≤ idle.now) ∧ (s.llRow 0).owed ≠ [] ∧
    s.rowWaits 0 0 = false ∧ (s.now < s.ll.discoveryAt + 10000000000 ∧ idle.ll.discoveryAt + 10000000000 ≤ idle.now ∧ idle.on LL_CTRL_DISCOVERY = true ∧
      idle.queueRoom 0 3 (idle.udpFrameLen 0 (.e131Discovery idle.cid idle.sourceName [1])) = true ∧ (rows.map (·.number)).mergeSort (· ≤ ·) = [1] ∧
      (∃ y ∈ rows, bit y.ports 0 = true) ∧ ((rows.map (·.number)).mergeSort (· ≤ ·)).length ≤ 512) ∧ (part 0 []).on LL_CTRL_DISCOVERY = false := by
  decide +kernel

/-- Ports that send, receive and are off; packets with and without slots; requests of every kind on the line. -/
theorem test_witness_DmxAndRdm :
    let j : RdmJob := ⟨0, 0x5940000, [1, 0, 0, 0, 0, 0, 0, 0]⟩
    let s := inEffect [(DMX_CFG_MODE 31, 1), (DMX_CFG_RDM_EN 31, 1), (DMX_RDM_SWEEP_EN 31, 1)] { part 0x1800 [(DMX_CFG_MODE 31, 1),
      (DMX_STAT_DATA 31, 1), (DMX_CFG_MODE 1, 2), (DMX_CFG_INUNI 1, 511), (LL_RDM_CFG_SWEEP, 60)] with
      now := 60000000000, ll := { ports := [(31, { level := true, queue := [j] }), (0, { work := some (.branch 0 1) }), (2, { work := some (.mute 7 none) }), (3, { work := some (.job j 1 false []) }),
        (4, { work := some (.job j 0 true []) }), (5, { busyTo := 60000000001, sweptAt := 1 })] } }
    (s.has .dmx = true ∧ s.has .lamplighter = true) ∧ (s.rd (DMX_CFG_MODE 31) = 1 ∧ s.on (DMX_STAT_DATA 31) = true) ∧ (s.rd (DMX_CFG_MODE 1) = 2 ∧ s.on (DMX_CFG_BOBBIN 1) = false) ∧
    (s.rd (DMX_CFG_MODE 0) ≠ 1 ∧ s.rd (DMX_CFG_MODE 0) ≠ 2) ∧ (∀ k < 4, s.ll.sources.get none (s.rd (DMX_CFG_INUNI 1) * 4 + k) = none) ∧
    (s.onA (DMX_RDM_SWEEP_EN 31) = true ∧ s.rdmPort 31 = true ∧ s.isStandby = false ∧ s.on (DMX_RDM_BUSY 31) = false ∧
      (s.dmx 31).sweptAt + max 1 (s.rd LL_RDM_CFG_SWEEP) * 1000000000 ≤ s.now) ∧ ((s.dmx 31).busyTo ≤ s.now ∧ s.now < (s.dmx 5).busyTo) ∧
    (s.dmx 4).busyTo + max 28 (min 100 (s.rd LL_RDM_CFG_TIMEOUT)) * 100000 ≤ s.now ∧ s.rdmPort 1 = false ∧
    (s.ringHas (.engine 4) = false ∧ s.ringHas (.engine 5) = false) ∧ ((s.dmx 31).level = true ∧ (s.dmx 31).work = none ∧ (s.dmx 31).resume = none ∧ (s.dmx 31).queue.head? = some j ∧
      j.ring = 0 ∧ isBroadcast (leAt j.entry 0x10 6) = false ∧ leAt j.entry 0x1D 1 = 0) ∧ (s.dmx 1).level = false ∧ ((s.dmx 0).work = some (.branch 0 1) ∧ 0 < 1) ∧
    ((s.dmx 2).work = some (.mute (7 : BitVec 48).toNat none) ∧ (∀ i < 256, s.responder 2 i = none)) ∧ ((s.dmx 3).work = some (.job j (0 + 1) false []) ∧ (s.dmx 3).part = 0) ∧
    ((s.dmx 4).work = some (.job j 0 true []) ∧ (s.dmx 4).part = 0) := by decide +kernel

/-! ## Witnesses: host ports, Hasps, the service agent, Bobbins -/

/-- A PCI Express port that is down and up, an xSPI port that is down, up, and in octal mode. -/
theorem test_witness_HostLinks :
    let pcie := part 0 []
    let up := part 0 [(HP_STATUS_LINK 0, 1)]
    let xspi := part 0 [(HP_STATUS_MODE 0, 1)]
    let both := { part 0 [(HP_STATUS_MODE 0, 1), (HP_STATUS_LINK 0, 1)] with hst := { octal := [(0, true)], hasps := [(63, { owner := some ⟨0, 0, 0⟩ })] } }
    pcie.boot.session = none ∧ (pcie.on (HP_STATUS_MODE 0) = false ∧ pcie.on (HP_STATUS_LINK 0) = false) ∧ (up.on (HP_STATUS_MODE 0) = false ∧ up.on (HP_STATUS_LINK 0) = true) ∧
    (xspi.on (HP_STATUS_MODE 0) = true ∧ xspi.on (HP_STATUS_LINK 0) = false ∧ xspi.hst.octal.get false 0 = false) ∧
    (both.on (HP_STATUS_MODE 0) = true ∧ both.on (HP_STATUS_LINK 0) = true ∧ both.hst.octal.get false 0 = true) ∧
    ((both.hasp 63).owner = some ⟨0, 0, 0⟩ ∧ (⟨0, 0, 0⟩ : Ident).kind = (0 : Fin 2).val) ∧ (0x04#8 : Byte) ∉ [0x03#8, 0x02#8, 0x30#8, 0x05#8, 0x9F#8, 0x99#8, 0xE8#8, 0xFF#8] ∧
    (∀ r : Fin 4, pcie.ringHas (.engine (Fin.ofNat 16 (6 + r.val))) = false) := by decide +kernel

/-- Offsets and addresses at the edges of the window, and what each side of the port accepts. -/
theorem test_witness_HostTransfers_access :
    let s := part 0 [(HP_STATUS_LINK 0, 1), (HP_WIN_BASE 0, 0x580)]
    let x := part 0 [(HP_STATUS_MODE 0, 1), (HP_WIN_BASE 0, 0x594)]
    let window (t : State) (off : Nat) := t.rd (HP_WIN_BASE 0) * 2 ^ 16 + (off - 0x800000)
    (s.on (HP_STATUS_MODE 0) = false ∧ s.on (HP_STATUS_LINK 0) = true) ∧ (inRegs (window s 0x800000) = false ∧ s.readable .hostA (window s 0x800000) 8) ∧
    ((0x940000 : Nat) < 0x1000000 ∧ inRegs (window s 0x940000) = false ∧ s.writable .hostA (window s 0x940000) 8 ∧ s.dr.watch = []) ∧ ¬ s.writable .hostA (window s 0x8FFFFF) 1 ∧
    s.latches.get 0 (latchDue .hostA 0x10090044) = 0 ∧ (x.on (HP_STATUS_MODE 0) = true ∧ inRegs (0x594 * 2 ^ 16) = false ∧ x.dr.watch = [] ∧ x.rd (HP_WIN_BASE 0) = 0x594 ∧ x.readable .hostA (window x 0x800000) 4 ∧ x.writable .hostA (window x 0x800000) 4) ∧
    (2 ^ 24 ≤ (0x1000000 : Word).toNat ∧ (0x7FFFFE : Word).toNat < 0x800000 ∧ (0x7FFFFE : Word).toNat % 4 ≠ 0) ∧ (x.bobbin (32 + (0 : Fin 2))).bytes.length + 64 ≤ 64 := by
  delta State.readable State.writable; decide +kernel

/-- DMA entries that are good, bad and absent, for each direction. -/
theorem test_witness_HostTransfers_dma :
    let b := HP_RING_base 1 3
    let regs (link : Nat) := [(HP_STATUS_LINK 1, link), (RING_CTRL_ENABLE b, 1), (RING_CTRL_LOG2SIZE b, 4), (RING_LO b, 0x5940000), (RING_TAIL b, 1)]
    let e (ctl : Byte) (len : List Byte := [4, 0]) : List Byte := [0, 0, 0, 0, 0, 0, 0, 0, 0, 0, 0x95, 5, 0, 0, 0, 0] ++ len ++ [0, 0, ctl]
    let long := holding 0x5940000 (e 3 [1, 16]) (part 0 (regs 1))
    let s := holding 0x5940000 (e 2) (part 0 (regs 1))
    let out := holding 0x5940000 (e 3) (part 0 (regs 1))
    let bad := holding 0x5940000 (e 4) (part 0 (regs 0))
    let good (t : State) : Prop := let v := t.bytesAt 0x5940000 64
      leAt v 8 8 < 2 ^ 40 ∧ leAt v 0x14 4 < 4 ∧ leAt v 0x1C 4 = 0 ∧ 0 < leAt v 0x10 4 ∧ leAt v 0x10 4 ≤ 2 ^ 24 ∧ t.dmaRange (leAt v 8 8) (leAt v 0x10 4) = true
    (s.ringEntry b (s.rd (RING_HEAD b)) = 0x5940000 ∧ s.ringHas (.engine (Fin.ofNat 16 (6 + 4 * 1 + 3))) = true ∧ s.readable .hostB 0x5940000 64 ∧ s.writable .hostB 0x5940000 64 ∧ s.dr.watch = []) ∧
    (good s ∧ leAt (s.bytesAt 0x5940000 64) 0x14 4 % 2 = 0 ∧ s.writable .hostB 0x5950000 4 ∧ 0x5940000 + 64 ≤ 0x5950000 ∧ leAt (s.bytesAt 0x5940000 64) 8 8 = 0x5950000) ∧
    (good out ∧ leAt (out.bytesAt 0x5940000 64) 0x14 4 % 2 = 1 ∧ out.readable .hostB 0x5950000 4 ∧ out.poisoned 0x5950000 4 = false) ∧
    (good long ∧ leAt (long.bytesAt 0x5940000 64) 0x10 4 = 4097 ∧ min (long.dmaMoved 1 3) 4097 + 4096 < 4097 ∧ ((List.range 4097).all fun i => long.mayRead .hostB (0x5950000 + i)) = true ∧
      long.poisoned 0x5950000 4097 = false) ∧ ¬ good bad ∧
    (bad.on (HP_STATUS_LINK 1) = false ∧ s.on (HP_STATUS_LINK 1) = true) ∧ (part 0 []).ringHas (.engine 13) = false := by
  delta State.readable State.writable; decide +kernel

/-- Hasps that are free, mine and another's; who carries no identity; endpoints that do not exist, are off and on; mailboxes with room and full. -/
theorem test_witness_HaspsAndMailboxes :
    let s := { part 2 [] with hst := { hasps := [(1, { owner := some ⟨0, 0, 0⟩ }), (63, { owner := some ⟨1, 0, 0⟩ })], boxes := [(0 * 12 + 3, { words := [⟨0, 0, 0, 0, false⟩] })] } }
    s.boot.session = none ∧ s.identOf .hostA = some ⟨0, 0, 0⟩ ∧ s.identOf .draper = none ∧ (s.hasp 0).owner = none ∧ (s.hasp 1).owner = some ⟨0, 0, 0⟩ ∧
    ((s.hasp 63).owner = some ⟨1, 0, 0⟩ ∧ (⟨1, 0, 0⟩ : Ident) ≠ ⟨0, 0, 0⟩) ∧ (12 ≤ (12 : Fin 16).val ∧ (11 : Fin 16).val < 12 ∧ s.endpointOn (11 : Fin 16) = false) ∧
    ((3 : Fin 16).val < 10 ∧ s.endpointOn (3 : Fin 16) = true ∧ (if s.unit 30 then 8 else 1) ≤ (s.box 0 3).words.length) ∧
    (s.endpointOn (1 : Fin 16) = true ∧ (s.box 0 1).words.length < (if s.unit 30 then 8 else 1)) := by decide +kernel

/-- The agent answers a host that holds Hasp 0 and one that does not; an update that can be opened, is open, and takes a write of its last byte. -/
theorem test_witness_ServiceCommands :
    let me : Endpoint := ⟨0, 0, 0, 0⟩
    let you : Endpoint := ⟨1, 0, 0, 0⟩
    let x : Session := { owner := ⟨0, 0, 0⟩, slot := 1, spans := [(0, 512)], checked := true }
    let s := { part 1 [] with now := 5, boot := { agent := true }, hst := { hasps := [(0, { owner := some ⟨0, 0, 0⟩ }), (63, { owner := some ⟨1, 0, 0⟩ })] } }
    let open_ := holding 0x5940000 [0, 0, 0x95, 5, 0, 0, 0, 0, 1, 0, 0, 0, 0xFF, 0xFF, 0xFF, 3] { part 1 [(BT_CFG_CHECK, 1)] with
      boot := { agent := true, session := some x }, hst := { hasps := [(0, { owner := some ⟨0, 0, 0⟩ })] } }
    let b := open_.bytesAt (0x5940000 % 2 ^ 40) 16
    let busy := { s with boot := { agent := true, serving := [(0, some ⟨me, 127, 0, 0, 5⟩)] } }
    (s.boot.agent = true ∧ me.n.val ≠ 2 ∧ me.n.val < 10) ∧ (State.reset.boot.agent = false) ∧ s.boot.serving.get none me.n.val = none ∧
    (5 ≤ busy.now ∧ busy.boot.serving.get none me.n.val = some ⟨me, 127, 0, 0, 5⟩) ∧ (4 < (5 : BitVec 48).toNat % 256 ∧ 8 < (9 : BitVec 7).toNat) ∧
    (s.endpointIdent me = some ⟨0, 0, 0⟩ ∧ (s.hasp 1).owner = none ∧ (⟨0, 0, 0⟩ : Ident).kind < 4 ∧ (⟨0, 0, 0⟩ : Ident).index < 1024 ∧ (⟨0, 0, 0⟩ : Ident).gen < 2 ^ 16) ∧
    ((s.hasp 63).owner = some ⟨1, 0, 0⟩ ∧ (⟨1, 0, 0⟩ : Ident) ≠ ⟨0, 0, 0⟩) ∧ (s.hasp 0).owner = some ⟨0, 0, 0⟩ ∧ s.holdsHasp (s.endpointIdent me) 0 = true ∧
    s.holdsHasp (s.endpointIdent you) 0 = false ∧ (s.boot.session = none ∧ s.boot.fromFlash = false ∧ s.sessionOf me = none) ∧ open_.boot.session ≠ none ∧
    (open_.sessionOf me = some x ∧ leAt b 0 5 = 0x5950000 ∧ leAt b 8 4 = 1 ∧ leAt b 0xC 4 + leAt b 8 4 = 0x4000000 ∧ spanMeets 0x3FFFFFF 0x4000000 x.spans = false ∧
      open_.agentReads 0x5940000 16 = true ∧ open_.agentReads 0x5950000 1 = true ∧ open_.poisoned 0x5940000 16 = false ∧ open_.poisoned 0x5950000 1 = false ∧ open_.on BT_CFG_CHECK = true) ∧
    (open_.holdsHasp (open_.endpointIdent me) 0 = true ∧ (0 : BitVec 48).toNat % 2 = 0) ∧
    (leAt (open_.bytesAt 0x5950000 16) 8 4 = 0 ∧ open_.agentReads 0x5950000 16 = true ∧ open_.poisoned 0x5950000 16 = false) := by decide +kernel

/-- Bobbins that are empty, reach their threshold, and are full; the edges of the XN window; levels that are put off to the boundary; rows that clash. -/
theorem test_witness_BobbinsAndWindow :
    let byte : BbByte := ⟨0, 0, 0, false⟩
    let s := inEffect [(DMX_CFG_BOBBIN 0, 1)] { part 0x1800 [(HASP_XN_CTRL_ENABLE, 1), (BB_CFG_THRESH 0, 1), (BB_CFG_STALE 0, 1), (DMX_CFG_BOBBIN 0, 1)] with
      now := 100000,
      hst := { bobbins := [(0, { bytes := List.replicate 7 byte }), (47, { bytes := List.replicate 64 byte })], hasps := [(0, { owner := some ⟨0, 0, 0⟩ })] } }
    let late := { s with ys := { pos := 2 ^ 24 - 1 } }
    let clash := { s with ll := { tabA := [((0x40000 + 16 * 256) / 4, 1)] } }
    let dark := { s with regs := (part 0 []).regs }
    let fixed := { s with regs := (part 0x10800 []).regs }
    ((s.bobbin 0).bytes.length < 64 ∧ 0 < 8 * min 8 (s.rd (BB_CFG_THRESH 0)) ∧ (s.bobbin 0).bytes.length + 1 = 8 * min 8 (s.rd (BB_CFG_THRESH 0))) ∧ 64 ≤ (s.bobbin 47).bytes.length ∧
    (s.bobbinFed 0 = true ∧ s.bobbinFed 1 = false ∧ s.bobbinFed 47 = true) ∧ ((s.bobbin 0).bytes ≠ [] ∧ (s.bobbin 0).told = false ∧ s.rd (BB_CFG_STALE 0) ≠ 0 ∧
      (s.bobbin 0).since + s.rd (BB_CFG_STALE 0) * 100000 ≤ s.now) ∧ (s.bobbin 1).bytes = [] ∧
    (s.on HASP_XN_CTRL_ENABLE = true ∧ 0x10400000 ≤ (0x1041FFFF : BitVec 40).toNat ∧ (0x1041FFFF : BitVec 40).toNat < 0x10420000 ∧ ¬ ((0x10420000 : BitVec 40).toNat < 0x10420000)) ∧
    (s.xnDefers = false ∧ late.xnDefers = true ∧ (0x1041FFFE : BitVec 40).toNat - 0x10400000 + 1 < 131072) ∧ (s.holds0 .hostB = false ∧ s.holds0 .hostA = true) ∧
    (fixed.unit 16 = true ∧ s.unit 16 = false) ∧ (1 ≤ (clash.outRow 256).number ∧ (clash.outRow 256).number ≤ 256) ∧
    (dark.has .lamplighter = false ∧ s.has .lamplighter = true) := by decide +kernel

/-- With empty tables no row has a number that clashes. -/
theorem test_witness_BobbinsAndWindow_rows (r : Nat) : (State.reset.outRow r).number = 0 := by
  simp [State.outRow, State.reset, xnRow, rowOfTable, State.tabA, SMap.get, bits]

/-! ## Witnesses: the network -/

/-- A MAC that is up and one that is down; a neighbour to ask for; an address the bridge knows, and one it does not with room for it. -/
theorem test_witness_NetworkLinks :
    let s := { part 0x6000 [(MAC_CTRL_ENABLE 5, 1), (MAC_STATUS_LINK 0, 1), (MAC_IP 0, 1), (NBR_CTRL_AUTO 63, 1), (NBR_IP 63, 7), (BR_CTRL_AGE, 1), (BR_ENT_LO, 9)] with
      now := 10 ^ 9, net := { table := [(4094, some ⟨6, 0, false, 1⟩), (4095, some ⟨5, 0, false, 0⟩)] } }
    let full (fixed : Bool) := { s with net := { table := (List.range 4).map fun i => (brSet 9 * 4 + i, some ⟨2 * i, 0, fixed, 0⟩) } }
    let known := { s with net := { table := [(brSet 9 * 4 + 3, some ⟨9, 0, false, 0⟩)] } }
    let off := part 0 []
    let arp := s.txFrame 0 3 0xFFFFFFFFFFFF (.arp false (BitVec.ofNat 48 (s.macAddr 0)) (s.macIp 0) (s.rd (NBR_IP 63)))
    (s.macOn 5 = true ∧ s.on (MAC_CTRL_ENABLE 5) = true ∧ s.on (MAC_STATUS_LINK 5) = false) ∧ s.on (MAC_STATUS_LINK 0) = true ∧ s.linkUp 0 = true ∧ s.linkUp 5 = false ∧
    (s.netOn = true ∧ s.on (NBR_CTRL_AUTO 63) = true ∧ s.on (NBR_CTRL_VALID 63) = false ∧ s.rd (NBR_IP 63) ≠ 0 ∧ s.macIp 0 ≠ 0 ∧ s.queueRoom 0 3 arp.len = true) ∧
    (off.netOn = false ∧ off.ringHas (.macTx 0 1) = false ∧ off.has .trunk = false) ∧
    (s.has .trunk = true ∧ s.rd BR_CTRL_AGE ≠ 0 ∧ s.brEntry (4095 : Fin 4096) = some ⟨5, 0, false, 0⟩ ∧ 0 + s.rd BR_CTRL_AGE * 10 ^ 9 ≤ s.now) ∧
    (s.brEntry (4094 : Fin 4096) = some ⟨6, 0, false, 1⟩ ∧ s.now < 1 + s.rd BR_CTRL_AGE * 10 ^ 9) ∧ s.brEntry (4093 : Fin 4096) = none ∧
    ((full false).brFind 9 = none ∧ (full false).brWay (brSet 9) (·.isNone) = none ∧ (full false).brWay (brSet 9) (fun y => y.any (!·.fixed)) = some (brSet 9 * 4)) ∧
    ((full true).brFind 9 = none ∧ (full true).brWay (brSet 9) (·.isNone) = none ∧ (full true).brWay (brSet 9) (fun y => y.any (!·.fixed)) = none) ∧
    (s.brFind 9 = none ∧ s.brWay (brSet 9) (·.isNone) = some (brSet 9 * 4)) ∧ known.brFind 9 = some (brSet 9 * 4 + 3) := by decide +kernel

/-- Transmit rings with a bad entry, on a link that is down, with a frame of the least length, and with one in a poisoned word. -/
theorem test_witness_NetworkLinks_rings :
    let b (n : Nat) := MAC_TX_base n 1
    let ring (n : Nat) : List (Fld × Nat) := [(RING_CTRL_ENABLE (b n), 1), (RING_CTRL_LOG2SIZE (b n), 4), (RING_LO (b n), 0x5940000), (RING_TAIL (b n), 1)]
    let s := holding 0x5940000 [0, 0, 0x95, 5, 0, 0, 0, 0, 14] (part 0x6000 ([(MAC_STATUS_LINK 0, 1)] ++ ring 0 ++ ring 5))
    let bad := holding 0x5940008 [13] s
    let spoilt := { s with poison := [(0x5950000 / 32, true)] }
    let good (t : State) (n : Nat) : Bool := let v := t.bytesAt 0x5940000 64
      decide (leAt v 0 8 < 2 ^ 40 ∧ 14 ≤ leAt v 8 4 ∧ leAt v 8 4 + 4 ≤ t.maxFrame n)
    let has (t : State) (n : Fin 6) : Bool := t.ringEntry (b n) (t.rd (RING_HEAD (b n))) == 0x5940000 && t.ringHas (.macTx n 1) && t.dr.watch.isEmpty
    (s.readable .network 0x5940000 64 ∧ s.writable .network 0x5940000 64 ∧ s.readable .network 0x5950000 14) ∧ (has bad 0 = true ∧ good bad 0 = false) ∧
    (has s 5 = true ∧ good s 5 = true ∧ s.linkUp 5 = false) ∧ (has s 0 = true ∧ good s 0 = true ∧ s.linkUp 0 = true ∧ s.poisoned 0x5950000 14 = false) ∧
    (has spoilt 0 = true ∧ good spoilt 0 = true ∧ spoilt.poisoned 0x5950000 14 = true) := by
  delta State.readable State.writable; decide +kernel

/-- A frame for each row of the table of drops, at the edges of the lengths; a frame that is answered, delivered, and forwarded. -/
theorem test_witness_FrameReception :
    let b := MAC_RX_base 5 0
    let mac5 : List (Fld × Nat) := [(MAC_STATUS_LINK 5, 1), (MAC_IP 5, 1), (MAC_ADDR_LO 5, 8)]
    let ring : List (Fld × Nat) := [(RING_CTRL_ENABLE b, 1), (RING_CTRL_LOG2SIZE b, 4), (RING_LO b, 0x5940000), (RING_TAIL b, 1)]
    let e (size : Byte) : List Byte := [0, 0, 0x95, 5, 0, 0, 0, 0, size]
    let f : EthFrame := { eth with dst := 8, octets := List.replicate 64 1 }
    let s := part 0x4000 mac5
    let r (size : Byte) := holding 0x5940000 (e size) (part 0x4000 (mac5 ++ ring))
    let br := { part 0x2000 [(MAC_STATUS_LINK 0, 1), (MAC_CTRL_BRIDGE 0, 1), (MAC_STATUS_LINK 3, 1), (MAC_CTRL_BRIDGE 3, 1)] with net := { table := [(brSet 9 * 4, some ⟨9, 3, false, 0⟩)] } }
    let whole (g : EthFrame) : Prop := g.pcsBad = false ∧ 64 ≤ g.len ∧ g.len ≤ s.maxFrame 5
    let answer := s.txFrame 5 3 ((7 : BitVec 48).toNat) (.arp true (BitVec.ofNat 48 (s.macAddr 5)) (s.macIp 5) 3)
    let buf (t : State) := leAt (t.bytesAt 0x5940000 64) 0 8 % 2 ^ 40
    let size (t : State) := leAt (t.bytesAt 0x5940000 64) 8 4 % 2 ^ 14
    (s.linkUp 5 = true ∧ s.linkUp 4 = false ∧ s.bridged 5 = false) ∧ (whole f ∧ f.fcsBad = false ∧ whole { f with len := s.maxFrame 5, fcsBad := true } ∧ ¬ whole { f with len := 63 } ∧
      ¬ whole { f with len := s.maxFrame 5 + 1 }) ∧ s.tagOk 5 { f with tag := some 1 } = false ∧ (s.tagOk 5 f = true ∧ s.toDevice 5 f = true ∧ s.toDevice 5 { f with dst := 7 } = false) ∧
    (s.macIp 5 = 1 ∧ s.toDevice 5 { f with body := .arp false 7 3 1 } = true ∧ s.queueRoom 5 3 answer.len = true) ∧ s.filterFor 5 none = none ∧ s.ringHas (rxRing 5 0) = false ∧
    ((r 63).toDevice 5 f = true ∧ (r 63).filterFor 5 none = none ∧ (r 63).ringEntry b ((r 63).rd (RING_HEAD b)) = 0x5940000 ∧ (r 63).ringHas (rxRing 5 0) = true ∧
      (r 63).readable .network 0x5940000 64 ∧ size (r 63) < f.len) ∧
    ((r 64).ringHas (rxRing 5 0) = true ∧ (r 64).writable .network 0x5940000 64 ∧ (r 64).writable .network (buf (r 64)) f.octets.length ∧ (r 64).dr.watch = [] ∧ f.len ≤ size (r 64) ∧
      0x5940000 + 64 ≤ buf (r 64)) ∧
    (br.linkUp 0 = true ∧ br.bridged 0 = true ∧ br.forwardTo 0 { f with dst := 9 } = ([3], false) ∧ br.toDevice 0 { f with dst := 9 } = false ∧ ptpEventOf f.body = none ∧
      br.queueRoom 3 (bridgeQueue { f with dst := 9 }) f.len = true) := by
  delta State.readable State.writable; decide +kernel

/-- An Announce of clock 1, and the network's state in which it was heard at 0, with streams, a stamp and a partner. -/
def heardMaster : PtpMsg := ⟨.announce, 0, 0, 0, 1, 1, false, 0, 0, 0, 0, 0, 0, 0, 0, 0, 1, 0⟩
def services : State :=
  { inEffect [(WF_CFG_EN 255, 1), (WF_CFG_PORT 255, 5), (WF_DEST 255, 0xEF000001), (WF_SIZE_W 255, 4), (WF_SIZE_H 255, 2)] (part 0x4000
      [(MAC_STATUS_LINK 5, 1), (MAC_IP 5, 1), (MAC_CTRL_MUSTER 5, 1), (PTP_CTRL_ENABLE, 1), (YS_PTP_CFG_PORT, 5), (PV_CFG_EN, 1), (PV_CFG_PORT, 5), (PV_DEST, 0xEF000001)]) with
    now := 10 ^ 11, net := { ptp := { parent := some (1, 1), masters := [(heardMaster, 0)] }, macs := [(4, { tsq := [⟨1, 2, 3, 4, 5⟩] })], partners := [(255, some ⟨1, 2, 3, 4, 5, 6, 7, 8, 9, 10⟩)] } }
/-- A frame for the address can be sent at MAC 5. -/
def canSend (ip : Nat) : Bool := services.linkUp 5 && services.macIp 5 != 0 && (services.resolve ip).isSome

/-- A queue that is served and a frame that ends; masters that have fallen silent, alone and beside another. -/
theorem test_witness_NetworkServices_ptp :
    let s := services
    let queued := { s with net := { s.net with macs := [(5, { queues := [(0, [⟨eth, 0, 0⟩])] })] } }
    let sending := { s with net := { s.net with macs := [(5, { sending := some (7, ⟨eth, 0, 0⟩, 10 ^ 11) })] } }
    let two := { s with net := { s.net with ptp := { s.net.ptp with masters := [(heardMaster, 0), ({ heardMaster with clock := 2 }, 0)] } } }
    let left (t : State) := t.net.ptp.masters.filter fun x => some (x.1.clock, x.1.port) ≠ t.net.ptp.parent
    let off := part 0 []
    (s.on PTP_CTRL_ENABLE = true ∧ s.rd YS_PTP_CFG_PORT < 6 ∧ s.net.ptp.parent ≠ none) ∧ (canSend 0xE0000181 = true ∧ (s.mac 5).sending = none ∧ (s.mac 5).queues = []) ∧ off.on PTP_CTRL_ENABLE = false ∧
    (queued.linkUp 5 = true ∧ (queued.mac 5).sending = none ∧ (∀ q < 8, 0 < q → (queued.mac 5).queues.get [] q = []) ∧ (queued.mac 5).queues.get [] 0 = ⟨eth, 0, 0⟩ :: []) ∧
    ((sending.mac 5).sending = some (7, ⟨eth, 0, 0⟩, 10 ^ 11) ∧ 10 ^ 11 ≤ sending.now ∧ 0 ≠ kindSoft) ∧ off.parentLate = false ∧
    (s.parentLate = true ∧ left s = []) ∧ (two.parentLate = true ∧ (bestMaster (left two)).isSome = true) := by decide +kernel

/-- Stamp queues that hold something, hold nothing and are absent; a Weft stream, a preview, Muster and its partners. -/
theorem test_witness_NetworkServices :
    let s := services
    let f := s.txFrame 5 3 (groupMac 0xEFFF300A) (.udp (s.macIp 5) 0xEFFF300A 48101 48101 (.bytes (s.musterMsg 5 1)))
    let off := part 0 []
    (s.macOn 0 = false ∧ s.macOn 5 = true ∧ (s.mac 5).tsq = [] ∧ (s.mac 4).tsq = [⟨1, 2, 3, 4, 5⟩]) ∧ (s.netOn = true ∧ off.netOn = false) ∧
    (s.onA (WF_CFG_EN 255) = true ∧ s.rdA (WF_CFG_PORT 255) = 5 ∧ s.macOn 5 = true ∧ canSend (s.rdA (WF_DEST 255)) = true ∧ s.isStandby = false ∧
      s.queued 5 5 + 2 * 4 * (78 + 32 + 6) ≤ 65536 ∧ s.queued 5 6 + 200 ≤ 65536) ∧ s.onA (WF_CFG_EN 0) = false ∧
    (s.on PV_CFG_EN = true ∧ s.rd PV_CFG_PORT = 5 ∧ s.net.pvSeq < 2 ^ 32 ∧ canSend (s.rd PV_DEST) = true ∧ s.queued 5 2 + s.pvSize.2 * ((s.pvSize.1 + 319) / 320) * 1400 ≤ 65536) ∧ off.on PV_CFG_EN = false ∧
    (s.on (MAC_CTRL_MUSTER 5) = true ∧ s.linkUp 5 = true ∧ s.macIp 5 ≠ 0 ∧ s.queueRoom 5 3 f.len = true ∧ s.linkUp 0 = false) ∧
    (s.partner 254 = none ∧ s.partner 255 = some ⟨1, 2, 3, 4, 5, 6, 7, 8, 9, 10⟩ ∧ 10 + 3 * 10 ^ 9 ≤ s.now ∧ ({ s with now := 9 } : State).now < 10 + 3 * 10 ^ 9) := by
  decide +kernel

/-! ## Witnesses: Shuttle and Mantle -/

/-- A device with Shuttle started, its links up or down, in a role, with these other registers. -/
def onRing (up dn role : Nat) (l : List (Fld × Nat)) (x : Sh := {}) : State :=
  { part 0x8000 ([(SH_STATUS_UP, up), (SH_STATUS_DN, dn), (SH_STATUS_ROLE, role), (SH_STATUS_NUMBERED, 1), (SH_STATUS_NUMBER, 5)] ++ l) with sh := { x with started := true } }

/-- Links that are up and down; heads that are addressed to this device, its own, and neither; replies at the edges of the positions. -/
theorem test_witness_ShuttleEnumeration :
    let master := onRing 1 1 1 [(SH_STICKY_LO 1, 9)]
    let member := onRing 1 1 2 []
    let fresh := onRing 1 1 0 [(SH_STATUS_NUMBERED, 0)]
    let off := part 0 []
    let pair := { part 0x10000 [(MT_STATUS_LINK, 1)] with mt := { alive := true } }
    let s := onRing 1 1 0 [] { assignBy := some 5 }
    let h : ShHead := { head with src := 7, dst := 8, hops := 2046 }
    (master.has .shuttle = true ∧ master.shLink .up ≠ false ∧ off.has .shuttle = false ∧ off.bootsShuttle = false) ∧ (master.shHears .up = true ∧ off.shHears .up = false) ∧
    (pair.mtOn = true ∧ pair.on MT_STATUS_LINK = true) ∧ (master.isMaster = true ∧ master.shMine { h with dst := 5 } = true) ∧
    (master.shMine h = false ∧ master.shOwn h = false ∧ master.shLink .dn = true ∧ h.hops + 1 < 2048) ∧ (off.shOn = false ∧ member.isMaster = false ∧ master.shOn = true ∧
      master.boot.session = none ∧ master.sh.surveyed = false ∧ master.rd SH_STATUS_RING < 2) ∧ master.shOwn { h with src := 5 } = true ∧
    (member.shHears .up = true ∧ member.shRepeat 0 h = false ∧ member.rd SH_STATUS_ROLE ≠ 4 ∧ member.rd SH_STATUS_ROLE = 2) ∧
    memberNumbers.find? (fun n => master.sticky n == 9) = some 1 ∧ (fresh.rd SH_STATUS_ROLE = 0 ∧ fresh.shHears .up = true ∧ fresh.isMaster = false ∧ fresh.shRepeat 0 h = false ∧
      fresh.pair BT_SERIAL_LO BT_SERIAL_HI = 0) ∧ (s.sh.assignBy = some 5 ∧ 5 ≤ ({ s with now := 5 } : State).now ∧ s.now < 5) ∧ (0x80000000 : Word).getLsbD 31 = true ∧ (1 : Word).getLsbD 31 = false := by decide +kernel

/-- A serial number that the table does not hold gets the first number that is free. -/
theorem test_witness_ShuttleEnumeration_free : let s := onRing 1 1 1 [(SH_STICKY_LO 1, 9)]
    (∀ n < 1024, 1 ≤ n → s.sticky n ≠ 8) ∧ memberNumbers.find? (fun n => s.sticky n == 0) = some 2 := by decide +kernel

/-- Beacons a device joins by and does not, loses, and hears from another master; frames to this device and for others. -/
theorem test_witness_ShuttleTraffic :
    let member := { onRing 1 1 2 [] { master := true, lostAt := some 0 } with now := 600 * 10 ^ 9 }
    let joining := onRing 1 1 0 [] { joining := some 1023 }
    let late := { joining with ys := { tick := 2 } }
    let master := onRing 1 1 1 [(BT_SERIAL_LO, 5), (SH_LGC_CTRL_EN, 1), (SH_LGC_CTRL_LOG2SIZE, 4), (SH_LGC_BASE_LO, 0x5940000)]
    let full := onRing 1 1 1 [(SH_LGC_CTRL_EN, 1), (SH_LGC_HEAD, 16), (SH_LGC_CTRL_LOG2SIZE, 4)]
    let acting := onRing 1 1 3 []
    let off := part 0 []
    let h : ShHead := { head with src := 7, dst := 8, hops := 2046 }
    let m : MailboxFrame := ⟨{ h with dst := 5 }, 0, 9, 1, 0⟩
    let waiting (s : State) := (s.rd SH_LGC_HEAD + 2 ^ 32 - s.rd SH_LGC_TAIL) % 2 ^ 32
    (member.shHears .dn = true ∧ member.rd SH_STATUS_ROLE = 2 ∧ member.shRepeat 0 h = false ∧ off.shHears .up = false) ∧ (joining.rd SH_STATUS_ROLE = 0 ∧ joining.shHears .up = true ∧
      joining.sh.joining = some 1023 ∧ joining.ys.tick ≤ joining.beaconTick .up beacon ∧ late.beaconTick .up beacon < late.ys.tick) ∧
    (master.rd SH_STATUS_ROLE = 1 ∧ master.shHears .up = true ∧ beacon.acting = false ∧ beacon.serial < master.pair BT_SERIAL_LO BT_SERIAL_HI ∧
      master.pair BT_SERIAL_LO BT_SERIAL_HI < ({ beacon with serial := 6 } : Beacon).serial) ∧ acting.rd SH_STATUS_ROLE = 3 ∧
    ((member.sh.lostAt = some 0 ∧ 0 + member.freewheelLimit * 10 ^ 9 ≤ member.now ∧ member.sh.held = false) ∧ master.sh.lostAt = none) ∧ (member.shMine { h with dst := 5 } = true ∧ member.sh.master = true) ∧
    (member.shMine h = false ∧ member.shOwn h = false ∧ member.shLink .dn = true ∧ h.hops + 1 < 2048 ∧ m.head.dst ≠ 0xFFFF ∧ member.bootsShuttle = false) ∧
    (off.has .shuttle = false ∧ acting.has .shuttle = true ∧ (0 : Word).getLsbD 30 = false) ∧ (member.shMine m.head = true ∧ member.shOwn m.head = false ∧ m.dstEp < 10 ∧
      isService m.dstEp m.message = false ∧ member.endpointOn m.dstEp = true ∧ (member.box 10 m.dstEp).words.length < member.boxSize) ∧
    (member.on SH_LGC_CTRL_EN = false ∧ master.on SH_LGC_CTRL_EN = true ∧ acting.on SH_LGC_CTRL_EN = false) ∧ (full.on SH_LGC_CTRL_EN = true ∧ full.lgcSize ≤ waiting full) ∧
    (waiting master < master.lgcSize ∧ master.lgcBase + master.rd SH_LGC_HEAD % master.lgcSize * 64 = 0x5940000 ∧ master.writable .shuttle 0x5940000 64 ∧ master.dr.watch = []) := by
  delta State.writable; decide +kernel

/-- Entries of the ring that are good and bad, on a device with and without a number; an IMAGE that is collected, served and not. -/
theorem test_witness_ShuttleTraffic_rings :
    let b := SH_RING_base
    let regs : List (Fld × Nat) := [(RING_CTRL_ENABLE b, 1), (RING_CTRL_LOG2SIZE b, 4), (RING_LO b, 0x5940000), (RING_TAIL b, 1)]
    let word (x y : Byte) (s : State) := holding 0x5940008 [x, y] s
    let s := onRing 1 1 1 regs { present := [1023] }
    let none_ := onRing 1 1 0 (regs ++ [(SH_STATUS_NUMBERED, 0)])
    let legal (t : State) : Bool := let v := t.bytesAt 0x5940000 64
      decide (leAt v 8 4 < 2 ^ 16 ∧ leAt v 8 4 / 2 ^ 14 % 2 = 0 ∧ leAt v 8 4 / 2 ^ 10 % 16 ≤ 9 ∧ leAt v 0xC 12 = 0 ∧ leAt v 0x1C 4 = 0)
    let device (t : State) := leAt (t.bytesAt 0x5940000 64) 8 4 % 2 ^ 10
    let boots := { part 0 [(BT_STATUS_SOURCE, 3), (SH_STATUS_DN, 1), (TS_EXT_STATUS_USABLE, 128)] with boot := { waits := some 5 } }
    let serves := { onRing 1 1 1 [(BT_CFG_SERVE, 1)] with boot := { fromFlash := true } }
    (s.ringHas (.engine 15) = true ∧ s.ringEntry b (s.rd (RING_HEAD b)) = 0x5940000 ∧ s.writable .shuttle 0x5940000 64 ∧ s.dr.watch = []) ∧ (part 0 []).ringHas (.engine 15) = false ∧
    legal (word 0 0x28 s) = false ∧ (none_.ringHas (.engine 15) = true ∧ legal none_ = true ∧ none_.on SH_STATUS_NUMBERED = false) ∧ (s.shOn = true ∧ s.on SH_STATUS_NUMBERED = true ∧ s.isMaster = true) ∧
    (legal (word 0xFF 0x27 s) = true ∧ device (word 0xFF 0x27 s) = 1023 ∧ 1023 ∈ s.sh.present ∧ legal (word 5 0 s) = true ∧ device (word 5 0 s) = s.rd SH_STATUS_NUMBER) ∧
    (legal (word 6 0 s) = true ∧ device (word 6 0 s) = 6 ∧ 6 ∉ s.sh.present ∧ 6 ≠ s.rd SH_STATUS_NUMBER) ∧ (legal (word 0 0x80 s) = true ∧ s.rd SH_STATUS_RING < 2 ∧ s.shLink .dn = true) ∧
    (boots.bootsShuttle = true ∧ boots.shLink .dn = true ∧ 0x8000000 ≤ boots.extSize ∧ 0x3FFFFFF + 1 ≤ 0x4000000 ∧
      spanTo 512 (spanAdd 0x3FFFFFF 0x4000000 boots.boot.collected) = false) ∧
    (serves.shOn = true ∧ serves.isMaster = true ∧ serves.on BT_CFG_SERVE = true ∧ serves.boot.fromFlash = true ∧ s.on BT_CFG_SERVE = false) := by
  delta State.writable; decide +kernel

/-- A device of a pair whose link is up and which is paired, in a role, 600 s after its reset. -/
def inPair (role : Nat) (l : List (Fld × Nat)) (m : Mt := {}) : State :=
  { part 0x10080 ([(MT_STATUS_LINK, 1), (MT_STATUS_PAIRED, 1), (MT_STATUS_ROLE, role)] ++ l) with now := 600 * 10 ^ 9, mt := { m with alive := true } }

/-- The claim on the line in each of its stages, whose times have come and not; a line that is high, low and contested; a fault while another
heals. -/
theorem test_witness_PairRoles_claim :
    let w (role : Nat) (t : Nat) (m : Mt := {}) := inPair role [] { m with claim := .wait t }
    let c (m : Mt) := inPair 3 [] { m with claim := .confirm (600 * 10 ^ 9) }
    let b (role : Nat) (m : Mt) := inPair role [] { m with claim := .backoff (600 * 10 ^ 9) }
    let faulted := inPair 3 [] { recovery := some 1, low := true }
    let drives := inPair 2 [] { pulls := true, selBy := some 0 }
    ((w 1 0).mtOn = true ∧ (w 1 0).rd MT_STATUS_ROLE = 1 ∧ (w 1 0).mt.claim = .wait 0) ∧ ((w 3 0).mtOn = true ∧ (w 3 0).rd MT_STATUS_ROLE ≠ 1) ∧
    (inPair 3 []).mt.claim = .none ∧ (faulted.mt.recovery ≠ none ∧ faulted.rd MT_STATUS_ROLE ≠ 5 ∧ faulted.mt.low = true ∧ faulted.mt.yields = false ∧ faulted.mt.pulls = false) ∧
    drives.mt.pulls = true ∧ ((w 1 (600 * 10 ^ 9)).mayClaim = true ∧ 600 * 10 ^ 9 ≤ (w 1 (600 * 10 ^ 9)).now ∧ (w 1 0).mt.low = false) ∧
    ((c { peerOwns := true }).mt.peerOwns = true ∧ (c {}).mt.peerOwns = false ∧ 600 * 10 ^ 9 ≤ (c {}).now ∧ (c {}).rd MT_STATUS_ROLE = 3 ∧ (c {}).mt.claim = .confirm (600 * 10 ^ 9)) ∧
    ((b 3 {}).mt.claim = .backoff (600 * 10 ^ 9) ∧ (b 3 {}).mt.low = false ∧ (b 3 {}).mayClaim = true) ∧ ((b 3 { low := true }).mt.low = true ∧ (b 1 { low := true }).rd MT_STATUS_ROLE = 1) ∧
    ((b 4 {}).mayClaim = false ∧ (b 4 {}).mt.low = false) ∧ (drives.mt.selBy ≠ none ∧ drives.rd MT_STATUS_ROLE = 2) := by decide +kernel

/-- A peer that is lost and returns; the pulse that kills it and its repetition; HELLO that agrees; what software may ask for and not. -/
theorem test_witness_PairRoles_peer :
    let kill (m : Mt) := inPair 3 [] { m with low := true, kills := 1, killing := true, killAt := 600 * 10 ^ 9 - 10 ^ 6 }
    let down := inPair 3 [(MT_STATUS_LINK, 0)]
    let lone := inPair 1 [(MT_STATUS_PAIRED, 0)] { helloSent := true }
    let f : HelloFrame := ⟨0, !lone.on MT_CFG_PRIMARY, !lone.on MT_CFG_SIDE, lone.rd SYS_PROFILE_ACTIVE, 0, 0⟩
    let active := inPair 2 [] { peerRole := 3, copied := some 0, recovery := some 0 }
    (part 0 []).mtOn = false ∧ ((kill {}).mtOn = true ∧ (kill {}).rd MT_STATUS_ROLE = 3 ∧ (kill {}).mt.low = true ∧ (kill {}).mt.pulls = false ∧ (kill {}).mt.recovery = none) ∧
    ((kill {}).mt.killing = true ∧ (kill {}).mt.killAt + 20000 ≤ (kill {}).now ∧ lone.mt.killing = false) ∧
    ((kill {}).mayKill = true ∧ 0 < (kill {}).mt.kills ∧ (kill {}).mt.kills = 1 ∧ (kill {}).mt.killAt + 10 ^ 6 ≤ (kill {}).now) ∧ (kill { recovery := some 0 }).mayKill = true ∧
    (down.mtOn = true ∧ down.on MT_STATUS_LINK = false) ∧ (active.mtOn = true ∧ active.on MT_STATUS_LINK = true ∧ active.mt.recovery ≠ none ∧ active.rd MT_STATUS_ROLE ≠ 5) ∧
    (lone.on MT_STATUS_LINK = true ∧ lone.mt.helloSent = true ∧ lone.on MT_STATUS_PAIRED = false ∧ f.profile = lone.rd SYS_PROFILE_ACTIVE ∧ f.side ≠ lone.on MT_CFG_SIDE ∧
      f.primary ≠ lone.on MT_CFG_PRIMARY) ∧ (active.has .mantle = true ∧ (part 0 []).has .mantle = false ∧ (0x80000000 : Word).getLsbD 30 = false ∧ (0x40000000 : Word).getLsbD 31 = false) ∧
    ((inPair 4 []).rd MT_STATUS_ROLE = 4 ∧ (inPair 5 [] { pulls := true }).rd MT_STATUS_ROLE = 5) ∧
    (active.rd MT_STATUS_ROLE = 2 ∧ active.on MT_STATUS_PAIRED = true ∧ active.mt.peerRole = 3 ∧ active.mt.copied = some 0 ∧ active.frame ≤ 0 + 1) ∧
    (active.mt.recovery = some 0 ∧ 0 + min 600 (max 1 (active.rd MT_TIMING_RECOVER)) * 10 ^ 9 ≤ active.now ∧ lone.mt.recovery = none) := by decide +kernel

/-- Signatures that agree, differ, and differ once too often; divergences and health words while another heals and not. -/
theorem test_witness_PairTraffic_signatures :
    let e : SigEntry := ⟨0x10000, 7, 1⟩
    let s := inPair 3 [(MT_CFG_K, 2)] { sigs := [{ e with crc := 1 }], streak := [(2, 1)], diverged := some 9 }
    let heals (role : Nat) := inPair role [] { recovery := some 0, faults := [(Ailment.link.code, 600 * 10 ^ 9)] }
    let active := inPair 2 [] { diverged := some 9 }
    (s.mtOn = true ∧ s.on MT_STATUS_PAIRED = true ∧ s.rd MT_STATUS_ROLE = 3 ∧ s.on MT_STATUS_LINK = true) ∧ (part 0 []).mtOn = false ∧
    (s.mt.sigs.find? (sameSig { e with frame := 8 }) = none ∧ s.mt.sigs.find? (sameSig { e with crc := 2 }) = some e ∧ s.mt.streak.get 0 1 + 1 < s.divergeRun) ∧
    (inPair 3 [] { sigs := [⟨0x20000, 7, 1⟩], streak := [(2, 1)] }).mt.sigs.find? (sameSig ⟨0x20000, 7, 2⟩) = some ⟨0x20000, 7, 1⟩ ∧ s.divergeRun ≤ s.mt.streak.get 0 2 + 1 ∧
    (active.mt.recovery = none ∧ active.rd MT_STATUS_ROLE = 2) ∧ ((heals 2).mt.recovery ≠ none ∧ (heals 2).rd MT_STATUS_ROLE = 2 ∧ (heals 5).rd MT_STATUS_ROLE = 5) ∧
    ((5 : Fin 8).val = 5 ∧ (4 : Fin 8).val ≠ 5 ∧ (heals 3).mt.diverged = none) ∧ (s.mt.diverged = some (9 : Word).toNat ∧ 9 < (10 : Word).toNat ∧ (8 : Word).toNat < 9) ∧
    ((heals 3).rd MT_PEER_HEALTH < (1 : Word).toNat ∧ (0 : Word).toNat ≤ (heals 3).rd MT_PEER_HEALTH) ∧ (heals 3).mt.wordSent < (heals 3).healthWord := by decide +kernel

/-- A message with room for it; a copy that lands in the half that comes next, in its first and its last byte; commits that are sound and not. -/
theorem test_witness_PairTraffic_copy :
    let s := inPair 3 [(MT_STAGE_LO, 0x5940000)] { copying := some 5, peerRole := 3 }
    let f : PairMail := ⟨0, 0, 9, 0⟩
    let a := s.halfAt s.nextHalf
    (f.dstEp < 10 ∧ isService f.dstEp f.message = false ∧ s.endpointOn f.dstEp = true ∧ (s.box 11 f.dstEp).words.length < s.boxSize) ∧ (inPair 2 []).isStandby = false ∧
    (a = 0x5940000 ∧ s.isStandby = true ∧ 0x3FFFFF + 1 ≤ 0x400000 ∧ s.writable .mantle (a + 0) 1 ∧ s.writable .mantle (a + 0x3FFFFF) 1 ∧ s.writable .mantle (a + 0x40003F) 1 ∧
      s.dr.watch = [] ∧ s.mt.copyFresh = true) ∧ (s.readable .mantle a 1 ∧ s.poisoned a 1 = false ∧ s.bytesAt a (min 1 0x400000) = [0] ∧ crc32 [0] = 0xD202EF8D ∧ crc32 [0] ≠ 0 ∧
      s.writable .mantle (a + 0x400000) 64) ∧ s.mt.copying = some 5 ∧ (inPair 2 []).mt.copying = none := by
  delta State.readable State.writable; decide +kernel

/-- Beacons that set the tick and that turn it, whatever the pair link's delay, which the spec gives no register. -/
theorem test_witness_PairTraffic_beacons :
    (inPair 3 []).followsPair = true ∧ (inPair 2 []).followsPair = false ∧ 0 + 1000 < 1001 + (0 + Config.pairDelay) / 8 ∧
    0 + (0 + Config.pairDelay) / 8 ≤ Config.pairDelay + 1000 := by
  refine ⟨by decide +kernel, by decide +kernel, by omega, by omega⟩

/-! ## Witnesses: memory and its Turnstiles -/

/-- Reads and writes at the ends of Stockroom's ranges; words with symbols in error and poison; errors that can be corrected and cannot. -/
theorem test_witness_MemoryTransactions :
    let s := { part 0 [(TS_EXT_STATUS_USABLE, 64), (TS_EXT_STATUS_PROTECT, 1)] with
      lg := { taking := true }, poison := [(0x5FFFFE0 / 32, true), (0x100000000 / 32, true)],
      ts := { symbols := [(0x5940000 / 32, 2)], running := [(groupOf 0x5940000, some { req := 13, rmw := false, since := 0 })] } }
    let one (t : State) (a n : Nat) : Prop := t.readable .hostA a n ∧ 0 < n ∧ a % 32 + n ≤ 32
    (s.readable .hostA 0x5FFFFE0 32 ∧ ¬ s.readable .hostA 0x5FFFFE0 33 ∧ s.roomy) ∧ (s.writable .hostA 0x5940001 3 ∧ s.dr.watch = []) ∧
    (∃ i < 33, s.mayWrite .hostA (0x5FFFFE0 + i) = false) ∧
    (one s 0x5940000 32 ∧ inStock 0x5940000 = true ∧ s.poisonedAt 0x5940000 = false ∧ 0 < s.ts.symbols.get 0 (0x5940000 / 32)) ∧
    (one s 0x5FFFFFF 1 ∧ inStock 0x5FFFFFF = true ∧ s.poisonedAt 0x5FFFFE0 = true) ∧ (one s 0x100000000 1 ∧ s.inExt 0x100000000 = true ∧ s.poisonedAt 0x100000000 = true) ∧
    (s.writable .hostA 0x5940000 32 ∧ 0x5940000 % 32 = 0) ∧ (s.inMem 0x5940020 = true ∧ inStock 0x5940020 = true ∧ s.ts.symbols.get 0 (0x5940020 / 32) + 2 ≤ 2) ∧
    (2 < s.ts.symbols.get 0 (0x5940000 / 32) + 1 ∧ s.inMem 0x5940000 = true ∧ s.on TS_EXT_STATUS_PROTECT = true) ∧
    (s.ts.running.get none (groupOf 0x5940000) = some { req := 13, rmw := false, since := 0 } ∧ Requester.id .hostA = some 13) := by
  delta State.readable State.writable State.roomy; decide +kernel

/-- Scrubbers that run, at their last place; groups that are free, held, and held between a read and a write; who asks; tables to commit. -/
theorem test_witness_TurnstilesAndScrubbing :
    let s := { inEffect [(TS_SLOT_VALID 15 0 1, 1), (TS_SLOT_REQ 15 0 1, 9)] (part 0 [(TS_SCRUB_CFG_EN, 1), (TS_EXT_SCRUB_EN, 1), (TS_EXT_STATUS_PROTECT, 1), (TS_EXT_STATUS_USABLE, 64),
      (BT_STATUS_DEBUG, 2), (TS_STATUS_PENDING, 1), (TS_CTRL_N, 3)]) with
      ts := { scrubAt := 196607, running := [(0, some { req := 0, rmw := false, since := 0 }), (1, some { req := 0, rmw := true, since := 0 })] } }
    let legal := part 0 [(TS_STATUS_PENDING, 1)]
    let off := part 0 [(TS_SCRUB_CFG_EN, 0), (TS_EXT_SCRUB_EN, 0)]
    let ask (r : Fin 18) : TsAsk := ⟨r, 1, false, 0⟩
    (s.on TS_SCRUB_CFG_EN = true ∧ s.ts.scrubAt + 1 = 196608) ∧ off.on TS_SCRUB_CFG_EN = false ∧ (s.on TS_EXT_SCRUB_EN = true ∧ s.on TS_EXT_STATUS_PROTECT = true ∧ 0 < s.extLines) ∧
    off.on TS_EXT_SCRUB_EN = false ∧ s.turnstileChoice 15 [] = none ∧ (s.turnstileChoice 15 [ask 0] = some (ask 0, false) ∧ s.ts.running.get none 15 = none ∧
      s.ts.running.get none 0 ≠ none) ∧ ((ask 0).age ≤ s.rd (TS_WAIT_MAX 15) ∧ s.rd (TS_WAIT_MAX 15) < ({ ask 0 with age := 65536 } : TsAsk).age) ∧
    (s.turnstileChoice 0 [ask 0, ask 17, ask 16] = some (ask 16, false) ∧ s.ts.running.get none 0 = some { req := 0, rmw := false, since := 0 }) ∧
    (∀ r, s.ts.running.get none 1 = some r → r.rmw = true) ∧ (s.debugPort = true ∧ [ask 17].find? (fun y => y.req.val == 16) = none) ∧
    (s.protectedSlot 15 (s.slotPointer + 1) = true ∧ [ask 0, ask 9].find? (fun y => y.req.val == 9) = some (ask 9) ∧ ∀ y ∈ [ask 0, ask 9], y.req.val < 16) ∧
    off.on TS_STATUS_PENDING = false ∧ (legal.on TS_STATUS_PENDING = true ∧ legal.tsLegal = true) ∧ (s.on TS_STATUS_PENDING = true ∧ s.tsLegal = false) ∧
    (s.holds0 .hostA = false ∧ ({ s with hst := { hasps := [(0, { owner := some ⟨0, 0, 0⟩ })] } } : State).holds0 .hostA = true) := by
  decide +kernel

/-! ## Witnesses: Tally, Ledger and Trim -/

/-- Samples before and after the first three; periods and windows that close; faults, mains, pulses and saves that are due and are not. -/
theorem test_witness_TallyMetering :
    let regs : List (Fld × Nat) := [(TY_STATUS_RUNNING, 1), (TY_STATUS_PENDING, 1), (TY_PULSE_EN 7, 1), (TY_PULSE_BACK_BACKLOG 7, 1), (TY_ZX_PRESENT 7, 1), (TY_CH_FAULT 31, 1)]
    let s := { inEffect [(TY_CIRC_EN 23, 1)] (part 0x20000 regs) with
      now := 250 * 10 ^ 6, ty := { samples := 3, window := 7998, circs := [(23, { n := 1 })], save := some [], slot := 2047, pulses := [(6, { till := some 5 })] } }
    let bad := part 0x20000 (regs ++ [(TY_CIRC_EN 0, 1), (TY_CIRC_ICH 0, 24)])
    let off := part 0 []
    (s.tyOn = true ∧ off.tyOn = false ∧ s.has .tally = true ∧ off.has .tally = false) ∧ (3 ≤ s.ty.samples ∧ off.ty.samples < 3) ∧
    (s.onA (TY_CIRC_EN 23) = true ∧ s.circFault 23 = false ∧ s.ty.window + 1 < 8000 ∧ 0 < s.ty.window ∧ off.ty.window = 0) ∧ ((s.tyCirc 23).n = 1 ∧ (s.tyCirc 0).n = 0) ∧
    (s.on TY_STATUS_PENDING = true ∧ s.tyLegal = true ∧ bad.tyLegal = false) ∧ (s.on (TY_CH_FAULT 0) = false ∧ s.on (TY_CH_FAULT 31) = true) ∧
    (s.on (TY_ZX_PRESENT 7) = true ∧ s.on (TY_ZX_PRESENT 0) = false) ∧ (s.on (TY_PULSE_EN 7) = true ∧ 0 < s.rd (TY_PULSE_BACK_BACKLOG 7) ∧ (s.tyPulse 7).till = none ∧
      (s.tyPulse 7).idleAt + s.pulseWidth 7 ≤ s.now) ∧ ((s.tyPulse 6).till = some 5 ∧ 5 ≤ s.now ∧ (s.tyPulse 7).till ≠ some 5) ∧
    (s.ty.save = some [] ∧ s.ty.slot < 2048 ∧ off.ty.save = none) ∧ ((8388607 : BitVec 24).toInt = 8388607 ∧ ((-8388608 : BitVec 24)).toInt ≤ -8388607) := by decide +kernel

/-- A record's request, the record made of it, and a state of Ledger in which it waits. -/
def req1 : LogReq := ⟨1, 0, 1, 0⟩
def rec1 : LRec := ⟨1, 0, 1, 0, 0, 0, 0, 0, 0, 0⟩
def inLedger (l : List (Fld × Nat)) (x : Lg) : State := { part 0 ((LG_REPEAT_WINDOW, 1) :: l) with lg := { x with taking := true, intake := [req1] } }

/-- Queues with room and full; records that are new and repeated, while Ledger is frozen, runs, and waits for boot step 13; freezes. -/
theorem test_witness_LedgerRecordsAndStores_records :
    let full := { part 0 [] with lg := { intake := List.replicate 64 req1 } }
    let frozen (x : Lg) := inLedger [(LG_STATUS_FROZEN, 1)] x
    let runs (x : Lg) := inLedger [] { x with restored := true }
    let held := frozen { hold := [⟨rec1, false⟩] }
    let new := runs { retired := [0], ringNext := 5 }
    (full.lg.taking = false ∧ 64 ≤ full.lg.intake.length ∧ (part 0 []).lg.intake.length < 64 ∧ (part 0 []).lg.intake = []) ∧
    ((frozen {}).on LG_STATUS_FROZEN = true ∧ (frozen {}).lg.taking = true ∧ (frozen {}).lg.intake = req1 :: [] ∧ (frozen {}).lg.hold.getLast? = none ∧ (frozen {}).lg.openRec = none ∧
      (frozen {}).lg.hold.length < 16) ∧
    (let f := frozen { hold := List.replicate 16 ⟨{ rec1 with payload := 1 }, false⟩ }; 16 ≤ f.lg.hold.length ∧ f.lg.hold.getLast? = some ⟨{ rec1 with payload := 1 }, false⟩ ∧ f.repeats req1 { rec1 with payload := 1 } = false) ∧
    (held.lg.hold.getLast? = some ⟨rec1, false⟩ ∧ held.repeats req1 rec1 = true) ∧
    (let f := frozen { openRec := some rec1 }; f.lg.hold.getLast? = none ∧ f.lg.openRec = some rec1 ∧ f.repeats req1 rec1 = true) ∧
    (let f := runs { openRec := some rec1, openSlot := some 32767 }; f.on LG_STATUS_FROZEN = false ∧ f.lg.restored = true ∧ f.lg.openRec = some rec1 ∧ f.repeats req1 rec1 = true ∧
      f.lg.openSlot = some 32767 ∧ f.lg.retired.contains (32767 / 32) = false ∧
      f.excludedAt (0x5800000 + 32767 * 32) = false) ∧
    (new.lg.openRec = none ∧ nextSlot new.lg.retired 1025 new.lg.ringNext = some 32 ∧ new.excludedAt (0x5800000 + 32 * 32) = false) ∧
    (let f := inLedger [] {}; f.lg.restored = false ∧ f.lg.pre.getLast? = none) ∧ (let f := inLedger [] { pre := [rec1] }; f.lg.pre.getLast? = some rec1 ∧ f.repeats req1 rec1 = true) ∧
    ((0x80000000 : Word).getLsbD 30 = false ∧ (0x80000000 : Word).getLsbD 29 = false) := by decide +kernel

/-- Ledger with an export ring that holds one entry, for two records to 0x5950000. -/
def exporting (l : List (Fld × Nat)) (cnt : Byte) : State :=
  let b := ringBase (.engine 14)
  holding 0x5940000 [0, 0, 0x95, 5, 0, 0, 0, 0, 0, 0, 0, 0, cnt]
    (part 0 ([(RING_CTRL_ENABLE b, 1), (RING_CTRL_LOG2SIZE b, 4), (RING_LO b, 0x5940000), (RING_TAIL b, 1)] ++ l))

/-- What an export entry at 0x5940000 must be to be carried out. -/
abbrev entryLegal (t : State) : Prop :=
  let e := t.bytesAt 0x5940000 64
  let cnt := bits (leAt e 12 4) 16 1
  leAt e 0 8 % 64 = 0 ∧ leAt e 0 8 < 2 ^ 40 ∧ leAt e 8 4 < 2 ^ 24 ∧ leAt e 12 4 < 2 ^ 17 ∧ leAt e 16 8 = 0 ∧ 0 < cnt ∧ cnt ≤ 32768 ∧
    t.extOrScratch (leAt e 0 8) (cnt * 32) = true

/-- Ledger in which neither store works. -/
def deadLedger : State := { part 0 [(LG_STATUS_LEDGER_FAULT, 1)] with lg := { retired := List.range 1024, archDead := true } }

/-- An archive that is written and one that is not; a Ledger in which neither store works. -/
theorem test_witness_LedgerRecordsAndStores_archive :
    let s := { part 0 [] with lg := { archQueue := [.slot 0], flushing := true, archNext := 2 ^ 22 - 1 } }
    (s.lg.flushing = true ∧ s.lg.archQueue = .slot 0 :: [] ∧ s.lg.archNext < 2 ^ 22) ∧ (part 0 []).lg.archQueue = [] ∧
    (deadLedger.on LG_STATUS_LEDGER_FAULT = true ∧ deadLedger.lg.archDead = true) ∧
    ((0 : Word).getLsbD 31 = deadLedger.on LG_STATUS_FROZEN ∧ (0 : Word).getLsbD 29 = false) ∧ (part 0 []).ringHas (.engine 14) = false := by decide +kernel

/-- With every region retired there is no next slot. -/
theorem nextSlot_retired (f n : Nat) : nextSlot (List.range 1024) f n = none := by
  induction f generalizing n with
  | zero => rfl
  | succ f ih =>
    have h : (List.range 1024).contains (n % ringSlots / regionSize) = true := by
      simp only [List.contains_iff_mem, List.mem_range, ringSlots, regionSize]; omega
    simp only [nextSlot, h, if_true, ih]

theorem test_witness_LedgerRecordsAndStores_dead : deadLedger.ringDead = true := by
  simp [State.ringDead, deadLedger, nextSlot_retired]

/-- Export entries that are good, bad, and of an archive that flash does not give. -/
theorem test_witness_LedgerRecordsAndStores_entries :
    let s := exporting [] 4
    let e := s.bytesAt 0x5940000 64
    let noFlash := { exporting [] 3 with boot := { env := some { env with flash := false } } }
    (s.ringEntry (ringBase (.engine 14)) (s.rd (RING_HEAD (ringBase (.engine 14)))) = 0x5940000 ∧ s.ringHas (.engine 14) = true ∧ entryLegal s ∧
      s.poisoned 0x5940000 64 = false ∧ (leAt e 12 4).testBit 0 = false ∧ leAt e 0 8 = 0x5950000 ∧ s.writable .ledger (0x5940000 + 0x30) 16) ∧
    (entryLegal noFlash ∧ (leAt (noFlash.bytesAt 0x5940000 64) 12 4).testBit 0 = true ∧ noFlash.flashFails = true) ∧ ¬ entryLegal (exporting [] 0) := by
  delta State.writable; decide +kernel

/-- A store without a marked record holds none. -/
theorem exportRecords_unmarked {read : Nat → List Byte} {n : Nat} (h : ∀ i < n, marked (read i) = false) (hn : 0 < n)
    (start next first cnt : Nat) : exportRecords read n start next first cnt = [] := by
  have e : ((List.range n).map fun i => read ((start + i) % n)).filter marked = [] := by
    simp only [List.filter_eq_nil_iff, List.mem_map, forall_exists_index, and_imp]
    rintro _ i _ rfl
    simp [h _ (Nat.mod_lt _ hn)]
  simp [exportRecords, heldRecords, e]

/-- The ring of the good entry's state holds no record, so that nothing is written to its destination. -/
theorem test_witness_LedgerRecordsAndStores_export :
    let s := exporting [] 4
    exportRecords s.ringSlot 32768 s.lg.ringNext (s.rd LG_NEXTSEQ) 0 2 = [] ∧ s.writable .ledger 0x5950000 0 := by
  refine ⟨exportRecords_unmarked (fun i hi => ?_) (by decide) .., by delta State.writable; decide +kernel⟩
  have hm : (exporting [] 4).mem = [(0x5940002, 0x95), (0x5940003, 5), (0x594000C, 4)] := by decide +kernel
  have hb : (exporting [] 4).byteAt (ledgerRing + i * 32 + 28) = 0 := by
    have h (k : Nat) (hk : 0x5940000 ≤ k) : ¬ k = ledgerRing + i * 32 + 28 := by simp only [ledgerRing]; omega
    simp only [State.byteAt, hm, SMap.get, h _ (by decide : 0x5940000 ≤ 0x5940002), h _ (by decide : 0x5940000 ≤ 0x5940003),
      h _ (by decide : 0x5940000 ≤ 0x594000C), if_false, memReset]
  have hr : marked ((exporting [] 4).ringSlot i) = ((exporting [] 4).byteAt (ledgerRing + i * 32 + 28) == 0xA5#8) := by
    simp only [marked, State.ringSlot, State.bytesAt]; rfl
  rw [hr, hb]; rfl

/-- A part that can run each domain of Trim: port 62 is chosen, circuit 23 carries current on channels 0 and 8 of 50 Hz. -/
def trimmer : State :=
  inEffect [(TY_CIRC_EN 23, 1), (CH_CTRL_ENABLE 63, 1), (TY_FS 0, 1), (TY_FS 8, 1)]
    (part 0x22200 [(BT_UCODE_LOADED 0, 1), (TY_ZX_PRESENT 0, 1), (TY_ZX_FREQ 0, 50000), (TM_PORTS 1, 0x40000000)])

/-- A run of domain `d` begun at 0, at a time. -/
def inRun (d : Nat) (now : Nat) : State := { trimmer with now := now, trim := some ⟨d, true, 23, 16, 2 ^ 62, 0⟩ }

/-- A START of domain `d`. -/
def startWord (d win target : Nat) : Word := BitVec.ofNat 32 (2 ^ 31 + d * 2 ^ 24 + win * 2 ^ 16 + target)

/-- The START words that are good and bad. -/
theorem test_witness_TrimRuns_words : (startWord 2 16 1).getLsbD 30 = false ∧ ((startWord 3 1 0).toNat / 2 ^ 24 % 4 = 3 ∧
    (startWord 1 0 0).toNat / 2 ^ 16 % 256 = 0 ∧ 16 < (startWord 1 17 0).toNat / 2 ^ 16 % 256 ∧ (startWord 1 16 0).toNat / 2 ^ 16 % 256 = 16) ∧
    (startWord 0 1 0).toNat / 2 ^ 24 % 4 = 0 ∧ (0x40000000 : Word).getLsbD 31 = false := by decide +kernel

/-- Runs that can begin and the grounds on which they cannot. -/
theorem test_witness_TrimRuns_starts : let off := part 0 []
    let port62 := inEffect [(CH_CTRL_ENABLE 62, 1)] trimmer
    (trimmer.trim = none ∧ (inRun 0 0).trim = some ⟨0, true, 23, 16, 2 ^ 62, 0⟩) ∧
    (off.has .treadle = false ∧ off.has .tally = false ∧ off.has .trunk = false ∧ off.has .fixports = false) ∧
    (trimmer.has .treadle = true ∧ trimmer.has .tally = true ∧ trimmer.has .trunk = true) ∧
    (trimmer.trimPorts = 2 ^ 62 ∧ port62.onA (CH_CTRL_ENABLE 62) = true ∧ trimmer.onA (CH_CTRL_ENABLE 62) = false) ∧
    (trimmer.onA (TY_CIRC_EN 23) = true ∧ trimmer.tyV 23 = 0 ∧ trimmer.on (TY_ZX_PRESENT (trimmer.tyV 23)) = true ∧ trimmer.onA (TY_CIRC_EN 0) = false) ∧
    trimmer.rd PTP_STATUS_STATE ≠ ptpSlave := by decide +kernel

/-- Runs of each domain that have run their time and have not, and what they measured. -/
theorem test_witness_TrimRuns_ends : ((inRun 0 3276800).now = 0 + 3276800 ∧ (inRun 0 3276799).now < 0 + 3276800 ∧ 0 + 16 * 1000000000 ≤ (inRun 1 16000000000).now ∧
      (inRun 2 15999999999).now < 0 + 16 * 1000000000) ∧ ((200000 : Int).natAbs ≤ 200000 ∧ 200000 < (-200001 : Int).natAbs) ∧
    ((2 ^ 62 : Nat).testBit 62 = true ∧ ∀ q < 64, q ≠ 62 → (2 ^ 62 : Nat).testBit q = false) := by decide +kernel

/-- A Tally run whose corrections are in range, and one whose gain is not. -/
theorem test_witness_TrimRuns_tally : let s := inRun 1 16000000000
    s.rd (TY_ZX_FREQ (s.tyV 23)) ≠ 0 ∧ trimGain (s.rd TM_VREF) (s.rdA (TY_FS 0)) [1, -1] = 0 ∧ trimGain 230000 1 [1, -1] ≥ 2 ^ 24 ∧ s.tyI 23 = 8 ∧
    roundInt (256 * (signedOf 16 (s.rd TM_PHI) - 0) * 8000 * 1000) (36000 * s.rd (TY_ZX_FREQ (s.tyV 23))) = 0 := by decide +kernel

/-- What a run over port 62 finds: lanes without an edge, lanes that can be brought together, and a lane whose board length puts its tap beyond 63. -/
theorem test_witness_TrimRuns_skew :
    let s := part 0x200 []
    let far := part 0x200 [(TM_BOARD_BOARD 62 3, 1)]
    let found (x y : Option (Fin 64)) := flipsOf [(62, [x, some 0, some 0, y])] 62
    let tap (t : State) (j : Nat) := t.skewTap 62 j (leastFlip (found (some 0) (some 63))) ((found (some 0) (some 63)).getD j none)
    (∃ j < 4, (found none (some 0)).getD j none = none) ∧ (∀ j < 4, (found (some 0) (some 63)).getD j none ≠ none) ∧
    (∀ j < 4, 0 ≤ tap s j ∧ tap s j ≤ 63) ∧ 63 < tap far 3 := by decide +kernel


/-! ## Witnesses: steps -/

/-- A command in front of others, and a state with nothing in its queue that is not held in reset. -/
theorem test_witness_StepRunsFrontCommand : ({ part 1 [] with pending := [.loomAdd 0 3 1 2, .tickMsSave] }).pending = .loomAdd 0 3 1 2 :: [.tickMsSave] ∧
    (part 1 []).pending = [] ∧ (part 1 []).boot.halted = false := by decide +kernel

/-- A state in the form that has something in each of its lists, and a step from it. -/
theorem test_witness_StepKeepsForm : let s := holding 0x4400000 [1, 2] (runner 1 (thread [(1, 1)]))
    s.inv = true ∧ (∃ t, step s = .next t) := by
  refine ⟨by decide +kernel, ?_⟩
  have h : (runner 1 (thread [(1, 1)])).pending = [] := by decide +kernel
  unfold step
  simp only [holding, h]
  exact ⟨_, rfl⟩

/-! ## Single steps worked out from the rules -/

/-- The outcome is a next state with this property. -/
def gives (o : Host.Outcome State Fault Refusal) (p : State → Bool) : Bool := match o with | .next t => p t | _ => false

/-- The word of the RR layout (R231). -/
def rr (op rd ra rb fn : Nat) : Nat := op * 2 ^ 26 + rd * 2 ^ 21 + ra * 2 ^ 16 + rb * 2 ^ 11 + fn

/-- A thread whose next word is `w`. -/
def atWord (w : Nat) (g : List (Nat × DWord)) : State := holding 0x4400000 (leBytes 4 w) (trapper (thread g))

/-- R234: ADD g3, g1, g2 wraps. The step fetches the word and goes on after it. -/
theorem test_word_add : gives (step (atWord (rr 0 3 1 2 0) [(1, 2 ^ 64 - 1), (2, 6)])) (fun t =>
    (t.thread 0 0).reg (3 : Fin 32) == 5 && (t.thread 0 0).pc == 0x4400004) = true := by decide +kernel

/-- R234: SUB g3, g1, g2 takes rb from ra. -/
theorem test_word_sub : gives (step (atWord (rr 0 3 1 2 1) [(1, 5), (2, 7)])) (fun t => (t.thread 0 0).reg (3 : Fin 32) == 2 ^ 64 - 2) = true := by
  decide +kernel

/-- R235: the most negative number divided by -1. -/
theorem test_word_div : gives (step (atWord (rr 1 3 1 2 4) [(1, 2 ^ 63), (2, 2 ^ 64 - 1)])) (fun t => (t.thread 0 0).reg (3 : Fin 32) == 2 ^ 63) = true := by
  decide +kernel

/-- R236: CLTU compares unsigned. -/
theorem test_word_cltu : gives (step (atWord (rr 3 3 1 2 3) [(1, 1), (2, 2 ^ 63)])) (fun t => (t.thread 0 0).reg (3 : Fin 32) == 1) = true := by
  decide +kernel

/-- R244's example: PLERP of 10,000 and 40,373 with t = 32,768 gives 25,187. -/
theorem test_word_plerp : gives (step (atWord (rr 2 3 1 2 6) [(1, 10000), (2, 40373), (3, 32768)])) (fun t =>
    (t.thread 0 0).reg (3 : Fin 32) == 25187) = true := by decide +kernel

/-- R232: a reserved opcode is ILLEGAL, code 0x00; EADDR gives the word and EPC its pc. -/
theorem test_word_reserved : gives (step (atWord 0xA0000000 [])) (fun t => (t.thread 0 0).pc == 0x4400100 && (t.thread 0 0).eaddr == 0xA0000000
    && (t.thread 0 0).epc == 0x4400000 && (t.thread 0 0).intrap) = true := by decide +kernel

/-- R243: BEQZ g1 back by one word; J forward by two. -/
theorem test_word_branches : gives (step (atWord (0x20 * 2 ^ 26 + 1 * 2 ^ 21 + 3) [])) (fun t => (t.thread 0 0).pc == 0x440000C) = true ∧
    gives (step (atWord (0x24 * 2 ^ 26 + 2) [])) (fun t => (t.thread 0 0).pc == 0x4400008) = true := by decide +kernel

/-- R238: SW stores the low four bytes, lowest first. -/
theorem test_word_sw : gives (step (atWord (0x1A * 2 ^ 26 + 2 * 2 ^ 21 + 1 * 2 ^ 16 + 8) [(1, 0x5940000), (2, 0x1122334455667788)])) (fun t =>
    t.bytesAt 0x5940008 5 == [0x88, 0x77, 0x66, 0x55, 0]) = true := by decide +kernel

/-- R235: the high half of a signed product, the command itself. -/
theorem test_mulh : gives (exec (.loomMulh 0 3 1 2) (runner 1 (thread [(1, 2 ^ 64 - 1), (2, 2)]))) (fun t =>
    (t.thread 0 0).reg (3 : Fin 32) == 2 ^ 64 - 1) = true := by decide +kernel

/-- R31: a write to an address that decodes to nothing changes no register and is reported with the unit that made it and bits 39 to 8 of
the address. -/
theorem test_unmapped : let s := { part 0 [(TM_EVENT_DONE, 1)] with lg := { taking := true } }
    gives (exec (.registerWrite .hostA 0x10FFFFFC 4 1) s) (fun t => t.regs == s.regs && t.lg.intake == [⟨0x8001, 0x10, 2, 0x10FFFF⟩]) = true := by
  decide +kernel

/-- R9: a bit of an RW1C register is cleared by writing one and left by writing zero. -/
theorem test_rw1c : let s := part 0x20000 [(TM_EVENT_DONE, 1)]
    gives (exec (.registerWrite .hostA 0x103A0024 4 0) s) (fun t => t.on TM_EVENT_DONE) = true ∧
    gives (exec (.registerWrite .hostA 0x103A0024 4 1) s) (fun t => !t.on TM_EVENT_DONE) = true := by decide +kernel

end Sys2Proof.Tests
end

section
/-!
PROOF. The state after reset, and writes of read-only registers (R9, R13).
-/

/- One proof after another: compiled as one text, the model's tests come close to the check's memory limit, and proofs that run beside them
can pass it. -/
set_option Elab.async false

namespace Sys2Proof.Machine

/-! ## The state after reset (R13) -/

/-- With no register listed, every field reads as its reset value, as it stands and as it is in effect. -/
theorem rd_reset (f : Fld) : State.reset.rd f = f.of (BitVec.ofNat 32 f.reset) ∧ State.reset.rdA f = f.of (BitVec.ofNat 32 f.reset) :=
  ⟨rfl, rfl⟩

theorem thread_reset (c t : Nat) : State.reset.thread c t = {} := rfl

/-- A thread that has not run reads zero in every general register. -/
theorem reg_default (i : Nat) : ({} : Thread).reg i = 0 := ite_self 0

/-- The configuration word in effect is zero after reset, so no core is enabled. -/
theorem coreOn_reset (c : Nat) : State.reset.coreOn c = false := by
  have hw : State.reset.rd SYS_UNITS_WORD = 0 := by rw [(rd_reset _).1]; rfl
  simp [State.coreOn, State.unit, bit, hw]

theorem byteAt_reset (a : Nat) : State.reset.byteAt a = 0 := rfl

/-- Settles O2: nothing is listed after reset, so everything reads as its default. -/
theorem resetState : Obligations.ResetState := by
  unfold Obligations.ResetState
  refine ⟨rd_reset, rfl, rfl, fun c t => ?_, coreOn_reset, rfl, rfl, rfl, rfl, byteAt_reset⟩
  rw [thread_reset]
  exact ⟨rfl, reg_default⟩

/-! ## A write of a read-only register (R9) -/

/-- A 32-bit write of a register of an enabled unit goes to the unit's own rules (R8). -/
theorem registerWrite_mapped {s : State} {w : Requester} {a : BitVec 40} {v : DWord} {d : RegDesc} (hr : inRegs a.toNat = true)
    (hx : s.xnAt a.toNat = false) (hd : findRow a.toNat = some d) (ha : a.toNat % 4 = 0) (hb : s.blockOn a.toNat = true) :
    exec (.registerWrite w a 4 v) s = .next ((regWrite w d a.toNat (ofLe (leBytes 4 v.toNat))).run s) := by
  have hm : s.isUnmapped w a.toNat true = false := by simp [State.isUnmapped, hr, hd]
  show execRegisterWrite w a 4 v s = _
  simp [execRegisterWrite, done_eq, trapping, busWrite, hm, hr, hx, hd, ha, hb, leBytes]

/-- A register with no bit that a write changes takes its own value again. -/
theorem plainWrite_readOnly {d : RegDesc} (h : d.rw = 0 ∧ d.rws = 0 ∧ d.w1c = 0) (a v : Nat) (s : State) :
    (plainWrite d a v).run s = Upd.apply s (.reg a d.reset (s.regs.get (BitVec.ofNat 32 d.reset) a)) := by
  obtain ⟨hrw, hrws, hw1c⟩ := h
  have keepAll (x : Word) : x &&& 4294967295#32 = x := BitVec.and_allOnes
  unfold plainWrite
  simp [run_fun, hrw, hrws, hw1c, keepAll]

/-- The row of SYS_ID. -/
def sysIdRow : RegDesc := ⟨0x10000000, 0x4, 1, 0x4, 1, 0xFFFFFFF0, 0x0, 0x0, 0x0, 0x0, 0x48100B00⟩

theorem findRow_sysId : findRow 0x10000000 = some sysIdRow := rfl

theorem ringAt_sysId : ringAt 0x10000000 = none := rfl

/-- No rule of its own takes a write of SYS_ID. -/
theorem regWrite_sysId (w : Requester) (d : RegDesc) (v : Nat) (s : State) :
    (regWrite w d 0x10000000 v).run s = (plainWrite d 0x10000000 v).run s := by
  simp [regWrite, ringAt_sysId, SYS_NEXTCFG_VALID, SYS_COMMIT_COMMIT]

/-- A write of SYS_ID stores the value that the register holds already. -/
theorem registerWrite_sysId (w : Requester) (v : DWord) (s : State) :
    exec (.registerWrite w 0x10000000 4 v) s =
      .next (Upd.apply s (.reg 0x10000000 0x48100B00 (s.regs.get 0x48100B00#32 0x10000000))) := by
  have hx : s.xnAt 0x10000000 = false := by simp [State.xnAt, xnBase]
  rw [registerWrite_mapped (a := 0x10000000) (by decide) hx findRow_sysId (by decide) (by simp [State.blockOn])]
  exact congrArg Host.Outcome.next ((regWrite_sysId w _ _ s).trans (plainWrite_readOnly ⟨rfl, rfl, rfl⟩ _ _ s))

/-- What does hold of that write, from every state: each field of the register tables reads as before, for there a field of SYS_ID carries
the register's own reset value. -/
theorem registerWrite_sysId_keeps (w : Requester) (v : DWord) (s : State) :
    Completes (.registerWrite w 0x10000000 4 v) s fun t =>
      (∀ g : Fld, (g.addr = SYS_ID_PART.addr → g.reset = SYS_ID_PART.reset) → t.rd g = s.rd g) ∧ Quiet s t := by
  refine ⟨_, registerWrite_sysId w v s, fun g hg => ?_, rfl, rfl, rfl, rfl⟩
  by_cases ha : g.addr = 0x10000000
  · have hr : g.reset = 0x48100B00 := hg ha
    simp [State.rd, regOf, ha, hr]
  · exact rd_wr_ne _ _ _ _ _ ha

/-- A state of the form `State.inv` that lists SYS_ID at its reset value. -/
def sysIdListed : State := { regs := [(0x10000000, 0x48100B00)] }

theorem sysIdListed_inv : sysIdListed.inv = true := by decide

/-- The whole of SYS_ID as a field with a reset value that is not the register's. -/
def strayField : Fld := ⟨0x10000000, 0, 0, 32⟩

/-- Refutes O29: its clause of the read-only register speaks of every `Fld`, also of one whose reset value is not its register's. The
write takes the entry of a register that is listed at its reset value off the list, and then such a field reads its own reset value. -/
theorem not_registerAccess : ¬ Obligations.RegisterAccess := by
  unfold Obligations.RegisterAccess
  intro h
  obtain ⟨-, -, readOnly, -⟩ := h sysIdListed .hostA 0 4
  obtain ⟨t, ht, hrd, -⟩ := readOnly
  rw [registerWrite_sysId] at ht
  cases ht
  have before : sysIdListed.rd strayField = 0x48100B00 := by decide
  have after : (Upd.apply sysIdListed (.reg 0x10000000 0x48100B00 (sysIdListed.regs.get 0x48100B00#32 0x10000000))).rd strayField = 0 := by
    decide
  have same := hrd strayField
  rw [after, before] at same
  exact absurd same (by decide)

end Sys2Proof.Machine
end

section
/-!
SUPPORT. Commands of one unit: an action that keeps threads, memory, flash and the registers outside the unit's window, and what an event
and a record leave in Ledger's queue (R464).
-/

/- One proof after another, as in the section before: proofs that run beside the model's tests can pass the check's memory limit. -/
set_option Elab.async false

namespace Sys2Proof.Machine

/-! ## A unit's window -/

/-- The register at `a` lies outside the window `[lo, hi)`, and neither signals nor lost records change it. -/
def beyond (lo hi a : Nat) : Prop := (a < lo ∨ hi ≤ a) ∧ ¬ signalReg a ∧ a ≠ LG_LOST.addr ∧ a ≠ LG_EVENT_LOST.addr

/-- The update leaves threads, memory, flash and the registers outside the window `[lo, hi)` alone. -/
def inWindow (lo hi : Nat) (u : Upd) : Prop := calm u ∧ ∀ a, beyond lo hi a → spares a u

section
variable {lo hi : Nat}

theorem only_inWindow {x : Act} (hc : Only calm x) (hs : ∀ a, beyond lo hi a → Only (spares a) x) : Only (inWindow lo hi) x :=
  fun s u hu => ⟨hc s u hu, fun a ha => hs a ha s u hu⟩

/-- A command that runs an action of its unit's window. -/
theorem does_of {c : Instr} {x : Act} {s : State} {P : State → Prop} (hx : exec c s = done x s) (ho : Only (inWindow lo hi) x)
    (hp : P (x.run s)) : Does lo hi c s P :=
  ⟨x.run s, hx, hp, (ho.mono fun _ hu => hu.1).calm s, fun g hg hs h1 h2 => (ho.mono fun _ hu => hu.2 g.addr ⟨hg, hs, h1, h2⟩).rd g s⟩

theorem wr_inWindow {f : Fld} {n : Nat} (h : lo ≤ f.addr ∧ f.addr < hi) : Only (inWindow lo hi) (wr f n) :=
  only_inWindow wr_calm fun a ha => wr_spares (by obtain ⟨hout, -⟩ := ha; omega)
theorem result_inWindow {f : Fld} {st : Status} (h : lo ≤ f.addr ∧ f.addr < hi) : Only (inWindow lo hi) (result f st) := wr_inWindow h
theorem count_inWindow {f : Fld} {n : Nat} (h : lo ≤ f.addr ∧ f.addr < hi) : Only (inWindow lo hi) (count f n) :=
  only_withS fun _ => wr_inWindow h
theorem updMt_inWindow {f : Mt → Mt} : Only (inWindow lo hi) (updMt f) := only_inWindow updMt_calm fun _ _ => updMt_spares
theorem emit_inWindow {m : OutMsg} : Only (inWindow lo hi) (emit m) := only_inWindow emit_calm fun _ _ => emit_spares
theorem ledger_inWindow {c v p : Nat} {src : Src} : Only (inWindow lo hi) (ledger c src v p) :=
  only_inWindow ledger_calm fun _ ⟨_, hs, h1, h2⟩ => ledger_spares hs h1.symm h2.symm
end

/-- The field just written, with its value. -/
theorem rd_run_wr_of {f : Fld} {n v : Nat} {s : State} (h : f.lo + f.width ≤ 32) (hv : n % 2 ^ f.width = v) :
    ((wr f n).run s).rd f = v := (rd_run_wr_same h).trans hv

/-- A status field that shows a status. -/
theorem rd_run_result {f : Fld} {st : Status} {s : State} (h : f.lo + f.width ≤ 32) (hw : f.width = 8) :
    ((result f st).run s).rd f = st.code := rd_run_wr_of h (by rw [hw]; exact Nat.mod_eq_of_lt (Status.code_lt st))

/-! ## Ledger's queue after an event (R276, R464) -/

/-- The action adds at most one record to Ledger's queue and leaves it to be taken as before. -/
def RecordsOne (x : Act) : Prop := ∀ s, (x.run s).lg.taking = s.lg.taking ∧ (x.run s).lg.intake.length ≤ s.lg.intake.length + 1

theorem recordsOne_of_keeps {x : Act} (h : Keeps (·.lg) x) : RecordsOne x := fun s => by
  have hl : (x.run s).lg = s.lg := h s
  rw [hl]; exact ⟨rfl, Nat.le_succ _⟩

/-- A wake records at most that its queue has become full. -/
theorem recordsOne_pushCore (c : Nat) (e : WakeEntry) (o : HeldIn) : RecordsOne (pushCore c e o) := by
  have intake (r : LogReq) : RecordsOne fun _ => [.intake r] := fun s => by
    simp only [run_list, applyAll_cons, applyAll_nil, Upd.apply]
    split <;> simp
  have queue : Keeps (·.lg) (queueWake c e) := keeps_withS fun _ => keeps_cons (fun _ => rfl) (keeps_cons (fun _ => rfl) keeps_nil)
  intro s
  unfold pushCore
  simp only [run_withS, run_ite, run_skip]
  split
  · exact ⟨rfl, Nat.le_succ _⟩
  · split
    · have hq : ((queueWake c e).run s).lg = s.lg := queue s
      rw [run_acts_cons, run_acts_cons, run_acts_nil, run_whenDo, ← hq]
      generalize (queueWake c e).run s = u
      split
      · rw [run_acts_cons, run_acts_cons, run_acts_nil, run_whenDo]
        split
        · rw [run_acts_cons, run_acts_cons, run_acts_nil]
          exact intake _ ((updCore c fun k => { k with fullSeen := true }).run ((count (FM_PWQ_FULL c) 1).run u))
        · exact ⟨rfl, Nat.le_succ _⟩
      · exact ⟨rfl, Nat.le_succ _⟩
    · exact ⟨rfl, Nat.le_succ _⟩

theorem keeps_lg_raiseFor (a k : Nat) : Keeps (·.lg) (raiseFor a k) :=
  keeps_forN _ fun _ _ => keeps_forN _ fun _ _ => keeps_withS fun _ => keeps_whenDo
    (keeps_withS fun _ => keeps_ite (fun _ => rfl) (keeps_ite (fun _ => rfl) fun _ => rfl))

theorem recordsOne_setEvent (f : Fld) : RecordsOne (setEvent f) := by
  intro s
  unfold setEvent
  rw [run_withS, run_whenDo]
  split
  · rw [run_acts_cons, run_acts_cons, run_acts_cons, run_acts_nil]
    have hr : ((raiseFor f.addr f.lo).run ((wr f 1).run s)).lg = s.lg := keeps_lg_raiseFor f.addr f.lo ((wr f 1).run s)
    rw [← hr]
    generalize (raiseFor f.addr f.lo).run ((wr f 1).run s) = u
    unfold notify
    rw [run_withS, run_whenDo]
    split
    · exact recordsOne_pushCore _ _ _ u
    · exact ⟨rfl, Nat.le_succ _⟩
  · exact ⟨rfl, Nat.le_succ _⟩

/-- A record made while there is room waits in Ledger's queue. -/
theorem logged_ledger {code sev p : Nat} {src : Src} {s : State} (ht : s.lg.taking = true) (hr : s.lg.intake.length < intakeSize)
    (hp : p < 2 ^ 32) : Logged ((ledger code src sev p).run s) code src sev p := by
  rw [run_ledger_room _ _ _ _ _ ht hr, Nat.mod_eq_of_lt hp]
  simp [Logged, Upd.apply, hr]

/-- The record that follows an event finds room where there was room for both. -/
theorem logged_after_event {f : Fld} {code sev p : Nat} {src : Src} {s u : State} (hr : s.roomy) (hl : u.lg = s.lg) (hp : p < 2 ^ 32) :
    Logged ((ledger code src sev p).run ((setEvent f).run u)) code src sev p := by
  obtain ⟨ht, hn⟩ := recordsOne_setEvent f u
  obtain ⟨taking, room⟩ := hr
  rw [hl] at ht hn
  exact logged_ledger (ht.trans taking) (by unfold intakeSize; omega) hp

end Sys2Proof.Machine
end

section
/-!
PROOF. The profile request, its joint decision in a pair, and the word of the next start (R34, R37 to R39, R397).
-/

set_option Elab.async false

namespace Sys2Proof.Machine

/-! ## Everything stays within the block of SYS -/

/-- The update leaves everything outside the block of SYS alone. -/
abbrev ofSys : Upd → Prop := inWindow 0x10000000 0x10010000

theorem only_sysRefuse (st : Status) : Only ofSys (sysRefuse st) :=
  only_cons (wr_inWindow (by decide)) (only_cons (result_inWindow (by decide)) (only_cons (count_inWindow (by decide))
    (only_cons ledger_inWindow (only_cons updMt_inWindow (only_nil _)))))

theorem only_jointRefuse : Only ofSys jointRefuse :=
  only_withS fun _ => only_cons (only_sysRefuse _) (only_cons ledger_inWindow (only_nil _))

theorem only_jointDecide : Only ofSys jointDecide := by
  refine only_withS fun s => ?_
  split
  · exact only_ite (only_ite updMt_inWindow only_jointRefuse) updMt_inWindow
  · exact only_skip _

theorem only_sendProfile : Only ofSys sendProfile := by
  refine only_withS fun s => ?_
  split
  · exact only_withS fun _ => only_whenDo (only_cons updMt_inWindow (only_cons emit_inWindow (only_nil _)))
  · exact only_skip _

theorem only_sysCommitWrite (v : Nat) : Only ofSys (sysCommitWrite v) :=
  only_withS fun _ => only_whenDo (only_cons (wr_inWindow (by decide)) (only_cons (only_whenDo (only_cons updMt_inWindow
    (only_cons only_sendProfile (only_cons only_jointDecide (only_nil _))))) (only_nil _)))

theorem only_jointTimeout : Only ofSys jointTimeout := only_withS fun _ => only_whenDo only_jointRefuse

theorem only_nextcfgWrite (w : Requester) (v : Nat) : Only ofSys (nextcfgWrite w v) :=
  only_withS fun _ => only_ite
    (only_cons (result_inWindow (by decide)) (only_cons (count_inWindow (by decide)) (only_cons ledger_inWindow (only_nil _))))
    (only_ite (only_cons (result_inWindow (by decide)) (only_cons (count_inWindow (by decide)) (only_nil _)))
      (only_cons (wr_inWindow (by decide)) (only_cons (wr_inWindow (by decide)) (only_cons (result_inWindow (by decide)) (only_nil _)))))

/-! ## A request that is dropped (R397) -/

/-- The request is refused: BADARG for a reserved profile, STATE for any other (R34, R397). -/
def Dropped (s t : State) : Prop :=
  t.on SYS_STATUS_PENDING = false ∧ t.rd SYS_STATUS_RESULT = (if s.rd SYS_PROFILE_PROFILE = 3 then 1 else 2) ∧ t.mt.own = none

theorem signal_spares_sysStatus : ¬ signalReg SYS_STATUS_RESULT.addr := not_signalReg (by decide) (by decide) (by decide)

theorem sysRefuse_run (st : Status) (s : State) : let t := (sysRefuse st).run s
    t.on SYS_STATUS_PENDING = false ∧ t.rd SYS_STATUS_RESULT = st.code ∧ t.mt.own = none := by
  have tail : Only (spares SYS_STATUS_RESULT.addr) (acts [count SYS_REFUSALS 1, refusedWrite .sys SYS_COMMIT_COMMIT.addr st,
      updMt fun m => { m with own := none, peer := none, decideAt := none }]) :=
    only_cons (count_spares (by decide)) (only_cons (ledger_spares signal_spares_sysStatus (by decide) (by decide))
      (only_cons updMt_spares (only_nil _)))
  have pending : ((result SYS_STATUS_RESULT st).run ((wr SYS_STATUS_PENDING 0).run s)).rd SYS_STATUS_PENDING = 0 :=
    (rd_run_wr_word (f := SYS_STATUS_RESULT) (g := SYS_STATUS_PENDING) rfl rfl (by decide)).trans (rd_run_wr_of (by decide) rfl)
  have code : ((result SYS_STATUS_RESULT st).run ((wr SYS_STATUS_PENDING 0).run s)).rd SYS_STATUS_RESULT = st.code :=
    rd_run_result (by decide) rfl
  unfold sysRefuse
  rw [run_acts_cons, run_acts_cons]
  refine ⟨?_, (tail.rd SYS_STATUS_RESULT _).trans code, ?_⟩
  · rw [tail.on SYS_STATUS_PENDING, State.on, pending]; rfl
  · simp only [run_acts_cons, run_acts_nil, run_updMt, apply_mt]

theorem jointRefuse_drops (s : State) : Dropped s (jointRefuse.run s) := by
  unfold jointRefuse
  rw [run_withS]
  obtain ⟨hp, hr, ho⟩ := sysRefuse_run (if s.rd SYS_PROFILE_PROFILE = 3 then .badarg else .state) s
  have tail : Only (spares SYS_STATUS_RESULT.addr) (ledger 0x7010 .mantle note
      (if s.rd SYS_PROFILE_PROFILE = 3 then Status.badarg else .state).code) :=
    ledger_spares signal_spares_sysStatus (by decide) (by decide)
  dsimp only
  rw [run_acts_cons, run_acts_cons, run_acts_nil]
  refine ⟨(tail.on SYS_STATUS_PENDING _).trans hp, (tail.rd SYS_STATUS_RESULT _).trans (hr.trans (by split <;> rfl)), ?_⟩
  simp only [ledger_frame, ho]

/-! ## The joint decision (R397) -/

theorem jointDecide_alone {s : State} (h : s.mt.own = none ∨ s.mt.peer = none) : jointDecide.run s = s := by
  unfold jointDecide
  rw [run_withS]
  split
  · next ho hp => simp [ho, hp] at h
  · rfl

/-- The peer's request `x` has come. -/
def State.heard (s : State) (x : Nat × Nat × Nat) : State := Upd.apply s (.mt { s.mt with peer := some x })

/-- A PROFILE frame is taken: it stands as the peer's request, and a decision follows. -/
def takeProfile (x : Nat × Nat × Nat) : Act := acts [updMt fun m => { m with peer := some x }, jointDecide]

theorem takeProfile_run (x : Nat × Nat × Nat) (s : State) : (takeProfile x).run s = jointDecide.run (s.heard x) := by
  rw [takeProfile, run_acts_cons, run_acts_cons, run_acts_nil]
  rfl

theorem exec_profileFrame {s : State} (hon : s.mtOn = true) (hlink : s.on MT_STATUS_LINK = true) (hd : s.mt.decideAt = none)
    (seq : Nat) (frame : BitVec 40) (prof : Fin 4) :
    exec (.profileFrame seq frame prof) s = done (takeProfile (frame.toNat, prof.val, s.now)) s := by
  show done (whenDo (s.mtOn && s.on MT_STATUS_LINK && s.mt.decideAt.isNone) (takeProfile _)) s = _
  rw [hon, hlink, hd]
  rfl

/-- Without a request of its own the device keeps the peer's. -/
theorem takeProfile_alone {s : State} (ho : s.mt.own = none) (x : Nat × Nat × Nat) : (takeProfile x).run s = s.heard x := by
  rw [takeProfile_run]
  exact jointDecide_alone (Or.inl ho)

/-- A request for the same profile fixes the frame of the decision. -/
theorem takeProfile_same {s : State} {f g p a : Nat} (ho : s.mt.own = some (f, p, a)) :
    ((takeProfile (g, p, s.now)).run s).mt.decideAt = some (max f g + 8) := by
  have own : (s.heard (g, p, s.now)).mt.own = some (f, p, a) := ho
  have now : (s.heard (g, p, s.now)).now = s.now := rfl
  have peer : (s.heard (g, p, s.now)).mt.peer = some (g, p, s.now) := rfl
  rw [takeProfile_run, jointDecide, run_withS, own, peer]
  dsimp only
  rw [run_ite, if_pos (now.symm ▸ Nat.le_add_right s.now _), if_pos rfl]
  rfl

/-- A request for another profile drops the device's own. -/
theorem takeProfile_differ {s : State} {f g p q a : Nat} (ho : s.mt.own = some (f, p, a)) (hq : p ≠ q) :
    Dropped s ((takeProfile (g, q, s.now)).run s) := by
  have own : (s.heard (g, q, s.now)).mt.own = some (f, p, a) := ho
  have now : (s.heard (g, q, s.now)).now = s.now := rfl
  have peer : (s.heard (g, q, s.now)).mt.peer = some (g, q, s.now) := rfl
  rw [takeProfile_run, jointDecide, run_withS, own, peer]
  dsimp only
  rw [run_ite, if_pos (now.symm ▸ Nat.le_add_right s.now _), if_neg hq]
  exact jointRefuse_drops (s.heard (g, q, s.now))

theorem only_takeProfile (x : Nat × Nat × Nat) : Only ofSys (takeProfile x) :=
  only_cons updMt_inWindow (only_cons only_jointDecide (only_nil _))

/-- The request of the device itself goes out on the link. -/
theorem sendProfile_run {s : State} {f p a : Nat} (hon : s.mtOn = true) (hlink : s.on MT_STATUS_LINK = true)
    (ho : s.mt.own = some (f, p, a)) : (sendProfile.run s).out = s.out ++ [.pair s.mt.seq (.profile f p)] ∧
      (sendProfile.run s).mt.own = s.mt.own := by
  simp [sendProfile, pairSend, ho, hon, hlink]

/-- Sending keeps everything of the pair but the number of the next frame. -/
theorem sendProfile_keeps (s : State) : (sendProfile.run s).regs = s.regs ∧ (sendProfile.run s).mt.own = s.mt.own ∧
    (sendProfile.run s).mt.peer = s.mt.peer := by
  unfold sendProfile pairSend
  rw [run_withS]
  split
  · rw [run_withS, run_whenDo]
    split <;> exact ⟨rfl, rfl, rfl⟩
  · exact ⟨rfl, rfl, rfl⟩

theorem jointTimeout_late {s : State} {f p a : Nat} (ho : s.mt.own = some (f, p, a)) (hd : s.mt.decideAt = none)
    (ht : a + 10 ^ 9 ≤ s.now) : jointTimeout.run s = jointRefuse.run s := by
  rw [jointTimeout, run_withS, run_whenDo, ho, hd, Option.any_some, Option.isNone_none, Bool.and_true, decide_eq_true ht, if_pos rfl]

theorem jointTimeout_early {s : State} {f p a : Nat} (ho : s.mt.own = some (f, p, a)) (hd : s.mt.decideAt = none)
    (ht : s.now < a + 10 ^ 9) : jointTimeout.run s = s := by
  rw [jointTimeout, run_withS, run_whenDo, ho, hd, Option.any_some, Option.isNone_none, Bool.and_true,
    decide_eq_false (Nat.not_le_of_lt ht), if_neg Bool.false_ne_true]

/-! ## A write of SYS_COMMIT (R34, R397) -/

theorem commit_bit (v : Nat) : bit (v ||| 1) 0 = true := by
  simp [bit]

theorem sysCommitWrite_pending {s : State} (h : s.on SYS_STATUS_PENDING = true) (v : Nat) : (sysCommitWrite v).run s = s := by
  simp [sysCommitWrite, h]

theorem sysCommitWrite_free {s : State} (h : s.on SYS_STATUS_PENDING = false) (v : Nat) : (sysCommitWrite (v ||| 1)).run s =
    (whenDo (s.on MT_STATUS_PAIRED) (acts [
      updMt fun m => { m with own := some (s.frame, s.rd SYS_PROFILE_PROFILE, s.now), profileAt := s.now + 10 ^ 6 },
      sendProfile, jointDecide])).run ((wr SYS_STATUS_PENDING 1).run s) := by
  unfold sysCommitWrite
  rw [run_withS, run_whenDo, commit_bit, h, Bool.not_false, Bool.and_self, if_pos rfl, run_acts_cons, run_acts_cons, run_acts_nil]

theorem pending_set (s : State) : ((wr SYS_STATUS_PENDING 1).run s).on SYS_STATUS_PENDING = true := by
  rw [State.on, rd_run_wr_of (v := 1) (by decide) rfl]; rfl

/-- In a pair whose peer has not asked, the request is noted with its frame and waits for the peer's. -/
theorem sysCommitWrite_paired {s : State} (h : s.on SYS_STATUS_PENDING = false) (hp : s.on MT_STATUS_PAIRED = true)
    (hn : s.mt.peer = none) (v : Nat) : let t := (sysCommitWrite (v ||| 1)).run s
    t.on SYS_STATUS_PENDING = true ∧ t.mt.own = some (s.frame, s.rd SYS_PROFILE_PROFILE, s.now) := by
  rw [sysCommitWrite_free h, run_whenDo, if_pos hp, run_acts_cons, run_acts_cons, run_acts_cons, run_acts_nil]
  have hset := pending_set s
  have hpeer : ((wr SYS_STATUS_PENDING 1).run s).mt.peer = none := hn
  generalize (wr SYS_STATUS_PENDING 1).run s = u at hset hpeer
  obtain ⟨regs, own, peer⟩ := sendProfile_keeps
    ((updMt fun m => { m with own := some (s.frame, s.rd SYS_PROFILE_PROFILE, s.now), profileAt := s.now + 10 ^ 6 }).run u)
  rw [jointDecide_alone (Or.inr (peer.trans hpeer))]
  exact ⟨(congrArg (· == 1) (rd_of_regs SYS_STATUS_PENDING regs)).trans hset, own⟩

/-! ## A write of SYS_NEXTCFG (R38, R39) -/

/-- R38 in bits of the written word. -/
def legalWord (n : Nat) : Prop :=
  n % 2 = 1 ∧ (n / 2 ^ 30 % 2 = 1 → n / 2 ^ 4 % 16 = 0 ∧ n / 2 ^ 15 % 2 = 0 ∧ n / 2 ^ 16 % 2 = 0) ∧
    (n / 2 ^ 12 % 2 = 1 → n / 2 ^ 11 % 2 = 1)

theorem legalConfig_iff (n : Nat) : legalConfig (bits n 30 0) = true ↔ legalWord n := by
  have low (k : Nat) (hk : k < 31) : n % 2 ^ 31 / 2 ^ k % 2 = n / 2 ^ k % 2 := by
    interval_cases k <;> omega
  have cores : n % 2 ^ 31 / 2 ^ 4 % 2 ^ 4 = n / 2 ^ 4 % 16 := by omega
  have h0 := low 0 (by decide)
  simp only [legalConfig, legalWord, bits, bit, pow_zero, Nat.div_one, Nat.reduceAdd, Nat.reduceSub] at h0 ⊢
  simp only [h0, low 30 (by decide), low 15 (by decide), low 16 (by decide), low 12 (by decide), low 11 (by decide), cores,
    Bool.and_eq_true, Bool.or_eq_true, Bool.not_eq_true', beq_iff_eq, beq_eq_false_iff_ne]
  omega

theorem bit31_iff {n : Nat} (h : n < 2 ^ 32) : bit n 31 = true ↔ 2 ^ 31 ≤ n := by
  simp only [bit, beq_iff_eq]; omega

/-- A refused write shows its status in RESULT and leaves the stored word as it was. -/
theorem nextcfg_refused (st : Status) {tail : Act} (hr : Only (spares SYS_STATUS_RESULT.addr) tail)
    (hw : Only (spares SYS_NEXTCFG_WORD.addr) tail) (s : State) : let t := tail.run ((result SYS_STATUS_RESULT st).run s)
    t.rd SYS_STATUS_RESULT = st.code ∧ t.rd SYS_NEXTCFG_VALID = s.rd SYS_NEXTCFG_VALID ∧
      t.rd SYS_NEXTCFG_WORD = s.rd SYS_NEXTCFG_WORD :=
  ⟨(hr.rd SYS_STATUS_RESULT _).trans (rd_run_result (by decide) rfl),
    (hw.rd SYS_NEXTCFG_VALID _).trans (rd_run_wr_ne (f := SYS_STATUS_RESULT) (by decide)),
    (hw.rd SYS_NEXTCFG_WORD _).trans (rd_run_wr_ne (f := SYS_STATUS_RESULT) (by decide))⟩

theorem nextcfgWrite_stranger {s : State} {w : Requester} (h : s.holds0 w = false) (v : Nat) : let t := (nextcfgWrite w v).run s
    t.rd SYS_STATUS_RESULT = 2 ∧ t.rd SYS_NEXTCFG_VALID = s.rd SYS_NEXTCFG_VALID ∧ t.rd SYS_NEXTCFG_WORD = s.rd SYS_NEXTCFG_WORD := by
  have tail (a : Nat) (ha : SYS_REFUSALS.addr ≠ a) (hs : ¬ signalReg a) (h1 : LG_LOST.addr ≠ a) (h2 : LG_EVENT_LOST.addr ≠ a) :
      Only (spares a) (acts [count SYS_REFUSALS 1, refusedWrite .sys SYS_NEXTCFG_VALID.addr .state]) :=
    only_cons (count_spares ha) (only_cons (ledger_spares hs h1 h2) (only_nil _))
  unfold nextcfgWrite
  rw [run_withS, if_pos (by rw [h]; rfl), run_acts_cons]
  exact nextcfg_refused .state (tail _ (by decide) signal_spares_sysStatus (by decide) (by decide))
    (tail _ (by decide) (not_signalReg (by decide) (by decide) (by decide)) (by decide) (by decide)) s

theorem nextcfgWrite_illegal {s : State} {w : Requester} (h : s.holds0 w = true) {v : Nat}
    (hv : (bit v 31 && !legalConfig (bits v 30 0)) = true) : let t := (nextcfgWrite w v).run s
    t.rd SYS_STATUS_RESULT = 1 ∧ t.rd SYS_NEXTCFG_VALID = s.rd SYS_NEXTCFG_VALID ∧ t.rd SYS_NEXTCFG_WORD = s.rd SYS_NEXTCFG_WORD := by
  have tail (a : Nat) (ha : SYS_REFUSALS.addr ≠ a) : Only (spares a) (acts [count SYS_REFUSALS 1]) :=
    only_cons (count_spares ha) (only_nil _)
  unfold nextcfgWrite
  rw [run_withS, if_neg (by rw [h]; decide), if_pos hv, run_acts_cons]
  exact nextcfg_refused .badarg (tail _ (by decide)) (tail _ (by decide)) s

/-- A word that is taken: VALID and WORD hold what was written. -/
theorem nextcfgWrite_taken {s : State} {w : Requester} (h : s.holds0 w = true) {v : Nat}
    (hv : (bit v 31 && !legalConfig (bits v 30 0)) = false) : let t := (nextcfgWrite w v).run s
    t.rd SYS_STATUS_RESULT = 0 ∧ t.rd SYS_NEXTCFG_VALID = v / 2 ^ 31 % 2 ∧ t.rd SYS_NEXTCFG_WORD = v % 2 ^ 31 := by
  unfold nextcfgWrite
  rw [run_withS, if_neg (by rw [h]; decide), if_neg (by rw [hv]; decide), run_acts_cons, run_acts_cons, run_acts_cons, run_acts_nil]
  refine ⟨rd_run_result (by decide) rfl, ?_, ?_⟩
  · refine (rd_run_wr_ne (f := SYS_STATUS_RESULT) (g := SYS_NEXTCFG_VALID) (by decide)).trans
      ((rd_run_wr_word (f := SYS_NEXTCFG_WORD) (g := SYS_NEXTCFG_VALID) rfl rfl (by decide)).trans (rd_run_wr_of (by decide) ?_))
    simp [bits, SYS_NEXTCFG_VALID]
  · refine (rd_run_wr_ne (f := SYS_STATUS_RESULT) (g := SYS_NEXTCFG_WORD) (by decide)).trans (rd_run_wr_of (by decide) ?_)
    simp [bits, SYS_NEXTCFG_WORD]

/-- The check of R38 as the write makes it. -/
theorem nextcfg_check {n : Nat} (h : n < 2 ^ 32) : (bit n 31 && !legalConfig (bits n 30 0)) = true ↔ 2 ^ 31 ≤ n ∧ ¬ legalWord n := by
  rw [Bool.and_eq_true, Bool.not_eq_true', ← Bool.not_eq_true, bit31_iff h, legalConfig_iff]

/-! ## The obligation -/

/-- Settles O27: each command is an action of the block of SYS, and what it leaves follows from the lemma of its case. -/
theorem profileAndConfiguration : Obligations.ProfileAndConfiguration := by
  unfold Obligations.ProfileAndConfiguration
  intro s w v frame prof
  have hv : v.toNat < 2 ^ 32 := v.isLt
  refine ⟨fun hp => ?_, fun hp hn => ?_, fun hp hn hpeer => ?_, fun hon hlink hd seq => ⟨fun ho => ?_, fun f p a ho => ?_⟩,
    fun hon hlink f p a ho => ?_, fun f p a ho hd => ⟨fun ht => ?_, fun ht => ?_⟩, fun hh => ?_, fun hh hhigh hlegal => ?_,
    fun hh hlegal => ?_⟩
  · exact congrArg Host.Outcome.next (sysCommitWrite_pending hp _)
  · refine does_of rfl (only_sysCommitWrite (v.toNat ||| 1)) ?_
    rw [sysCommitWrite_free hp, run_whenDo, hn]
    exact ⟨pending_set s, rfl⟩
  · exact does_of rfl (only_sysCommitWrite (v.toNat ||| 1)) (sysCommitWrite_paired hp hn hpeer v.toNat)
  · refine does_of (exec_profileFrame hon hlink hd seq frame prof) (only_takeProfile _) ?_
    rw [takeProfile_alone ho]
    exact ⟨rfl, rfl⟩
  · refine does_of (exec_profileFrame hon hlink hd seq frame prof) (only_takeProfile _) ⟨fun heq => ?_, takeProfile_differ ho⟩
    subst heq
    exact takeProfile_same ho
  · exact does_of rfl only_sendProfile (sendProfile_run hon hlink ho)
  · refine does_of rfl only_jointTimeout ?_
    rw [jointTimeout_late ho hd ht]
    exact jointRefuse_drops s
  · exact congrArg Host.Outcome.next (jointTimeout_early ho hd ht)
  · exact does_of rfl (only_nextcfgWrite w v.toNat) (nextcfgWrite_stranger hh v.toNat)
  · exact does_of rfl (only_nextcfgWrite w v.toNat) (nextcfgWrite_illegal hh ((nextcfg_check hv).2 ⟨hhigh, hlegal⟩))
  · have taken : (bit v.toNat 31 && !legalConfig (bits v.toNat 30 0)) = false := by
      rw [← Bool.not_eq_true, nextcfg_check hv]
      rintro ⟨hhigh, hillegal⟩
      exact hlegal.elim (fun hlow => by omega) hillegal
    obtain ⟨hres, hvalid, hword⟩ := nextcfgWrite_taken hh taken
    exact does_of rfl (only_nextcfgWrite w v.toNat) ⟨hres, hvalid.trans (by omega), hword⟩

end Sys2Proof.Machine
end

section
/-!
SUPPORT. Transactions on memory: what reports of errors show, what a requester's read and write do, and what symbol errors leave
(R31, R416, R419 to R421, R423, R425).
-/

set_option Elab.async false

namespace Sys2Proof.Machine

/-! ## What reports show (R420, R421, R425) -/

theorem rd_run_count {f : Fld} {s : State} (h : f.lo + f.width ≤ 32) :
    ((count f 1).run s).rd f = min (2 ^ f.width - 1) (s.rd f + 1) := by
  rw [run_count]
  exact rd_run_wr_of h (Nat.mod_eq_of_lt (lt_of_le_of_lt (Nat.min_le_left _ _) (Nat.sub_lt (by positivity) one_pos)))

/-- How each report of memory ends: with its event bit set and its record made. -/
theorem report_end {e : Fld} (he : e.addr = 0x100A000C ∧ e.width = 1 ∧ e.lo < 32) {p : Nat} (hp : p < 2 ^ 32)
    (code sev : Nat) (src : Src) (u : State) : let t := (acts [setEvent e, ledger code src sev p]).run u
    t.on e = true ∧ (u.roomy → Logged t code src sev p) ∧ ∀ g : Fld, 0x100A0010 ≤ g.addr ∧ g.addr < 0x100B0000 → t.rd g = u.rd g := by
  obtain ⟨ha, hw, hl⟩ := he
  have apart (a : Nat) (h : 0x100A000C ≤ a ∧ a < 0x100B0000) : ¬ signalReg a ∧ LG_LOST.addr ≠ a ∧ LG_EVENT_LOST.addr ≠ a :=
    ⟨not_signalReg (by omega) (by omega) (by omega), by simp only [LG_LOST]; omega, by simp only [LG_EVENT_LOST]; omega⟩
  have tail (a : Nat) (h : 0x100A000C ≤ a ∧ a < 0x100B0000) : Only (spares a) (ledger code src sev p) := by
    obtain ⟨hs, h1, h2⟩ := apart a h
    exact ledger_spares hs h1 h2
  have hs : ¬ signalReg e.addr := (apart _ (by omega)).1
  rw [run_acts_cons, run_acts_cons, run_acts_nil]
  refine ⟨?_, fun hr => logged_after_event hr rfl hp, fun g hg => ?_⟩
  · rw [(tail e.addr (by omega)).on e]
    exact on_setEvent e u hs hw hl
  · rw [(tail g.addr (by omega)).rd g]
    exact rd_setEvent e g u (by omega) (apart _ (by omega)).1

theorem reportCorrected_stock {s : State} {a : Nat} (h : inStock a = true) : let t := (reportCorrected a).run s
    t.rd (TS_CORR (groupOf a)) = min (2 ^ 32 - 1) (s.rd (TS_CORR (groupOf a)) + 1) ∧ t.on TS_EVENT_CORR = true ∧
      (s.roomy → Logged t 0x8002 .stockroom note a) := by
  have hg := groupOf_lt h
  have ha : a < 0x6000000 := of_decide_eq_true h
  have hb : bits a 26 0 = a := by simp only [bits]; omega
  rw [reportCorrected, if_pos h, hb, run_acts_cons]
  obtain ⟨event, record, rest⟩ := report_end (e := TS_EVENT_CORR) (p := a) ⟨rfl, rfl, by decide⟩ (by omega) 0x8002 note .stockroom
    ((count (TS_CORR (groupOf a)) 1).run s)
  refine ⟨(rest _ ?_).trans (rd_run_count (by simp [TS_CORR])), event, record⟩
  simp only [TS_CORR]; omega

theorem keeps_lg_ail (k : Ailment) : Keeps (·.lg) (ail k) := keeps_withS fun _ => keeps_whenDo fun _ => rfl

theorem reportPoison_stock {s : State} {a : Nat} (h : inStock a = true) : let t := (reportPoison a).run s
    t.rd (TS_UNCORR (groupOf a)) = min (2 ^ 32 - 1) (s.rd (TS_UNCORR (groupOf a)) + 1) ∧ t.rd (TS_ERRADDR (groupOf a)) = a ∧
      t.on TS_EVENT_UNCORR = true ∧ (s.roomy → Logged t 0x8003 .stockroom error a) := by
  have hg := groupOf_lt h
  have ha : a < 0x6000000 := of_decide_eq_true h
  have hb : bits a 26 0 = a := by simp only [bits]; omega
  rw [reportPoison, if_pos h, hb, run_acts_cons, run_acts_cons, run_acts_cons]
  have hrd : ((ail .uncorr).run s).rd (TS_UNCORR (groupOf a)) = s.rd (TS_UNCORR (groupOf a)) := ail_spares.rd _ s
  have hlg : ((ail .uncorr).run s).lg = s.lg := keeps_lg_ail .uncorr s
  generalize (ail .uncorr).run s = u at hrd hlg
  obtain ⟨event, record, rest⟩ := report_end (e := TS_EVENT_UNCORR) (p := a) ⟨rfl, rfl, by decide⟩ (by omega) 0x8003 error .stockroom
    ((wr (TS_ERRADDR (groupOf a)) a).run ((count (TS_UNCORR (groupOf a)) 1).run u))
  refine ⟨(rest _ ?_).trans ?_, (rest _ ?_).trans (rd_run_wr_of (by simp [TS_ERRADDR]) ?_), event, fun hr => record ?_⟩
  · simp only [TS_UNCORR]; omega
  · rw [rd_run_wr_ne (f := TS_ERRADDR (groupOf a)) (g := TS_UNCORR (groupOf a)) (by simp only [TS_UNCORR, TS_ERRADDR]; omega), ← hrd]
    exact rd_run_count (by simp [TS_UNCORR])
  · simp only [TS_ERRADDR]; omega
  · simp only [TS_ERRADDR]; omega
  · unfold State.roomy; exact hlg.symm ▸ hr

theorem reportPoison_ext {s : State} {a : Nat} (h : inStock a = false) (ha : a < 2 ^ 40) : let t := (reportPoison a).run s
    t.rd TS_EXT_UNCORR = min (2 ^ 32 - 1) (s.rd TS_EXT_UNCORR + 1) ∧ t.on TS_EVENT_EXT_UNCORR = true ∧
      (s.roomy → Logged t 0x8009 .external error (a / 2 ^ 8)) := by
  have hb : bits a 39 8 = a / 2 ^ 8 := by simp only [bits]; omega
  rw [reportPoison, if_neg (by rw [h]; decide), hb, run_acts_cons, run_acts_cons, run_acts_cons]
  have hrd : ((ail .uncorr).run s).rd TS_EXT_UNCORR = s.rd TS_EXT_UNCORR := ail_spares.rd _ s
  have hlg : ((ail .uncorr).run s).lg = s.lg := keeps_lg_ail .uncorr s
  generalize (ail .uncorr).run s = u at hrd hlg
  have hpair : ((wrPair TS_EXT_ERRADDR_LO TS_EXT_ERRADDR_HI a).run ((count TS_EXT_UNCORR 1).run u)).lg = u.lg := by rw [run_wrPair]; rfl
  obtain ⟨event, record, rest⟩ := report_end (e := TS_EVENT_EXT_UNCORR) (p := a / 2 ^ 8) ⟨rfl, rfl, by decide⟩ (by omega) 0x8009 error
    .external ((wrPair TS_EXT_ERRADDR_LO TS_EXT_ERRADDR_HI a).run ((count TS_EXT_UNCORR 1).run u))
  refine ⟨(rest _ (by decide)).trans ?_, event, fun hr => record ?_⟩
  · rw [(wrPair_spares (by decide) (by decide)).rd TS_EXT_UNCORR, ← hrd]
    exact rd_run_count (by decide)
  · unfold State.roomy; exact hpair.trans hlg ▸ hr

theorem touchWord_poisoned {s : State} {a : Nat} (h : s.poisonedAt a = true) : (touchWord a).run s = (reportPoison a).run s := by
  rw [touchWord, run_withS, if_pos h]

theorem touchWord_corrected {s : State} {a : Nat} (h : s.poisonedAt a = false) (hn : 0 < s.ts.symbols.get 0 (a / 32)) :
    (touchWord a).run s = (reportCorrected a).run s := by
  rw [touchWord, run_withS, if_neg (by rw [h]; decide), decide_eq_true hn]
  rfl

/-! ## A requester's reads (R31, R416) -/

/-- What a read may do: reports, and the answer. -/
def readUpd (u : Upd) : Prop := reportUpd u ∨ ∃ bs, u = .reply bs

theorem only_readFor (w : Requester) (a n : Nat) : Only readUpd (readFor w a n) := by
  have answer (bs : List Byte) : Only readUpd (reply bs) := only_one fun _ => Or.inr ⟨bs, rfl⟩
  unfold readFor withMemFor withMem
  refine only_withS fun _ => only_ite (only_withS fun _ => only_cons ?_ (only_cons (answer _) (only_nil _)))
    (only_cons ?_ (only_cons (answer _) (only_nil _)))
  · exact (only_touched a n).mono fun _ hu => Or.inl hu
  · exact (only_report_ledger _ _ _ _).mono fun _ hu => Or.inl hu

theorem readUpd_keeps {u : Upd} (h : readUpd u) (t : State) : (u.apply t).threads = t.threads ∧ (u.apply t).mem = t.mem ∧
    (u.apply t).poison = t.poison ∧ (u.apply t).flash = t.flash ∧ (u.apply t).ts = t.ts := by
  rcases h with (h | h | ⟨a, r, v, rfl, -⟩ | ⟨x, rfl⟩) | ⟨bs, rfl⟩
  · have := ledgerUpd_keeps h t; tauto
  · have := eventUpd_keeps h t; tauto
  all_goals exact ⟨rfl, rfl, rfl, rfl, rfl⟩

theorem readFor_keeps (w : Requester) (a n : Nat) (s : State) :
    Quiet s ((readFor w a n).run s) ∧ ((readFor w a n).run s).ts = s.ts := by
  have k {β : Type} (g : State → β) (hg : ∀ u, readUpd u → ∀ t, g (u.apply t) = g t) := (only_readFor w a n).keeps g hg s
  exact ⟨⟨k _ fun _ hu t => (readUpd_keeps hu t).1, k _ fun _ hu t => (readUpd_keeps hu t).2.1, k _ fun _ hu t => (readUpd_keeps hu t).2.2.1,
    k _ fun _ hu t => (readUpd_keeps hu t).2.2.2.1⟩, k _ fun _ hu t => (readUpd_keeps hu t).2.2.2.2⟩

/-- A read of what the requester may read answers the bytes after the reports of their words. -/
theorem readFor_run {s : State} {w : Requester} {a n : Nat} (h : s.readable w a n) :
    (readFor w a n).run s = Upd.apply (touched s a n) (.reply (s.bytesAt a n)) := by
  have all : ((List.range n).all fun i => s.mayRead w (a + i)) = true := by simpa [State.readable] using h
  rw [readFor, withMemFor, run_withS, if_pos all, withMem_run, run_reply]

/-- Any other read answers zeros after the record of R31. -/
theorem readFor_unmapped {s : State} {w : Requester} {a n : Nat} (h : ¬ s.readable w a n) :
    (readFor w a n).run s = Upd.apply ((unmapped w a).run s) (.reply (List.replicate n 0)) := by
  have all : ¬ ((List.range n).all fun i => s.mayRead w (a + i)) = true := by simpa [State.readable] using h
  rw [readFor, withMemFor, run_withS, if_neg all, run_acts_cons, run_acts_cons, run_acts_nil, run_reply]

theorem unmapped_logged {s : State} (hr : s.roomy) (w : Requester) {a : Nat} (ha : a < 2 ^ 40) :
    Logged ((unmapped w a).run s) 0x8001 (srcOf w) warning (a / 2 ^ 8) := by
  have hb : bits a 39 8 = a / 2 ^ 8 := by simp only [bits]; omega
  obtain ⟨ht, hn⟩ := hr
  rw [unmapped, hb]
  exact logged_ledger ht (by unfold intakeSize; omega) (by omega)

/-- A read within one word reports of that word alone. -/
theorem touched_word (s : State) {a n : Nat} (h0 : 0 < n) (h : a % 32 + n ≤ 32) : touched s a n = (touchWord (a / 32 * 32)).run s := by
  rw [touched, wordsOf_one a n h0 (by omega), run_forEach_cons, run_forEach_nil]

/-! ## A requester's writes (R31, R416, R421, R423) -/

theorem touchWord_keeps (a : Nat) (s : State) : ((touchWord a).run s).mem = s.mem ∧ ((touchWord a).run s).poison = s.poison ∧
    ((touchWord a).run s).ts = s.ts := by
  have k {β : Type} (g : State → β) (hg : ∀ u, readUpd u → ∀ t, g (u.apply t) = g t) :=
    ((only_touchWord a).mono fun _ hu => Or.inl hu : Only readUpd (touchWord a)).keeps g hg s
  exact ⟨k _ fun _ hu t => (readUpd_keeps hu t).2.1, k _ fun _ hu t => (readUpd_keeps hu t).2.2.1,
    k _ fun _ hu t => (readUpd_keeps hu t).2.2.2.2⟩

/-- The part of the data (at `a`) that falls in the word at `w`, stored. -/
theorem byteAt_storePart (a w : Nat) (d : List Byte) (s : State) (x : Nat) :
    ((storeBytes (max a w) ((d.drop (max a w - a)).take (min (a + d.length) (w + 32) - max a w))).run s).byteAt x =
      if (a ≤ x ∧ x < a + d.length) ∧ w ≤ x ∧ x < w + 32 then d.getD (x - a) 0 else s.byteAt x := by
  generalize hlo : max a w = lo
  generalize hhi : min (a + d.length) (w + 32) = hi
  have hlen : ((d.drop (lo - a)).take (hi - lo)).length = hi - lo := by rw [List.length_take, List.length_drop]; omega
  rw [byteAt_storeBytes, hlen]
  by_cases hin : (a ≤ x ∧ x < a + d.length) ∧ w ≤ x ∧ x < w + 32
  · rw [if_pos hin, if_pos (by omega), List.getD_eq_getElem?_getD, List.getElem?_take_of_lt (by omega), List.getElem?_drop,
      ← List.getD_eq_getElem?_getD, show lo - a + (x - lo) = x - a by omega]
  · rw [if_neg hin, if_neg (by omega)]

/-- What a write leaves of a word that is not excluded: its bytes of the data, no symbol errors, and no poison if it is written whole. -/
theorem writeWord_leaves {s : State} {w : Nat} (a : Nat) (d : List Byte) (hx : s.excludedAt w = false) :
    let t := (writeWord a d w).run s
    (∀ x, t.byteAt x = if (a ≤ x ∧ x < a + d.length) ∧ w ≤ x ∧ x < w + 32 then d.getD (x - a) 0 else s.byteAt x) ∧
    t.ts = { s.ts with symbols := s.ts.symbols.set 0 (w / 32) 0 } ∧
    (a ≤ w → w + 32 ≤ a + d.length → t.poison.get false (w / 32) = false) := by
  have touch (c : Bool) : ((whenDo c (touchWord w)).run s).mem = s.mem ∧ ((whenDo c (touchWord w)).run s).ts = s.ts := by
    obtain ⟨hm, -, ht⟩ := touchWord_keeps w s
    cases c
    · exact ⟨rfl, rfl⟩
    · exact ⟨hm, ht⟩
  have clear (c : Bool) (y : State) : ((whenDo c fun _ => [.poison (w / 32) false]).run y).mem = y.mem ∧
      ((whenDo c fun _ => [.poison (w / 32) false]).run y).ts = y.ts := by cases c <;> exact ⟨rfl, rfl⟩
  have stored (p : Nat) (bs : List Byte) (y : State) : ((storeBytes p bs).run y).ts = y.ts :=
    (only_storeBytes p bs).keeps State.ts (fun v hv t => by obtain ⟨x, b, rfl⟩ := hv; rfl) y
  unfold writeWord
  rw [run_withS]
  dsimp only
  rw [if_neg (by rw [hx]; decide), run_acts_cons, run_acts_cons, run_acts_cons, run_acts_cons, run_acts_nil]
  refine ⟨fun x => ?_, ?_, fun h1 h2 => ?_⟩
  · rw [State.byteAt, (clear _ _).1]
    refine (byteAt_storePart a w d _ x).trans ?_
    rw [State.byteAt, (touch _).1]
    rfl
  · rw [(clear _ _).2]
    exact congrArg (fun x : Ts => { x with symbols := x.symbols.set 0 (w / 32) 0 }) ((stored _ _ _).trans (touch _).2)
  · rw [show (min (a + d.length) (w + 32) - max a w == 32) = true by simp; omega, run_whenDo, if_pos rfl, run_list, applyAll_cons,
      applyAll_nil]
    simp only [apply_poison, SMap.get_set_same]

/-- What a write of several words leaves, none of them excluded. -/
theorem byteAt_writeWords (ws : List Nat) (a : Nat) (d : List Byte) (s : State) (hx : ∀ w ∈ ws, s.excludedAt w = false) (x : Nat) :
    ((forEach ws (writeWord a d)).run s).byteAt x =
      if (a ≤ x ∧ x < a + d.length) ∧ ∃ w ∈ ws, w ≤ x ∧ x < w + 32 then d.getD (x - a) 0 else s.byteAt x := by
  induction ws generalizing s with
  | nil => simp
  | cons w ws ih =>
    obtain ⟨bytes, ts, -⟩ := writeWord_leaves a d (hx w (by simp))
    rw [run_forEach_cons, ih _ fun v hv => ?_, bytes x]
    · by_cases hw : w ≤ x ∧ x < w + 32 <;> by_cases hin : a ≤ x ∧ x < a + d.length <;> simp [hw, hin]
    · rw [State.excludedAt, ts]
      exact hx v (by simp [hv])

theorem mem_wordsOf {a n x : Nat} (h : a ≤ x ∧ x < a + n) : x / 32 * 32 ∈ wordsOf a n := by
  rw [wordsOf, if_neg (by omega), List.mem_map]
  refine ⟨x / 32 - a / 32, List.mem_range.2 ?_, ?_⟩ <;> omega

theorem memWrite_bytes {s : State} {a : Nat} {d : List Byte} (hx : ∀ w ∈ wordsOf a d.length, s.excludedAt w = false) (x : Nat) :
    ((memWrite a d).run s).byteAt x = if a ≤ x ∧ x < a + d.length then d.getD (x - a) 0 else s.byteAt x := by
  rw [memWrite, byteAt_writeWords _ a d s hx x]
  by_cases hin : a ≤ x ∧ x < a + d.length
  · rw [if_pos hin, if_pos ⟨hin, _, mem_wordsOf hin, by omega, by omega⟩]
  · rw [if_neg hin, if_neg fun h => hin h.1]

/-- A write that takes effect whole, of which no list in use reads. -/
theorem memWriteFor_writable {s : State} {w : Requester} {a : Nat} {d : List Byte} (h : s.writable w a d.length)
    (hd : s.dr.watch = []) : (memWriteFor w a d).run s = (memWrite a d).run s := by
  obtain ⟨may, words⟩ := h
  have all : ((List.range d.length).all fun i => s.mayWrite w (a + i)) = true := by simpa using may
  have unlocked : ((wordsOf a d.length).filter fun x => !s.ctxLocked x) = wordsOf a d.length :=
    List.filter_eq_self.2 fun x hx => by rw [(words x hx).2]; rfl
  have noneLocked : (wordsOf a d.length).any s.ctxLocked = false := by
    rw [List.any_eq_false]
    intro x hx
    rw [(words x hx).2]; decide
  rw [memWriteFor, run_withS, if_pos all]
  dsimp only
  rw [unlocked, noneLocked, hd, run_acts_cons, run_acts_cons, run_acts_cons, run_acts_nil]
  rfl

/-- Any other write is discarded with the record of R31. -/
theorem memWriteFor_unmapped {s : State} {w : Requester} {a : Nat} {d : List Byte} (h : ∃ i < d.length, s.mayWrite w (a + i) = false) :
    (memWriteFor w a d).run s = (unmapped w a).run s := by
  obtain ⟨i, hi, hw⟩ := h
  have all : ¬ ((List.range d.length).all fun i => s.mayWrite w (a + i)) = true := by
    rw [List.all_eq_true]
    intro hall
    have := hall i (List.mem_range.2 hi)
    rw [hw] at this
    exact Bool.false_ne_true this
  rw [memWriteFor, run_withS, if_neg all]

/-- The bytes from `a` on are the data, all others are as before, and so are threads and flash. -/
def StoredAt (s t : State) (a : Nat) (d : List Byte) : Prop :=
  t.bytesAt a d.length = d ∧ MemOutside s t a (a + d.length) ∧ t.threads = s.threads ∧ t.flash = s.flash

theorem memWriteFor_stored {s : State} {w : Requester} {a : Nat} {d : List Byte} (h : s.writable w a d.length)
    (hd : s.dr.watch = []) : StoredAt s ((memWriteFor w a d).run s) a d := by
  have bytes := memWrite_bytes fun x hx => (h.2 x hx).1
  rw [memWriteFor_writable h hd]
  refine ⟨List.ext_getElem (by simp [State.bytesAt]) fun i h1 h2 => ?_, fun x hx => ?_, ?_, ?_⟩
  · simp only [State.bytesAt, List.getElem_map, List.getElem_range]
    rw [bytes, if_pos (by omega), show a + i - a = i by omega, List.getD_eq_getElem _ _ h2]
  · rw [bytes x, if_neg (by omega)]
  · simp only [memWrite_frame]
  · simp only [memWrite_frame]

/-- A whole word written is free of poison and of symbol errors (R421). -/
theorem memWriteFor_clears {s : State} {w : Requester} {a : Nat} {d : List Byte} (h : s.writable w a d.length)
    (hd : s.dr.watch = []) (ha : a % 32 = 0) (hl : d.length = 32) : let t := (memWriteFor w a d).run s
    t.poisonedAt a = false ∧ t.ts.symbols.get 0 (a / 32) = 0 := by
  have one : wordsOf a d.length = [a] := by rw [wordsOf_one a _ (by omega) (by omega), show a / 32 * 32 = a by omega]
  have hx : s.excludedAt a = false := (h.2 a (by rw [one]; simp)).1
  obtain ⟨-, ts, poison⟩ := writeWord_leaves a d hx
  rw [memWriteFor_writable h hd, memWrite, one, run_forEach_cons, run_forEach_nil]
  have excluded : ((writeWord a d a).run s).excludedAt a = false := by rw [State.excludedAt, ts]; exact hx
  refine ⟨?_, ?_⟩
  · rw [State.poisonedAt, excluded, poison le_rfl (by omega)]; rfl
  · rw [ts]; exact SMap.get_set_same 0 s.ts.symbols (a / 32) 0

/-- The reports of a read leave a write as it was. -/
theorem AfterFetch.writable {s u : State} (h : AfterFetch s u) {w : Requester} {a n : Nat} (hw : s.writable w a n) : u.writable w a n := by
  obtain ⟨may, words⟩ := hw
  refine ⟨fun i hi => ?_, fun x hx => ?_⟩
  · rw [State.mayWrite, h.mayRead]; exact may i hi
  · rw [State.excludedAt, h.ts, State.ctxLocked]
    simp only [h.thread]
    exact words x hx

/-! ## Symbol errors (R419) -/

/-- What symbol errors may do to the word from `lo` to below `hi`: free values, its bytes, poison and counts of symbols. -/
def upsetUpd (lo hi : Nat) : Upd → Prop
  | .free _ | .poison _ _ | .ts _ => True
  | .mem x _ => lo ≤ x ∧ x < hi
  | _ => False

theorem upsetUpd_keeps {lo hi : Nat} {u : Upd} (h : upsetUpd lo hi u) (t : State) :
    (u.apply t).threads = t.threads ∧ ∀ x, x < lo ∨ hi ≤ x → (u.apply t).byteAt x = t.byteAt x := by
  cases u with
  | free | poison | ts => exact ⟨rfl, fun _ _ => rfl⟩
  | mem y b =>
    obtain ⟨h1, h2⟩ : lo ≤ y ∧ y < hi := h
    exact ⟨rfl, fun x hx => SMap.get_set_ne _ _ _ (by omega)⟩
  | _ => exact h.elim

theorem only_freeBytes {lo hi n a : Nat} (hlo : lo ≤ a) (hhi : a + n ≤ hi) : Only (upsetUpd lo hi) (freeBytes n a) := by
  induction n generalizing a with
  | zero => exact only_skip _
  | succ n ih =>
    exact only_cons (only_withFree (fun _ => trivial) fun _ => only_one fun _ => ⟨by omega, by omega⟩)
      (only_cons (ih (by omega) (by omega)) (only_nil _))

/-- Up to two symbols in error are counted. -/
theorem upset_few {s : State} {a n : Nat} (hn : 0 < n) (hm : s.inMem a = true) (hc : inStock a = true ∨ s.on TS_EXT_STATUS_PROTECT = true)
    (hk : s.ts.symbols.get 0 (a / 32) + n ≤ 2) : (upset a n).run s =
      Upd.apply s (.ts { s.ts with symbols := s.ts.symbols.set 0 (a / 32) (s.ts.symbols.get 0 (a / 32) + n) }) := by
  have coded : ¬ (!inStock a && !s.on TS_EXT_STATUS_PROTECT) = true := by rcases hc with h | h <;> simp [h]
  rw [upset, run_withS]
  dsimp only
  rw [if_neg (by simp [hm]; omega), if_neg coded, if_pos hk, run_updTs]

/-- More than two leave the word poisoned, or with other bytes and one symbol in error. -/
theorem upset_many {s : State} {a n : Nat} (hn : 0 < n) (hm : s.inMem a = true) (hc : inStock a = true ∨ s.on TS_EXT_STATUS_PROTECT = true)
    (hk : 2 < s.ts.symbols.get 0 (a / 32) + n) : let t := (upset a n).run s
    t.threads = s.threads ∧ (t.poison.get false (a / 32) = true ∧ t.mem = s.mem ∨
      t.ts.symbols.get 0 (a / 32) = 1 ∧ MemOutside s t (a / 32 * 32) (a / 32 * 32 + 32)) := by
  have coded : ¬ (!inStock a && !s.on TS_EXT_STATUS_PROTECT) = true := by rcases hc with h | h <;> simp [h]
  rw [upset, run_withS]
  dsimp only
  rw [if_neg (by simp [hm]; omega), if_neg coded, if_neg (by omega), run_withFree]
  split
  · exact ⟨rfl, Or.inl ⟨SMap.get_set_same false s.poison (a / 32) true, rfl⟩⟩
  · generalize hx : acts [freeBytes 32 (a / 32 * 32), updTs fun t => { t with symbols := t.symbols.set 0 (a / 32) 1 }] = x
    have counts : Only (upsetUpd (a / 32 * 32) (a / 32 * 32 + 32)) (updTs fun t => { t with symbols := t.symbols.set 0 (a / 32) 1 }) :=
      only_one fun _ => trivial
    have only : Only (upsetUpd (a / 32 * 32) (a / 32 * 32 + 32)) fun _ => x s := fun _ =>
      hx ▸ only_cons (only_freeBytes le_rfl le_rfl) (only_cons counts (only_nil _)) s
    have threads := only.keeps State.threads (fun u hu t => (upsetUpd_keeps hu t).1) (Upd.apply s (.free (s.freeCount + 1)))
    have bytes (y : Nat) (hy : y < a / 32 * 32 ∨ a / 32 * 32 + 32 ≤ y) :=
      only.keeps (fun t => t.byteAt y) (fun u hu t => (upsetUpd_keeps hu t).2 y hy) (Upd.apply s (.free (s.freeCount + 1)))
    refine ⟨threads, Or.inr ⟨?_, bytes⟩⟩
    simp only [← hx, acts, updTs, applyAll_append, applyAll_cons, applyAll_nil, apply_ts, SMap.get_set_same]

end Sys2Proof.Machine
end

section
/-!
PROOF. Reads and writes of Stockroom and of external memory (R31, R416, R418 to R421, R423, R425, R427).
-/

set_option Elab.async false

namespace Sys2Proof.Machine

/-! ## Transactions and requests -/

/-- The end of a transaction changes which transaction holds the group. -/
theorem endTransaction_run (g : Nat) (w : Requester) (s : State) :
    ∃ x, (endTransaction g w).run s = Upd.apply s (.ts { s.ts with running := x }) := by
  rw [endTransaction, run_withS]
  split
  · rw [run_whenDo]
    split
    · exact ⟨_, rfl⟩
    · exact ⟨s.ts.running, rfl⟩
  · exact ⟨s.ts.running, rfl⟩

/-- The requester that holds the group ends its transaction. -/
theorem endTransaction_frees {g : Nat} {w : Requester} {s : State} {r : TsRun} (hr : s.ts.running.get none g = some r)
    (hw : Requester.id w = some r.req) : ((endTransaction g w).run s).ts.running.get none g = none := by
  rw [endTransaction, run_withS, hr]
  dsimp only
  rw [run_whenDo, if_pos (by simp [hw]), run_updTs]
  exact SMap.get_set_same none s.ts.running g none

/-- A transaction at Stockroom and a request at the external memory controller do the same to memory: what does not depend on the
transactions that hold the groups holds after both. -/
theorem both_of {r : StockReq} {s : State} {P : State → Prop} (hP : ∀ t x, P t → P (Upd.apply t (.ts { t.ts with running := x })))
    (h : P ((transact r).run s)) : Completes (.stockroomTransaction r) s P ∧ Completes (.extMemoryRequest r) s P := by
  refine ⟨⟨_, rfl, ?_⟩, _, rfl, h⟩
  rw [run_acts_cons, run_acts_cons, run_acts_nil]
  obtain ⟨x, hx⟩ := endTransaction_run (groupOf r.addr.toNat) r.w ((transact r).run s)
  rw [hx]
  exact hP _ x h

section
variable {w : Requester} {addr : BitVec 40} {n : Nat} {d : List Byte} {s : State} {P : State → Prop}

theorem both_read (hP : ∀ t x, P t → P (Upd.apply t (.ts { t.ts with running := x }))) (h : P ((readFor w addr.toNat n).run s)) :
    Completes (.stockroomTransaction ⟨w, addr, n, .read, []⟩) s P ∧ Completes (.extMemoryRequest ⟨w, addr, n, .read, []⟩) s P := by
  refine both_of hP ?_
  rw [transact, run_acts_cons, run_acts_cons, run_acts_nil, run_forEach_nil]
  exact h

theorem both_write (hP : ∀ t x, P t → P (Upd.apply t (.ts { t.ts with running := x }))) (h : P ((memWriteFor w addr.toNat d).run s)) :
    Completes (.stockroomTransaction ⟨w, addr, n, .write d, []⟩) s P ∧ Completes (.extMemoryRequest ⟨w, addr, n, .write d, []⟩) s P := by
  refine both_of hP ?_
  rw [transact, run_acts_cons, run_acts_cons, run_acts_nil, run_forEach_nil]
  exact h

theorem both_rmw (hP : ∀ t x, P t → P (Upd.apply t (.ts { t.ts with running := x })))
    (h : P ((memWriteFor w addr.toNat d).run ((readFor w addr.toNat n).run s))) :
    Completes (.stockroomTransaction ⟨w, addr, n, .rmw d, []⟩) s P ∧ Completes (.extMemoryRequest ⟨w, addr, n, .rmw d, []⟩) s P := by
  refine both_of hP ?_
  rw [transact, run_acts_cons, run_acts_cons, run_acts_nil, run_forEach_nil, run_acts_cons, run_acts_cons, run_acts_nil]
  exact h

/-- Symbol errors, and then a read of nothing. -/
theorem both_upset {up : BitVec 40} {k : Nat} (hP : ∀ t x, P t → P (Upd.apply t (.ts { t.ts with running := x })))
    (h : P (Upd.apply ((upset up.toNat k).run s) (.reply []))) : Completes (.stockroomTransaction ⟨w, addr, 0, .read, [(up, k)]⟩) s P ∧
      Completes (.extMemoryRequest ⟨w, addr, 0, .read, [(up, k)]⟩) s P := by
  have nothing (t : State) : t.readable w addr.toNat 0 := fun i hi => absurd hi (Nat.not_lt_zero i)
  refine both_of hP ?_
  rw [transact, run_acts_cons, run_acts_cons, run_acts_nil, run_forEach_cons, run_forEach_nil]
  exact (readFor_run (nothing _)).symm ▸ h
end

/-- A read and a write in one: the write finds what the read left, and the answer stays. -/
theorem rmw_stored {s : State} {w : Requester} {a n : Nat} {d : List Byte} (hr : s.readable w a n) (hw : s.writable w a d.length)
    (hd : s.dr.watch = []) : let t := (memWriteFor w a d).run ((readFor w a n).run s)
    StoredAt s t a d ∧ t.reply = s.bytesAt a n := by
  have after := afterFetch_touched s a n
  have hw' : (Upd.apply (touched s a n) (.reply (s.bytesAt a n))).writable w a d.length := after.writable hw
  have hd' : (touched s a n).dr.watch = [] := by rw [after.act.2.1, hd]
  rw [readFor_run hr]
  obtain ⟨bytes, outside, threads, flash⟩ := memWriteFor_stored hw' hd'
  refine ⟨⟨bytes, fun x hx => (outside x hx).trans ?_, threads.trans after.threads, flash.trans after.flash⟩, ?_⟩
  · exact congrArg (fun m => SMap.get memReset m x) after.mem
  · rw [memWriteFor_writable hw' hd']
    simp only [memWrite_frame, apply_reply]

/-! ## The obligation -/

/-- Settles O56: each clause is the case of a requester's read or write that its lemma states, and the end of a transaction adds nothing. -/
theorem memoryTransactions : Obligations.MemoryTransactions := by
  unfold Obligations.MemoryTransactions
  intro s w addr up len n d
  have ha : addr.toNat < 2 ^ 40 := addr.isLt
  have stock (h : inStock addr.toNat = true) : inStock (addr.toNat / 32 * 32) = true :=
    decide_eq_true (by have : addr.toNat < 0x6000000 := of_decide_eq_true h; omega)
  have ext (h : s.inExt addr.toNat = true) : inStock (addr.toNat / 32 * 32) = false :=
    decide_eq_false (by have : extBase ≤ addr.toNat := (of_decide_eq_true h).1; unfold extBase at this; omega)
  refine ⟨fun hr => both_read (fun _ _ h => h) ⟨?_, (readFor_keeps w addr.toNat len s).1⟩,
    fun hr => both_read (fun _ _ h => h) ⟨?_, (readFor_keeps w addr.toNat len s).1, fun hroom => ?_⟩,
    fun ⟨hw, hd⟩ => both_write (fun _ _ h => h) (memWriteFor_stored hw hd),
    fun ⟨hw, hd⟩ hr => both_rmw (fun _ _ h => h) (rmw_stored hr hw hd),
    fun hw => both_write (fun _ _ h => h) ?_,
    fun ⟨hr, h0, hl⟩ hs hp hk => both_read (fun _ _ h => h) ?_,
    fun ⟨hr, h0, hl⟩ hs hp => both_read (fun _ _ h => h) ?_,
    fun ⟨hr, h0, hl⟩ hs hp => both_read (fun _ _ h => h) ?_,
    fun ⟨hw, hd⟩ h32 hl => both_write (fun _ _ h => h) (memWriteFor_clears hw hd h32 hl),
    fun hlen hn hm hc hk => ?_, fun hlen hn hm hc hk => ?_, fun r hrun hid => ⟨_, rfl, ?_⟩⟩
  · rw [readFor_run hr]; rfl
  · rw [readFor_unmapped hr]; rfl
  · rw [readFor_unmapped hr]
    exact unmapped_logged hroom w ha
  · rw [memWriteFor_unmapped hw]
    exact ⟨ledger_calm.calm s, fun hroom => unmapped_logged hroom w ha⟩
  · rw [readFor_run hr, touched_word s h0 hl, touchWord_corrected hp (by rwa [Nat.mul_div_cancel _ (by decide)])]
    exact reportCorrected_stock (stock hs)
  · rw [readFor_run hr, touched_word s h0 hl, touchWord_poisoned hp]
    exact reportPoison_stock (stock hs)
  · rw [readFor_run hr, touched_word s h0 hl, touchWord_poisoned hp]
    exact reportPoison_ext (ext hs) (by omega)
  · subst hlen
    refine both_upset (fun _ _ h => h) ?_
    rw [upset_few hn hm hc hk]
    exact ⟨SMap.get_set_same 0 s.ts.symbols _ _, rfl, rfl, rfl, rfl⟩
  · subst hlen
    exact both_upset (fun _ _ h => h) (upset_many hn hm hc hk)
  · rw [run_acts_cons, run_acts_cons, run_acts_nil, transact, run_acts_cons, run_acts_cons, run_acts_nil, run_forEach_nil]
    exact endTransaction_frees (by rw [(readFor_keeps w addr.toNat len s).2]; exact hrun) hid

end Sys2Proof.Machine
end

section
/-!
SUPPORT. Draper's bookkeeping: the fields that its actions write, what else they leave alone, and the end of a composition's part in them
(R88, R94, R106, R107).
-/

namespace Sys2Proof.Machine

/-! ## Fields beside each other -/

/-- A write of `f` leaves `g` alone: it lies in another register, or beside `f` in the same one. -/
def Fld.apart (f g : Fld) : Prop :=
  g.addr ≠ f.addr ∨ g.addr = f.addr ∧ g.reset = f.reset ∧ f.lo + f.width ≤ 32 ∧ g.lo + g.width ≤ 32 ∧
    (f.lo + f.width ≤ g.lo ∨ g.lo + g.width ≤ f.lo)

theorem keeps_rd_wr {f g : Fld} {n : Nat} (h : f.apart g) : Keeps (·.rd g) (wr f n) := fun s => by
  rcases h with h | ⟨ha, hr, hf, hg, hd⟩
  · exact rd_run_wr_ne h
  · exact rd_run_wr_word ha hr ⟨hf, hg, hd⟩

theorem Only.keepsRd {x : Act} {g : Fld} (h : Only (spares g.addr) x) : Keeps (·.rd g) x := h.rd g

/-! ## Updates of Draper's registers alone -/

/-- The update writes a register of Draper. -/
def draperReg (u : Upd) : Prop := ∃ a r v, u = .reg a r v ∧ 0x10100000 ≤ a ∧ a < 0x10110000

theorem wr_draperReg {f : Fld} {n : Nat} (h : 0x10100000 ≤ f.addr ∧ f.addr < 0x10110000) : Only draperReg (wr f n) :=
  only_one fun _ => ⟨_, _, _, rfl, h⟩

theorem draperReg_inWindow {u : Upd} (h : draperReg u) : inWindow 0x10100000 0x10110000 u := by
  obtain ⟨a, r, v, rfl, ha⟩ := h
  exact ⟨trivial, fun b ⟨hb, _⟩ => show a ≠ b by omega⟩

/-- Whatever no register write changes, a write of Draper's registers keeps. -/
theorem Only.keepsBeside {x : Act} (h : Only draperReg x) {β : Type} (g : State → β)
    (hg : ∀ a r v t, g (Upd.apply t (.reg a r v)) = g t) : Keeps g x :=
  h.toKeeps fun u hu t => by obtain ⟨a, r, v, rfl, -⟩ := hu; exact hg a r v t

/-- The fields that show the compositions. -/
def refreshFields : List Fld :=
  (List.range 4).map DR_CAN_STAT_STATE ++ [DR_STATUS_QUEUED, DR_STATUS_RUNNING, DR_STATUS_ACTIVE]

theorem only_drRefresh : Only draperReg drRefresh := by
  refine only_cons (only_forN 4 fun c hc => only_withS fun _ => wr_draperReg ?_) (only_cons (only_withS fun s => ?_) (only_nil _))
  · simp only [DR_CAN_STAT_STATE]; omega
  · refine only_cons (wr_draperReg (by decide)) (only_cons ?_ (only_nil _))
    split
    · exact only_cons (wr_draperReg (by decide)) (only_cons (wr_draperReg (by decide)) (only_nil _))
    · exact wr_draperReg (by decide)

theorem keeps_rd_drRefresh {g : Fld} (h : ∀ f ∈ refreshFields, f.apart g) : Keeps (·.rd g) drRefresh := by
  have state (c : Nat) (hc : c < 4) : (DR_CAN_STAT_STATE c).apart g := h _ (by simp [refreshFields]; exact Or.inl ⟨c, hc, rfl⟩)
  have status (f : Fld) (hf : f ∈ [DR_STATUS_QUEUED, DR_STATUS_RUNNING, DR_STATUS_ACTIVE]) : f.apart g :=
    h _ (List.mem_append_right _ hf)
  refine keeps_cons (keeps_forN 4 fun c hc => keeps_withS fun _ => keeps_rd_wr (state c hc)) (keeps_cons (keeps_withS fun s => ?_) keeps_nil)
  refine keeps_cons (keeps_rd_wr (status _ (by simp))) (keeps_cons ?_ keeps_nil)
  split
  · exact keeps_cons (keeps_rd_wr (status _ (by simp))) (keeps_cons (keeps_rd_wr (status _ (by simp))) keeps_nil)
  · exact keeps_rd_wr (status _ (by simp))

theorem drRefresh_dr (s : State) : (drRefresh.run s).dr = s.dr := only_drRefresh.keepsBeside State.dr (fun _ _ _ _ => rfl) s

/-- DR_STATUS shows the composition that runs. -/
theorem drRefresh_running {s : State} {k : Comp} (h : s.dr.order.find? (·.phase == .running) = some k) :
    (drRefresh.run s).on DR_STATUS_RUNNING = true ∧ (drRefresh.run s).rd DR_STATUS_ACTIVE = k.canvas % 4 := by
  have order : ((forN 4 fun c => withS fun s => wr (DR_CAN_STAT_STATE c) (s.compState c)).run s).dr = s.dr :=
    keeps_forN 4 (g := State.dr) (fun c _ => keeps_withS fun _ => fun _ => rfl) s
  unfold drRefresh
  rw [run_acts_cons, run_acts_cons, run_acts_nil, run_withS]
  generalize (forN 4 fun c => withS fun s => wr (DR_CAN_STAT_STATE c) (s.compState c)).run s = u at order
  rw [order, h]
  dsimp only
  rw [run_acts_cons, run_acts_cons, run_acts_nil, run_acts_cons, run_acts_cons, run_acts_nil]
  refine ⟨?_, rd_run_wr_same (by decide)⟩
  rw [State.on, rd_run_wr_word (f := DR_STATUS_ACTIVE) (g := DR_STATUS_RUNNING) rfl rfl (by decide), rd_run_wr_of (v := 1) (by decide) rfl]
  rfl

/-! ## What the end of a composition leaves to one side -/

/-- The update leaves threads and the own states of Draper and Tailor alone. -/
def offstage : Upd → Prop
  | .thread _ _ | .dr _ | .tl _ => False
  | _ => True

theorem offstage_keeps {u : Upd} (h : offstage u) (t : State) :
    (u.apply t).threads = t.threads ∧ (u.apply t).dr = t.dr ∧ (u.apply t).tl = t.tl := by
  cases u with
  | thread | dr | tl => exact h.elim
  | intake r => simp only [apply_intake, and_self]
  | _ => exact ⟨rfl, rfl, rfl⟩

theorem Only.offstage {x : Act} (h : Only offstage x) (s : State) :
    (x.run s).threads = s.threads ∧ (x.run s).dr = s.dr ∧ (x.run s).tl = s.tl :=
  ⟨h.keeps _ (fun _ hu t => (offstage_keeps hu t).1) s, h.keeps _ (fun _ hu t => (offstage_keeps hu t).2.1) s,
    h.keeps _ (fun _ hu t => (offstage_keeps hu t).2.2) s⟩

theorem signalUpd_offstage {u : Upd} (h : signalUpd u) : offstage u := by
  cases u with
  | reg | core | intake | out | msix => trivial
  | _ => exact h.elim

theorem eventUpd_offstage {a : Nat} {u : Upd} (h : eventUpd a u) : offstage u := by
  rcases h with h | ⟨r, v, rfl⟩
  · exact signalUpd_offstage h
  · trivial

theorem ledgerUpd_offstage {u : Upd} (h : ledgerUpd u) : offstage u := by
  rcases h with h | ⟨r, v, rfl⟩ | ⟨x, rfl⟩
  · exact eventUpd_offstage h
  · trivial
  · trivial

theorem reportUpd_offstage {u : Upd} (h : reportUpd u) : offstage u := by
  rcases h with h | h | ⟨a, r, v, rfl, -⟩ | ⟨x, rfl⟩
  · exact ledgerUpd_offstage h
  · exact eventUpd_offstage h
  all_goals trivial

theorem memUpd_offstage {u : Upd} (h : memUpd u) : offstage u := by
  rcases h with h | ⟨a, b, rfl⟩ | ⟨x, rfl⟩ | ⟨w, p, rfl⟩
  · exact reportUpd_offstage h
  all_goals trivial

theorem wr_offstage {f : Fld} {n : Nat} : Only offstage (wr f n) := only_one fun _ => trivial
theorem wrPair_offstage {f g : Fld} {n : Nat} : Only offstage (wrPair f g n) := only_cons wr_offstage (only_cons wr_offstage (only_nil _))
theorem setEvent_offstage {f : Fld} : Only offstage (setEvent f) := (only_setEvent f).mono fun _ => eventUpd_offstage
theorem ledger_offstage {c v p : Nat} {src : Src} : Only offstage (ledger c src v p) := (only_ledger c v p src).mono fun _ => ledgerUpd_offstage
theorem touchWord_offstage {a : Nat} : Only offstage (touchWord a) := (only_touchWord a).mono fun _ => reportUpd_offstage
theorem pushWake_offstage {c : Nat} {e : WakeEntry} {o : HeldIn} : Only offstage (pushWake c e o) :=
  only_cons ((only_pushCore c e o).mono fun _ => signalUpd_offstage)
    (only_cons (only_withS fun _ => only_whenDo setEvent_offstage) (only_nil _))
theorem fenceWake_offstage {e f : Nat} : Only offstage (fenceWake e f) :=
  only_forN _ fun _ _ => only_withS fun _ => only_whenDo pushWake_offstage
theorem drRefresh_offstage : Only offstage drRefresh := only_drRefresh.mono fun _ hu => by obtain ⟨a, r, v, rfl, -⟩ := hu; trivial

/-- A requester's write of memory, whether it takes effect or not. -/
theorem memWriteFor_offstage {w : Requester} {a : Nat} {d : List Byte} : Only offstage (memWriteFor w a d) := by
  have noted {b c : Nat} {u : Upd} (h : ledgerUpd u ∨ eventUpd b u ∨ ∃ r v, u = .reg c r v) : offstage u := by
    rcases h with h | h | ⟨r, v, rfl⟩
    · exact ledgerUpd_offstage h
    · exact eventUpd_offstage h
    · trivial
  refine only_withS fun s => only_ite ?_ ledger_offstage
  exact only_cons (only_forEach _ fun x _ => (only_writeWord a d x).mono fun _ => memUpd_offstage)
    (only_cons (only_whenDo ((only_ctxDeny a).mono fun _ => noted)) (only_cons (only_whenDo ((only_watchWrite w a _).mono fun _ => noted)) (only_nil _)))

theorem memUpd_spares {a : Nat} (h : quietReg a) {u : Upd} (hu : memUpd u) : spares a u := by
  obtain ⟨signal, report, lost, loss⟩ := h
  rcases hu with (hu | hu | ⟨b, r, v, rfl, hb⟩ | ⟨x, rfl⟩) | ⟨b, v, rfl⟩ | ⟨x, rfl⟩ | ⟨w, v, rfl⟩
  · rcases hu with hu | ⟨r, v, rfl⟩ | ⟨x, rfl⟩
    · exact eventUpd_spares signal lost.symm hu
    · exact loss.symm
    · trivial
  · exact eventUpd_spares signal (fun he => report (Or.inl he.symm)) hu
  · exact fun he => report (he ▸ hb)
  all_goals trivial

/-- Neither signals nor reports of memory change a register of Draper. -/
theorem quietReg_draper {a : Nat} (ha : 0x10100000 ≤ a ∧ a < 0x10110000) : quietReg a := by
  refine ⟨not_signalReg (by omega) (by omega) (by omega), ?_, ?_, ?_⟩
  · simp only [reportReg, TS_EVENT_CORR, TS_EXT_CORR]; omega
  · simp only [LG_EVENT_LOST]; omega
  · simp only [LG_LOST]; omega

/-- A write of memory changes none of Draper's registers but its count and its event of writes that come late (R108). -/
theorem memWriteFor_spares {w : Requester} {p : Nat} {d : List Byte} {a : Nat} (ha : 0x10100000 ≤ a ∧ a < 0x10110000)
    (h1 : a ≠ DR_LATE_FREE.addr) (h2 : a ≠ DR_EVENT_LATE_FREE.addr) : Only (spares a) (memWriteFor w p d) := by
  obtain ⟨signal, -, event, lost⟩ := quietReg_draper ha
  have record {c v p : Nat} {src : Src} : Only (spares a) (ledger c src v p) := ledger_spares signal lost.symm event.symm
  refine only_withS fun s => only_ite (only_cons ?_ (only_cons (only_whenDo ?_) (only_cons (only_whenDo ?_) (only_nil _)))) record
  · exact only_forEach _ fun x _ => (only_writeWord p d x).mono fun _ => memUpd_spares (quietReg_draper ha)
  · refine only_cons (count_spares ?_) (only_cons (setEvent_spares signal ?_) (only_cons record (only_nil _)))
    · simp only [FM_CTX_DENY]; omega
    · simp only [FM_EVENT_CTX_DENY]; omega
  · refine only_withS fun s => ?_
    split
    · exact only_whenDo (only_cons (count_spares h1.symm) (only_cons (setEvent_spares signal h2.symm) (only_cons record (only_nil _))))
    · exact only_skip _

/-! ## A composition that leaves the line (R97, R106, R107) -/

/-- No signal, lost record or full queue of wakes changes the register at `a`, which is one of a canvas. -/
theorem canvasReg_quiet {a : Nat} (h : 0x10100100 ≤ a ∧ a < 0x10100300) :
    ¬ signalReg a ∧ FM_EVENT_QFULL.addr ≠ a ∧ DR_REL_DONE.addr ≠ a ∧ DR_REL_HELD.addr ≠ a ∧ DR_STATUS_RUNNING.addr ≠ a :=
  ⟨not_signalReg (by omega) (by omega) (by omega), by simp only [FM_EVENT_QFULL]; omega, by simp only [DR_REL_DONE]; omega,
    by simp only [DR_REL_HELD]; omega, by simp only [DR_STATUS_RUNNING]; omega⟩

theorem releaseFence_offstage : Only offstage releaseFence :=
  only_withS fun _ => only_cons wr_offstage (only_cons (only_whenDo (only_cons wr_offstage (only_cons fenceWake_offstage (only_nil _)))) (only_nil _))
theorem releaseFence_calm : Only calm releaseFence :=
  only_withS fun _ => only_cons wr_calm (only_cons (only_whenDo (only_cons wr_calm (only_cons fenceWake_calm (only_nil _)))) (only_nil _))
theorem checkReleases_calm : Only calm checkReleases :=
  only_withS fun _ => only_cons updDr_calm (only_cons releaseFence_calm (only_nil _))

theorem checkReleases_spares {a : Nat} (h : 0x10100100 ≤ a ∧ a < 0x10100300) : Only (spares a) checkReleases := by
  obtain ⟨signal, full, done, held, -⟩ := canvasReg_quiet h
  exact only_withS fun _ => only_cons updDr_spares (only_cons (only_withS fun _ => only_cons (wr_spares held)
    (only_cons (only_whenDo (only_cons (wr_spares done) (only_cons (fenceWake_spares signal full) (only_nil _)))) (only_nil _))) (only_nil _))

/-- Of the line and the canvases' pictures, deciding the releases changes nothing. -/
theorem checkReleases_keeps (s : State) : let t := checkReleases.run s
    t.dr.order = s.dr.order ∧ t.dr.written = s.dr.written ∧ t.tl = s.tl := by
  intro t
  obtain ⟨-, dr, tl⟩ := releaseFence_offstage.offstage ((updDr fun d => { d with held := d.held.filter fun x => s.bufNamed x.2 }).run s)
  have run : t = releaseFence.run ((updDr fun d => { d with held := d.held.filter fun x => s.bufNamed x.2 }).run s) := by
    show checkReleases.run s = _
    rw [checkReleases, run_withS, run_acts_cons, run_acts_cons, run_acts_nil]
  rw [run, dr, tl]
  exact ⟨rfl, rfl, rfl⟩

theorem readRetires_calm (k : Comp) : Only calm (readRetires k) :=
  only_cons wr_calm (only_cons fenceWake_calm (only_cons (only_forEach _ fun _ _ => wr_calm) (only_cons updDr_calm
    (only_cons checkReleases_calm (only_nil _)))))

/-- READ reaches the frame, and the composition leaves the line. -/
theorem readRetires_run {k : Comp} (hc : k.canvas < 4) (s : State) : let t := (readRetires k).run s
    t.rd (DR_CAN_READ k.canvas) = k.frame % 2 ^ 32 ∧ t.dr.order = s.dr.order.filter (fun x => x.canvas != k.canvas || x.frame != k.frame) ∧
      t.dr.written = s.dr.written ∧ t.tl = s.tl := by
  have window : 0x10100100 ≤ (DR_CAN_READ k.canvas).addr ∧ (DR_CAN_READ k.canvas).addr < 0x10100300 := by simp only [DR_CAN_READ]; omega
  obtain ⟨signal, full, -⟩ := canvasReg_quiet window
  have before : Only offstage (acts [wr (DR_CAN_READ k.canvas) k.frame, fenceWake 0 (4 + k.canvas),
      forEach (k.layers.filter (·.layer.source == 1)) fun l => wr (DR_ING_STAT_HELD_VALID l.layer.stream) 0]) :=
    only_cons wr_offstage (only_cons fenceWake_offstage (only_cons (only_forEach _ fun _ _ => wr_offstage) (only_nil _)))
  have after : Only (spares (DR_CAN_READ k.canvas).addr) (acts [fenceWake 0 (4 + k.canvas),
      forEach (k.layers.filter (·.layer.source == 1)) fun l => wr (DR_ING_STAT_HELD_VALID l.layer.stream) 0,
      updDr fun d => { d with order := d.order.filter fun x => x.canvas != k.canvas || x.frame != k.frame }, checkReleases]) := by
    refine only_cons (fenceWake_spares signal full) (only_cons (only_forEach _ fun l _ => wr_spares ?_) (only_cons updDr_spares
      (only_cons (checkReleases_spares window) (only_nil _))))
    simp only [DR_ING_STAT_HELD_VALID]; omega
  obtain ⟨-, dr, tl⟩ := before.offstage s
  unfold readRetires
  refine ⟨?_, ?_⟩
  · rw [run_acts_cons]
    exact (after.rd (DR_CAN_READ k.canvas) _).trans (rd_run_wr_of (by simp [DR_CAN_READ]) rfl)
  · simp only [run_acts_cons, run_acts_nil] at dr tl ⊢
    obtain ⟨order, written, tl'⟩ := checkReleases_keeps ((updDr fun d =>
      { d with order := d.order.filter fun x => x.canvas != k.canvas || x.frame != k.frame }).run
        ((forEach (k.layers.filter (·.layer.source == 1)) fun l => wr (DR_ING_STAT_HELD_VALID l.layer.stream) 0).run
          ((fenceWake 0 (4 + k.canvas)).run ((wr (DR_CAN_READ k.canvas) k.frame).run s))))
    rw [order, written, tl', run_updDr]
    simp only [apply_dr, dr, tl, and_self]

theorem compDone_offstage (k : Comp) : Only offstage (compDone k) := by
  refine only_cons wr_offstage (only_cons fenceWake_offstage (only_cons ?_ (only_nil _)))
  split
  · exact only_whenDo pushWake_offstage
  · exact only_skip _

theorem compDone_calm (k : Comp) : Only calm (compDone k) := by
  refine only_cons wr_calm (only_cons fenceWake_calm (only_cons ?_ (only_nil _)))
  split
  · exact only_whenDo pushWake_calm
  · exact only_skip _

/-- The wakes that follow DONE. -/
theorem compDone_tail_spares (k : Comp) {a : Nat} (h : 0x10100100 ≤ a ∧ a < 0x10100300) : Only (spares a) (acts [fenceWake 0 k.canvas,
    match k.list with
    | some d => whenDo d.notify (pushWake (bits d.signal 18 16) (.signal (bits d.signal 13 8) (2 ^ bits d.signal 3 0)) .source)
    | none => skip]) := by
  obtain ⟨signal, full, -⟩ := canvasReg_quiet h
  refine only_cons (fenceWake_spares signal full) (only_cons ?_ (only_nil _))
  split
  · exact only_whenDo (pushWake_spares signal full)
  · exact only_skip _

theorem compDone_done {k : Comp} (hc : k.canvas < 4) (s : State) : ((compDone k).run s).rd (DR_CAN_DONE k.canvas) = k.frame % 2 ^ 32 := by
  have tail := compDone_tail_spares k (a := (DR_CAN_DONE k.canvas).addr) (by simp only [DR_CAN_DONE]; omega)
  exact (tail.rd (DR_CAN_DONE k.canvas) _).trans (rd_run_wr_of (by simp [DR_CAN_DONE]) rfl)

theorem compDone_spares (k : Comp) {a : Nat} (h : 0x10100100 ≤ a ∧ a < 0x10100300) (hd : (DR_CAN_DONE k.canvas).addr ≠ a) :
    Only (spares a) (compDone k) := only_cons (wr_spares hd) (compDone_tail_spares k h)

theorem drRefresh_spares {a : Nat} (h : DR_STATUS_RUNNING.addr ≠ a) (hs : ∀ c < 4, (DR_CAN_STAT_STATE c).addr ≠ a) : Only (spares a) drRefresh := by
  refine only_cons (only_forN 4 fun c hc => only_withS fun _ => wr_spares (hs c hc)) (only_cons (only_withS fun s => ?_) (only_nil _))
  refine only_cons (wr_spares h) (only_cons ?_ (only_nil _))
  split
  · exact only_cons (wr_spares h) (only_cons (wr_spares h) (only_nil _))
  · exact wr_spares h

/-- What the end of composition `k` comes to: READ and DONE are at its frame, and it is out of the line. -/
structure Retired (k : Comp) (s t : State) : Prop where
  done : t.rd (DR_CAN_DONE k.canvas) = k.frame % 2 ^ 32
  read : t.rd (DR_CAN_READ k.canvas) = k.frame % 2 ^ 32
  threads : t.threads = s.threads
  line : ∀ x ∈ t.dr.order, x.canvas ≠ k.canvas ∨ x.frame ≠ k.frame
  written : t.dr.written = s.dr.written
  tl : t.tl = s.tl

/-- READ retires, something that leaves READ and the line alone is written, and DONE follows (R106). -/
theorem retired_run {k : Comp} (hc : k.canvas < 4) {m : Act} (hm : Only offstage m) (hr : Only (spares (DR_CAN_READ k.canvas).addr) m)
    (s : State) : Retired k s (drRefresh.run ((compDone k).run (m.run ((readRetires k).run s)))) := by
  obtain ⟨read, order, written, tl⟩ := readRetires_run hc s
  have threads := ((readRetires_calm k).calm s).1
  have tail : Only offstage (acts [m, compDone k, drRefresh]) :=
    only_cons hm (only_cons (compDone_offstage k) (only_cons drRefresh_offstage (only_nil _)))
  have refresh (a : Nat) (ha : a = (DR_CAN_DONE k.canvas).addr ∨ a = (DR_CAN_READ k.canvas).addr) : Only (spares a) drRefresh := by
    simp only [DR_CAN_DONE, DR_CAN_READ] at ha
    refine drRefresh_spares ?_ fun c hc => ?_
    · simp only [DR_STATUS_RUNNING]; omega
    · simp only [DR_CAN_STAT_STATE]; omega
  have tailRead : Only (spares (DR_CAN_READ k.canvas).addr) (acts [m, compDone k, drRefresh]) := by
    refine only_cons hr (only_cons (compDone_spares k ?_ ?_) (only_cons (refresh _ (Or.inr rfl)) (only_nil _)))
    · simp only [DR_CAN_READ]; omega
    · simp only [DR_CAN_READ, DR_CAN_DONE]; omega
  obtain ⟨threads', dr', tl'⟩ := tail.offstage ((readRetires k).run s)
  have readEnd := tailRead.rd (DR_CAN_READ k.canvas) ((readRetires k).run s)
  simp only [run_acts_cons, run_acts_nil] at threads' dr' tl' readEnd
  refine ⟨((refresh _ (Or.inl rfl)).rd (DR_CAN_DONE k.canvas) _).trans (compDone_done hc _), readEnd.trans read, threads'.trans threads,
    fun x hx => ?_, (congrArg Dr.written dr').trans written, tl'.trans tl⟩
  rw [dr', order] at hx
  have := (List.mem_filter.1 hx).2
  simpa using this

/-! ## The completion that is written (R88, R106) -/

theorem compCompletion_offstage (k : Comp) (flags : Nat) (st : Status) : Only offstage (compCompletion k flags st) := by
  intro s
  refine only_cons (a := updYs _) (only_one fun _ => trivial) (only_cons (only_cons ?_ (only_cons wrPair_offstage
    (only_cons wr_offstage (only_nil _)))) (only_nil _)) s
  split
  · exact only_cons memWriteFor_offstage (only_cons memWriteFor_offstage (only_nil _))
  · exact only_skip _

theorem compCompletion_spares_read {k : Comp} (hc : k.canvas < 4) (flags : Nat) (st : Status) :
    Only (spares (DR_CAN_READ k.canvas).addr) (compCompletion k flags st) := by
  have memory {p : Nat} {d : List Byte} : Only (spares (DR_CAN_READ k.canvas).addr) (memWriteFor .draper p d) := by
    refine memWriteFor_spares ?_ ?_ ?_ <;> simp only [DR_CAN_READ, DR_LATE_FREE, DR_EVENT_LATE_FREE] <;> omega
  refine withStamp_spares fun t => only_cons ?_ (only_cons (wrPair_spares ?_ ?_) (only_cons (wr_spares ?_) (only_nil _)))
  · split
    · exact only_cons memory (only_cons memory (only_nil _))
    · exact only_skip _
  all_goals simp only [DR_CAN_READ, DR_CAN_TICK_LO, DR_CAN_TICK_HI, DR_CAN_SEQ]; omega

/-- A composition that adopted no entry writes no completion to memory. -/
theorem compCompletion_calm {k : Comp} (h : k.entry = none) (flags : Nat) (st : Status) : Only calm (compCompletion k flags st) := by
  refine withStamp_calm fun t => only_cons ?_ (only_cons wrPair_calm (only_cons wr_calm (only_nil _)))
  rw [h]
  exact only_skip _

end Sys2Proof.Machine
end

section
/-!
SUPPORT. How a composition begins: the list in use or the list of the ring's one entry, and the layers admitted (R91, R92, R94, R96, R111).
-/

namespace Sys2Proof.Machine

/-! ## What is admitted (R96) -/

/-- The admitted layers cost no more than there is room for. -/
theorem fitting_cost_le (s : State) (c room : Nat) (l : List LayerRun) : (s.fitting c room l).2.1 ≤ room := by
  induction l generalizing room with
  | nil => exact Nat.zero_le _
  | cons x l ih =>
    unfold State.fitting
    dsimp only
    split
    · exact ih room
    · split
      · exact Nat.zero_le _
      · next fits =>
        have rest := ih (room - max (x.layer.srcW * x.layer.srcH) (s.layerArea c x))
        exact (Nat.add_le_add_left rest _).trans_eq (Nat.add_sub_of_le (Nat.le_of_not_lt fits))

/-- Which layers fit does not depend on Draper's own state. -/
theorem fitting_dr (s : State) (x : Dr) (c room : Nat) (l : List LayerRun) :
    (Upd.apply s (.dr x)).fitting c room l = s.fitting c room l := by
  induction l generalizing room with
  | nil => rfl
  | cons y l ih =>
    have area : (Upd.apply s (.dr x)).layerArea c y = s.layerArea c y := rfl
    unfold State.fitting
    simp only [area, ih]

theorem rd_lt (s : State) (f : Fld) : s.rd f < 2 ^ f.width := Nat.mod_lt _ (by positivity)

theorem budgetRoom_lt (s : State) (c : Nat) : s.budgetRoom c < 2 ^ 32 := lt_of_le_of_lt (Nat.sub_le _ _) (rd_lt s DR_BUDGET_LIMIT)

/-! ## The registers and the state of a composition that begins -/

/-- The note of the first layer that was skipped. -/
def cutNote (c : Nat) : Option Nat → Act
  | some n => acts [setEvent DR_EVENT_CUT, ledger 0x2003 .draper warning (drPayload c n)]
  | none => skip

/-- What canvas `c`'s composition writes when it begins in `s` with the list of `entry` and with the layers, the cost and the skipped slot
`got`. -/
def admitComp (c : Nat) (entry : Option Nat) (list : Option DrList) (got : List LayerRun × Nat × Option Nat) (s : State) : Act := acts [
  updComp c fun x => { x with
    entry := entry, list := list, layers := got.1, cut := got.2.2.isSome, endsAt := s.now + s.compTime c got.1 },
  forN 4 fun t => holdIngest c t got.1,
  updDr fun d => { d with watch := (got.1.filter (·.layer.source == 0)).map (fun l => (c, l.layer.span.1, l.layer.span.2)) },
  wr (DR_CAN_COST c) got.2.1, budgetUsed, wr (DR_CAN_STAT_LAYERS c) got.1.length, wr (DR_CAN_STAT_CUT c) (b2n got.2.2.isSome),
  cutNote c got.2.2]

/-- The composition begins with the canvas's list in use, once that of `entry` has been adopted. -/
def beginComp (c : Nat) (entry : Option Nat) : Act := withS fun s =>
  let list := s.dr.adopted.get none c
  admitComp c entry list (s.fitting c (s.budgetRoom c) (((list.map (·.layers)).getD []).map (s.layerRun c))) s

/-- A composition of canvas `c` is under way, and its back half is no longer complete. -/
def enterComp (c : Nat) : Act := acts [
  updDr fun d => { d with written := d.written.set none c none }, updComp c fun x => { x with phase := .running }]

/-- The first in line begins (R94). -/
theorem compositionStart_first {s : State} {c : Nat} {k : Comp} {rest : List Comp} (hd : s.has .draper = true) (ho : s.dr.order = k :: rest)
    (hc : k.canvas = c) (hp : k.phase = .queued) :
    (compositionStart c).run s = drRefresh.run ((adopt c k.frame (beginComp c)).run ((enterComp c).run s)) := by
  have first : (k.canvas == c && k.phase == .queued && s.has .draper) = true := by rw [hc, hp, hd]; simp
  unfold compositionStart
  rw [run_withS, ho]
  dsimp only
  rw [first, run_whenDo, if_pos rfl, run_acts_cons, run_acts_cons, run_acts_cons, run_acts_cons, run_acts_nil]
  rfl

/-- Nothing begins while another is first in line. -/
theorem compositionStart_idle {s : State} {c : Nat} (h : ∀ k rest, s.dr.order = k :: rest → k.canvas ≠ c ∨ k.phase ≠ .queued) :
    (compositionStart c).run s = s := by
  unfold compositionStart
  rw [run_withS]
  split
  · rfl
  · next k rest ho =>
    have idle : (k.canvas == c && k.phase == .queued && s.has .draper) = false := by
      rcases h k rest ho with hne | hne <;> simp [hne]
    rw [idle]; rfl

/-! ## Everything stays within Draper's registers -/

/-- The update leaves everything outside Draper's registers alone. -/
abbrev ofDraper : Upd → Prop := inWindow 0x10100000 0x10110000

theorem updDr_inWindow {lo hi : Nat} {f : Dr → Dr} : Only (inWindow lo hi) (updDr f) := only_inWindow updDr_calm fun _ _ => updDr_spares

theorem setEvent_inWindow {lo hi : Nat} {f : Fld} (h : lo ≤ f.addr ∧ f.addr < hi) : Only (inWindow lo hi) (setEvent f) :=
  only_inWindow setEvent_calm fun _ ⟨hout, hs, _⟩ => setEvent_spares hs (by omega)

theorem only_drRefresh_ofDraper : Only ofDraper drRefresh := only_drRefresh.mono fun _ => draperReg_inWindow

theorem only_holdIngest {c t : Nat} (ht : t < 4) (layers : List LayerRun) : Only ofDraper (holdIngest c t layers) := by
  refine only_withS fun s => only_cons (only_whenDo (only_cons (only_whenDo (count_inWindow ?_)) (only_cons (wr_inWindow ?_)
    (only_cons (wr_inWindow ?_) (only_cons updDr_inWindow (only_nil _)))))) (only_cons updDr_inWindow (only_nil _))
  all_goals simp only [DR_ING_REPEAT, DR_ING_STAT_HELD, DR_ING_STAT_HELD_VALID]; omega

theorem only_cutNote (c : Nat) (n : Option Nat) : Only ofDraper (cutNote c n) := by
  cases n with
  | none => exact only_skip _
  | some n => exact only_cons (setEvent_inWindow (by decide)) (only_cons ledger_inWindow (only_nil _))

theorem only_admit {c : Nat} (hc : c < 4) (entry : Option Nat) (list : Option DrList) (got : List LayerRun × Nat × Option Nat) (s : State) :
    Only ofDraper (admitComp c entry list got s) := by
  refine only_cons updDr_inWindow (only_cons (only_forN 4 fun t ht => only_holdIngest ht _) (only_cons updDr_inWindow (only_cons (wr_inWindow ?_)
    (only_cons (only_withS fun _ => wr_inWindow (by decide)) (only_cons (wr_inWindow ?_) (only_cons (wr_inWindow ?_)
    (only_cons (only_cutNote _ _) (only_nil _))))))))
  all_goals simp only [DR_CAN_COST, DR_CAN_STAT_LAYERS, DR_CAN_STAT_CUT]; omega

theorem only_beginComp {c : Nat} (hc : c < 4) (entry : Option Nat) : Only ofDraper (beginComp c entry) :=
  only_withS fun s => only_admit hc _ _ _ s

theorem only_enterComp (c : Nat) : Only ofDraper (enterComp c) := only_cons updDr_inWindow (only_cons updDr_inWindow (only_nil _))

/-! ## What the beginning leaves of a field -/

/-- The fields that the beginning of a composition of canvas `c` writes, beside those of streams and events. -/
def admitFields (c : Nat) : List Fld := [DR_CAN_COST c, DR_BUDGET_USED, DR_CAN_STAT_LAYERS c, DR_CAN_STAT_CUT c]

section
variable {g : Fld}

theorem keeps_rd_holdIngest {c t : Nat} (hg : g.addr < 0x10100300) (layers : List LayerRun) : Keeps (·.rd g) (holdIngest c t layers) := by
  refine (only_withS fun s => only_cons (only_whenDo (only_cons (only_whenDo (count_spares ?_)) (only_cons (wr_spares ?_)
    (only_cons (wr_spares ?_) (only_cons updDr_spares (only_nil _)))))) (only_cons updDr_spares (only_nil _)) :
      Only (spares g.addr) _).keepsRd
  all_goals simp only [DR_ING_REPEAT, DR_ING_STAT_HELD, DR_ING_STAT_HELD_VALID]; omega

theorem keeps_rd_cutNote {c : Nat} (hq : quietReg g.addr) (he : DR_EVENT_CUT.addr ≠ g.addr) (n : Option Nat) : Keeps (·.rd g) (cutNote c n) := by
  obtain ⟨signal, -, event, lost⟩ := hq
  cases n with
  | none => exact keeps_skip
  | some n => exact (only_cons (setEvent_spares signal he) (only_cons (ledger_spares signal lost.symm event.symm) (only_nil _))).keepsRd

/-- A field of a canvas reads as before when it is none of those written. -/
theorem keeps_rd_admit {c : Nat} (hg : 0x10100100 ≤ g.addr ∧ g.addr < 0x10100300) (hf : ∀ f ∈ admitFields c, f.apart g) (entry : Option Nat)
    (list : Option DrList) (got : List LayerRun × Nat × Option Nat) (s : State) : Keeps (·.rd g) (admitComp c entry list got s) := by
  have written (f : Fld) (h : f ∈ admitFields c) (n : Nat) : Keeps (·.rd g) (wr f n) := keeps_rd_wr (hf f h)
  have event : DR_EVENT_CUT.addr ≠ g.addr := by simp only [DR_EVENT_CUT]; omega
  exact keeps_cons updDr_spares.keepsRd (keeps_cons (keeps_forN 4 fun t _ => keeps_rd_holdIngest hg.2 _) (keeps_cons updDr_spares.keepsRd
    (keeps_cons (written _ (by simp [admitFields]) _) (keeps_cons (keeps_withS fun _ => written _ (by simp [admitFields]) _)
    (keeps_cons (written _ (by simp [admitFields]) _) (keeps_cons (written _ (by simp [admitFields]) _)
    (keeps_cons (keeps_rd_cutNote (quietReg_draper (by omega)) event _) keeps_nil)))))))

theorem keeps_rd_beginComp {c : Nat} (hg : 0x10100100 ≤ g.addr ∧ g.addr < 0x10100300) (hf : ∀ f ∈ admitFields c, f.apart g) (entry : Option Nat) :
    Keeps (·.rd g) (beginComp c entry) := keeps_withS fun s => keeps_rd_admit hg hf _ _ _ s
end

/-! ## What the beginning leaves of the line and of the pictures -/

/-- The line, the lists in use and the pictures that stand complete. -/
def drLine (s : State) : List Comp × SMap (Option DrList) × SMap (Option Nat) := (s.dr.order, s.dr.adopted, s.dr.written)

theorem keeps_line_of_dr {x : Act} (h : Keeps State.dr x) : Keeps drLine x := fun s => by simp only [drLine, h s]

theorem keeps_line_holdIngest (c t : Nat) (layers : List LayerRun) : Keeps drLine (holdIngest c t layers) :=
  keeps_withS fun _ => keeps_cons (keeps_whenDo (keeps_cons (keeps_whenDo (keeps_withS fun _ => fun _ => rfl)) (keeps_cons (fun _ => rfl)
    (keeps_cons (fun _ => rfl) (keeps_cons (fun _ => rfl) keeps_nil))))) (keeps_cons (fun _ => rfl) keeps_nil)

theorem keeps_dr_cutNote (c : Nat) (n : Option Nat) : Keeps State.dr (cutNote c n) := by
  cases n with
  | none => exact keeps_skip
  | some n => exact fun s => ((only_cons setEvent_offstage (only_cons ledger_offstage (only_nil _))).offstage s).2.1

/-- Of the line, the beginning changes the canvas's own composition; the lists in use and the pictures stay. -/
theorem admit_line (c : Nat) (entry : Option Nat) (list : Option DrList) (got : List LayerRun × Nat × Option Nat) (s y : State) :
    drLine ((admitComp c entry list got s).run y) = (y.dr.order.map fun k => if k.canvas == c then { k with
      entry := entry, list := list, layers := got.1, cut := got.2.2.isSome, endsAt := s.now + s.compTime c got.1 } else k,
      y.dr.adopted, y.dr.written) := by
  have tail : Keeps drLine (acts [forN 4 fun t => holdIngest c t got.1,
      updDr fun d => { d with watch := (got.1.filter (·.layer.source == 0)).map (fun l => (c, l.layer.span.1, l.layer.span.2)) },
      wr (DR_CAN_COST c) got.2.1, budgetUsed, wr (DR_CAN_STAT_LAYERS c) got.1.length, wr (DR_CAN_STAT_CUT c) (b2n got.2.2.isSome),
      cutNote c got.2.2]) :=
    keeps_cons (keeps_forN 4 fun t _ => keeps_line_holdIngest c t _) (keeps_cons (fun _ => rfl) (keeps_cons (fun _ => rfl)
      (keeps_cons (keeps_withS fun _ => fun _ => rfl) (keeps_cons (fun _ => rfl) (keeps_cons (fun _ => rfl)
      (keeps_cons (keeps_line_of_dr (keeps_dr_cutNote c _)) keeps_nil))))))
  rw [admitComp, run_acts_cons]
  exact tail _

/-! ## What the registers show of it -/

theorem keeps_lg_holdIngest (c t : Nat) (layers : List LayerRun) : Keeps (·.lg) (holdIngest c t layers) :=
  keeps_withS fun _ => keeps_cons (keeps_whenDo (keeps_cons (keeps_whenDo (keeps_withS fun _ => fun _ => rfl)) (keeps_cons (fun _ => rfl)
    (keeps_cons (fun _ => rfl) (keeps_cons (fun _ => rfl) keeps_nil))))) (keeps_cons (fun _ => rfl) keeps_nil)

/-- The registers that the beginning writes last. -/
theorem admit_run (c : Nat) (entry : Option Nat) (list : Option DrList) (got : List LayerRun × Nat × Option Nat) (s y : State) :
    ∃ z, z.lg = y.lg ∧ (admitComp c entry list got s).run y = (cutNote c got.2.2).run ((wr (DR_CAN_STAT_CUT c) (b2n got.2.2.isSome)).run
      ((wr (DR_CAN_STAT_LAYERS c) got.1.length).run (budgetUsed.run ((wr (DR_CAN_COST c) got.2.1).run z)))) := by
  have streams : Keeps (·.lg) (forN 4 fun t => holdIngest c t got.1) := keeps_forN 4 fun t _ => keeps_lg_holdIngest c t _
  rw [admitComp, run_acts_cons, run_acts_cons, run_acts_cons, run_acts_cons, run_acts_cons, run_acts_cons, run_acts_cons, run_acts_cons,
    run_acts_nil]
  refine ⟨_, ?_, rfl⟩
  exact streams _

/-- COST, LAYERS and CUT show what was admitted, and a layer that was skipped is recorded (R96). -/
theorem admit_shows {c : Nat} (hc : c < 4) (entry : Option Nat) (list : Option DrList) {got : List LayerRun × Nat × Option Nat}
    (hcost : got.2.1 < 2 ^ 32) (s y : State) : let t := (admitComp c entry list got s).run y
    t.rd (DR_CAN_COST c) = got.2.1 ∧ t.rd (DR_CAN_STAT_LAYERS c) = got.1.length % 32 ∧ t.rd (DR_CAN_STAT_CUT c) = b2n got.2.2.isSome ∧
      (y.roomy → ∀ n, got.2.2 = some n → Logged t 0x2003 .draper warning (c * 2 ^ 24 + n % 2 ^ 24)) := by
  have quiet (a : Nat) (h : a = (DR_CAN_COST c).addr ∨ a = (DR_CAN_STAT_CUT c).addr) : quietReg a ∧ DR_EVENT_CUT.addr ≠ a := by
    simp only [DR_CAN_COST, DR_CAN_STAT_CUT] at h
    exact ⟨quietReg_draper (by omega), by simp only [DR_EVENT_CUT]; omega⟩
  obtain ⟨quietCost, costEvent⟩ := quiet _ (Or.inl rfl)
  obtain ⟨quietStat, statEvent⟩ := quiet _ (Or.inr rfl)
  obtain ⟨z, lg, run⟩ := admit_run c entry list got s y
  rw [run]
  refine ⟨?_, ?_, ?_, fun hr n hn => ?_⟩
  · have beside : Only (spares (DR_CAN_COST c).addr) (acts [budgetUsed, wr (DR_CAN_STAT_LAYERS c) got.1.length,
        wr (DR_CAN_STAT_CUT c) (b2n got.2.2.isSome)]) := by
      refine only_cons (only_withS fun _ => wr_spares ?_) (only_cons (wr_spares ?_) (only_cons (wr_spares ?_) (only_nil _))) <;>
        simp only [DR_CAN_COST, DR_BUDGET_USED, DR_CAN_STAT_LAYERS, DR_CAN_STAT_CUT] <;> omega
    have kept := beside.rd (DR_CAN_COST c) ((wr (DR_CAN_COST c) got.2.1).run z)
    rw [run_acts_cons, run_acts_cons, run_acts_cons, run_acts_nil] at kept
    exact (keeps_rd_cutNote quietCost costEvent _ _).trans (kept.trans
      (rd_run_wr_of (by simp [DR_CAN_COST]) (Nat.mod_eq_of_lt hcost)))
  · refine (keeps_rd_cutNote (g := DR_CAN_STAT_LAYERS c) quietStat statEvent _ _).trans ?_
    exact (rd_run_wr_word (f := DR_CAN_STAT_CUT c) (g := DR_CAN_STAT_LAYERS c) rfl rfl (by simp [DR_CAN_STAT_CUT, DR_CAN_STAT_LAYERS])).trans
      (rd_run_wr_same (by simp [DR_CAN_STAT_LAYERS]))
  · refine (keeps_rd_cutNote (g := DR_CAN_STAT_CUT c) quietStat statEvent _ _).trans ?_
    exact rd_run_wr_of (by simp [DR_CAN_STAT_CUT]) (by cases got.2.2 <;> rfl)
  · have payload : drPayload c n < 2 ^ 32 := by unfold drPayload; omega
    rw [hn, cutNote, run_acts_cons, run_acts_cons, run_acts_nil]
    exact logged_after_event (p := drPayload c n) hr lg payload

/-- A composition that begins shows itself: the canvas's fields, and DR_STATUS with the canvas that is first in line. -/
theorem admitted_refresh {c : Nat} (hc : c < 4) (t : State) : let u := drRefresh.run t
    u.rd (DR_CAN_COST c) = t.rd (DR_CAN_COST c) ∧ u.rd (DR_CAN_STAT_LAYERS c) = t.rd (DR_CAN_STAT_LAYERS c) ∧
      u.rd (DR_CAN_STAT_CUT c) = t.rd (DR_CAN_STAT_CUT c) ∧ u.lg = t.lg := by
  have beside : ∀ c : Fin 4, ∀ f ∈ refreshFields, f.apart (DR_CAN_COST c) ∧ f.apart (DR_CAN_STAT_LAYERS c) ∧ f.apart (DR_CAN_STAT_CUT c) := by
    unfold Fld.apart refreshFields; decide
  have beside := beside ⟨c, hc⟩
  exact ⟨keeps_rd_drRefresh (fun f hf => (beside f hf).1) t, keeps_rd_drRefresh (fun f hf => (beside f hf).2.1) t,
    keeps_rd_drRefresh (fun f hf => (beside f hf).2.2) t, only_drRefresh.keepsBeside (·.lg) (fun _ _ _ _ => rfl) t⟩

/-! ## The list in use (R91) -/

theorem ringBase_canvas {c : Nat} (hc : c < 4) (h : c < 16) : ringBase (.engine ⟨c, h⟩) = 0x10100108 + 0x80 * c := by
  simp [ringBase, hc]

theorem ringBase_scan {c : Nat} (hc : c < 4) (h : c % 4 < 16) : ringBase (.engine ⟨c % 4, h⟩) = 0x10100108 + 0x80 * c := by
  rw [ringBase_canvas (Nat.mod_lt _ (by decide)), Nat.mod_eq_of_lt hc]

/-- With its ring off, a canvas keeps the list that it has. -/
theorem adopt_off {s : State} {c : Nat} (hc : c < 4) (h : s.on (RING_CTRL_ENABLE (0x10100108 + 0x80 * c)) = false) (f : Nat) (k : Option Nat → Act) :
    (adopt c f k).run s = (k none).run s := by
  unfold adopt
  rw [run_withS]
  dsimp only
  rw [ringBase_scan hc, h, run_ite, if_pos (by decide)]

/-- `u` differs from `s` by reports of memory and by the register at `a` at most. -/
structure SameBut (a : Nat) (s u : State) : Prop where
  threads : u.threads = s.threads
  memory : SameMemory s u
  ts : u.ts = s.ts
  read : ∀ g : Fld, quietReg g.addr → g.addr ≠ a → u.rd g = s.rd g

section
variable {a : Nat} {s u : State}

theorem SameBut.refl (a : Nat) (s : State) : SameBut a s s := ⟨rfl, ⟨rfl, rfl, rfl⟩, rfl, fun _ _ _ => rfl⟩

theorem SameBut.touched (h : SameBut a s u) (p n : Nat) : SameBut a s (touched u p n) := by
  have after := afterFetch_touched u p n
  obtain ⟨mem, poison, flash⟩ := h.memory
  exact ⟨after.threads.trans h.threads, ⟨after.mem.trans mem, after.poison.trans poison, after.flash.trans flash⟩, after.ts.trans h.ts,
    fun g hq ha => (after.read g hq).trans (h.read g hq ha)⟩

theorem SameBut.wr {f : Fld} (h : SameBut f.addr s u) (n : Nat) : SameBut f.addr s ((wr f n).run u) :=
  ⟨h.threads, h.memory, h.ts, fun g hq ha => (rd_run_wr_ne ha).trans (h.read g hq ha)⟩

theorem SameBut.bytesAt (h : SameBut a s u) (p n : Nat) : u.bytesAt p n = s.bytesAt p n := by
  simp only [State.bytesAt, State.byteAt, h.memory.1]

theorem SameBut.extSize (h : SameBut a s u) (ha : TS_EXT_STATUS_USABLE.addr ≠ a) : u.extSize = s.extSize := by
  unfold State.extSize
  rw [h.read _ (quietReg_ext TS_EXT_STATUS_USABLE rfl) ha]

theorem SameBut.poisoned (h : SameBut a s u) (ha : TS_EXT_STATUS_PROTECT.addr ≠ a) (p n : Nat) : u.poisoned p n = s.poisoned p n := by
  have at_ (x : Nat) : u.poisonedAt x = s.poisonedAt x := by
    simp only [State.poisonedAt, State.excludedAt, State.on, h.ts, h.memory.2.1, h.read _ (quietReg_ext TS_EXT_STATUS_PROTECT rfl) ha]
  simp only [State.poisoned, funext at_]

theorem SameBut.extRange (h : SameBut a s u) (ha : TS_EXT_STATUS_USABLE.addr ≠ a) (p n : Nat) : u.extRange p n = s.extRange p n := by
  simp only [State.extRange, State.inExt, h.extSize ha]

theorem parseLayer_stream (bs : List Byte) : (parseLayer bs).stream < 4 := Nat.mod_lt _ (by decide)

/-- The check of a list does not see the difference. -/
theorem SameBut.validate (h : SameBut a s u) (ha : 0x10100100 ≤ a ∧ a < 0x10100300) (bs : List Byte) (p : Bool) :
    u.validate bs p = s.validate bs p := by
  have beside (g : Fld) (hq : quietReg g.addr) (hg : g.addr < 0x10100100 ∨ 0x10100300 ≤ g.addr) : u.rd g = s.rd g :=
    h.read g hq (by omega)
  have source : u.sourceLegal = s.sourceLegal := by
    funext l
    simp only [State.sourceLegal, h.extSize (show TS_EXT_STATUS_USABLE.addr ≠ a by simp only [TS_EXT_STATUS_USABLE]; omega)]
  have core : u.coreOn = s.coreOn := by
    funext c
    simp only [State.coreOn, State.unit, beside SYS_UNITS_WORD (by unfold quietReg reportReg; decide) (Or.inl (by decide))]
  have ingest (ds : List (List Byte)) : (ds.map parseLayer).findSome? u.ingestCheck = (ds.map parseLayer).findSome? s.ingestCheck := by
    rw [List.findSome?_map, List.findSome?_map]
    congr 1
    funext d
    have hs := parseLayer_stream d
    have stream (g : Fld) (hg : 0x10100300 ≤ g.addr ∧ g.addr < 0x10110000) : u.rd g = s.rd g :=
      beside g (quietReg_draper (by omega)) (Or.inr hg.1)
    unfold Function.comp State.ingestCheck State.on
    rw [stream (DR_ING_CFG_ENABLE (parseLayer d).stream) (by simp only [DR_ING_CFG_ENABLE]; omega),
      stream (DR_ING_GEOM_WIDTH (parseLayer d).stream) (by simp only [DR_ING_GEOM_WIDTH]; omega),
      stream (DR_ING_GEOM_HEIGHT (parseLayer d).stream) (by simp only [DR_ING_GEOM_HEIGHT]; omega)]
  simp only [State.validate, source, core, ingest]
end

/-- A list that lies whole in external memory is read: its header, and the descriptors that the header counts. -/
theorem withList_run {s : State} {l n : Nat} (ha : l % 64 = 0) (hn : n = min 16 (leAt (s.bytesAt l 64) 0 4 % 256))
    (he : s.extRange l (64 + 64 * n) = true) (f : Option (List Byte × Bool) → Act) : (withList l f).run s =
      (f (some (s.bytesAt l 64 ++ s.bytesAt (l + 64) (64 * n), s.poisoned l 64 || s.poisoned (l + 64) (64 * n)))).run
        (touched (touched s l 64) (l + 64) (64 * n)) := by
  have header : s.extRange l 64 = true := by
    simp only [State.extRange, Bool.and_eq_true, decide_eq_true_eq] at he ⊢
    exact ⟨he.1, by omega⟩
  have count : min 16 (bits (leAt (s.bytesAt l 64) 0 4) 7 0) = n := by rw [hn]; simp [bits]
  have after := afterFetch_touched s l 64
  unfold withList
  rw [run_withS, if_neg (by rw [header]; simpa using ha), withMem_run]
  dsimp only
  rw [count, if_neg (by rw [he]; decide), withMem_run, after.bytesAt, after.poisoned]

end Sys2Proof.Machine
end

section
/-!
PROOF. Draper's geometry commit, and how its compositions begin (R84, R91, R94, R96).
-/

namespace Sys2Proof.Machine

/-- The list `d` becomes the one in use on canvas `c`. -/
def takeList (c : Nat) (d : DrList) : Act := acts [
  wr (DR_CAN_STAT_LAST_RESULT c) Status.ok.code, wr (DR_CAN_STAT_ADOPTED c) 1, wr (DR_CAN_TAG c) d.tag,
  updDr fun x => { x with adopted := x.adopted.set none c (some d) }]

/-- The ring holds one entry whose NOW is 1, at `a`, with a list of `n` layers at `l` that is adopted as `d`. -/
structure OneList (s : State) (b a l n : Nat) (d : DrList) : Prop where
  on : s.on (RING_CTRL_ENABLE b) = true
  one : s.ringCount b = 1
  entry : a = s.ringEntry b (s.rd (RING_HEAD b))
  clean : s.poisoned a 32 = false
  now : leAt (s.bytesAt a 32) 0x10 4 % 2 = 1
  list : l = leAt (s.bytesAt a 32) 0 8 % 2 ^ 40
  aligned : l % 64 = 0
  size : n = min 16 (leAt (s.bytesAt l 64) 0 4 % 256)
  inExt : s.extRange l (64 + 64 * n) = true
  header : s.poisoned l 64 = false
  layers : s.poisoned (l + 64) (64 * n) = false
  valid : s.validate (s.bytesAt l 64 ++ s.bytesAt (l + 64) (64 * n)) false = (.ok, some d)

/-- The scan of a ring with one entry takes it. -/
theorem adoptScan_one {s : State} {c a l n : Nat} {d : DrList} (hc : c < 4) (h : OneList s (0x10100108 + 0x80 * c) a l n d) (f : Nat)
    (k : Option (Nat × Nat) → Act) :
    (adoptScan c f 1 none k).run s = (k (some (a, l))).run ((bump (RING_HEAD (0x10100108 + 0x80 * c)) 1).run (touched s a 32)) := by
  have now : bit (leAt (s.bytesAt a 32) 0x10 4) 0 = true := by simp [bit, h.now]
  have list : bits (leAt (s.bytesAt a 32) 0 8) 39 0 = l := by rw [h.list]; simp [bits]
  unfold adoptScan
  rw [run_withS]
  dsimp only
  rw [ringBase_scan hc, run_ite, if_neg (by rw [h.one]; decide), ← h.entry, withMem_run, h.clean, if_neg (by decide), now, if_neg (by simp), list,
    run_acts_cons, run_acts_cons, run_acts_cons, run_acts_nil, run_skip]
  rfl

/-- The list of the ring's one entry is adopted (R91). -/
theorem adopt_one {s : State} {c a l n : Nat} {d : DrList} (hc : c < 4) (h : OneList s (0x10100108 + 0x80 * c) a l n d) (f : Nat)
    (k : Option Nat → Act) : ∃ v, SameBut (RING_HEAD (0x10100108 + 0x80 * c)).addr s v ∧
      v.rd (RING_HEAD (0x10100108 + 0x80 * c)) = (s.rd (RING_HEAD (0x10100108 + 0x80 * c)) + 1) % 2 ^ 16 ∧
      (adopt c f k).run s = (k (some a)).run ((takeList c d).run v) := by
  have window : 0x10100100 ≤ (RING_HEAD (0x10100108 + 0x80 * c)).addr ∧ (RING_HEAD (0x10100108 + 0x80 * c)).addr < 0x10100300 := by
    simp only [RING_HEAD]; omega
  have quiet : quietReg (RING_HEAD (0x10100108 + 0x80 * c)).addr := quietReg_draper (by omega)
  have usable : TS_EXT_STATUS_USABLE.addr ≠ (RING_HEAD (0x10100108 + 0x80 * c)).addr := by simp only [TS_EXT_STATUS_USABLE]; omega
  have protect : TS_EXT_STATUS_PROTECT.addr ≠ (RING_HEAD (0x10100108 + 0x80 * c)).addr := by simp only [TS_EXT_STATUS_PROTECT]; omega
  have head : (touched s a 32).rd (RING_HEAD (0x10100108 + 0x80 * c)) = s.rd (RING_HEAD (0x10100108 + 0x80 * c)) :=
    (afterFetch_touched s a 32).read _ quiet
  have same := ((SameBut.refl (RING_HEAD (0x10100108 + 0x80 * c)).addr s).touched a 32).wr
    ((touched s a 32).rd (RING_HEAD (0x10100108 + 0x80 * c)) + 1)
  have scan := adoptScan_one hc h f
  rw [run_bump] at scan
  have next : ((wr (RING_HEAD (0x10100108 + 0x80 * c)) ((touched s a 32).rd (RING_HEAD (0x10100108 + 0x80 * c)) + 1)).run (touched s a 32)).rd
      (RING_HEAD (0x10100108 + 0x80 * c)) = (s.rd (RING_HEAD (0x10100108 + 0x80 * c)) + 1) % 2 ^ 16 := by
    rw [head]; exact rd_run_wr_same (by simp [RING_HEAD])
  generalize (wr (RING_HEAD (0x10100108 + 0x80 * c)) ((touched s a 32).rd (RING_HEAD (0x10100108 + 0x80 * c)) + 1)).run (touched s a 32) = y
    at same scan next
  have same' := (same.touched l 64).touched (l + 64) (64 * n)
  refine ⟨touched (touched y l 64) (l + 64) (64 * n), same', ?_, ?_⟩
  · exact ((afterFetch_touched y l 64).touched (l + 64) (64 * n)).read _ quiet |>.trans next
  · unfold adopt
    rw [run_withS]
    dsimp only
    rw [ringBase_scan hc, h.on, run_ite, if_neg (by decide), h.one, scan]
    dsimp only
    rw [withList_run (n := n) h.aligned (by rw [same.bytesAt]; exact h.size) (by rw [same.extRange usable]; exact h.inExt), run_withS]
    dsimp only
    rw [same.poisoned protect, same.poisoned protect, h.header, h.layers, same.bytesAt, same.bytesAt, Bool.or_false, same'.validate window, h.valid]
    dsimp only
    rw [run_acts_cons, run_acts_cons, run_acts_cons, run_acts_cons, run_acts_cons, run_acts_nil, takeList, run_acts_cons, run_acts_cons,
      run_acts_cons, run_acts_cons, run_acts_nil]

/-! ## The commit of the geometry (R84) -/

theorem execDrCommit_does {s : State} (hd : s.has .draper = true) {v : Word} (hv : v.getLsbD 0 = true) (w : Requester) :
    Does 0x10100000 0x10110000 (.drCommit w v) s fun t => t.on DR_STATUS_PENDING = true ∧ t.active = s.active := by
  have commit : (s.has .draper && bit v.toNat 0) = true := by
    rw [hd, Bool.true_and, bit, pow_zero, Nat.div_one, beq_iff_eq]
    simpa [BitVec.getLsbD, Nat.testBit, Nat.and_one_is_mod] using hv
  refine does_of (x := wr DR_STATUS_PENDING 1) ?_ (wr_inWindow (by decide)) ⟨?_, rfl⟩
  · show done (whenDo (s.has .draper && bit v.toNat 0) (wr DR_STATUS_PENDING 1)) s = _
    rw [commit]; rfl
  · rw [State.on, rd_run_wr_of (v := 1) (by decide) rfl]; rfl

theorem execDrCommit_idle {s : State} {v : Word} (h : s.has .draper = false ∨ v.getLsbD 0 = false) (w : Requester) :
    NoEffect (.drCommit w v) s := by
  have idle : (s.has .draper && bit v.toNat 0) = false := by
    rcases h with hd | hv
    · rw [hd]; rfl
    · rw [Bool.and_eq_false_iff]
      right
      rw [bit, pow_zero, Nat.div_one, beq_eq_false_iff_ne]
      simpa [BitVec.getLsbD, Nat.testBit, Nat.and_one_is_mod] using hv
  show done (whenDo (s.has .draper && bit v.toNat 0) (wr DR_STATUS_PENDING 1)) s = _
  rw [idle]; rfl

/-! ## A composition with the list in use (R93, R94, R96) -/

/-- The line and the pictures once the composition of `c` is under way. -/
theorem enterComp_line (c : Nat) (s : State) : drLine ((enterComp c).run s) =
    (s.dr.order.map fun k => if k.canvas == c then { k with phase := .running } else k, s.dr.adopted, s.dr.written.set none c none) := rfl

/-- What the layers of a list come to on canvas `c`: those admitted, their cost, and the slot that is skipped first. -/
def State.admitted (s : State) (c : Nat) (list : Option DrList) : List LayerRun × Nat × Option Nat :=
  s.fitting c (s.budgetRoom c) (((list.map (·.layers)).getD []).map (s.layerRun c))

theorem enterComp_run (c : Nat) (s : State) : ∃ x : Dr, x.adopted = s.dr.adopted ∧ (enterComp c).run s = Upd.apply s (.dr x) :=
  ⟨((enterComp c).run s).dr, rfl, rfl⟩

/-- Without a list from its ring the composition begins with the one in use. -/
theorem beginComp_enter (c : Nat) (s : State) : (beginComp c none).run ((enterComp c).run s) =
    (admitComp c none (s.dr.adopted.get none c) (s.admitted c (s.dr.adopted.get none c)) s).run ((enterComp c).run s) := by
  obtain ⟨x, same, enter⟩ := enterComp_run c s
  have adopted : (Upd.apply s (.dr x)).dr.adopted = s.dr.adopted := same
  rw [enter, beginComp, run_withS]
  dsimp only
  rw [fitting_dr, adopted]
  rfl

/-- A composition of the canvas that is first in line, whose ring is off, begins with the list in use. -/
theorem compositionStart_off {s : State} {c : Fin 4} {k : Comp} {rest : List Comp} (hd : s.has .draper = true) (ho : s.dr.order = k :: rest)
    (hc : k.canvas = c) (hp : k.phase = .queued) (hoff : s.on (RING_CTRL_ENABLE (0x10100108 + 0x80 * c)) = false) :
    let list := s.dr.adopted.get none c
    let got := s.admitted c list
    Does 0x10100000 0x10110000 (.compositionStart c) s fun t =>
      t.dr.order.head? = some { k with
          phase := .running, entry := none, list := list, layers := got.1, cut := got.2.2.isSome, endsAt := s.now + s.compTime c got.1 } ∧
      t.rd (DR_CAN_COST c) = got.2.1 ∧ t.rd (DR_CAN_STAT_LAYERS c) = got.1.length % 32 ∧ t.on (DR_CAN_STAT_CUT c) = got.2.2.isSome ∧
      t.dr.written.get none c = none ∧ t.on DR_STATUS_RUNNING = true ∧ t.rd DR_STATUS_ACTIVE = c ∧
      (s.roomy → ∀ x, got.2.2 = some x → Logged t 0x2003 .draper warning (c * 2 ^ 24 + x % 2 ^ 24)) := by
  intro list got
  have run : (compositionStart c).run s = (acts [enterComp c, admitComp c none list got s, drRefresh]).run s := by
    rw [compositionStart_first hd ho hc hp, adopt_off (s := (enterComp c).run s) c.isLt hoff, beginComp_enter, run_acts_cons, run_acts_cons, run_acts_cons, run_acts_nil]
  refine does_of (x := acts [enterComp c, admitComp c none list got s, drRefresh]) (congrArg Host.Outcome.next run)
    (only_cons (only_enterComp c) (only_cons (only_admit c.isLt _ _ _ s) (only_cons only_drRefresh_ofDraper (only_nil _)))) ?_
  have room : got.2.1 < 2 ^ 32 := lt_of_le_of_lt (fitting_cost_le _ _ _ _) (budgetRoom_lt s c)
  have line := admit_line c none list got s ((enterComp c).run s)
  obtain ⟨cost, layers, cut, record⟩ := admit_shows c.isLt none list room s ((enterComp c).run s)
  rw [run_acts_cons, run_acts_cons, run_acts_cons, run_acts_nil]
  generalize (admitComp c none list got s).run ((enterComp c).run s) = u at line cost layers cut record
  obtain ⟨cost', layers', cut', lg⟩ := admitted_refresh c.isLt u
  have order : u.dr.order = { k with
      phase := .running, entry := none, list := list, layers := got.1, cut := got.2.2.isSome, endsAt := s.now + s.compTime c got.1 } ::
        ((rest.map fun x => if x.canvas == c.val then { x with phase := .running } else x).map fun x => if x.canvas == c.val then { x with
          entry := none, list := list, layers := got.1, cut := got.2.2.isSome, endsAt := s.now + s.compTime c got.1 } else x) := by
    have first := congrArg Prod.fst line
    have entered := congrArg Prod.fst (enterComp_line c s)
    simp only [drLine] at first entered
    rw [first, entered, ho]
    simp only [List.map_cons, hc, beq_self_eq_true, if_true]
  have written : u.dr.written = s.dr.written.set none c none := congrArg (·.2.2) line
  obtain ⟨running, active⟩ := drRefresh_running (s := u) (by rw [order]; exact List.find?_cons_of_pos rfl)
  refine ⟨?_, cost'.trans cost, layers'.trans layers, ?_, ?_, running, ?_, fun hr x hx => ?_⟩
  · rw [drRefresh_dr, order]; rfl
  · rw [State.on, cut', cut]; cases got.2.2 <;> rfl
  · rw [drRefresh_dr, written, SMap.get_set_same]
  · rw [active]; exact (congrArg (· % 4) hc).trans (Nat.mod_eq_of_lt c.isLt)
  · unfold Logged
    rw [lg]
    exact record hr x hx

/-! ## A composition with the list of its ring (R91) -/

/-- Draper's own state is no part of what the ring holds. -/
theorem OneList.dr {s : State} {b a l n : Nat} {d : DrList} (h : OneList s b a l n d) (x : Dr) : OneList (Upd.apply s (.dr x)) b a l n d :=
  ⟨h.on, h.one, h.entry, h.clean, h.now, h.list, h.aligned, h.size, h.inExt, h.header, h.layers, h.valid⟩

theorem only_takeList {c : Nat} (hc : c < 4) (d : DrList) : Only ofDraper (takeList c d) := by
  refine only_cons (wr_inWindow ?_) (only_cons (wr_inWindow ?_) (only_cons (wr_inWindow ?_) (only_cons updDr_inWindow (only_nil _))))
  all_goals simp only [DR_CAN_STAT_LAST_RESULT, DR_CAN_STAT_ADOPTED, DR_CAN_TAG]; omega

/-- What the adoption of a list shows. -/
theorem takeList_shows (c : Nat) (d : DrList) (v : State) : let t := (takeList c d).run v
    t.dr.adopted.get none c = some d ∧ t.rd (DR_CAN_TAG c) = d.tag % 2 ^ 32 ∧ t.rd (DR_CAN_STAT_ADOPTED c) = 1 ∧
      t.rd (DR_CAN_STAT_LAST_RESULT c) = 0 ∧ t.rd (RING_HEAD (0x10100108 + 0x80 * c)) = v.rd (RING_HEAD (0x10100108 + 0x80 * c)) := by
  have beside (f : Fld) (h : f = DR_CAN_STAT_ADOPTED c ∨ f = DR_CAN_STAT_LAST_RESULT c) : (DR_CAN_TAG c).apart f := by
    refine Or.inl ?_
    rcases h with rfl | rfl <;> simp only [DR_CAN_TAG, DR_CAN_STAT_ADOPTED, DR_CAN_STAT_LAST_RESULT] <;> omega
  have head : Only (spares (RING_HEAD (0x10100108 + 0x80 * c)).addr) (takeList c d) := by
    refine only_cons (wr_spares ?_) (only_cons (wr_spares ?_) (only_cons (wr_spares ?_) (only_cons updDr_spares (only_nil _))))
    all_goals simp only [DR_CAN_STAT_LAST_RESULT, DR_CAN_STAT_ADOPTED, DR_CAN_TAG, RING_HEAD]; omega
  have kept := head.rd (RING_HEAD (0x10100108 + 0x80 * c)) v
  rw [takeList, run_acts_cons, run_acts_cons, run_acts_cons, run_acts_cons, run_acts_nil] at kept ⊢
  refine ⟨SMap.get_set_same none v.dr.adopted c (some d), ?_, ?_, ?_, kept⟩
  · exact (updDr_spares.rd (DR_CAN_TAG c) _).trans (rd_run_wr_same (by simp [DR_CAN_TAG]))
  · exact (updDr_spares.rd (DR_CAN_STAT_ADOPTED c) _).trans ((keeps_rd_wr (beside _ (Or.inl rfl)) _).trans (rd_run_wr_of (by simp [DR_CAN_STAT_ADOPTED]) rfl))
  · exact (updDr_spares.rd (DR_CAN_STAT_LAST_RESULT c) _).trans ((keeps_rd_wr (beside _ (Or.inr rfl)) _).trans
      ((rd_run_wr_word (f := DR_CAN_STAT_ADOPTED c) (g := DR_CAN_STAT_LAST_RESULT c) rfl rfl
        (by simp [DR_CAN_STAT_ADOPTED, DR_CAN_STAT_LAST_RESULT])).trans (rd_run_wr_of (by simp [DR_CAN_STAT_LAST_RESULT]) rfl)))

/-- The rest of the beginning keeps what the adoption shows. -/
theorem begun_keeps (c : Fin 4) (entry : Option Nat) (u : State) : let t := drRefresh.run ((beginComp c entry).run u)
    t.dr.adopted = u.dr.adopted ∧ t.rd (DR_CAN_TAG c) = u.rd (DR_CAN_TAG c) ∧ t.rd (DR_CAN_STAT_ADOPTED c) = u.rd (DR_CAN_STAT_ADOPTED c) ∧
      t.rd (DR_CAN_STAT_LAST_RESULT c) = u.rd (DR_CAN_STAT_LAST_RESULT c) ∧
      t.rd (RING_HEAD (0x10100108 + 0x80 * c)) = u.rd (RING_HEAD (0x10100108 + 0x80 * c)) := by
  have beside : ∀ c : Fin 4, ∀ g ∈ [DR_CAN_TAG c, DR_CAN_STAT_ADOPTED c, DR_CAN_STAT_LAST_RESULT c, RING_HEAD (0x10100108 + 0x80 * c)],
      (0x10100100 ≤ g.addr ∧ g.addr < 0x10100300) ∧ (∀ f ∈ admitFields c, f.apart g) ∧ ∀ f ∈ refreshFields, f.apart g := by
    unfold Fld.apart admitFields refreshFields; decide
  have kept (g : Fld) (hg : g ∈ [DR_CAN_TAG c, DR_CAN_STAT_ADOPTED c, DR_CAN_STAT_LAST_RESULT c, RING_HEAD (0x10100108 + 0x80 * c)]) :
      (drRefresh.run ((beginComp c entry).run u)).rd g = u.rd g := by
    obtain ⟨window, admitComp, refresh⟩ := beside c g hg
    exact (keeps_rd_drRefresh refresh _).trans (keeps_rd_beginComp window admitComp entry u)
  refine ⟨?_, kept _ (by simp), kept _ (by simp), kept _ (by simp), kept _ (by simp)⟩
  rw [drRefresh_dr, beginComp, run_withS]
  exact congrArg (·.2.1) (admit_line c entry _ _ u u)

/-- A composition of the canvas that is first in line adopts the list of its ring's one entry. -/
theorem compositionStart_one {s : State} {c : Fin 4} {k : Comp} {rest : List Comp} {a l n : Nat} {d : DrList} (hd : s.has .draper = true)
    (ho : s.dr.order = k :: rest) (hc : k.canvas = c) (hp : k.phase = .queued) (h : OneList s (0x10100108 + 0x80 * c) a l n d) :
    Completes (.compositionStart c) s fun t =>
      t.rd (RING_HEAD (0x10100108 + 0x80 * c)) = (s.rd (RING_HEAD (0x10100108 + 0x80 * c)) + 1) % 2 ^ 16 ∧ t.dr.adopted.get none c = some d ∧
      t.rd (DR_CAN_TAG c) = d.tag % 2 ^ 32 ∧ t.on (DR_CAN_STAT_ADOPTED c) = true ∧ t.rd (DR_CAN_STAT_LAST_RESULT c) = 0 ∧
      SameMemory s t ∧ t.threads = s.threads := by
  obtain ⟨x, -, enter⟩ := enterComp_run c s
  obtain ⟨v, same, next, run⟩ := adopt_one c.isLt (h.dr x) k.frame (beginComp c)
  obtain ⟨list, tag, adopted, result, head⟩ := takeList_shows c d v
  obtain ⟨list', tag', adopted', result', head'⟩ := begun_keeps c (some a) ((takeList c d).run v)
  have calm : Only calm (acts [takeList c d, beginComp c (some a), drRefresh]) :=
    (only_cons (only_takeList c.isLt d) (only_cons (only_beginComp c.isLt _) (only_cons only_drRefresh_ofDraper (only_nil _))) :
      Only ofDraper _).mono fun _ hu => hu.1
  obtain ⟨threads, mem, poison, flash⟩ := calm.calm v
  rw [run_acts_cons, run_acts_cons, run_acts_cons, run_acts_nil] at threads mem poison flash
  refine ⟨_, congrArg Host.Outcome.next (compositionStart_first hd ho hc hp), ?_⟩
  rw [enter, run]
  refine ⟨head'.trans (head.trans next), (congrArg (·.get none c.val) list').trans list, tag'.trans tag, ?_, result'.trans result,
    ⟨mem.trans same.memory.1, poison.trans same.memory.2.1, flash.trans same.memory.2.2⟩, threads.trans same.threads⟩
  rw [State.on, adopted', adopted]; rfl

end Sys2Proof.Machine
end

section
/-!
PROOF. How Draper's compositions end: the pixels in the back half of Bolt, and READ and DONE at the frame (R97, R98, R106, R135, R137).
-/

namespace Sys2Proof.Machine

/-! ## Draper's writes of memory (R83, R416) -/

/-- Draper's own writes are not late (R108). -/
theorem watchWrite_draper (a n : Nat) (s : State) : (watchWrite .draper a n).run s = s := by
  unfold watchWrite
  rw [run_withS]
  split <;> rfl

theorem memWriteFor_draper {s : State} {a : Nat} {d : List Byte} (h : s.writable .draper a d.length) :
    (memWriteFor .draper a d).run s = (memWrite a d).run s := by
  obtain ⟨may, words⟩ := h
  have all : ((List.range d.length).all fun i => s.mayWrite .draper (a + i)) = true := by simpa using may
  have unlocked : ((wordsOf a d.length).filter fun x => !s.ctxLocked x) = wordsOf a d.length :=
    List.filter_eq_self.2 fun x hx => by rw [(words x hx).2]; rfl
  have noneLocked : (wordsOf a d.length).any s.ctxLocked = false := by
    rw [List.any_eq_false]
    intro x hx
    rw [(words x hx).2]; decide
  rw [memWriteFor, run_withS, if_pos all]
  dsimp only
  rw [unlocked, noneLocked, run_acts_cons, run_acts_cons, run_acts_cons, run_acts_nil, run_whenDo, watchWrite_draper, ite_self]
  rfl

theorem wordsOf_le {a n x : Nat} (h : x ∈ wordsOf a n) : x < a + n := by
  unfold wordsOf at h
  split at h
  · simp at h
  · obtain ⟨i, hi, rfl⟩ := List.mem_map.1 h
    have := List.mem_range.1 hi
    omega

/-- With no row excluded, Draper may write anywhere in Bolt. -/
theorem writable_bolt {s : State} (h : s.ts.excluded = []) {a n : Nat} (ha : a + n ≤ 0x3000000) : s.writable .draper a n := by
  refine ⟨fun i hi => ?_, fun x hx => ⟨?_, ?_⟩⟩
  · have stock : inStock (a + i) = true := by simp only [inStock, decide_eq_true_eq]; omega
    have tile : inTile (a + i) = false := by simp only [inTile, decide_eq_false_iff_not]; omega
    have ring : inRing (a + i) = false := by simp only [inRing, decide_eq_false_iff_not]; omega
    simp [State.mayWrite, State.mayRead, State.inMem, stock, tile, ring]
  · simp [State.excludedAt, h]
  · have hx := wordsOf_le hx
    have none : ctxThread x = none := if_neg (by omega)
    simp [State.ctxLocked, none]

/-- A write of words of which none is excluded excludes none. -/
theorem memWrite_excluded {s : State} (h : s.ts.excluded = []) (a : Nat) (d : List Byte) : ((memWrite a d).run s).ts.excluded = [] := by
  refine run_forEach_induct (P := fun t => t.ts.excluded = []) _ _ s h fun w _ t ht => ?_
  have ts := (writeWord_leaves (s := t) (w := w) a d (by simp [State.excludedAt, ht])).2.1
  rw [ts]; exact ht

/-- Draper's writes of the pieces of a picture `f` in Bolt leave the picture where there is a piece, and all other bytes as they were. -/
theorem byteAt_pieces {α : Type} (l : List α) (addr : α → Nat) (data : α → List Byte) (f : Nat → Byte) {s : State} (h : s.ts.excluded = [])
    (hb : ∀ e ∈ l, addr e + (data e).length ≤ 0x3000000) (hf : ∀ e ∈ l, ∀ i < (data e).length, (data e).getD i 0 = f (addr e + i)) (x : Nat) :
    ((forEach l fun e => memWriteFor .draper (addr e) (data e)).run s).byteAt x =
      if ∃ e ∈ l, addr e ≤ x ∧ x < addr e + (data e).length then f x else s.byteAt x := by
  induction l generalizing s with
  | nil => simp
  | cons e l ih =>
    have may := writable_bolt h (hb e (by simp))
    have piece := memWrite_bytes (fun w hw => (may.2 w hw).1) x
    rw [run_forEach_cons, memWriteFor_draper may, ih (memWrite_excluded h _ _) (fun y hy => hb y (by simp [hy])) fun y hy => hf y (by simp [hy]), piece]
    by_cases here : addr e ≤ x ∧ x < addr e + (data e).length
    · have value := hf e (by simp) (x - addr e) (by omega)
      rw [show addr e + (x - addr e) = x by omega] at value
      rw [if_pos here, value]
      simp [here]
    · simp [here]

/-! ## The picture of a composition (R83, R98) -/

theorem rgb_bytes_length (p : Rgb) : p.bytes.length = 6 := by simp [Rgb.bytes, leBytes_length]

/-- The bytes of a picture `w` pixels wide, counted from its first. -/
def pictureByte (w : Nat) (p : Nat → Nat → Rgb) (n : Nat) : Byte := (p (n / 6 % w) (n / 6 / w)).bytes.getD (n % 6) 0

theorem pictureByte_pixel {w x : Nat} (hx : x < w) (p : Nat → Nat → Rgb) (y : Nat) {i : Nat} (hi : i < 6) :
    pictureByte w p (6 * (y * w + x) + i) = (p x y).bytes.getD i 0 := by
  have pixel : (6 * (y * w + x) + i) / 6 = y * w + x := by omega
  have column : (y * w + x) % w = x := by rw [Nat.add_comm, Nat.add_mul_mod_self_right, Nat.mod_eq_of_lt hx]
  have row : (y * w + x) / w = y := by
    rw [Nat.add_comm, Nat.add_mul_div_right _ _ (Nat.zero_lt_of_lt hx), Nat.div_eq_of_lt hx, Nat.zero_add]
  have byte : (6 * (y * w + x) + i) % 6 = i := by omega
  rw [pictureByte, pixel, column, row, byte]

theorem pixel_lt {w h x y : Nat} (hx : x < w) (hy : y < h) : y * w + x < w * h := by
  have := Nat.mul_le_mul_right w (Nat.succ_le_of_lt hy)
  rw [Nat.succ_mul, Nat.mul_comm h w] at this
  omega

theorem mem_composed {s : State} {k : Comp} {x y : Nat} {v : Rgb} : (x, y, v) ∈ s.composed k ↔
    (x < s.canW k.canvas ∧ y < s.canH k.canvas) ∧ v = s.composedPixel k x y := by
  simp only [State.composed, List.mem_flatMap, List.mem_map, List.mem_range, Prod.mk.injEq]
  constructor
  · rintro ⟨y, hy, x, hx, rfl, rfl, rfl⟩
    exact ⟨⟨hx, hy⟩, rfl⟩
  · rintro ⟨⟨hx, hy⟩, rfl⟩
    exact ⟨y, hy, x, hx, rfl, rfl, rfl⟩

/-- The reads of a composition that ends, and its picture's way to the back half of Bolt. -/
def storePicture (s : State) (c : Nat) (k : Comp) : Act := acts [
  forEach (k.sourceWords ++ s.mapWords c) touchWord,
  forEach (s.composed k) fun e => memWriteFor .draper (s.boltAddr (1 - s.frontHalf c) c e.1 e.2.1) e.2.2.bytes]

theorem storePicture_offstage (s : State) (c : Nat) (k : Comp) : Only offstage (storePicture s c k) :=
  only_cons (only_forEach _ fun _ _ => touchWord_offstage) (only_cons (only_forEach _ fun _ _ => memWriteFor_offstage) (only_nil _))

/-- With no row excluded, and the canvas within its half, the back half holds the picture, and every other byte is as before. -/
theorem storePicture_bytes {s : State} {k : Comp} (hx : s.ts.excluded = [])
    (hb : s.rdA (DR_CAN_BASE k.canvas) + 6 * (s.canW k.canvas * s.canH k.canvas) ≤ 0x1800000) :
    let t := (storePicture s k.canvas k).run s
    let half := 1 - s.frontHalf k.canvas
    let lo := half * 0x1800000 + s.rdA (DR_CAN_BASE k.canvas)
    (∀ x y, x < s.canW k.canvas → y < s.canH k.canvas → t.bytesAt (s.boltAddr half k.canvas x y) 6 = (s.composedPixel k x y).bytes) ∧
      ∀ a, a < lo ∨ lo + 6 * (s.canW k.canvas * s.canH k.canvas) ≤ a → t.byteAt a = s.byteAt a := by
  intro t half lo
  obtain ⟨u, hu⟩ : ∃ u, u = (forEach (k.sourceWords ++ s.mapWords k.canvas) touchWord).run s := ⟨_, rfl⟩
  have excluded : u.ts.excluded = [] := by
    rw [hu]
    exact run_forEach_induct (P := fun t => t.ts.excluded = []) _ _ s hx fun a _ t ht => by rw [(touchWord_keeps a t).2.2]; exact ht
  have mem : u.mem = s.mem := by
    rw [hu]
    exact run_forEach_induct (P := fun t => t.mem = s.mem) _ _ s rfl fun a _ t ht => (touchWord_keeps a t).1.trans ht
  have half_le : half ≤ 1 := Nat.sub_le _ _
  have place (x y : Nat) : s.boltAddr half k.canvas x y = lo + 6 * (y * s.canW k.canvas + x) := rfl
  have pieces := byteAt_pieces (s.composed k) (fun e => s.boltAddr half k.canvas e.1 e.2.1) (fun e => e.2.2.bytes)
    (fun a => pictureByte (s.canW k.canvas) (s.composedPixel k) (a - lo)) excluded
    (fun ⟨x, y, v⟩ he => by
      obtain ⟨⟨hx, hy⟩, -⟩ := mem_composed.1 he
      have := pixel_lt hx hy
      simp only [place, rgb_bytes_length]
      omega)
    (fun ⟨x, y, v⟩ he i hi => by
      obtain ⟨⟨hx, -⟩, rfl⟩ := mem_composed.1 he
      rw [rgb_bytes_length] at hi
      simp only [place, Nat.add_assoc, Nat.add_sub_cancel_left]
      exact (pictureByte_pixel hx _ y hi).symm)
  have run : t = (forEach (s.composed k) fun e => memWriteFor .draper (s.boltAddr half k.canvas e.1 e.2.1) e.2.2.bytes).run u := by
    rw [hu]
    show (storePicture s k.canvas k).run s = _
    rw [storePicture, run_acts_cons, run_acts_cons, run_acts_nil]
  refine ⟨fun x y hx hy => List.ext_getElem (by simp [State.bytesAt, rgb_bytes_length]) fun i h1 h2 => ?_, fun a ha => ?_⟩
  · have hi : i < 6 := rgb_bytes_length _ ▸ h2
    have covered : ∃ e ∈ s.composed k, s.boltAddr half k.canvas e.1 e.2.1 ≤ s.boltAddr half k.canvas x y + i ∧
        s.boltAddr half k.canvas x y + i < s.boltAddr half k.canvas e.1 e.2.1 + e.2.2.bytes.length :=
      ⟨(x, y, s.composedPixel k x y), mem_composed.2 ⟨⟨hx, hy⟩, rfl⟩, Nat.le_add_right _ _, by rw [rgb_bytes_length]; exact Nat.add_lt_add_left hi _⟩
    simp only [State.bytesAt, List.getElem_map, List.getElem_range]
    rw [run, pieces, if_pos covered, place, Nat.add_assoc, Nat.add_sub_cancel_left, pictureByte_pixel hx _ y hi, List.getD_eq_getElem]
  · have outside : ¬ ∃ e ∈ s.composed k, s.boltAddr half k.canvas e.1 e.2.1 ≤ a ∧ a < s.boltAddr half k.canvas e.1 e.2.1 + e.2.2.bytes.length := by
      rintro ⟨⟨x, y, v⟩, he, h1, h2⟩
      obtain ⟨⟨hx, hy⟩, -⟩ := mem_composed.1 he
      have := pixel_lt hx hy
      simp only [place, rgb_bytes_length] at h1 h2
      omega
    rw [run, pieces, if_neg outside, State.byteAt, mem]
    rfl

/-! ## The end of a composition (R106, R135, R137) -/

theorem run_acts_append (as bs : List Act) (s : State) : (acts (as ++ bs)).run s = (acts bs).run ((acts as).run s) := by
  induction as generalizing s with
  | nil => rfl
  | cons a as ih => rw [List.cons_append, run_acts_cons, run_acts_cons, ih]

/-- Canvas `c` has the picture of frame `f`, and its slack is what is left of the frame. -/
def noteWritten (c f : Nat) : List Act := [
  updDr fun d => { d with written := d.written.set none c (some f), watch := [] },
  withS fun s => wr (DR_CAN_SLACK c) (satSigned 32 (s.unitsToTicks ((frameUnits - s.ys.pos % frameUnits : Nat) : Int) 1))]

/-- What is counted and reported of `bad` poisoned words in the sources of a picture, and its sums for Purse. -/
def notePicture (s : State) (c : Nat) (k : Comp) (bad : Nat) : List Act := [
  wr (DR_CAN_STAT_POISON c) (b2n (decide (0 < bad))),
  whenDo (decide (0 < bad)) (acts [count DR_POISON bad, setEvent DR_EVENT_POISON,
    ledger 0x2004 .draper warning (drPayload c (min bad (2 ^ 24 - 1)))]),
  clearSums c,
  updTl fun t => { t with sums := (s.composed k).foldl (fun m e => s.predictPixel c e.1 e.2.1 e.2.2 m) t.sums }]

/-- The picture of a composition is noted, Purse computes, and the canvas is complete. -/
def completePicture (s : State) (c : Nat) (k : Comp) (bad : Nat) : Act :=
  acts (notePicture s c k bad ++ recompute :: noteWritten c k.frame)

theorem completePicture_calm (s : State) (c : Nat) (k : Comp) (bad : Nat) : Only calm (completePicture s c k bad) :=
  only_cons wr_calm (only_cons (only_whenDo (only_cons count_calm (only_cons setEvent_calm (only_cons ledger_calm (only_nil _)))))
    (only_cons updTl_calm (only_cons updTl_calm (only_cons (only_withS fun _ => updTl_calm) (only_cons updDr_calm
    (only_cons (only_withS fun _ => wr_calm) (only_nil _)))))))

theorem dr_run_updDr (f : Dr → Dr) (y : State) : ((updDr f).run y).dr = f y.dr := rfl
theorem tl_run_updDr (f : Dr → Dr) (y : State) : ((updDr f).run y).tl = y.tl := rfl
theorem tl_run_updTl (f : Tl → Tl) (y : State) : ((updTl f).run y).tl = f y.tl := rfl

theorem recompute_running (y : State) : (recompute.run y).tl.running = true := by
  rw [recompute, run_withS, tl_run_updTl]

theorem noteWritten_run (c f : Nat) (y : State) :
    ((acts (noteWritten c f)).run y).dr.written.get none c = some f ∧ ((acts (noteWritten c f)).run y).tl = y.tl := by
  have slack : Only offstage (withS fun s => wr (DR_CAN_SLACK c)
      (satSigned 32 (s.unitsToTicks ((frameUnits - s.ys.pos % frameUnits : Nat) : Int) 1))) := only_withS fun _ => wr_offstage
  obtain ⟨-, dr, tl⟩ := slack.offstage ((updDr fun d => { d with written := d.written.set none c (some f), watch := [] }).run y)
  rw [noteWritten, run_acts_cons, run_acts_cons, run_acts_nil, dr, tl, dr_run_updDr, tl_run_updDr]
  exact ⟨SMap.get_set_same none _ c (some f), rfl⟩

theorem completePicture_run (s : State) (c : Nat) (k : Comp) (bad : Nat) (y : State) :
    ((completePicture s c k bad).run y).dr.written.get none c = some k.frame ∧ ((completePicture s c k bad).run y).tl.running = true := by
  rw [completePicture, run_acts_append, run_acts_cons]
  obtain ⟨written, tl⟩ := noteWritten_run c k.frame (recompute.run ((acts (notePicture s c k bad)).run y))
  rw [tl]
  exact ⟨written, recompute_running _⟩

/-- The composition of canvas `c` that has had its time ends. -/
theorem compositionEnd_run {s : State} {c : Nat} {k : Comp}
    (h : (s.dr.order.find? fun x => x.canvas == c && x.phase == .running && decide (x.endsAt ≤ s.now)) = some k) :
    let bad := (k.sourceWords.filter s.poisonedAt).length
    (compositionEnd c).run s = drRefresh.run ((compDone k).run ((compCompletion k (b2n (decide (0 < bad)) * flagPoison) .ok).run
      ((readRetires k).run ((completePicture s c k bad).run ((storePicture s c k).run s))))) := by
  intro bad
  have tail (y : State) : drRefresh.run ((compDone k).run ((compCompletion k (b2n (decide (0 < bad)) * flagPoison) .ok).run
      ((readRetires k).run y))) = (acts [readRetires k, compCompletion k (b2n (decide (0 < bad)) * flagPoison) .ok, compDone k, drRefresh]).run y := by
    rw [run_acts_cons, run_acts_cons, run_acts_cons, run_acts_cons, run_acts_nil]
  rw [tail, storePicture, completePicture, ← run_acts_append, ← run_acts_append]
  unfold compositionEnd
  rw [run_withS, h]
  rfl

theorem compositionEnd_idle {s : State} {c : Nat}
    (h : (s.dr.order.find? fun x => x.canvas == c && x.phase == .running && decide (x.endsAt ≤ s.now)) = none) :
    (compositionEnd c).run s = s := by
  unfold compositionEnd
  rw [run_withS, h]
  rfl

theorem readsBack_run {s : State} {c : Nat} {k : Comp} (h : (s.dr.order.find? fun x => x.canvas == c && x.phase == .draining) = some k) :
    (readsBack c).run s = drRefresh.run ((compDone k).run ((readRetires k).run s)) := by
  unfold readsBack
  rw [run_withS, h]
  dsimp only
  rw [run_acts_cons, run_acts_cons, run_acts_cons, run_acts_nil]

theorem readsBack_idle {s : State} {c : Nat} (h : (s.dr.order.find? fun x => x.canvas == c && x.phase == .draining) = none) :
    (readsBack c).run s = s := by
  unfold readsBack
  rw [run_withS, h]
  rfl

/-- READ and DONE are at the frame of the composition, which is out of the line, and no thread has changed. -/
def Ended (s t : State) (c : Fin 4) (k : Comp) : Prop :=
  t.rd (DR_CAN_DONE c) = k.frame % 2 ^ 32 ∧ t.rd (DR_CAN_READ c) = k.frame % 2 ^ 32 ∧ t.threads = s.threads ∧
    ∀ x ∈ t.dr.order, x.canvas ≠ c ∨ x.frame ≠ k.frame

theorem Retired.ended {k : Comp} {s y t : State} {c : Fin 4} (h : Retired k y t) (hc : k.canvas = c) (hy : y.threads = s.threads) :
    Ended s t c k := by
  refine ⟨?_, ?_, h.threads.trans hy, ?_⟩
  · rw [← hc]; exact h.done
  · rw [← hc]; exact h.read
  · rw [← hc]; exact h.line

/-- The reads of an abandoned composition have returned (R97). -/
theorem readsReturned_ends {s : State} {c : Fin 4} {k : Comp}
    (h : (s.dr.order.find? fun x => x.canvas == c.val && x.phase == .draining) = some k) :
    Completes (.readsReturned c) s fun t => Ended s t c k ∧ SameMemory s t := by
  have hc : k.canvas = c := by
    have := List.find?_some h
    simp only [Bool.and_eq_true, beq_iff_eq] at this
    exact this.1
  have calm : Only calm (acts [readRetires k, compDone k, drRefresh]) := only_cons (readRetires_calm k) (only_cons (compDone_calm k)
    (only_cons (only_drRefresh_ofDraper.mono fun _ hu => hu.1) (only_nil _)))
  have memory := (calm.calm s).2
  have retired := retired_run (k := k) (by omega) (only_skip _) (only_skip _) s
  rw [run_acts_cons, run_acts_cons, run_acts_cons, run_acts_nil] at memory
  refine ⟨_, congrArg Host.Outcome.next (readsBack_run h), retired.ended hc rfl, memory⟩

section
variable {s : State} {c : Fin 4} {k : Comp}
  (h : (s.dr.order.find? fun x => x.canvas == c.val && x.phase == .running && decide (x.endsAt ≤ s.now)) = some k)
include h

theorem running_canvas : k.canvas = c := by
  have := List.find?_some h
  simp only [Bool.and_eq_true, beq_iff_eq] at this
  exact this.1.1

/-- A composition that ends leaves its canvas complete, Purse at work, and READ and DONE at its frame (R106, R137). -/
theorem compositionEnd_ends : Completes (.compositionEnd c) s fun t =>
    Ended s t c k ∧ t.dr.written.get none c = some k.frame ∧ t.tl.running = true := by
  have hc := running_canvas h
  have lt : k.canvas < 4 := by omega
  obtain ⟨threads, -⟩ := (storePicture_offstage s c k).offstage s
  have noted := (completePicture_calm s c k (k.sourceWords.filter s.poisonedAt).length).calm ((storePicture s c k).run s)
  obtain ⟨written, running⟩ := completePicture_run s c k (k.sourceWords.filter s.poisonedAt).length ((storePicture s c k).run s)
  have retired := retired_run lt (compCompletion_offstage k (b2n (decide (0 < (k.sourceWords.filter s.poisonedAt).length)) * flagPoison) .ok)
    (compCompletion_spares_read lt _ _) ((completePicture s c k (k.sourceWords.filter s.poisonedAt).length).run ((storePicture s c k).run s))
  refine ⟨_, congrArg Host.Outcome.next (compositionEnd_run h), retired.ended hc (noted.1.trans threads), ?_, ?_⟩
  · rw [retired.written]; exact written
  · rw [retired.tl]; exact running

/-- Of a composition without an entry, memory shows the picture in the back half and nothing else (R83, R98). -/
theorem compositionEnd_picture (he : k.entry = none) (hx : s.ts.excluded = [])
    (hb : s.rdA (DR_CAN_BASE c) + 6 * (s.canW c * s.canH c) ≤ 0x1800000) :
    let half := 1 - s.frontHalf c
    let lo := half * 0x1800000 + s.rdA (DR_CAN_BASE c)
    Completes (.compositionEnd c) s fun t =>
      (∀ x y, x < s.canW c → y < s.canH c → t.bytesAt (s.boltAddr half c x y) 6 = (s.composedPixel k x y).bytes) ∧
      ∀ a, a < lo ∨ lo + 6 * (s.canW c * s.canH c) ≤ a → t.byteAt a = s.byteAt a := by
  intro half lo
  have hc := running_canvas h
  have picture := storePicture_bytes (k := k) hx (by rw [hc]; exact hb)
  rw [hc] at picture
  have after : Only calm (acts [completePicture s c k (k.sourceWords.filter s.poisonedAt).length, readRetires k,
      compCompletion k (b2n (decide (0 < (k.sourceWords.filter s.poisonedAt).length)) * flagPoison) .ok, compDone k, drRefresh]) :=
    only_cons (completePicture_calm _ _ _ _) (only_cons (readRetires_calm k) (only_cons (compCompletion_calm he _ _) (only_cons (compDone_calm k)
      (only_cons (only_drRefresh_ofDraper.mono fun _ hu => hu.1) (only_nil _)))))
  obtain ⟨-, mem, -⟩ := after.calm ((storePicture s c k).run s)
  rw [run_acts_cons, run_acts_cons, run_acts_cons, run_acts_cons, run_acts_cons, run_acts_nil] at mem
  refine ⟨_, congrArg Host.Outcome.next (compositionEnd_run h), ?_⟩
  simp only [State.bytesAt, State.byteAt, mem]
  exact picture
end

/-! ## The obligation -/

/-- Settles O35: the commit is one write of a register; a composition begins with the list in use or with that of its ring's one entry; and
its end is the picture in Bolt, what is noted of it, and its leaving of the line. -/
theorem compositions : Obligations.Compositions := by
  unfold Obligations.Compositions
  refine ⟨fun s w v c k rest => ?_, fun s c k => ?_⟩
  · have base := ringBase_canvas c.isLt (by omega)
    refine ⟨fun hd hv => execDrCommit_does hd hv w, fun h => execDrCommit_idle h w, fun h => ?_, fun hd ho hc hp hoff => ?_,
      fun d hd ho hc hp hon hone hclean hnow hl hin hhead hlayers hvalid => ?_⟩
    · refine congrArg Host.Outcome.next (compositionStart_idle fun k' rest' ho' => ?_)
      rcases h with ho | ⟨ho, hne⟩
      · rw [ho] at ho'; cases ho'
      · rw [ho] at ho'; cases ho'; exact hne
    · exact compositionStart_off hd ho hc hp (base ▸ hoff)
    · rw [base] at *
      exact compositionStart_one hd ho hc hp ⟨hon, hone, rfl, hclean, hnow, rfl, hl, rfl, hin, hhead, hlayers, hvalid⟩
  · exact ⟨fun h => congrArg Host.Outcome.next (compositionEnd_idle h), fun h => congrArg Host.Outcome.next (readsBack_idle h),
      fun h => readsReturned_ends h, fun h => compositionEnd_ends h, fun h he hx hb => compositionEnd_picture h he hx hb⟩

end Sys2Proof.Machine
end

section
/-!
SUPPORT. What Tailor reads of a pixel: the words that are damaged, and what their delivery reports (R122, R420, R421).
Helper definitions serve the proof alone and never run; hence `noncomputable`.
-/

set_option Elab.async false

namespace Sys2Proof.Machine

/-! ## A list of actions -/

/-- Actions run one after another. -/
theorem run_acts (as : List Act) (s : State) : (acts as).run s = as.foldl (fun t a => a.run t) s := by
  induction as generalizing s with
  | nil => rfl
  | cons a as ih => rw [run_acts_cons, ih, List.foldl_cons]

/-- An action that changes nothing may stand before another. -/
theorem run_pair_of_fixed {a b : Act} {s : State} (h : a.run s = s) : (acts [a, b]).run s = b.run s := by
  rw [run_acts, List.foldl_cons, h]
  rfl

/-! ## Tailor's registers -/

/-- Neither signals nor reports of memory change a register of Tailor, Swatch or Purse. -/
theorem quietReg_tailor {a : Nat} (ha : 0x10140000 ≤ a ∧ a < 0x10180000) : quietReg a := by
  refine ⟨not_signalReg (by omega) (by omega) (by omega), ?_, ?_, ?_⟩
  · simp only [reportReg, TS_EVENT_CORR, TS_EXT_CORR]; omega
  · simp only [LG_EVENT_LOST]; omega
  · simp only [LG_LOST]; omega

theorem updTl_inWindow {lo hi : Nat} {f : Tl → Tl} : Only (inWindow lo hi) (updTl f) := only_inWindow updTl_calm fun _ _ => updTl_spares

/-- An event of Tailor, Swatch or Purse leaves their other registers alone. -/
theorem setEvent_spares_tailor {f : Fld} {a : Nat} (ha : 0x10140000 ≤ a ∧ a < 0x10180000) (h : f.addr ≠ a) : Only (spares a) (setEvent f) :=
  setEvent_spares (quietReg_tailor ha).1 h

/-- A record leaves the registers of Tailor, Swatch and Purse alone. -/
theorem ledger_spares_tailor {code sev p a : Nat} {src : Src} (ha : 0x10140000 ≤ a ∧ a < 0x10180000) : Only (spares a) (ledger code src sev p) := by
  obtain ⟨signal, -, event, lost⟩ := quietReg_tailor ha
  exact ledger_spares signal lost.symm event.symm

/-! ## How many records an action makes (R464) -/

/-- The action adds at most `n` records to Ledger's queue and leaves it to be taken as before. -/
def Records (n : Nat) (x : Act) : Prop := ∀ s, (x.run s).lg.taking = s.lg.taking ∧ (x.run s).lg.intake.length ≤ s.lg.intake.length + n

theorem records_of_keeps {x : Act} (h : Keeps (·.lg) x) : Records 0 x := fun s => by
  have hl : (x.run s).lg = s.lg := h s
  rw [hl]; exact ⟨rfl, le_rfl⟩

theorem records_setEvent (f : Fld) : Records 1 (setEvent f) := recordsOne_setEvent f

theorem records_nil : Records 0 (acts []) := records_of_keeps keeps_nil

theorem records_cons {m n : Nat} {a : Act} {as : List Act} (ha : Records m a) (hs : Records n (acts as)) : Records (m + n) (acts (a :: as)) := by
  intro s
  obtain ⟨taking, length⟩ := ha s
  obtain ⟨taking', length'⟩ := hs (a.run s)
  rw [run_acts_cons]
  exact ⟨taking'.trans taking, by omega⟩

theorem records_ledger (code sev p : Nat) (src : Src) : Records 1 (ledger code src sev p) := by
  intro s
  by_cases taking : s.lg.taking = true
  · by_cases room : s.lg.intake.length < intakeSize
    · rw [run_ledger_room _ _ _ _ _ taking room]
      simp [Upd.apply, room]
    · have lost : Records 1 (acts [count LG_LOST 1, setEvent LG_EVENT_LOST]) :=
        records_cons (records_of_keeps (keeps_withS fun _ => fun _ => rfl)) (records_cons (records_setEvent _) records_nil)
      have run : (ledger code src sev p).run s =
          (updLg fun l => { l with lossNext := true }).run ((acts [count LG_LOST 1, setEvent LG_EVENT_LOST]).run s) := by
        simp only [ledger, run_withS, taking, Bool.not_true, Bool.false_eq_true, if_false, room, run_acts_cons, run_acts_nil]
      rw [run]
      exact lost s
  · rw [run_ledger_off _ _ _ _ _ (Bool.eq_false_iff.2 taking)]
    exact ⟨rfl, Nat.le_succ _⟩

theorem records_reportPoison (a : Nat) : Records 2 (reportPoison a) := by
  have ail : Records 0 (ail .uncorr) := records_of_keeps (keeps_lg_ail _)
  have reg (f : Fld) (n : Nat) : Records 0 (wr f n) := records_of_keeps fun _ => rfl
  have pair (f g : Fld) (n : Nat) : Records 0 (wrPair f g n) := records_cons (reg _ _) (records_cons (reg _ _) records_nil)
  have counter (f : Fld) : Records 0 (count f 1) := records_of_keeps (keeps_withS fun _ => fun _ => rfl)
  have last (f : Fld) (code sev p : Nat) (src : Src) : Records 2 (acts [setEvent f, ledger code src sev p]) :=
    records_cons (records_setEvent _) (records_cons (records_ledger _ _ _ _) records_nil)
  unfold reportPoison
  split
  · exact records_cons ail (records_cons (counter _) (records_cons (reg _ _) (last _ _ _ _ _)))
  · exact records_cons ail (records_cons (counter _) (records_cons (pair _ _ _) (last _ _ _ _ _)))

/-- A record made after few others finds room where there was room. -/
theorem logged_after {x : Act} {n code sev p : Nat} {src : Src} {s : State} (hx : Records n x) (hn : n ≤ 32) (room : s.roomy) (hp : p < 2 ^ 32) :
    Logged ((ledger code src sev p).run (x.run s)) code src sev p := by
  obtain ⟨taking, length⟩ := hx s
  obtain ⟨taken, free⟩ := room
  exact logged_ledger (taking.trans taken) (lt_of_le_of_lt length (Nat.add_lt_add_of_lt_of_le free hn)) hp

/-! ## Words that are good -/

/-- The word at `d` is damaged and has not been delivered in this frame. -/
noncomputable def State.damagedAt (s : State) (d : Nat) : Bool :=
  (s.poisonedAt d || decide (0 < s.ts.symbols.get 0 (d / 32))) && !s.tl.seen.contains d

theorem scanWord_good {s : State} {w : Nat} (h : s.damagedAt w = false) : (scanWord w).run s = s := by
  unfold State.damagedAt at h
  rw [scanWord, run_withS, h]
  rfl

theorem scanWords_good {s : State} {ws : List Nat} (h : ∀ w ∈ ws, s.damagedAt w = false) : (forEach ws scanWord).run s = s :=
  run_forEach_induct (P := (· = s)) ws scanWord s rfl fun w hw t ht => by rw [ht]; exact scanWord_good (h w hw)

theorem scanReads_within {s : State} {c x y : Nat} (h : s.mapIndex c x y < mapSize) :
    (scanReads c x y).run s = (forEach (s.scanWords c x y) scanWord).run s := by
  rw [scanReads, run_withS, if_neg (Nat.not_le_of_lt h)]

theorem scanReads_good {s : State} {c x y : Nat} (hm : s.mapIndex c x y < mapSize) (h : (s.scanWords c x y).filter s.damagedAt = []) :
    (scanReads c x y).run s = s := by
  rw [scanReads_within hm]
  exact scanWords_good fun w hw => by simpa using List.filter_eq_nil_iff.1 h w hw

/-! ## A word that is poisoned (R122, R140, R421) -/

/-- The word at `w` counts as delivered in this frame. -/
noncomputable def State.delivered (s : State) (w : Nat) : State := Upd.apply s (.tl { s.tl with seen := s.tl.seen ++ [w] })

/-- What Tailor itself reports of a poisoned word. -/
noncomputable def poisonNote (w : Nat) : Act := acts [count TL_POISON 1, setEvent TL_EVENT_POISON, ledger 0x3104 .tailor warning (bits w 31 8)]

theorem scanWord_poisoned {s : State} {w : Nat} (hd : s.damagedAt w = true) (hp : s.poisonedAt w = true) :
    (scanWord w).run s = (poisonNote w).run ((reportPoison w).run (s.delivered w)) := by
  have delivered : (s.delivered w).poisonedAt w = true := hp
  unfold State.damagedAt at hd
  rw [scanWord, run_withS, hd, hp, run_whenDo, if_pos rfl, run_acts, ← touchWord_poisoned delivered]
  rfl

/-- What tells which words are poisoned and how many symbols are in error, beside a register that says whether external memory is protected. -/
noncomputable def State.wordFaults (s : State) : Ts × SMap Bool := (s.ts, s.poison)

theorem keeps_wordFaults_scanWord (w : Nat) : Keeps State.wordFaults (scanWord w) := by
  have touch : Keeps State.wordFaults (touchWord w) := fun s => by
    obtain ⟨-, poison, ts⟩ := touchWord_keeps w s
    simp only [State.wordFaults, poison, ts]
  have event (f : Fld) : Keeps State.wordFaults (setEvent f) := fun s => by simp only [State.wordFaults, setEvent_frame]
  have record (code sev p : Nat) (src : Src) : Keeps State.wordFaults (ledger code src sev p) := fun s => by
    simp only [State.wordFaults, ledger_frame]
  exact keeps_withS fun _ => keeps_whenDo (keeps_cons (fun _ => rfl) (keeps_cons touch (keeps_cons (keeps_whenDo
    (keeps_cons (keeps_withS fun _ => fun _ => rfl) (keeps_cons (event _) (keeps_cons (record _ _ _ _) keeps_nil)))) keeps_nil)))

/-- Delivering a word changes no register but those of reports, TL_POISON and Tailor's events. -/
theorem scanWord_spares {a : Nat} (hq : quietReg a) (h1 : TL_POISON.addr ≠ a) (h2 : TL_EVENT_POISON.addr ≠ a) (w : Nat) :
    Only (spares a) (scanWord w) := by
  obtain ⟨signal, -, event, lost⟩ := id hq
  exact only_withS fun _ => only_whenDo (only_cons updTl_spares (only_cons ((only_touchWord w).mono fun _ hu => memUpd_spares hq (Or.inl hu))
    (only_cons (only_whenDo (only_cons (count_spares h1) (only_cons (setEvent_spares signal h2)
      (only_cons (ledger_spares signal lost.symm event.symm) (only_nil _))))) (only_nil _))))

theorem keeps_poisonedAt_scanWord (w : Nat) : Keeps State.poisonedAt (scanWord w) := fun s => by
  have faults := keeps_wordFaults_scanWord w s
  simp only [State.wordFaults, Prod.mk.injEq] at faults
  have protect := (scanWord_spares (quietReg_ext TS_EXT_STATUS_PROTECT rfl) (by decide) (by decide) w).rd TS_EXT_STATUS_PROTECT s
  funext x
  simp only [State.poisonedAt, State.excludedAt, State.on, faults, protect]

theorem reportUpd_calm {u : Upd} (h : reportUpd u) : calm u := by
  rcases h with h | h | ⟨a, r, v, rfl, -⟩ | ⟨x, rfl⟩
  · exact ledgerUpd_calm h
  · exact eventUpd_calm h
  all_goals trivial

theorem scanWord_calm (w : Nat) : Only calm (scanWord w) :=
  only_withS fun _ => only_whenDo (only_cons updTl_calm (only_cons ((only_touchWord w).mono fun _ => reportUpd_calm)
    (only_cons (only_whenDo (only_cons count_calm (only_cons setEvent_calm (only_cons ledger_calm (only_nil _))))) (only_nil _))))

/-- What Tailor reports of a poisoned word is not of its own state. -/
theorem scanWord_poisoned_tl {s : State} {w : Nat} (hd : s.damagedAt w = true) (hp : s.poisonedAt w = true) :
    ((scanWord w).run s).tl = (s.delivered w).tl := by
  have note : Only offstage (poisonNote w) :=
    only_cons (only_withS fun _ => wr_offstage) (only_cons setEvent_offstage (only_cons ledger_offstage (only_nil _)))
  have report : Only offstage (reportPoison w) := (only_reportPoison w).mono fun _ => reportUpd_offstage
  rw [scanWord_poisoned hd hp, (note.offstage _).2.2, (report.offstage _).2.2]

/-- Delivering a poisoned word damages no other. -/
theorem damagedAt_scanWord {s : State} {w d : Nat} (hd : s.damagedAt d = true) (hp : s.poisonedAt d = true) (h : s.damagedAt w = false) :
    ((scanWord d).run s).damagedAt w = false := by
  have poisoned : ((scanWord d).run s).poisonedAt = s.poisonedAt := keeps_poisonedAt_scanWord d s
  have faults := keeps_wordFaults_scanWord d s
  simp only [State.wordFaults, Prod.mk.injEq] at faults
  have seen : ((scanWord d).run s).tl.seen = s.tl.seen ++ [d] := congrArg Tl.seen (scanWord_poisoned_tl hd hp)
  simp only [State.damagedAt, Bool.and_eq_false_iff, Bool.not_eq_false', poisoned, faults.1, seen] at h ⊢
  exact h.imp_right fun h => by simpa using Or.inl (by simpa using h)

/-- Of words of which one alone is damaged, and poisoned, that one is reported. -/
theorem scanWords_one {s : State} {ws : List Nat} {d : Nat} (h : ws.filter s.damagedAt = [d]) (hp : s.poisonedAt d = true) :
    (forEach ws scanWord).run s = (scanWord d).run s := by
  induction ws with
  | nil => cases h
  | cons w ws ih =>
    rw [run_forEach_cons]
    by_cases hw : s.damagedAt w = true
    · rw [List.filter_cons_of_pos hw, List.cons.injEq] at h
      obtain ⟨rfl, rest⟩ := h
      exact scanWords_good fun x hx => damagedAt_scanWord hw hp (by simpa using List.filter_eq_nil_iff.1 rest x hx)
    · rw [List.filter_cons_of_neg hw] at h
      rw [scanWord_good (Bool.eq_false_iff.2 hw)]
      exact ih h

/-- A poisoned word that is delivered is counted, and its record is made (R122). -/
theorem scanWord_poisoned_shows {s : State} {w : Nat} (hd : s.damagedAt w = true) (hp : s.poisonedAt w = true) : let t := (scanWord w).run s
    t.rd TL_POISON = min (2 ^ 32 - 1) (s.rd TL_POISON + 1) ∧ w ∈ t.tl.seen ∧
      (s.roomy → Logged t 0x3104 .tailor warning (w / 2 ^ 8 % 2 ^ 24)) := by
  have quiet : quietReg TL_POISON.addr := quietReg_tailor (by decide)
  have report : Only (spares TL_POISON.addr) (reportPoison w) := (only_reportPoison w).mono fun _ hu => memUpd_spares quiet (Or.inl hu)
  have after : Only (spares TL_POISON.addr) (acts [setEvent TL_EVENT_POISON, ledger 0x3104 .tailor warning (bits w 31 8)]) :=
    only_cons (setEvent_spares_tailor (by decide) (by decide)) (only_cons (ledger_spares_tailor (by decide)) (only_nil _))
  have before : Records 3 (acts [reportPoison w, count TL_POISON 1, setEvent TL_EVENT_POISON]) :=
    records_cons (records_reportPoison w) (records_cons (records_of_keeps (keeps_withS fun _ => fun _ => rfl))
      (records_cons (records_setEvent _) records_nil))
  have last : (scanWord w).run s = (ledger 0x3104 .tailor warning (bits w 31 8)).run
      ((acts [reportPoison w, count TL_POISON 1, setEvent TL_EVENT_POISON]).run (s.delivered w)) := by
    rw [scanWord_poisoned hd hp, poisonNote, run_acts, run_acts]
    rfl
  refine ⟨?_, ?_, fun room => ?_⟩
  · rw [scanWord_poisoned hd hp, poisonNote, run_acts_cons, after.rd TL_POISON, rd_run_count (by decide), report.rd TL_POISON]
    rfl
  · rw [scanWord_poisoned_tl hd hp]
    exact List.mem_append_right _ (List.mem_singleton_self w)
  · rw [last]
    exact logged_after (s := s.delivered w) (p := bits w 31 8) before (by decide) room (lt_trans (Nat.mod_lt _ (by decide)) (by decide))

/-! ## An index out of range (R122) -/

/-- What Tailor reports of a pixel of canvas `c` whose index lies beyond the lamp map. -/
noncomputable def mapRangeNote (c : Nat) : Act := acts [count TL_MAPRANGE 1, setEvent TL_EVENT_MAPRANGE, ledger 0x3103 .tailor warning c]

theorem scanReads_beyond {s : State} {c x y : Nat} (h : mapSize ≤ s.mapIndex c x y) : (scanReads c x y).run s = (mapRangeNote c).run s := by
  rw [scanReads, run_withS, if_pos h]
  rfl

theorem mapRangeNote_inWindow (c : Nat) : Only (inWindow 0x10140000 0x10148000) (mapRangeNote c) :=
  only_cons (count_inWindow (by decide)) (only_cons (setEvent_inWindow (by decide)) (only_cons ledger_inWindow (only_nil _)))

theorem mapRangeNote_shows {c : Nat} (hc : c < 2 ^ 32) (s : State) : let t := (mapRangeNote c).run s
    t.rd TL_MAPRANGE = min (2 ^ 32 - 1) (s.rd TL_MAPRANGE + 1) ∧ (s.roomy → Logged t 0x3103 .tailor warning c) := by
  have after : Only (spares TL_MAPRANGE.addr) (acts [setEvent TL_EVENT_MAPRANGE, ledger 0x3103 .tailor warning c]) :=
    only_cons (setEvent_spares_tailor (by decide) (by decide)) (only_cons (ledger_spares_tailor (by decide)) (only_nil _))
  rw [mapRangeNote, run_acts_cons]
  refine ⟨?_, fun room => ?_⟩
  · rw [after.rd TL_MAPRANGE, rd_run_count (by decide)]
    rfl
  · rw [run_acts]
    exact logged_after_event room rfl hc

theorem scanReads_calm (c x y : Nat) : Only calm (scanReads c x y) :=
  only_withS fun _ => only_ite ((mapRangeNote_inWindow c).mono fun _ hu => hu.1) (only_forEach _ fun w _ => scanWord_calm w)

end Sys2Proof.Machine
end

section
/-!
PROOF. What the scan-out of a pixel hands to its chain port, and what it notes for a Weft stream (R122, R123, R126).
Helper definitions serve the proof alone and never run; hence `noncomputable`.
-/

set_option Elab.async false

namespace Sys2Proof.Machine

/-! ## A pixel of a chain port (R123, R126) -/

/-- Port `p` shifts each channel of a lamp so often: once, or once for each sub-frame in bit-plane mode (R151). -/
noncomputable def State.portPasses (s : State) (p : Nat) : Nat :=
  let l := s.leader (p / 4)
  if s.onA (TD_CTRL_MODE l) then max 1 (s.rdA (TD_CTRL_MULT l)) else 1

/-- The bits to which Tailor dithers a channel for port `p`. -/
noncomputable def State.portDepth (s : State) (p : Nat) : Nat :=
  if s.onA (TD_CTRL_MODE (s.leader (p / 4))) then 16 else s.rdA (TL_GRP_OUT_DEPTH (p / 4))

/-- What port `p` shifts for a channel of the pixel at (x, y) that is corrected to `v`. -/
noncomputable def State.shifted (s : State) (p x y v : Nat) : List Nat :=
  List.replicate (s.portPasses p) (dither (s.onA (TL_GRP_OUT_DITHER (p / 4))) (s.portDepth p) x y s.frame v)

/-- Lamp `n` of port `p` shows the corrected pixel `u` of entry `k` as it is: no probe is on it. -/
noncomputable def deliverPlain (s : State) (x y p n k : Nat) (u : Rgb) : Act :=
  deliver p n k [u.r, u.g, u.b] [s.shifted p x y u.r, s.shifted p x y u.g, s.shifted p x y u.b]

/-- Lamp `n` of port `p` is dark. -/
noncomputable def deliverDark (s : State) (p n : Nat) : Act :=
  deliver p n mapSize [0, 0, 0] (List.replicate 3 (List.replicate (s.portPasses p) 0))

/-- Where a lamp is dark, probes that still took something from it are visible, and nothing is owed any more (R133). -/
noncomputable def probesDropped (s : State) (p n : Nat) : Act :=
  forN 3 fun i => whenDo (s.tl.carry.get 0 (lampKey p n * 4 + i) != 0) (acts [probeVisible p, setCarry p n i 0])

section
variable {s : State} {c x y p n : Nat}

/-- With nothing owed to earlier probes, no channel falls short of one. -/
theorem noneShort_run (hclean : ∀ i < 3, s.tl.carry.get 0 (lampKey p n * 4 + i) = 0) (ch : List Nat) (t : State) :
    (forN 3 fun i => acts [whenDo (decide (ch.getD i 0 < s.tl.carry.get 0 (lampKey p n * 4 + i))) (probeVisible p),
      whenDo false (probeVisible p)]).run t = t := by
  refine run_forEach_induct (P := (· = t)) _ _ t rfl fun i hi u hu => ?_
  rw [hclean i (List.mem_range.1 hi), decide_eq_false (Nat.not_lt_zero _)]
  exact hu

/-- Of five actions the last three change nothing. -/
theorem run_five_of_idle {a b d e f a' b' : Act} (ha : a = a') (hb : b = b') (hd : ∀ t, d.run t = t) (he : ∀ t, e.run t = t)
    (hf : ∀ t, f.run t = t) (s : State) : (acts [a, b, d, e, f]).run s = (acts [a', b']).run s := by
  rw [ha, hb, run_acts, run_acts]
  exact (hf _).trans ((he _).trans (hd _))

theorem run_whenDo_false {b : Bool} (h : b = false) (a : Act) (t : State) : (whenDo b a).run t = t := by rw [h]; rfl

/-- With no probe, and nothing owed to an earlier one, the port gets the corrected pixel. -/
theorem chainPixel_plain {v : Rgb} {k e : Nat} (hsrc : s.scanSource c x y = some (v, k, e)) (hreads : (scanReads c x y).run s = s)
    (hwin : s.rdA (TL_GRP_OUT_WIN (p / 4)) = 0) (hclean : ∀ i < 3, s.tl.carry.get 0 (lampKey p n * 4 + i) = 0) :
    (chainPixel c x y p n).run s =
      (acts [deliverPlain s x y p n k (s.corrected (some (p / 4)) e v), forN 3 fun i => setCarry p n i 0]).run s := by
  have noProbe (b d : Bool) : (b && decide (0 < 0) && d) = false := by rw [Bool.and_assoc]; exact Bool.and_false b
  have lamps : List.range 3 = [0, 1, 2] := rfl
  refine (run_pair_of_fixed hreads).trans ?_
  rw [hsrc]
  dsimp only
  generalize s.corrected (some (p / 4)) e v = u
  simp only [hwin, noProbe, lamps, Bool.false_and, Bool.not_false, Bool.false_eq_true, if_true, if_false, false_and, List.map_cons, List.map_nil,
    List.getD_cons_zero, List.getD_cons_succ]
  refine run_five_of_idle ?_ rfl (noneShort_run hclean _) (run_whenDo_false (Bool.and_false _) _) (fun t => rfl) s
  have lit (owed : Nat → Nat) (none : ∀ i < 3, owed i = 0) : deliver p n k [u.r - owed 0, u.g - owed 1, u.b - owed 2]
      [s.shifted p x y (u.r - owed 0), s.shifted p x y (u.g - owed 1), s.shifted p x y (u.b - owed 2)] = deliverPlain s x y p n k u := by
    rw [none 0 (by decide), none 1 (by decide), none 2 (by decide)]
    rfl
  exact lit (fun i => s.tl.carry.get 0 (lampKey p n * 4 + i)) hclean

/-- A pixel without a source leaves its lamp dark. -/
theorem chainPixel_dark (hsrc : s.scanSource c x y = none) :
    (chainPixel c x y p n).run s = (acts [scanReads c x y, deliverDark s p n, probesDropped s p n]).run s := by
  refine (run_acts [scanReads c x y, _] s).trans ?_
  rw [hsrc, run_acts]
  exact run_acts [deliverDark s p n, probesDropped s p n] _

theorem deliver_shows (k : Nat) (lit : List Nat) (vals : List (List Nat)) (t : State) :
    ((deliver p n k lit vals).run t).tl.shown.get none (lampKey p n) = some ⟨k, lit, vals⟩ := by
  simp only [deliver, run_updTl, apply_tl, SMap.get_set_same]

theorem deliverDark_calm (s : State) : Only calm (deliverDark s p n) := by
  unfold deliverDark deliver
  exact updTl_calm

theorem keeps_shown_setCarry (i v : Nat) : Keeps (·.tl.shown) (setCarry p n i v) := fun _ => rfl

theorem keeps_shown_probesDropped (s : State) : Keeps (·.tl.shown) (probesDropped s p n) := by
  have visible : Keeps (·.tl.shown) (probeVisible p) := fun t => congrArg Tl.shown
    ((only_cons (only_withS fun _ => wr_offstage) (only_cons setEvent_offstage (only_cons ledger_offstage (only_nil _)))).offstage t).2.2
  exact keeps_forN 3 fun i _ => keeps_whenDo (keeps_cons visible (keeps_cons (keeps_shown_setCarry i 0) keeps_nil))

theorem probesDropped_calm (s : State) : Only calm (probesDropped s p n) :=
  only_forN 3 fun _ _ => only_whenDo (only_cons (only_cons count_calm (only_cons setEvent_calm (only_cons ledger_calm (only_nil _))))
    (only_cons updTl_calm (only_nil _)))

/-- On a BLANK canvas Tailor takes black (R85, R123). -/
theorem scanSource_blank {v : Rgb} {k e : Nat} (h : s.scanSource c x y = some (v, k, e)) (hb : s.on (TL_FRONT_BLANK c) = true) : v = black := by
  unfold State.scanSource at h
  dsimp only at h
  rw [hb, if_pos rfl] at h
  split at h
  · cases h
  · exact (congrArg Prod.fst (Option.some.inj h)).symm

/-- A pixel with a source has an entry in the lamp map. -/
theorem mapIndex_lt_of_scanSource {q : Rgb × Nat × Nat} (h : s.scanSource c x y = some q) : s.mapIndex c x y < mapSize := by
  unfold State.scanSource at h
  dsimp only at h
  split at h
  · cases h
  · next hn => exact Nat.lt_of_not_le fun hm => hn (Or.inl hm)
end

/-! ## The command (R123) -/

/-- The number of the lamp of port `p` at canvas pixel (x, y). -/
noncomputable def State.placeOnPort (s : State) (p x y : Nat) : Nat := (y - (s.portRect p).2.1) * (s.portRect p).2.2.1 + (x - (s.portRect p).1)

section
variable {s : State} {c : Fin 4} {x y : Nat}

/-- A pixel that port `p` does not carry reaches no lamp of it. -/
theorem scanout_uncarried {p : Fin 64} (h : ¬ (s.carries p c x y = true ∧ s.placeOnPort p x y < 16384)) :
    NoEffect (.scanoutPixel c x y (.chain p)) s := by
  have idle : (s.carries p c x y && decide (s.placeOnPort p x y < 16384)) = false := by
    rw [← Bool.not_eq_true, Bool.and_eq_true, decide_eq_true_eq]
    exact h
  unfold State.placeOnPort at idle
  show done _ s = _
  dsimp only
  rw [idle]
  rfl

/-- A pixel outside the canvas is read for no Weft stream. -/
theorem scanout_weft_outside (h : s.canW c ≤ x ∨ s.canH c ≤ y) (z : Fin 256) : NoEffect (.scanoutPixel c x y (.weft z)) s := by
  show done _ s = _
  dsimp only
  rw [decide_eq_false (by omega : ¬ (x < s.canW c ∧ y < s.canH c))]
  rfl

section
variable (hx : x < s.canW c) (hy : y < s.canH c) (ha : s.tl.toAdopt = none)
include hx hy ha

/-- A pixel that port `p` carries goes through the stages for it. -/
theorem scanout_chain {p : Fin 64} (hc : s.carries p c x y = true) (hn : s.placeOnPort p x y < 16384) :
    exec (.scanoutPixel c x y (.chain p)) s = .next ((chainPixel c x y p (s.placeOnPort p x y)).run s) := by
  unfold State.placeOnPort at hn
  show done _ s = _
  dsimp only
  rw [hc, decide_eq_true hn, decide_eq_true (And.intro hx hy), ha, done_eq, run_whenDo, Bool.true_and, if_pos rfl, if_pos rfl]
  exact congrArg Host.Outcome.next (run_pair_of_fixed rfl)

/-- For a Weft stream the command reports what reading the pixel meets. -/
theorem scanout_weft (z : Fin 256) : exec (.scanoutPixel c x y (.weft z)) s = .next ((scanReads c x y).run s) := by
  show done _ s = _
  dsimp only
  rw [decide_eq_true (And.intro hx hy), ha, done_eq, run_whenDo, if_pos rfl]
  exact congrArg Host.Outcome.next (run_pair_of_fixed rfl)

/-- A good pixel, with no probe of its own or of an earlier frame, comes to its lamp corrected and dithered (R123, R126). -/
theorem scanout_plain {p : Fin 64} {v : Rgb} {k e : Nat} (hc : s.carries p c x y = true) (hn : s.placeOnPort p x y < 16384)
    (hclean : ∀ i < 3, s.tl.carry.get 0 (lampKey p (s.placeOnPort p x y) * 4 + i) = 0)
    (hd : (s.scanWords c x y).filter s.damagedAt = []) (hwin : s.rdA (TL_GRP_OUT_WIN (p / 4)) = 0)
    (hsrc : s.scanSource c x y = some (v, k, e)) : Completes (.scanoutPixel c x y (.chain p)) s fun t =>
      let u := s.corrected (some (p / 4)) e v
      t.tl.shown.get none (lampKey p (s.placeOnPort p x y)) =
        some ⟨k, [u.r, u.g, u.b], [s.shifted p x y u.r, s.shifted p x y u.g, s.shifted p x y u.b]⟩ ∧ Quiet s t ∧ t.regs = s.regs ∧
        (s.on (TL_FRONT_BLANK c) = true → v = black) := by
  have carries : Keeps (·.tl.shown) (forN 3 fun i => setCarry p (s.placeOnPort p x y) i 0) := keeps_forN 3 fun i _ => keeps_shown_setCarry i 0
  have own : Keeps (fun t => (t.threads, t.mem, t.poison, t.flash, t.regs))
      (acts [deliverPlain s x y p (s.placeOnPort p x y) k (s.corrected (some (p / 4)) e v), forN 3 fun i => setCarry p (s.placeOnPort p x y) i 0]) :=
    keeps_cons (fun _ => rfl) (keeps_cons (keeps_forN 3 fun _ _ => fun _ => rfl) keeps_nil)
  have same := own s
  simp only [Prod.mk.injEq] at same
  obtain ⟨threads, mem, poison, flash, regs⟩ := same
  refine ⟨_, scanout_chain hx hy ha hc hn, ?_⟩
  rw [chainPixel_plain hsrc (scanReads_good (mapIndex_lt_of_scanSource hsrc) hd) hwin hclean]
  refine ⟨?_, ⟨threads, mem, poison, flash⟩, regs, scanSource_blank hsrc⟩
  rw [run_acts]
  exact (congrArg (fun m => SMap.get none m _) (carries _)).trans (deliver_shows _ _ _ s)

/-- A pixel that is out of range or poisoned leaves its lamp dark (R122). -/
theorem scanout_dark {p : Fin 64} (hc : s.carries p c x y = true) (hn : s.placeOnPort p x y < 16384) (hsrc : s.scanSource c x y = none) :
    Completes (.scanoutPixel c x y (.chain p)) s fun t =>
      t.tl.shown.get none (lampKey p (s.placeOnPort p x y)) = some ⟨mapSize, [0, 0, 0], List.replicate 3 (List.replicate (s.portPasses p) 0)⟩ ∧
        Quiet s t := by
  have calm : Only calm (acts [scanReads c x y, deliverDark s p (s.placeOnPort p x y), probesDropped s p (s.placeOnPort p x y)]) :=
    only_cons (scanReads_calm c x y) (only_cons (deliverDark_calm s) (only_cons (probesDropped_calm s) (only_nil _)))
  refine ⟨_, scanout_chain hx hy ha hc hn, ?_⟩
  rw [chainPixel_dark hsrc]
  refine ⟨?_, calm.calm s⟩
  rw [run_acts]
  exact (congrArg (fun m => SMap.get none m _) (keeps_shown_probesDropped s _)).trans (deliver_shows _ _ _ _)

/-- An index beyond the lamp map is counted and recorded (R122). -/
theorem scanout_weft_beyond (hm : mapSize ≤ s.mapIndex c x y) (z : Fin 256) :
    Does 0x10140000 0x10148000 (.scanoutPixel c x y (.weft z)) s fun t =>
      t.rd TL_MAPRANGE = min (2 ^ 32 - 1) (s.rd TL_MAPRANGE + 1) ∧ (s.roomy → Logged t 0x3103 .tailor warning c) :=
  does_of ((scanout_weft hx hy ha z).trans (congrArg Host.Outcome.next (scanReads_beyond hm))) (mapRangeNote_inWindow c)
    (mapRangeNote_shows (by omega) s)

/-- The one damaged word of a pixel, which is poisoned, is counted and recorded (R122). -/
theorem scanout_weft_poisoned {d : Nat} (hd : (s.scanWords c x y).filter s.damagedAt = [d]) (hp : s.poisonedAt d = true) (z : Fin 256) :
    Completes (.scanoutPixel c x y (.weft z)) s fun t =>
      t.rd TL_POISON = min (2 ^ 32 - 1) (s.rd TL_POISON + 1) ∧ d ∈ t.tl.seen ∧ Quiet s t ∧
        (s.roomy → Logged t 0x3104 .tailor warning (d / 2 ^ 8 % 2 ^ 24)) := by
  have hm : s.mapIndex c x y < mapSize := by
    by_contra hm
    rw [State.scanWords, if_pos (Nat.le_of_not_lt hm)] at hd
    cases hd
  have hdamaged : s.damagedAt d = true := (List.mem_filter.1 (hd ▸ List.mem_singleton_self d)).2
  obtain ⟨counted, seen, logged⟩ := scanWord_poisoned_shows hdamaged hp
  refine ⟨_, (scanout_weft hx hy ha z).trans (congrArg Host.Outcome.next ((scanReads_within hm).trans (scanWords_one hd hp))), ?_⟩
  exact ⟨counted, seen, (scanWord_calm d).calm s, logged⟩
end

/-- Where no word of a pixel is damaged, reading it for a Weft stream reports nothing. -/
theorem scanout_weft_good (ha : s.tl.toAdopt = none) (hm : s.mapIndex c x y < mapSize) (hd : (s.scanWords c x y).filter s.damagedAt = [])
    (z : Fin 256) : NoEffect (.scanoutPixel c x y (.weft z)) s := by
  by_cases inside : x < s.canW c ∧ y < s.canH c
  · exact (scanout_weft inside.1 inside.2 ha z).trans (congrArg Host.Outcome.next (scanReads_good hm hd))
  · exact scanout_weft_outside (by omega) z

/-- A pixel that port `p` carries: the port is enabled, its Treadle shows the canvas, and the pixel lies in the port's rectangle (R143). -/
theorem carries_iff (p : Nat) : s.carries p c x y = true ∧ s.placeOnPort p x y < 16384 ↔
    s.onA (CH_CTRL_ENABLE p) = true ∧ s.rdA (TD_CTRL_CANVAS (s.leader (p / 4))) = c ∧
      (s.portRect p).1 ≤ x ∧ x < (s.portRect p).1 + (s.portRect p).2.2.1 ∧ (s.portRect p).2.1 ≤ y ∧
      y < (s.portRect p).2.1 + (s.portRect p).2.2.2 ∧ s.placeOnPort p x y < 16384 := by
  unfold State.carries
  simp only [Bool.and_eq_true, beq_iff_eq, decide_eq_true_eq, and_assoc]
end

end Sys2Proof.Machine
end

section
/-!
PROOF. Tailor's commit, the end of a Swatch copy, temperature sources that fall silent, and Purse's recomputations (R127 to R129, R137).
Helper definitions serve the proof alone and never run; hence `noncomputable`.
-/

set_option Elab.async false

namespace Sys2Proof.Machine

/-- The update leaves everything outside the registers of Tailor, Swatch and Purse alone. -/
abbrev ofTailor : Upd → Prop := inWindow 0x10140000 0x10180000

theorem on_run_wr {f : Fld} {s : State} {b : Bool} (h : f.lo + f.width ≤ 32) (hw : f.width = 1) : ((wr f (b2n b)).run s).on f = b := by
  rw [State.on, rd_run_wr_same h, hw]
  cases b <;> rfl

/-! ## Tailor's commit and the Swatch copy (R127, R128) -/

theorem bit_zero (v : Word) : bit v.toNat 0 = v.getLsbD 0 := by
  rw [bit, pow_zero, Nat.div_one, BitVec.getLsbD, Nat.testBit_zero]
  rfl

theorem tlCommit_pends {v : Word} (hv : v.getLsbD 0 = true) (w : Requester) (s : State) :
    Does 0x10140000 0x10180000 (.tlCommit w v) s fun t => t.on TL_STATUS_PEND_PRED = true ∧ t.active = s.active ∧ t.predicted = s.predicted := by
  refine does_of (x := wr TL_STATUS_PEND_PRED 1) ?_ (wr_inWindow (by decide)) ⟨on_run_wr (b := true) (by decide) rfl, rfl, rfl⟩
  show done (whenDo (bit v.toNat 0) _) s = _
  rw [bit_zero, hv]
  rfl

theorem tlCommit_idle {v : Word} (hv : v.getLsbD 0 = false) (w : Requester) (s : State) : NoEffect (.tlCommit w v) s := by
  show done (whenDo (bit v.toNat 0) _) s = _
  rw [bit_zero, hv]
  rfl

theorem swatchCopied_early {s : State} (h : s.now < s.tl.copyEnds) : swatchCopied.run s = s := by
  rw [swatchCopied, run_withS, run_whenDo, decide_eq_false (Nat.not_le_of_lt h), if_neg Bool.false_ne_true]

theorem swatchCopied_ended {s : State} (h : s.tl.copyEnds ≤ s.now) : swatchCopied.run s = (wr SW_STATUS_COPYING 0).run s := by
  rw [swatchCopied, run_withS, run_whenDo, decide_eq_true h, if_pos rfl]

theorem copyNote_inWindow : Only ofTailor (wr SW_STATUS_COPYING 0) := wr_inWindow (by decide)

/-! ## Temperature sources (R129) -/

theorem sourceSilent_iff (s : State) (g : Nat) : s.sourceSilent g = true ↔ s.tl.sourceAt.get 0 g + 1000000000 ≤ s.now ∧
    (s.rdA (TL_DRT_A_SRC g) = 0 ∧ s.retTemp g = none ∨ s.rdA (TL_DRT_A_SRC g) = 1 ∧ s.weftTemp g = none) := by
  unfold State.sourceSilent
  rw [Bool.and_eq_true, decide_eq_true_eq]
  refine and_congr_right fun _ => ?_
  split
  · next h =>
    rw [h, Option.isNone_iff_eq_none]
    exact ⟨fun ht => Or.inl ⟨rfl, ht⟩, fun h => h.elim And.right fun h => absurd h.1 Nat.zero_ne_one⟩
  · next h =>
    rw [h, Option.isNone_iff_eq_none]
    exact ⟨fun ht => Or.inr ⟨rfl, ht⟩, fun h => h.elim (fun h => absurd h.1 Nat.one_ne_zero) And.right⟩
  · next h0 h1 => exact ⟨fun h => absurd h Bool.false_ne_true, fun h => (h.elim (fun h => h0 h.1) fun h => h1 h.1).elim⟩

/-- Group `g` falls back to the on-die sensor. -/
noncomputable def staleNote (g : Nat) : Act := acts [wr (TL_DRT_STAT_STALE g) 1, setEvent TL_EVENT_TEMP_STALE, ledger 0xC102 .tailor warning g]

theorem tempStale_silent {s : State} {g : Nat} (h : s.sourceSilent g = true) (hs : s.on (TL_DRT_STAT_STALE g) = false) :
    (tempStale g).run s = (staleNote g).run s := by
  rw [tempStale, run_withS, h, hs]
  rfl

theorem tempStale_idle {s : State} {g : Nat} (h : ¬ s.sourceSilent g = true ∨ s.on (TL_DRT_STAT_STALE g) = true) :
    (tempStale g).run s = s := by
  have idle : (s.sourceSilent g && !s.on (TL_DRT_STAT_STALE g)) = false := by
    rcases h with h | h <;> simp [h]
  rw [tempStale, run_withS, idle, run_whenDo, if_neg Bool.false_ne_true]

theorem stale_window {g : Nat} (hg : g < 16) : 0x10140000 ≤ (TL_DRT_STAT_STALE g).addr ∧ (TL_DRT_STAT_STALE g).addr < 0x10180000 := by
  simp only [TL_DRT_STAT_STALE]; omega

theorem only_staleNote {g : Nat} (hg : g < 16) : Only ofTailor (staleNote g) :=
  only_cons (wr_inWindow (stale_window hg)) (only_cons (setEvent_inWindow (by decide)) (only_cons ledger_inWindow (only_nil _)))

theorem staleNote_shows {g : Nat} (hg : g < 16) (s : State) : let t := (staleNote g).run s
    t.on (TL_DRT_STAT_STALE g) = true ∧ t.on TL_EVENT_TEMP_STALE = true ∧ (s.roomy → Logged t 0xC102 .tailor warning g) := by
  have window := stale_window hg
  have after : Only (spares (TL_DRT_STAT_STALE g).addr) (acts [setEvent TL_EVENT_TEMP_STALE, ledger 0xC102 .tailor warning g]) := by
    refine only_cons (setEvent_spares_tailor window ?_) (only_cons (ledger_spares_tailor window) (only_nil _))
    simp only [TL_DRT_STAT_STALE, TL_EVENT_TEMP_STALE]; omega
  have record : Only (spares TL_EVENT_TEMP_STALE.addr) (ledger 0xC102 .tailor warning g) := ledger_spares_tailor (by decide)
  refine ⟨?_, ?_, fun room => ?_⟩
  · rw [staleNote, run_acts_cons, after.on]
    exact on_run_wr (b := true) (by simp [TL_DRT_STAT_STALE]) rfl
  · rw [staleNote, run_acts]
    exact (record.on TL_EVENT_TEMP_STALE _).trans (on_setEvent _ _ (quietReg_tailor (by decide)).1 rfl (by decide))
  · rw [staleNote, run_acts]
    exact logged_after_event room rfl (by omega)

/-! ## The gains of one zone (R137) -/

/-- What a latch adopts of zone `z` of recomputation `k`. -/
noncomputable def adoptZone (k : PurseCalc) (z : Nat) : Act := withS fun s =>
  let g := k.g.get 32768 z
  let lim := decide (g < 32768)
  acts [
    whenDo (lim && !s.on (PU_Z_GAIN_LIMITED z)) (acts [setEvent PU_EVENT_ZONE_LIMIT, ledger 0xC103 .tailor note z]),
    wr (PU_Z_PRED z) (satNat 32 (k.p.get 0 z)), wr (PU_Z_GAIN_GAIN z) g, wr (PU_Z_GAIN_LIMITED z) (b2n lim),
    whenDo (lim || decide (k.gt < 32768)) (updTl fun t => { t with winLimited := t.winLimited.set false z true }),
    forEach (s.zoneCircuits z) fun (c, sh) =>
      updTl fun t => { t with winX := t.winX.set 0 c (t.winX.get 0 c + k.f.get 0 z * sh) }]

/-- What a latch in `s` adopts of the total of recomputation `k`. -/
noncomputable def showTotal (k : PurseCalc) (s : State) : Act := acts [
  whenDo (decide (k.gt < 32768) && !s.on PU_TOTAL_GAIN_LIMITED) (acts [setEvent PU_EVENT_TOTAL_LIMIT, ledger 0xC104 .tailor warning k.gt]),
  wr PU_TOTAL_PRED (satNat 32 k.pt), wr PU_TOTAL_GAIN_GT k.gt, wr PU_TOTAL_GAIN_LIMITED (b2n (decide (k.gt < 32768))),
  whenDo (decide (k.gt < 32768) || k.g.any fun x => decide (x.2 < 32768)) (count PU_LIMITED 1)]

/-- One more frame has its gains. -/
noncomputable def countFrame : Act := updTl fun t => { t with frames := t.frames + 1 }

/-- The gains that Purse puts out of a recomputation: none limits while it is disabled (R137). -/
noncomputable def State.putOut (s : State) (found : PurseCalc) : PurseCalc := if s.on PU_CTRL_ENABLE then found else found.unlimited

theorem adoptGains_run (found : PurseCalc) (s : State) : (adoptGains found).run s =
    countFrame.run ((showTotal (s.putOut found) s).run ((forN 256 (adoptZone (s.putOut found))).run s)) := by
  rw [adoptGains, run_withS, showTotal, run_acts, run_acts]
  rfl

/-- Zone `z` shows its gain of recomputation `k`. -/
def ZoneShows (k : PurseCalc) (z : Nat) (t : State) : Prop :=
  t.rd (PU_Z_GAIN_GAIN z) = k.g.get 32768 z % 2 ^ 16 ∧ t.on (PU_Z_GAIN_LIMITED z) = decide (k.g.get 32768 z < 32768)

/-- GAIN and LIMITED share a register: what leaves it alone leaves a zone's gain as it shows. -/
theorem ZoneShows.spared {k : PurseCalc} {z : Nat} {t : State} (h : ZoneShows k z t) {x : Act}
    (hx : Only (spares (PU_Z_GAIN_GAIN z).addr) x) : ZoneShows k z (x.run t) :=
  ⟨(hx.rd (PU_Z_GAIN_GAIN z) t).trans h.1, (hx.on (PU_Z_GAIN_LIMITED z) t).trans h.2⟩

/-- A zone shows its gain once GAIN and then LIMITED beside it are written. -/
theorem zoneShows_wr (k : PurseCalc) (z : Nat) (t : State) :
    ZoneShows k z ((wr (PU_Z_GAIN_LIMITED z) (b2n (decide (k.g.get 32768 z < 32768)))).run ((wr (PU_Z_GAIN_GAIN z) (k.g.get 32768 z)).run t)) :=
  ⟨(rd_run_wr_word (f := PU_Z_GAIN_LIMITED z) (g := PU_Z_GAIN_GAIN z) rfl rfl (by simp [PU_Z_GAIN_LIMITED, PU_Z_GAIN_GAIN])).trans
      (rd_run_wr_same (by simp [PU_Z_GAIN_GAIN])),
    on_run_wr (by simp [PU_Z_GAIN_LIMITED]) rfl⟩

theorem adoptZone_shows (k : PurseCalc) (z : Nat) (s : State) : ZoneShows k z ((adoptZone k z).run s) := by
  rw [adoptZone, run_withS, run_acts]
  exact ((zoneShows_wr k z _).spared (only_whenDo updTl_spares)).spared (only_forEach _ fun _ _ => updTl_spares)

theorem adoptZone_spares {a : Nat} (ha : 0x10149000 ≤ a ∧ a < 0x1014B000) (k : PurseCalc) {z : Nat}
    (hp : (PU_Z_PRED z).addr ≠ a) (hg : (PU_Z_GAIN_GAIN z).addr ≠ a) : Only (spares a) (adoptZone k z) := by
  have event : PU_EVENT_ZONE_LIMIT.addr ≠ a := by simp only [PU_EVENT_ZONE_LIMIT]; omega
  exact only_withS fun _ => only_cons (only_whenDo (only_cons (setEvent_spares_tailor (by omega) event) (only_cons
    (ledger_spares_tailor (by omega)) (only_nil _)))) (only_cons (wr_spares hp) (only_cons (wr_spares hg) (only_cons (wr_spares hg)
    (only_cons (only_whenDo updTl_spares) (only_cons (only_forEach _ fun _ _ => updTl_spares) (only_nil _))))))

/-- What each turn of a loop brings about for its own element, and no other turn undoes, holds of every element after the loop. -/
theorem run_forEach_each {α : Type} {P : α → State → Prop} {l : List α} {f : α → Act} (own : ∀ x ∈ l, ∀ s, P x ((f x).run s))
    (stays : ∀ x ∈ l, ∀ y ∈ l, x ≠ y → ∀ s, P x s → P x ((f y).run s)) (s : State) : ∀ x ∈ l, P x ((forEach l f).run s) := by
  induction l generalizing s with
  | nil => simp
  | cons y l ih =>
    intro x hx
    rw [run_forEach_cons]
    by_cases hl : x ∈ l
    · exact ih (fun z hz => own z (by simp [hz])) (fun z hz w hw => stays z (by simp [hz]) w (by simp [hw])) _ x hl
    · obtain rfl : x = y := (List.mem_cons.1 hx).resolve_right hl
      exact run_forEach_induct l f _ (own x hx s) fun w hw t => stays x hx w (by simp [hw]) (fun h => hl (h ▸ hw)) t

/-- The registers of the zones lie in a block of their own. -/
theorem zone_block {z : Nat} (hz : z < 256) : (0x10149000 ≤ (PU_Z_PRED z).addr ∧ (PU_Z_PRED z).addr < 0x1014B000) ∧
    0x10149000 ≤ (PU_Z_GAIN_GAIN z).addr ∧ (PU_Z_GAIN_GAIN z).addr < 0x1014B000 := by
  simp only [PU_Z_PRED, PU_Z_GAIN_GAIN]; omega

theorem adoptZones_show (k : PurseCalc) (s : State) : ∀ z < 256, ZoneShows k z ((forN 256 (adoptZone k)).run s) := by
  intro z hz
  refine run_forEach_each (P := ZoneShows k) (fun z _ => adoptZone_shows k z) (fun z hz w _ hne t ht => ht.spared ?_) s z (List.mem_range.2 hz)
  refine adoptZone_spares (zone_block (List.mem_range.1 hz)).2 k ?_ ?_ <;> simp only [PU_Z_PRED, PU_Z_GAIN_GAIN] <;> omega

/-! ## The total (R137, R140) -/

theorem showTotal_spares {a : Nat} (ha : 0x10149000 ≤ a ∧ a < 0x1014B000) (k : PurseCalc) (s : State) : Only (spares a) (showTotal k s) := by
  have apart (f : Fld) (hf : 0x10148000 ≤ f.addr ∧ f.addr < 0x10149000) : f.addr ≠ a := by omega
  exact only_cons (only_whenDo (only_cons (setEvent_spares_tailor (by omega) (apart _ (by decide))) (only_cons
      (ledger_spares_tailor (by omega)) (only_nil _))))
    (only_cons (wr_spares (apart _ (by decide))) (only_cons (wr_spares (apart _ (by decide))) (only_cons (wr_spares (apart _ (by decide)))
    (only_cons (only_whenDo (count_spares (apart _ (by decide)))) (only_nil _)))))

theorem satNat_mod (n : Nat) : satNat 32 n % 2 ^ 32 = min (2 ^ 32 - 1) n := by
  rw [satNat, Nat.min_comm]
  exact Nat.mod_eq_of_lt (lt_of_le_of_lt (Nat.min_le_left _ _) (by decide))

theorem showTotal_shows (k : PurseCalc) (s t : State) : let u := (showTotal k s).run t
    u.rd PU_TOTAL_GAIN_GT = k.gt % 2 ^ 16 ∧ u.on PU_TOTAL_GAIN_LIMITED = decide (k.gt < 32768) ∧ u.rd PU_TOTAL_PRED = min (2 ^ 32 - 1) k.pt := by
  have gain {b : Bool} : Only (spares PU_TOTAL_GAIN_GT.addr) (whenDo b (count PU_LIMITED 1)) := only_whenDo (count_spares (by decide))
  have pred {b : Bool} : Only (spares PU_TOTAL_PRED.addr) (whenDo b (count PU_LIMITED 1)) := only_whenDo (count_spares (by decide))
  rw [showTotal, run_acts]
  refine ⟨(gain.rd PU_TOTAL_GAIN_GT _).trans ?_, (gain.on PU_TOTAL_GAIN_LIMITED _).trans (on_run_wr (by decide) rfl),
    (pred.rd PU_TOTAL_PRED _).trans ?_⟩
  · exact (rd_run_wr_word (f := PU_TOTAL_GAIN_LIMITED) (g := PU_TOTAL_GAIN_GT) rfl rfl (by decide)).trans (rd_run_wr_same (by decide))
  · exact (rd_run_wr_ne (f := PU_TOTAL_GAIN_LIMITED) (by decide)).trans ((rd_run_wr_ne (f := PU_TOTAL_GAIN_GT) (by decide)).trans
      (rd_run_wr_of (by decide) (satNat_mod _)))

/-! ## Tailor's own state at the end of a recomputation -/

/-- The recomputation that runs, the one that a latch waits for, and the frames whose gains Purse has counted. -/
noncomputable def State.purseRun (s : State) : Bool × Option PurseCalc × Nat := (s.tl.running, s.tl.toAdopt, s.tl.frames)

theorem keeps_purseRun_wr (f : Fld) (n : Nat) : Keeps State.purseRun (wr f n) := fun _ => rfl

theorem keeps_purseRun_noted (c : Bool) (f : Fld) (code sev p : Nat) (src : Src) :
    Keeps State.purseRun (whenDo c (acts [setEvent f, ledger code src sev p])) :=
  keeps_whenDo fun s => congrArg (fun t : Tl => (t.running, t.toAdopt, t.frames))
    ((only_cons setEvent_offstage (only_cons ledger_offstage (only_nil _))).offstage s).2.2

theorem keeps_purseRun_adoptZone (k : PurseCalc) (z : Nat) : Keeps State.purseRun (adoptZone k z) :=
  keeps_withS fun _ => keeps_cons (keeps_purseRun_noted _ _ _ _ _ _) (keeps_cons (keeps_purseRun_wr _ _) (keeps_cons (keeps_purseRun_wr _ _) (keeps_cons (keeps_purseRun_wr _ _)
    (keeps_cons (keeps_whenDo fun _ => rfl) (keeps_cons (keeps_forEach _ fun _ _ => fun _ => rfl) keeps_nil)))))

theorem keeps_purseRun_showTotal (k : PurseCalc) (s : State) : Keeps State.purseRun (showTotal k s) :=
  keeps_cons (keeps_purseRun_noted _ _ _ _ _ _) (keeps_cons (keeps_purseRun_wr _ _) (keeps_cons (keeps_purseRun_wr _ _)
    (keeps_cons (keeps_purseRun_wr _ _) (keeps_cons (keeps_whenDo (keeps_withS fun _ => keeps_purseRun_wr _ _)) keeps_nil))))

/-- What the adoption of recomputation `found` leaves: the gains of every zone and of the total, and one more frame counted. -/
theorem adoptGains_shows (found : PurseCalc) (s : State) : let t := (adoptGains found).run s
    t.purseRun = (s.tl.running, s.tl.toAdopt, s.tl.frames + 1) ∧ (∀ z < 256, ZoneShows (s.putOut found) z t) ∧
      t.rd PU_TOTAL_GAIN_GT = (s.putOut found).gt % 2 ^ 16 ∧ t.on PU_TOTAL_GAIN_LIMITED = decide ((s.putOut found).gt < 32768) ∧
      t.rd PU_TOTAL_PRED = min (2 ^ 32 - 1) (s.putOut found).pt := by
  generalize hk : s.putOut found = k
  have zones : ((forN 256 (adoptZone k)).run s).purseRun = s.purseRun := keeps_forN 256 (fun z _ => keeps_purseRun_adoptZone k z) s
  have total := keeps_purseRun_showTotal k s ((forN 256 (adoptZone k)).run s)
  have shown := adoptZones_show k s
  rw [adoptGains_run, hk]
  generalize (forN 256 (adoptZone k)).run s = u at zones total shown
  obtain ⟨gain, limited, pred⟩ := showTotal_shows k s u
  have counted : ((showTotal k s).run u).purseRun = s.purseRun := total.trans zones
  have shown (z : Nat) (hz : z < 256) : ZoneShows k z ((showTotal k s).run u) :=
    (shown z hz).spared (showTotal_spares (zone_block hz).2 k s)
  exact ⟨congrArg (fun r => (r.1, r.2.1, r.2.2 + 1)) counted, fun z hz => (shown z hz).spared updTl_spares, gain, limited, pred⟩

theorem only_adoptGains (found : PurseCalc) : Only ofTailor (adoptGains found) := by
  have reg {f : Fld} (n : Nat) (h : 0x10140000 ≤ f.addr ∧ f.addr < 0x10180000) : Only ofTailor (wr f n) := wr_inWindow h
  have noted {f : Fld} (b : Bool) (code sev p : Nat) (h : 0x10140000 ≤ f.addr ∧ f.addr < 0x10180000) :
      Only ofTailor (whenDo b (acts [setEvent f, ledger code .tailor sev p])) :=
    only_whenDo (only_cons (setEvent_inWindow h) (only_cons ledger_inWindow (only_nil _)))
  refine only_withS fun s => only_cons (only_forN 256 fun z hz => only_withS fun _ => ?_) (only_cons (noted _ _ _ _ (by decide))
    (only_cons (reg _ (by decide)) (only_cons (reg _ (by decide)) (only_cons (reg _ (by decide))
    (only_cons (only_whenDo (count_inWindow (by decide))) (only_cons updTl_inWindow (only_nil _)))))))
  have zone {f : Fld} (n : Nat) (h : 0x10149000 ≤ f.addr ∧ f.addr < 0x1014B000) : Only ofTailor (wr f n) :=
    reg n ⟨le_trans (by decide) h.1, lt_trans h.2 (by decide)⟩
  obtain ⟨pred, gain⟩ := zone_block hz
  exact only_cons (noted _ _ _ _ (by decide)) (only_cons (zone _ pred) (only_cons (zone _ gain) (only_cons (zone _ gain)
    (only_cons (only_whenDo updTl_inWindow) (only_cons (only_forEach _ fun _ _ => updTl_inWindow) (only_nil _))))))

/-! ## The end of a recomputation (R137) -/

/-- No recomputation runs any more, and no latch waits for one. -/
noncomputable def State.idlePurse (s : State) : State := Upd.apply s (.tl { s.tl with running := false, toAdopt := none })

theorem recomputeDone_idle {s : State} (h : ¬ (s.tl.running = true ∧ s.tl.calcEnds ≤ s.now)) : recomputeDone.run s = s := by
  have idle : (s.tl.running && decide (s.tl.calcEnds ≤ s.now)) = false := by
    rw [← Bool.not_eq_true, Bool.and_eq_true, decide_eq_true_eq]
    exact h
  rw [recomputeDone, run_withS, idle]
  rfl

section
variable {s : State} (h : s.tl.running = true ∧ s.tl.calcEnds ≤ s.now)
include h

theorem recomputeDone_unawaited (hn : s.tl.toAdopt = none) : recomputeDone.run s = s.idlePurse := by
  rw [recomputeDone, run_withS, h.1, decide_eq_true h.2, hn, run_whenDo, Bool.and_self, if_pos rfl, run_acts]
  rfl

theorem recomputeDone_awaited {k : PurseCalc} (hk : s.tl.toAdopt = some k) : recomputeDone.run s = (adoptGains k).run s.idlePurse := by
  rw [recomputeDone, run_withS, h.1, decide_eq_true h.2, hk, run_whenDo, Bool.and_self, if_pos rfl, run_acts]
  rfl
end

theorem only_recomputeDone : Only ofTailor recomputeDone := by
  refine only_withS fun s => only_whenDo (only_cons updTl_inWindow (only_cons ?_ (only_nil _)))
  split
  · exact only_adoptGains _
  · exact only_skip _

/-- A latch that waited takes the gains, where Purse is enabled. -/
theorem recomputeDone_adopts {s : State} (h : s.tl.running = true ∧ s.tl.calcEnds ≤ s.now) {k : PurseCalc} (hk : s.tl.toAdopt = some k)
    (hon : s.on PU_CTRL_ENABLE = true) : let t := recomputeDone.run s
    t.tl.running = false ∧ t.tl.toAdopt = none ∧ t.tl.frames = s.tl.frames + 1 ∧ (∀ z < 256, ZoneShows k z t) ∧
      t.rd PU_TOTAL_GAIN_GT = k.gt % 2 ^ 16 ∧ t.on PU_TOTAL_GAIN_LIMITED = decide (k.gt < 32768) ∧ t.rd PU_TOTAL_PRED = min (2 ^ 32 - 1) k.pt := by
  have out : s.idlePurse.putOut k = k := if_pos hon
  obtain ⟨own, shows⟩ := adoptGains_shows k s.idlePurse
  rw [out] at shows
  simp only [State.purseRun, Prod.mk.injEq] at own
  obtain ⟨running, toAdopt, frames⟩ := own
  rw [recomputeDone_awaited h hk]
  exact ⟨running, toAdopt, frames, shows⟩

/-- While Purse is disabled, no gain that a latch takes limits anything. -/
theorem recomputeDone_adopts_unlimited {s : State} (h : s.tl.running = true ∧ s.tl.calcEnds ≤ s.now) {k : PurseCalc} (hk : s.tl.toAdopt = some k)
    (hoff : s.on PU_CTRL_ENABLE = false) : let t := recomputeDone.run s
    t.tl.running = false ∧ t.tl.toAdopt = none ∧
      (∀ z < 256, t.rd (PU_Z_GAIN_GAIN z) = 32768 ∧ t.on (PU_Z_GAIN_LIMITED z) = false) ∧ t.rd PU_TOTAL_GAIN_GT = 32768 := by
  have out : s.idlePurse.putOut k = k.unlimited := if_neg (ne_true_of_eq_false hoff)
  obtain ⟨own, zones, gain, -⟩ := adoptGains_shows k s.idlePurse
  rw [out] at zones gain
  simp only [State.purseRun, Prod.mk.injEq] at own
  obtain ⟨running, toAdopt, -⟩ := own
  rw [recomputeDone_awaited h hk]
  exact ⟨running, toAdopt, zones, gain⟩

/-! ## The obligation -/

/-- Settles O36: a pixel's command comes down to its reads and to what its port is handed, Tailor's other commands are actions of its own block,
and a recomputation that a latch waits for is adopted zone by zone. -/
theorem tailorScanOut : Obligations.TailorScanOut := by
  unfold Obligations.TailorScanOut
  refine ⟨fun s c x y p z => ?_, fun s w v g => ?_⟩
  · have carried := carries_iff (s := s) (c := c) (x := x) (y := y) p
    exact ⟨fun h => scanout_uncarried (mt carried.1 h),
      fun ht hx hy hclean ha hd hwin _ _ _ hsrc => scanout_plain hx hy ha (carried.2 ht).1 (carried.2 ht).2 hclean hd hwin hsrc,
      fun ht hx hy ha hsrc => scanout_dark hx hy ha (carried.2 ht).1 (carried.2 ht).2 hsrc,
      fun ha hm hd => scanout_weft_good ha hm hd z, fun h => scanout_weft_outside h z,
      fun hx hy ha => ⟨fun hm => scanout_weft_beyond hx hy ha hm z, fun _ hd hp => scanout_weft_poisoned hx hy ha hd hp z⟩⟩
  · have silent := sourceSilent_iff s g
    exact ⟨fun hv => tlCommit_pends hv w s, fun hv => tlCommit_idle hv w s, fun h => congrArg Host.Outcome.next (swatchCopied_early h),
      fun h => does_of (congrArg Host.Outcome.next (swatchCopied_ended h)) copyNote_inWindow ⟨on_run_wr (b := false) (by decide) rfl, rfl⟩,
      fun h hs => does_of (congrArg Host.Outcome.next (tempStale_silent (silent.2 h) hs)) (only_staleNote g.isLt) (staleNote_shows g.isLt s),
      fun h => congrArg Host.Outcome.next (tempStale_idle (h.imp_left (mt silent.1))), fun h => congrArg Host.Outcome.next (recomputeDone_idle h),
      fun h hn => does_of rfl only_recomputeDone (recomputeDone_unawaited h hn ▸ ⟨rfl, rfl⟩),
      fun _ h hk hon => does_of rfl only_recomputeDone (recomputeDone_adopts h hk hon),
      fun _ h hk hoff => does_of rfl only_recomputeDone (recomputeDone_adopts_unlimited h hk hoff)⟩

end Sys2Proof.Machine
end
